-- ==== Sys2Proof/Word.lean ====
section
/-!
DEFINITION. The word types of the model and the names of its units. Bit vectors stand for what the manual
treats as bits (registers, handle words, descriptors, flits); counts, indices and addresses are naturals,
accumulator values are integers.
-/
namespace Sys2Proof

/-- A byte (R-numbers cite the numbered rules of spec/). -/
abbrev Byte := BitVec 8
/-- A BAR0 register word (R270). -/
abbrev W32 := BitVec 32
/-- A 64-bit word: scratchpad word (R127), half a handle entry (R130), Breeze value (R54). -/
abbrev W64 := BitVec 64

/-- A hearth, 0 to 15 (R7). -/
abbrev Hearth := Fin 16
/-- A physical core of a hearth, 32 × row + column, 0 to 1,087 (R176). -/
abbrev CoreNo := Fin 1088
/-- A scratchpad bank of a core (R127). -/
abbrev BankNo := Fin 16
/-- An HBM stack with its larder (R7, R147). -/
abbrev Stack := Fin 16
/-- A partition (R204). -/
abbrev PartNo := Fin 16
/-- A context (R205). -/
abbrev CtxNo := Fin 4096
/-- A proofer, and the PCIe port it carries: 0 A, 1 B (R11). -/
abbrev PortNo := Fin 2
/-- A mailbox (R271). -/
abbrev MboxNo := Fin 64
/-- A Finwell port (R280). -/
abbrev FwNo := Fin 16
/-- A check channel: 32 × proofer + channel (R302). -/
abbrev ChanNo := Fin 64

/-- A sparse map: the entries that differ from the default of the map, by strictly rising key. -/
abbrev Table (α : Type) := List (Nat × α)

end Sys2Proof
end

