-- ==== Sys2Proof/Syntax.lean ====
section
/-!
DEFINITION. The commands of the block: one constructor for each row of spec/opcode_table.json, in the
table's order. Operands name the unit concerned and carry what comes from outside the device at that moment
(bytes a host read returned, a received flit, a sensor reading, an upset of a memory word, a test's outcome).
-/
namespace Sys2Proof

/-- The four dictionary sessions of R253, by the session codes of R254. -/
inductive Session where
  | bar0A | bar0B | mctp | lane
  deriving DecidableEq, Repr

/-- A physical core of the device. -/
structure CoreId where
  hearth : Hearth
  core : CoreNo
  deriving DecidableEq, Repr

/-- A mover: 8 a hearth, 4 a proofer (R155). -/
inductive MoverId where
  | hearth (h : Hearth) (m : Fin 8)
  | proofer (p : PortNo) (m : Fin 4)
  deriving DecidableEq, Repr

/-- A unit that passes phase tokens (R173). -/
inductive UnitId where
  | core (c : CoreId)
  | mover (m : MoverId)
  | fold (h : Hearth)
  deriving DecidableEq, Repr

/-- What an upset does to a stored word: R136 (single-bit) or R138 (uncorrectable). -/
inductive UpsetKind where
  | single | uncorrectable
  deriving DecidableEq, Repr

/-- An upset of one scratchpad word, met by the access of the command that carries it. -/
structure Upset where
  core : CoreId
  bank : BankNo
  row : Nat
  word : Nat
  kind : UpsetKind
  deriving DecidableEq, Repr

/-- What the surroundings of a core do in the handshake steps of a command: memory upsets met by its accesses, and the
steps, counted from 0, that back-pressure on a coupled output lengthens (Table 2-6). -/
structure StepEnv where
  upsets : List Upset := []
  backPressure : List Nat := []
  deriving DecidableEq, Repr

/-- The core that swaps its tiles, and what its surroundings do in that step. -/
structure SwapStep where
  core : CoreId
  env : StepEnv := {}
  deriving DecidableEq, Repr

/-- An upset of one 64-bit word of a stack, in HBM or in the line that its larder holds (R148, R153). -/
structure HbmUpset where
  stack : Stack
  word : Nat
  inLarder : Bool
  kind : UpsetKind
  deriving DecidableEq, Repr

/-- What a mover transfer meets: upsets, the bytes that host reads return in order, and the nanoseconds it
waited for banks (R135). -/
structure XferEnv where
  upsets : List Upset := []
  hbm : List HbmUpset := []
  hostData : List Byte := []
  waitNs : Nat := 0
  deriving DecidableEq, Repr

/-- A whole core or one of its banks, as the object of an off or on request (R143). -/
inductive PowerTarget where
  | bank (b : BankNo)
  | core
  deriving DecidableEq, Repr

/-- Whether a mover write arrives at a bank or the bank commits a queued write (R144). -/
inductive BankAct where
  | arrive
  | commit (c : CoreId) (b : BankNo)
  deriving DecidableEq, Repr

/-- One request to a larder (R147, R150): bytes within one line; `data` holds the bytes of a write, `upsets` what the
memories have met meanwhile. -/
structure LarderReq where
  source : Nat
  off : Nat
  len : Nat
  data : Option (List Byte) := none
  upsets : List HbmUpset := []
  deriving DecidableEq, Repr

/-- Outcome of one HBM read of a line at the controller (Table 7-7, R153): which of its sixteen words have failed. -/
inductive HbmRead where
  | clean
  | corrected
  | uncorrectable (words : BitVec 16)
  deriving DecidableEq, Repr

/-- A unit whose health-map word fails its complement when a bind reads it (R240, Table 11-6 row 10). -/
inductive HealthWord where
  | core (c : CoreId)
  | bank (c : CoreId) (b : BankNo)
  | hearth (h : Hearth)
  | stack (st : Stack)
  deriving DecidableEq, Repr

/-- What a replay reads and meets: its partition, the stacks whose copy of the item's ACCEPT record fails its complement
(R219), the failing health-map words of its bind, and the transfer time of R228. -/
structure ReplayStart where
  part : PartNo
  badCopies : List Stack := []
  badHealth : List HealthWord := []
  transferNs : Nat := 0
  deriving DecidableEq, Repr

/-- Which read of host memory failed (R264). -/
inductive HostReadKind where
  | descriptor (c : CtxNo)
  | arguments (c : CtxNo) (addr : Nat)
  | transfer (m : MoverId) (addr : Nat)
  | flush (p : PortNo) (addr : Nat)
  deriving DecidableEq, Repr

/-- A dictionary message: bytes 5 onward of Table 12-7. -/
structure MctpMsg where
  command : Nat
  tag : Nat
  node : Nat
  index : Nat
  sub : Nat
  offset : Nat
  length : Nat
  code : Nat := 0
  data : List Byte := []
  deriving DecidableEq, Repr

/-- An MCTP message of Table 12-7: its type with the integrity-check bit, the enterprise number, and the body (R258). -/
structure MctpFrame where
  mtype : Nat := 0x7F
  enterprise : Nat
  body : MctpMsg
  deriving DecidableEq, Repr

/-- What one control interval reads and what Leaven predicts (R310 to R313). Lists are by hearth. -/
structure PowerReading where
  inputW : Nat
  paces : List Nat
  junctions : List Int
  predicted : List Nat
  deriving DecidableEq, Repr

/-- One image slot of the boot flash as a boot ROM judges it (R329, R330). -/
structure BootSlot where
  keyDigestOk : Bool
  signatureOk : Bool
  version : Nat
  security : Nat
  deriving DecidableEq, Repr

/-- The pins sampled when a cold reset ends (R324) and what is present then. -/
structure ColdEnv where
  mgrSel : Bool
  nodeId : Fin 16
  ref100 : Bool
  perstA : Bool
  perstB : Bool
  deriving DecidableEq, Repr

/-- The commands: the 143 rows of spec/opcode_table.json. -/
inductive Instr where
  | arrayStep (c : CoreId) (env : StepEnv)
  | swapStep (c : SwapStep)
  | shadowCheck (c : CoreId)
  | matmul (c : CoreId)
  | convert (c : CoreId) (env : StepEnv)
  | poolMax (c : CoreId) (env : StepEnv)
  | transfer (p : PartNo) (op : Nat)
  | halo (c : CoreId) (env : StepEnv)
  | accRead (c : CoreId)
  | accSpill (c : CoreId)
  | accFill (c : CoreId) (env : StepEnv)
  | mark (p : PartNo) (op : Nat)
  | chainIssue (c : CoreId)
  | slotDrain (c : CoreId) (slot : Fin 8) (env : StepEnv)
  | topkReferenceComplete (c : CoreId)
  | operationEnd (p : PartNo) (op : Nat)
  | phaseToken (u : UnitId)
  | phaseBegin (u : UnitId)
  | foldPair (h : Hearth) (k : Nat)
  | foldClose (h : Hearth) (fold : Nat)
  | foldEmit (h : Hearth) (fold : Nat)
  | scrubRead (c : CoreId) (b : BankNo) (row : Fin 3584) (word : Fin 8) (found : Option UpsetKind)
      (rewritten : Bool)
  | bankRepair (c : CoreId) (b : BankNo)
  | handleWrite (c : CoreId) (entry : Fin 64) (value comp : W64)
  | lullRequest (c : CoreId) (b : BankNo)
  | autoLull (c : CoreId) (b : BankNo)
  | offRequest (c : CoreId) (t : PowerTarget)
  | closingComplete (c : CoreId) (b : BankNo)
  | lullWake (c : CoreId) (b : BankNo)
  | onRequest (c : CoreId) (t : PowerTarget)
  | bankReturn (c : CoreId) (t : PowerTarget)
  | moverBankAccess (m : MoverId) (act : BankAct) (env : XferEnv)
  | larderRequest (st : Stack) (r : LarderReq)
  | larderFill (st : Stack) (line : Nat) (own partner : HbmRead)
  | clean (st : Stack) (ranges : List (Nat × Nat))
  | moverDescriptorStart (m : MoverId)
  | moverDescriptorComplete (m : MoverId) (k : Nat) (env : XferEnv)
  | bind (p : PartNo) (badHealth : List HealthWord) (transferNs : Nat)
  | trainingItemStart (p : PartNo) (badRecords : List (Nat × List Stack))
  | start (x : Session) (c : CtxNo)
  | stop (x : Session) (c : CtxNo)
  | reset (x : Session) (c : CtxNo)
  | contextResetComplete (c : CtxNo)
  | doorbell (port : PortNo) (c : CtxNo) (d : W32)
  | descriptorExamine (c : CtxNo) (desc : BitVec 512) (args : BitVec 1536)
  | examinationResume (c : CtxNo)
  | hostReadFailure (k : HostReadKind)
  | itemChoose (p : PartNo)
  | commitMark (p : PartNo)
  | itemComplete (c : CtxNo)
  | deadlineMissed
  | itemReplay (r : ReplayStart)
  | coreFailure (c : CoreId) (cause : Nat)
  | hearthFailure (h : Hearth) (logicDie : Bool) (cause : Nat)
  | hbmStackFailure (st : Stack) (cause : Nat)
  | journalRelocation
  | prooferFailure (p : PortNo) (cause : Nat)
  | pciePortFailure (p : PortNo) (cause : Nat)
  | errorLogEntry (k : Nat)
  | ack (x : Session) (v : W64)
  | elogAckHi (port : PortNo) (v : W32)
  | elogHeadLo (port : PortNo)
  | nowLo (port : PortNo)
  | read (port : PortNo) (index : BitVec 16) (sub : Byte)
  | write (port : PortNo) (index : BitVec 16) (sub : Byte) (len : BitVec 4)
  | segRead (port : PortNo) (index : BitVec 16) (sub : Byte)
  | segWrite (port : PortNo) (index : BitVec 16) (sub : Byte)
  | abort (port : PortNo)
  | segmentGapTimeout (port : PortNo)
  | dictionaryWrite (x : Session) (index : BitVec 16) (sub : Byte) (data : List Byte)
  | challenge (x : Session)
  | response (x : Session) (data : List Byte)
  | lockoutExpiry (x : Session)
  | lock (x : Session) (v : Byte)
  | idleLock (x : Session)
  | key (x : Session) (data : List Byte)
  | keyFlashComplete
  | retest (x : Session)
  | retestDone (passed : Bool)
  | retire (x : Session)
  | forget (x : Session)
  | forgetDone
  | advance (x : Session) (v : Byte)
  | partitionMapWrite (x : Session) (p : PartNo) (value comp : W32)
  | nextSeqWrite (x : Session) (c : CtxNo) (v : W32)
  | delta (x : Session) (v : W32)
  | running (x : Session) (ch : ChanNo) (v : W64)
  | enable (x : Session) (port : FwNo) (v : Byte)
  | finwellGroupOff (g : Fin 4)
  | mctpRead (m : MctpFrame)
  | mctpWrite (m : MctpFrame)
  | remoteTimeout (tag : Nat)
  | report (node : BitVec 16) (state : Byte) (time : W64)
  | reportResend
  | idle (port : FwNo) (f : BitVec 2048)
  | writeFlit (port : FwNo) (f : BitVec 2048)
  | endFlit (port : FwNo) (f : BitVec 2048)
  | endAck (port : FwNo) (f : BitVec 2048)
  | endAckTimeout (m : MoverId)
  | mgmt (port : FwNo) (f : BitVec 2048)
  | mgmtFragmentTimeout (node : BitVec 16)
  | hello (port : FwNo) (f : BitVec 2048)
  | nodeMap (port : FwNo) (f : BitVec 2048)
  | linkUp (port : FwNo)
  | linkAckTimeout (port : FwNo)
  | retrainEnd (port : FwNo) (ok : Bool)
  | time (port : FwNo) (f : BitVec 2048) (t4 : W64)
  | ppsIn (t : Nat)
  | ppsLoss
  | windowArrival (m : MoverId)
  | go (port : PortNo) (m : MboxNo) (ctrl : W32)
  | taken (m : MboxNo)
  | echo (m : MboxNo)
  | mailboxTimeout (m : MboxNo)
  | deviceMessagePost (m : MboxNo) (words : List W32)
  | dtake (m : MboxNo)
  | dlost (m : MboxNo)
  | registerWrite (port : PortNo) (off : Nat) (v : W32)
  | unassignedAccess (port : PortNo) (off : Nat)
  | bar2Read (port : PortNo) (off : Nat) (len : Nat)
  | bar2Write (port : PortNo) (off : Nat) (data : List Byte) (poisoned : Bool)
  | functionLevelReset (port : PortNo)
  | d3hot (port : PortNo)
  | busMasterEnable (port : PortNo)
  | perstN (port : PortNo) (level : Bool)
  | pcieLinkSettle (port : PortNo) (width : Nat) (gts : Nat) (flitMode : Bool)
  | poisonedCompletion (m : MoverId) (addr : Nat)
  | controlInterval (r : PowerReading)
  | throttle (h : Hearth) (tj : Int)
  | thermTripN (h : Hearth) (tj : Int)
  | vin48Excursion
  | vaux33Excursion
  | warmReset
  | sysRstNRelease (lowNs : Nat)
  | coldReset (env : ColdEnv)
  | bootImageVerify (p : PortNo) (slot0 slot1 : BootSlot)
  | readiness (failed : List Nat)
  | hearthLull (h : Hearth)
  | hearthOff (h : Hearth)
  | journalRelocationComplete
  | ref100 (present : Bool)
  | i3cDynamicAddress (addr : Option Byte)
  | hotReset (port : PortNo)
  deriving DecidableEq, Repr

end Sys2Proof
end

