-- ==== Sys2Proof/Decode.lean ====
section
/-!
DEFINITION. The words of the command table. No row of spec/opcode_table.json gives its command bits, so no word
spells a command (log 1).
-/
namespace Sys2Proof

/-- The command that a word of the table's bits spells: none, since no row gives bits. -/
def decodeTableWord (_nbits _w : Nat) : Option Instr := none

end Sys2Proof
end

