-- ==== Sys2Proof/Config.lean ====
section
/-!
DEFINITION. What the manual leaves to the part or leaves open: constants with no body. Nothing in Lean can
evaluate one, so a statement about one holds whatever its value (log 4).
-/
namespace Sys2Proof.Config

/-- The n-th random byte the device draws (CHALLENGE bytes, R254). A free value; `State.freeCtr` numbers it. -/
opaque freeByte : Nat → Byte
/-- The n-th byte that a read of host or HBM data returns where the manual states no data (log 105). A free value. -/
opaque freeData : Nat → Byte
/-- The word at a scratchpad key after the n-th time that contents became undefined (R215, log 125). A free value. -/
opaque freeWord : Nat → Nat → BitVec 64
/-- The HBM address of the n-th mover descriptor that the loader writes: the manual places none (log 19). A free
value. -/
opaque descriptorAddr : Nat → Nat
/-- The 64-byte unit of the journal area in which the n-th record begins: the manual places none (R219, log 24). A free
value. -/
opaque recordUnit : Nat → Nat
/-- The cause (Table 11-7) that a Finwell port's UNIT_FAILED carries: the manual names none for a failed link. A free
value. -/
opaque linkFailureCause : Nat → Nat
/-- Which way the half of an odd difference is rounded in the offset of R300: the manual states no rounding. A free
value. -/
opaque halfUp : Int → Bool
/-- How far a throttle lowers VDD_H: the manual states no amount. A free value; `State.freeCtr` numbers it. -/
opaque throttleStep : Nat → Nat
/-- 0x1000.04 SERIAL, per module (Table 12-9). -/
opaque serial : List Byte
/-- 0x1000.05 BOOT_ROM_VERSION, per stepping (Table 12-9). -/
opaque bootRomVersion : BitVec 32
/-- 0x1001.06 LEAVEN_VERSION once Leaven runs (Table 12-9). -/
opaque leavenVersion : BitVec 32
/-- 0x1002.04 MCTP_ENTERPRISE, Holtanasha's number (Table 12-9). -/
opaque mctpEnterprise : BitVec 32

end Sys2Proof.Config
end

