-- ==== Sys2Proof/Machine/State.lean ====
section
/-!
DEFINITION. The state of the block: everything the manual gives the device, as plain data, and the state
right after a cold reset. Sparse maps (`Table`) list the units that differ from their reset value.
-/
namespace Sys2Proof.Machine

/-! ## Stops of the model -/

/-- Reasons a command stops the model with a fault: there are none. A violation is a next state (a response code, a
report, a fault of the running item), and a step whose condition does not hold does not take place (log 6). -/
inductive Fault where
  deriving DecidableEq, Repr

/-- Reasons a command is refused by the model. -/
inductive Refusal where
  /-- Raised by exec's arm of a command that has no meaning yet. Safe. -/
  | notModelled (mnemonic : String)
  deriving DecidableEq, Repr

/-! ## Time, power and boot -/

/-- The timekeeper and its synchronisation (R300, R301, R319). -/
structure TimeBase where
  /-- 0x8030.01 NOW, in ns. -/
  now : Nat
  /-- The fractional accumulator of R319, in 1/64 ns. -/
  frac : Nat
  ref100 : Bool
  /-- 0x8030.02 SYNC_STATE. -/
  syncState : Nat
  /-- 0x8030.03 OFFSET_NS. -/
  offsetNs : Int
  lastPps : Option Nat
  /-- A worker has taken its first lock (R301). -/
  locked : Bool
  deriving DecidableEq, Repr

/-- A power domain of Table 15-5; `low` is LULL. RETENTION of a hearth memory domain is derived (`State.memoryState`). -/
inductive Domain where
  | on | low | off
  deriving DecidableEq, Repr

/-- Where the device stands in a reset (R321, R323, R326). -/
inductive RstPhase where
  | run | warmHeld | supplyHeld | startCold | startWarm
  deriving DecidableEq, Repr

/-- Supplies, domains and temperatures (R307 to R318, R320). -/
structure Power where
  vin48 : Bool
  vaux33 : Bool
  rst : RstPhase
  tripped : Bool
  /-- Junction temperature by hearth, 0.1 °C. -/
  junction : Table Int
  /-- VDD_H by hearth, mV. -/
  vdd : Table Nat
  /-- Hearths whose step is held longer by the power limit or by temperature (R312, R313). -/
  stepHold : List Nat
  logic : Table Domain
  memory : Table Domain
  quadrant : Table Domain
  fwGroup : Table Domain
  /-- Comparator firings latched while Leaven was down: comparator and time (R320). -/
  latched : List (Nat × Nat)
  bakerLull : Bool
  /-- When a hearth that belongs to no partition left its last one (R318). -/
  leftAt : Table Nat
  deriving DecidableEq, Repr

/-- DEVICE_STATE of Table 12-9. -/
inductive DevState where
  | bootRom | leavenUp | ready | readyDegraded | awaitManager | bootFailed
  deriving DecidableEq, Repr

/-- Identity, boot flash and fuses (R242, R254, R320, R324, R329, R330). -/
structure Boot where
  dev : DevState
  stateTime : Nat
  manager : Bool
  nodeStrap : Nat
  controlProofer : Nat
  leavenRuns : Bool
  /-- The manager refuses to attach workers (R288: strapped with a NODE_ID other than 0). -/
  loneLogged : Bool
  /-- Proofers whose boot ROM has judged the slots: proofer, and the accepted slot's security version. -/
  verified : List (Nat × Option Nat)
  fusedMin : Nat
  key : Option (List Byte)
  keyPending : Option (Nat × List Byte)
  /-- The persistent health record: unit codes of Table 11-3 with the cause (R242). -/
  persistent : List (Nat × Nat)
  /-- The supply-fault cell: time of a firing of comparator 5 (R320). -/
  supplyCell : Option Nat
  deriving DecidableEq, Repr

/-! ## Host interface -/

/-- A message the device sends to host memory or the host (R264). -/
inductive HostMsg where
  | write (addr : Nat) (bytes : List Byte)
  | msix (vector : Nat)
  deriving DecidableEq, Repr

/-- The direction and progress of a transfer of a dictionary window that outlives one command (R257, R259). -/
inductive Transfer where
  /-- Segments of an object go out: its bytes, the next segment, whether one is posted. -/
  | segRead (data : List Byte) (seg : Nat) (posted : Bool)
  /-- Segments come in: bytes so far, the next segment, the time of the last one. -/
  | segWrite (data : List Byte) (seg : Nat) (last : Nat)
  /-- An expedited transfer, or a segmented write, forwarded under a tag. -/
  | remote (tag : Nat) (isRead : Bool)
  /-- A segmented read forwarded in pieces: the tag of the present piece and the bytes so far. -/
  | remoteSeg (tag : Nat) (data : List Byte)
  deriving DecidableEq, Repr

/-- One PCIe function: its window (Table 12-5), latches (R269), MSI-X state (R278) and link (R263, R265). -/
structure PortState where
  odIndex : Nat
  odSub : Nat
  odOp : Nat
  odLen : Nat
  busy : Bool
  done : Bool
  err : Bool
  code : Nat
  length : Nat
  dataLo : W32
  dataHi : W32
  segMbox : Nat
  segTotal : Nat
  odNode : Nat
  xfer : Option Transfer
  bar2Stack : Nat
  nowHi : W32
  headHi : W32
  ackLo : W32
  d0 : Bool
  busMaster : Bool
  perst : Bool
  /-- The link has settled at x16, 64 GT/s in flit mode (R263). -/
  linkUp : Bool
  linkTries : Nat
  /-- MSI-X Enable and Function Mask of the function's MSI-X capability (R278; log 95). -/
  msixEnable : Bool
  funcMask : Bool
  /-- MSI-X table entries that differ from their reset value: address and data of a vector, and its mask bit. -/
  vectors : Table (Nat × Nat × Bool)
  msixPending : List Nat
  held : List HostMsg
  sent : List HostMsg
  /-- Data that reads on this port returned, newest last (BAR0 and BAR2 read completions). -/
  readData : List (List Byte)
  deriving DecidableEq, Repr

/-- One mailbox (Table 13-6) with the timers of R272 and R276. -/
structure Mbox where
  tx : Table W32
  rx : List W32
  go : Bool
  taken : Bool
  timeout : Bool
  irqEmpty : Bool
  dready : Bool
  dlost : Bool
  irqRx : Bool
  len : Nat
  dlen : Nat
  err : Nat
  /-- Sampled TIMEOUT_US and post time of the host message. -/
  hostUs : Nat
  hostPost : Nat
  /-- The same of the device message. -/
  devUs : Nat
  devPost : Nat
  /-- The port whose segmented transfer holds the mailbox (SEG_BUSY). -/
  seg : Option Nat
  /-- The message was in flight when a proofer was lost: it ends by its timeout (R271). -/
  hostLost : Bool
  devLost : Bool
  deriving DecidableEq, Repr

/-- One dictionary session (R253 to R255). -/
structure SessionState where
  privileged : Bool
  challenge : Option (List Byte)
  failRun : Nat
  lockoutEnd : Option Nat
  lastPriv : Nat
  /-- 0x3049 SELECT by hearth. -/
  bankSelect : Table Nat
  scaleSelect : Nat
  logSelect : Nat
  nodeSelect : Nat
  deriving DecidableEq, Repr

/-! ## Error log and health -/

/-- The kinds of ADDRESS of Table 11-4. -/
inductive AddrKind where
  | value | hbm | bank | program | bar0 | object | host | operation
  deriving DecidableEq, Repr

/-- A report that Leaven has yet to log, or a log entry without its number (Table 11-2). -/
structure Report where
  code : Nat
  subcode : Nat
  unit : Nat
  addrKind : AddrKind
  address : Nat
  time : Nat
  d0 : Nat
  d1 : Nat
  d2 : Nat
  item : Option (Nat × Nat)
  ctx : Option Nat
  deriving DecidableEq, Repr

/-- The error log (R231 to R236): written slots by slot number, HEAD, ACK, and the reports not yet logged. -/
structure Log where
  slots : Table (Nat × Report)
  head : Nat
  ack : Nat
  waiting : List Report
  deriving DecidableEq, Repr

/-- The health map of one hearth (Table 11-7). -/
structure HearthHealth where
  faulty : List Nat
  /-- Marked banks as 16 × core + bank (R141). -/
  marked : List Nat
  logicFailed : Bool
  retesting : Bool
  cause : Nat
  failedTime : Nat
  sparesFree : Nat
  gridColumns : Nat
  deriving DecidableEq, Repr

/-- An action of 0x4031 REPAIR in progress (R245). -/
inductive RepairAction where
  | retest (unit : Nat)
  | retire (unit : Nat)
  | forget (unit : Nat)
  deriving DecidableEq, Repr

/-- Health maps and repair (R240 to R246). Masks are bit lists as numbers (Table 11-8). -/
structure Health where
  hearths : Table HearthHealth
  generation : Nat
  stacksFailed : List Nat
  proofersFailed : List Nat
  pcieFailed : List Nat
  finwellFailed : List Nat
  journalLost : Bool
  repairTarget : Nat
  repairResult : Nat
  repair : Option RepairAction
  deriving DecidableEq, Repr

/-! ## Cores -/

/-- A handle entry: value word and complement word (R130). -/
structure Handle where
  value : W64
  comp : W64
  deriving DecidableEq, Repr

/-- A scratchpad word (R127, R136 to R138). `flipped` holds a correctable single-bit error. -/
inductive SWord where
  | poisoned
  | clean (v : W64)
  | flipped (v : W64)
  | bad
  deriving DecidableEq, Repr

/-- Bank states of Table 7-2; CLOSING is split by the request that caused it (R144). -/
inductive BankPower where
  | awake | closingLull | closingOff | lull | off
  deriving DecidableEq, Repr

/-- A write accepted into a bank's write queue (R144): row, word, bits written, data, and the mover and the token of the
descriptor it belongs to. -/
structure BankWrite where
  row : Nat
  word : Nat
  mask : W64
  data : W64
  mover : Nat
  token : Nat
  deriving DecidableEq, Repr

structure Bank where
  power : BankPower
  queue : List BankWrite
  /-- BANK_CE_COUNT (R159). -/
  ceCount : Nat
  /-- The bank has been requested on and returns by BANK_RETURN (R142). -/
  returning : Bool
  /-- Rows that met a corrected error in the present scrub period, and the rows that spare rows stand for (R141). -/
  failing : List Nat
  spares : List Nat
  /-- When the bank last served an access (R143). -/
  lastUse : Nat
  /-- A scrub pass of the bank is under way (R140, R160). -/
  inPass : Bool
  deriving DecidableEq, Repr

/-- An accumulator entry with its overflow and stop bits (R61, R95). -/
structure Entry where
  val : Int
  ovf : Bool
  stop : Bool
  deriving DecidableEq, Repr

inductive SlotPhase where
  | free | owned | draining
  deriving DecidableEq, Repr

/-- A tile slot (R61, R73): units, owner operation and the pair of M-block and N-tile it holds. -/
structure Slot where
  phase : SlotPhase
  base : Nat
  size : Nat
  acc16 : Bool
  op : Nat
  mb : Nat
  nt : Nat
  /-- Claimed by an ACC_FILL and not yet taken with KEEP (R173). -/
  filled : Bool
  /-- OWNED until a fold writes it (R121, R122). -/
  awaitsFold : Bool
  /-- DRAINING: steps of the drain still to run (R76). -/
  left : Nat
  deriving DecidableEq, Repr

/-- A weight tile in the cells or shadow latches (R17 to R19, R89, R107). -/
structure Tile where
  mb : Nat
  nt : Nat
  kt : Nat
  rows : List (BitVec 512)
  disabled : List (BitVec 512)
  /-- SPARSE24: the select of each row and column. -/
  selects : List (List Nat)
  /-- Weight exponents by column, then K-block. -/
  exps : List (List Int)
  /-- Column weight sums by column, then row-group: Wpos and Wneg (R89). -/
  wpos : List (List Int)
  wneg : List (List Int)
  deriving DecidableEq, Repr

/-- A tile on its way into the shadow latches: the weight rows and, behind them, the select rows read so far (R19, R108). -/
structure Load where
  tile : Tile
  raw : List Nat
  steps : Nat
  deriving DecidableEq, Repr

/-- A vector read by the feeder (R22, R25): values, which are driven, plane counts, exponents. -/
structure FedVec where
  vec : Nat
  values : List Int
  active : List Bool
  planes : List Nat
  exps : List Int
  deriving DecidableEq, Repr

/-- A pass in progress (R23, R24, R28, R95). -/
structure Pass where
  fed : FedVec
  len : Nat
  step : Nat
  /-- Column-bottom registers by column, then row-group. -/
  regs : List (List Int)
  /-- Stopped column-groups with the step they stopped at. -/
  stopped : List (Nat × Nat)
  deriving DecidableEq, Repr

/-- The partials of one pass on their way to the alignment stage (R28). -/
structure Tail where
  left : Nat
  slot : Nat
  vec : Nat
  partials : List (List Int)
  exps : List (List Int)
  stopped : List Nat
  last : Bool
  deriving DecidableEq, Repr

/-- One pair of M-block and N-tile with its K-tiles (R182); `dropped` under R99. -/
structure PairWork where
  mb : Nat
  nt : Nat
  kts : List Nat
  dropped : Bool
  deriving DecidableEq, Repr

/-- Multiplier, shift and bias of an output column, as the bound test uses them (R91). -/
structure ColParam where
  m : Nat
  sh : Nat
  bias : Int
  deriving DecidableEq, Repr

/-- The issued array product of a core (R182): sampled mode (R92, R102, R105), pairs left, the load. -/
structure Run where
  op : Nat
  etMode : Nat
  q : Nat
  checked : Bool
  /-- Pairs whose passes are not complete, the current one first. Its `kts` are the K-tiles not yet swapped in. -/
  todo : List PairWork
  /-- Pairs that have claimed a slot: their parity picks the slot under DOUBLE. -/
  claims : Nat
  /-- The current pair has claimed `slot`. -/
  claimed : Bool
  slot : Nat
  cols : List ColParam
  load : Option Load
  shadow : Option Tile
  live : Option Tile
  /-- Swap steps made so far: the load before the first is no wait of R20. -/
  swaps : Nat
  /-- The next vector of the M-block to pass, already read by the feeder. -/
  vec : Nat
  fed : Option FedVec
  pass : Option Pass
  tails : List Tail
  topkWait : Bool
  deriving DecidableEq, Repr

/-- A candidate of a sift (R81, R123): exact ranked value p / 2^sh, logical column, converted code. -/
structure Cand where
  p : Int
  sh : Nat
  col : Nat
  code : Nat
  deriving DecidableEq, Repr

/-- A sampled column-group pass held by a shadow core (R100). -/
structure Sample where
  part : Nat
  op : Nat
  stoppedGroup : Bool
  /-- Every column of the group is proven by its exact value. -/
  proven : Bool
  deriving DecidableEq, Repr

/-- One core. -/
structure Core where
  power : Domain
  /-- Requested off: it goes off when its last bank has (R143). -/
  closing : Bool
  /-- Requested on: it returns by BANK_RETURN (R142). -/
  returning : Bool
  epoch : Nat
  handles : Table Handle
  banks : Table Bank
  slots : Table Slot
  /-- Entries by half-entry position: 2 × (512 × unit + i), or 1,024 × unit + i for ACC16 (R61, R72). -/
  acc : Table Entry
  /-- The first phase whose token the core has not passed, and whether it has begun it (R173). -/
  phase : Nat
  begun : Bool
  /-- The next operation record to issue. -/
  next : Nat
  run : Option Run
  chainWait : Option Nat
  /-- Candidate lists by operation and vector (R82, R83). -/
  sift : Table (List Cand)
  /-- Columns and codes of the sheets being gathered, by operation and vector (R112). -/
  sheet : Table (List (Nat × Nat))
  /-- On a shadow core: the sample it is computing (R100). -/
  sample : Option Sample
  deriving DecidableEq, Repr

/-! ## Fold trees -/

/-- A pair of the fold tree (R118). -/
structure Pair where
  index : Nat
  source : Nat
  val : Int
  ovf : Bool
  deriving DecidableEq, Repr

/-- What closes into one destination region in one phase (R118). -/
structure Fold where
  part : Nat
  op : Nat
  /-- The M-block and N-tile of the destination pair (K-split), or 0. -/
  mb : Nat
  nt : Nat
  /-- Sources still to send their pairs. -/
  awaited : List Nat
  inFlight : List Pair
  taken : List Pair
  /-- Sift candidate lists by vector (R123). -/
  cands : List (Nat × Cand)
  /-- Merged pairs waiting for the destination slot (R124). -/
  emitting : Option (List Pair)
  deriving DecidableEq, Repr

/-! ## Larders and movers -/

/-- A larder line (R148): stack line number, data, state. -/
structure Line where
  way : Nat
  line : Nat
  data : List Byte
  dirty : Bool
  pinned : Bool
  poison : List Bool
  /-- SECDED errors of the line's sixteen words that no read has met yet (R148). -/
  ecc : List (Option UpsetKind)
  deriving DecidableEq, Repr

structure Larder where
  lines : Table (List Line)
  plru : Table Nat
  /-- Outstanding misses: line number and the requests merged into it, in order. -/
  misses : List (Nat × List LarderReq)
  /-- Requests that wait for a free miss entry. -/
  waiting : List LarderReq
  /-- Replies: source, response code, and the bytes read. -/
  replies : List (Nat × Nat × List Byte)
  deriving DecidableEq, Repr

/-- Address spaces of Table 7-5a. -/
inductive Space where
  | hbm | scratch | host | finwell | fill | reserved
  deriving DecidableEq, Repr

/-- A window or fold inlet in this device's HBM (R292, R295, R296): base, data bytes of a slot, the sender's node,
and the contributions of a FOLD (0 for a WINDOW). -/
structure Window where
  base : Nat
  bytes : Nat
  node : Nat
  peers : Nat
  deriving DecidableEq, Repr

/-- A mover descriptor (Table 7-5). Offsets and strides are in bits, so that rows of elements below 8 bits can
be named; `core` and `handle` stand for the SCRATCH address. -/
structure MoverDesc where
  srcSpace : Space
  dstSpace : Space
  packed : Bool
  unpack : Bool
  append : Bool
  strip : Bool
  hostPort : Nat
  notify : Bool
  ordered : Bool
  channel : Nat
  rowBits : Nat
  rows : Nat
  srcCore : Nat
  srcHandle : Nat
  srcBit : Nat
  srcStride : Nat
  dstCore : Nat
  dstHandle : Nat
  dstBit : Nat
  dstStride : Nat
  node : Nat
  token : Nat
  auxSrc : Nat
  auxDst : Nat
  rsvd : Nat
  /-- Where the descriptor lies in HBM (log 19). -/
  addr : Nat
  /-- Partition and operation the descriptor belongs to. -/
  part : Nat
  op : Nat
  /-- The window or inlet that the source is (R295, R296). -/
  window : Option Window
  /-- Of a destination window: the address of its arrival record, and the data bytes that the END reports; `none`
  where a later descriptor of the TRANSFER sends the END (R293). -/
  record : Nat
  endBytes : Option Nat
  /-- Handles behind AUX_SRC and AUX_DST in the SCRATCH form. -/
  auxSrcHandle : Nat
  auxDstHandle : Nat
  /-- Of sheets: groups, bits of a code, and which dense bits UNPACK writes: their first and how many (R112, R117;
  log 23). -/
  groups : Nat
  codeBits : Nat
  skip : Nat
  clip : Nat
  /-- Of sheets: the planned elements of a vector from the descriptor's first sheet on (R112, R114). -/
  planned : Nat
  deriving DecidableEq, Repr

/-- A descriptor in progress: rows moved, and for the FINWELL space what was sent (R293). -/
structure Active where
  desc : MoverDesc
  moved : Nat
  /-- It waits for the arrival record of its window, or those of its inlet (R295, R296). -/
  waits : Bool
  /-- The Finwell port that carries the transfer (R291). -/
  port : Nat
  /-- When its END was sent. -/
  endSent : Option Nat
  /-- Flits of the transfer not yet acknowledged. -/
  unacked : Nat
  deriving DecidableEq, Repr

structure Mover where
  queue : List MoverDesc
  active : List Active
  /-- Completions passed on: token and code (R156). -/
  done : List (Nat × Nat)
  deriving DecidableEq, Repr

/-! ## Work -/

/-- Item states of Table 10-5. -/
inductive ItemState where
  | accepted | binding | running | marked | preempted | rollingBack | completed
  deriving DecidableEq, Repr

/-- The journaled end of an item: the fields of its completion entry (Table 10-7). -/
structure Final where
  status : Nat
  code : Nat
  subcode : Nat
  flags : Nat
  offset : Nat
  time : Nat
  marks : Nat
  replays : Nat
  deriving DecidableEq, Repr

structure Item where
  seq : Nat
  desc : BitVec 512
  args : BitVec 1536
  state : ItemState
  /-- The phase at which the item resumes: the first after its last mark. -/
  resumePhase : Nat
  marks : Nat
  replays : Nat
  /-- Replays of this interval that count toward REPLAY_LIMIT (R225). -/
  counted : Nat
  flags : Nat
  /-- DEADLINE_MISSED has been logged for the item (R226). -/
  missed : Bool
  /-- A training item's program is bound for it, and TRAINING_ITEM_START is still to come. -/
  bound : Bool
  /-- A function reset of its port rolled it back: it replays once the function returns (R265, Table 10-8). -/
  awaitsPort : Bool
  /-- The health-map generation of the binding that its first interval ran on (R221). -/
  firstBound : Option Nat
  final : Option Final
  deriving DecidableEq, Repr

/-- The contents of a carried buffer outside a resident binding: its HBM address, bytes, and the 64-bit words that are
poisoned. -/
structure Kept where
  buf : Nat
  addr : Nat
  data : List Byte
  poison : List Nat
  deriving DecidableEq, Repr

/-- Context states of Table 10-2. -/
inductive CtxMode where
  | stopped | running | draining | resetting | faulted
  deriving DecidableEq, Repr

/-- Why examination stands still (R212, R264). -/
inductive Pause where
  | none
  | hostRead
  | journal (desc : BitVec 512) (args : BitVec 1536)
  deriving DecidableEq, Repr

structure Context where
  mode : CtxMode
  /-- The state from which RESETTING was entered, and STOP taken while RESETTING (R206). -/
  resetFrom : CtxMode
  stopInReset : Bool
  partition : Nat
  submitBase : Nat
  acceptBase : Nat
  completeBase : Nat
  ringOrder : Nat
  nextSeq : W32
  hostPort : Nat
  finishPolicy : Bool
  lastAccepted : Nat
  lastCompleted : Nat
  priority : Nat
  replayLimit : Nat
  atRisk : Nat
  msixVector : Nat
  target : W32
  pause : Pause
  items : List Item
  /-- Carried state of the context's programs while their binding is not resident (R207, R215; log 25). -/
  kept : List (Nat × List Kept)
  deriving DecidableEq, Repr

/-- What a fault of the running item is (Table 10-8). -/
structure RunFault where
  code : Nat
  op : Nat
  /-- Fails at once, because it repeats on replay. -/
  permanent : Bool
  /-- A replay of it counts toward REPLAY_LIMIT (same binding, first row of Table 10-8). -/
  counts : Bool
  /-- The deadline passed under ABORT (R227). -/
  deadline : Bool
  deriving DecidableEq, Repr

/-- The logical grid of a hearth (R176). -/
structure Grid where
  hearth : Nat
  rows : List Nat
  cols : List Nat
  deriving DecidableEq, Repr

/-- Split of an operation (R179 to R181, R184): tiles along M, N and K, N-tiles per unit of the split of N, and
the parts. -/
structure Split where
  tm : Nat
  tn : Nat
  tk : Nat
  unit : Nat
  r : Nat
  c : Nat
  s : Nat
  deriving DecidableEq, Repr

/-- The rows of a SCRATCH buffer on one core (R177): core, first bank row, rows per bank, physical banks. -/
structure CoreRows where
  core : Nat
  rowBase : Nat
  rowCount : Nat
  banks : Nat
  deriving DecidableEq, Repr

/-- Where a buffer plan entry lies: its HBM address, or its rows on each core (R177). -/
structure Placement where
  hbm : Nat
  rows : List CoreRows
  deriving DecidableEq, Repr

/-- A program image as the loader reads it (R163 to R171): records, entries, and the offsets of the sections. -/
structure Program where
  id : Nat
  ops : List (BitVec 1024)
  bufs : List (BitVec 256)
  planned : List Nat
  varDims : List Bool
  anchors : List (BitVec 32)
  consts : List Byte
  phases : Nat
  ioCount : Nat
  opsOff : Nat
  bufsOff : Nat
  anchorsOff : Nat
  constOff : Nat
  deriving DecidableEq, Repr

/-- What the run of one operation has gathered (R69, R88, R101, R198, R199). -/
structure OpStats where
  flagged : Nat
  inexact : Nat
  zeroed : Nat
  taken : Nat
  deviated : Nat
  peak : Nat
  drained : Nat
  nonzeroOut : Bool
  underflow : Nat
  ended : Bool
  deriving DecidableEq, Repr

/-- Progress of a mover or fold tree through the phases: the first phase whose token it has not passed, and whether
it has begun that phase (R173). -/
structure UnitPhase where
  unit : UnitId
  phase : Nat
  begun : Bool
  deriving DecidableEq, Repr

/-- The resident binding of a partition (R175). -/
structure Binding where
  ctx : Nat
  image : Nat
  training : Bool
  generation : Nat
  prog : Program
  grids : List Grid
  splits : List Split
  places : List Placement
  /-- Checkpoint addresses of carried SCRATCH buffers: buffer and HBM address (R215, R218). -/
  ckpt : List (Nat × Nat)
  /-- Carried SCRATCH buffers whose checkpoint has been taken (R218). -/
  saved : List Nat
  undoBase : Nat
  undoPages : Nat
  /-- The space of the scale records of the program's groups, reserved at bind (R200). -/
  scaleBase : Nat
  scaleBytes : Nat
  /-- The scale offsets the bound constants carry, by group (R194). -/
  deltas : Table Int
  /-- Pages captured in this interval: page address and undo slot, oldest first (R216). -/
  undo : List (Nat × Nat)
  /-- What the running item gives the binding: extents by dimension, seed, TRAIN, host addresses (R166, R210). -/
  extents : List Nat
  seed : Nat
  train : Bool
  ioAddr : List Nat
  stats : Table OpStats
  /-- Movers and fold trees that take part, with their progress; a core holds its own (R173). -/
  tokens : List UnitPhase
  /-- TRANSFER and MARK records carried out, by operation index. -/
  issued : List Nat
  /-- Bytes that a TRANSFER has written in part outside the device so far: operation, address and the bits written
  (R336; log 31). -/
  edges : List (Nat × Nat × Byte)
  /-- Mode and checker that an operation sampled when its first part issued: operation, ET_MODE, checked (R105). -/
  modes : List (Nat × Nat × Bool)
  /-- Healthy cores of the binding's hearths that the bind left unassigned (R102, R246). -/
  spareCores : List Nat
  /-- RAISE_BELOW and DOLDRUMS_RUN sampled at the start (R202). -/
  raiseBelow : Nat
  doldrumsRun : Nat
  deriving DecidableEq, Repr

structure Part where
  map : W32
  mapC : W32
  current : Option Nat
  lastCtx : Option Nat
  binding : Option Binding
  fault : Option RunFault
  /-- The last time an item of the partition ran (R318). -/
  lastRun : Nat
  deriving DecidableEq, Repr

/-- A scale record (R200). -/
structure ScaleRec where
  ctx : Nat
  program : Nat
  group : Nat
  delta : Int
  dmin : Int
  dmax : Int
  hist : List Nat
  skips : Nat
  run : Nat
  peakLast : Nat
  atLimit : Bool
  restarted : Bool
  inDoldrums : Bool
  deriving DecidableEq, Repr

/-- Journal records (Table 10-6). -/
inductive RecBody where
  | accept (desc : BitVec 512) (args : BitVec 1536)
  | refuse (code subcode : Nat)
  | bind (program part generation : Nat)
  | mark (number phase : Nat) (final : Option Final)
  | scale (rec : ScaleRec)
  | ret (code first : Nat)
  | ctxReset
  deriving DecidableEq, Repr

structure JRec where
  ctx : Nat
  seq : Nat
  time : Nat
  units : Nat
  body : RecBody
  /-- Its number since the cold reset: where it lies in the two journal areas follows from it (R219; log 24). -/
  serial : Nat
  deriving DecidableEq, Repr

structure Journal where
  recs : List JRec
  first : Nat
  second : Nat
  /-- The first stack of the pair that Leaven copies the journal to (R219). -/
  target : Option Nat
  /-- The stack that holds the only copy. -/
  survivor : Option Nat
  /-- 0x4010.03 JOURNAL_STATE: 0 mirrored, 1 single copy, 2 relocating. -/
  state : Nat
  written : Nat
  replays : Nat
  returned : Nat
  free : Nat
  deriving DecidableEq, Repr

structure Training where
  recs : List ScaleRec
  /-- Presets: context, group, value (R203). -/
  presets : List (Nat × Nat × Int)
  /-- Written values that apply from the next training item: context, program, group, value. -/
  pendingDelta : List (Nat × Nat × Nat × Int)
  deriving DecidableEq, Repr

/-! ## Finwell and management -/

inductive LinkState where
  | down | training | up | failed
  deriving DecidableEq, Repr

/-- A Finwell port (R281 to R285). Credits are by class: DATA, RESP, MGMT, CONTROL. -/
structure Link where
  state : LinkState
  /-- The far end as its HELLO gave it: node number or 0xFFFF, NODE_ID strap and port (Table 14-2). -/
  peer : Nat
  peerStrap : Nat
  peerPort : Nat
  nextSeq : Nat
  expected : Nat
  nakSent : Bool
  replay : List (Nat × BitVec 2048)
  credits : List Nat
  /-- A retrain is in progress (R284). -/
  retraining : Bool
  retrainsRow : Nat
  /-- Times of recent retrains (R284: 16 within 1 s). -/
  retrainTimes : List Nat
  sent : List (BitVec 2048)
  /-- Flits that wait for a credit of their class. -/
  waiting : List (BitVec 2048)
  /-- The node that the manager has mapped behind the port, or 0xFFFF (R288, R290). -/
  mapped : Nat
  deriving DecidableEq, Repr

/-- A message of the management lane under reassembly (R298): sender, next fragment, first arrival, bytes. -/
structure Lane where
  node : Nat
  next : Nat
  firstAt : Nat
  bytes : List Byte
  deriving DecidableEq, Repr

/-- A forwarded request that waits for its response (R259): its tag on the lane, the session it came from, and the
request as it came. -/
structure Forward where
  tag : Nat
  sess : Session
  sentAt : Nat
  req : MctpMsg
  /-- The Finwell port it left by; 16 where no route was left. -/
  port : Nat
  deriving DecidableEq, Repr

/-- A report that the manager has not answered: its tag, the DEVICE_STATE and its STATE_TIME (R299). -/
structure OpenReport where
  tag : Nat
  dev : Nat
  time : Nat
  deriving DecidableEq, Repr

/-- An MCTP request in its place among those to be answered: the tag on the lane while it is forwarded, and the response
once there is one (R258). -/
structure MctpTurn where
  fwd : Option Nat
  reply : Option MctpFrame
  deriving DecidableEq, Repr

/-- A transfer or a message of several flits on its way out: its ends, type and TAG, and the port that all of its flits take
(R291). -/
structure Flow where
  src : Nat
  dst : Nat
  ty : Nat
  tag : Nat
  port : Nat
  deriving DecidableEq, Repr

structure Net where
  node : Nat
  /-- Node numbers of the installation, from the manager's map (R290). -/
  nodes : List Nat
  /-- Its uplink links: node and port of each end (R290). -/
  uplinks : List (Nat × Nat × Nat × Nat)
  hasMap : Bool
  /-- The devices that the manager has mapped: node number and serial (R288). -/
  claims : List (Nat × List Byte)
  /-- Transfers of which a WRITE has been refused: source node and TAG (R293). -/
  refused : List (Nat × Nat)
  reports : Table (Nat × Nat)
  /-- The worker's own reports that have no answer yet, oldest first. -/
  reportOpen : List OpenReport
  lanes : List Lane
  mapFrag : Nat
  mapBytes : List Byte
  forwards : List Forward
  tag : Nat
  i3c : Nat
  /-- MCTP responses sent, in order. -/
  mctpOut : List MctpFrame
  /-- MCTP requests whose responses are still to be sent, in the order received. -/
  mctpQueue : List MctpTurn
  /-- The ports that transfers and messages in progress take (R291). -/
  flows : List Flow
  deriving DecidableEq, Repr

/-! ## The whole device -/

structure State where
  /-- The commands that wait, first in, first out. -/
  pending : List Instr
  time : TimeBase
  power : Power
  boot : Boot
  ports : Table PortState
  mboxes : Table Mbox
  sessions : Table SessionState
  /-- Dictionary values without a home of their own, by 256 × index + subindex. -/
  dict : Table Nat
  log : Log
  health : Health
  cores : Table Core
  scratch : Table SWord
  hbm : List Host.Cell
  /-- 64-bit HBM words that carry the controller's poison marking (R148, R268), by word address. -/
  hbmPoison : List Nat
  /-- ECC errors of 64-bit HBM words that no read has met yet, by word address / 8 (R153). -/
  hbmEcc : Table (Option UpsetKind)
  larders : Table Larder
  movers : Table Mover
  folds : Table (List Fold)
  parts : Table Part
  ctxs : Table Context
  journal : Journal
  train : Training
  /-- The tracking table of R56, newest first: seed and program identifier. -/
  seeds : List (Nat × Nat)
  /-- Check channels that a descriptor uses (R302, R303). -/
  chanUse : List Nat
  links : Table Link
  net : Net
  /-- Pace readings of the last ten control intervals, newest first: time, largest and smallest hearth pace (R310). -/
  paceHist : List (Nat × Nat × Nat)
  /-- The model's own counter of free values (log 4). -/
  freeCtr : Nat
  deriving DecidableEq, Repr

/-! ## Reset values of the units -/

def Handle.reset : Handle := ⟨0, BitVec.allOnes 64⟩
def Bank.reset : Bank := ⟨.awake, [], 0, false, [], [], 0, false⟩
def Entry.reset : Entry := ⟨0, false, false⟩
def Slot.reset : Slot := ⟨.free, 0, 0, false, 0, 0, 0, false, false, 0⟩

def Core.reset : Core where
  power := .on
  closing := false
  returning := false
  epoch := 0
  handles := []
  banks := []
  slots := []
  acc := []
  phase := 0
  begun := false
  next := 0
  run := none
  chainWait := none
  sift := []
  sheet := []
  sample := none

def PortState.reset : PortState where
  odIndex := 0
  odSub := 0
  odOp := 0
  odLen := 0
  busy := false
  done := false
  err := false
  code := 0
  length := 0
  dataLo := 0
  dataHi := 0
  segMbox := 0
  segTotal := 0
  odNode := 0xFFFF
  xfer := none
  bar2Stack := 0
  nowHi := 0
  headHi := 0
  ackLo := 0
  d0 := true
  busMaster := true
  perst := true
  linkUp := false
  linkTries := 0
  msixEnable := true
  funcMask := false
  vectors := []
  msixPending := []
  held := []
  sent := []
  readData := []

def Mbox.reset : Mbox where
  tx := []
  rx := []
  go := false
  taken := false
  timeout := false
  irqEmpty := false
  dready := false
  dlost := false
  irqRx := false
  len := 0
  dlen := 0
  err := 0
  hostUs := 0
  hostPost := 0
  devUs := 0
  devPost := 0
  seg := none
  hostLost := false
  devLost := false

def SessionState.reset : SessionState where
  privileged := false
  challenge := none
  failRun := 0
  lockoutEnd := none
  lastPriv := 0
  bankSelect := []
  scaleSelect := 0
  logSelect := 0
  nodeSelect := 0xFFFF

def HearthHealth.reset : HearthHealth := ⟨[], [], false, false, 0, 0, 64, 32⟩
def Larder.reset : Larder := ⟨[], [], [], [], []⟩
def Mover.reset : Mover := ⟨[], [], []⟩
/-- The reset value of a partition other than 0 (Table 10-1). -/
def Part.reset : Part := ⟨0, BitVec.allOnes 32, none, none, none, none, 0⟩
def OpStats.reset : OpStats := ⟨0, 0, 0, 0, 0, 0, 0, false, 0, false⟩

def Context.reset : Context where
  mode := .stopped
  resetFrom := .stopped
  stopInReset := false
  partition := 0
  submitBase := 0
  acceptBase := 0
  completeBase := 0
  ringOrder := 8
  nextSeq := 0
  hostPort := 0
  finishPolicy := false
  lastAccepted := 0
  lastCompleted := 0
  priority := 0
  replayLimit := 2
  atRisk := 0
  msixVector := 0
  target := 0xFFFFFFFF
  pause := .none
  items := []
  kept := []

def Link.reset : Link := ⟨.down, 0xFFFF, 0, 0, 0, 0, false, [], [0, 0, 0, 0], false, 0, [], [], [], 0xFFFF⟩

def Journal.reset : Journal := ⟨[], 0, 10, none, none, 0, 0, 0, 0, 15625000⟩

def Net.reset : Net := ⟨0xFFFF, [], [], false, [], [], [], [], [], 0, [], [], 0, 0, [], [], []⟩

def TimeBase.reset : TimeBase := ⟨0, 0, true, 0, 0, none, false⟩

def Power.reset : Power := ⟨true, true, .startCold, false, [], [], [], [], [], [], [], [], false, []⟩

def Boot.reset : Boot := ⟨.bootRom, 0, true, 0, 0, false, false, [], 0, none, none, [], none⟩

def Health.reset : Health := ⟨[], 0, [], [], [], [], false, 0, 0, none⟩

/-- The device right after a cold reset (R322, R324, R327): boot ROMs about to verify the boot image. -/
def State.reset : State where
  pending := []
  time := TimeBase.reset
  power := Power.reset
  boot := Boot.reset
  ports := []
  mboxes := []
  sessions := []
  dict := []
  log := ⟨[], 0, 0, []⟩
  health := Health.reset
  cores := []
  scratch := []
  hbm := []
  hbmPoison := []
  hbmEcc := []
  larders := []
  movers := []
  folds := []
  parts := [(0, { Part.reset with map := 0x0000FFFF, mapC := 0xFFFF0000 })]
  ctxs := []
  journal := Journal.reset
  train := ⟨[], [], []⟩
  seeds := []
  chanUse := []
  links := []
  net := { Net.reset with node := 0, nodes := [0] }
  paceHist := []
  freeCtr := 0

end Sys2Proof.Machine
end

