-- ==== Sys2Proof/Machine/Objects.lean ====
section
/-!
DEFINITION. The master list of the Stoleel dictionary (R247 to R250, R262, Table 12-8): for each object its
type, access right, default and admitted range.
-/
namespace Sys2Proof.Machine

/-- Object types of Table 12-2; a DOMAIN carries its fixed length. -/
inductive OType where
  | bool | u8 | u16 | u32 | u64 | i32 | str | domain (len : Nat) | cu32
  deriving DecidableEq, Repr

/-- Length in bytes of a type (Table 12-2); 0 for STR. -/
def OType.len : OType → Nat
  | .bool => 1
  | .u8 => 1
  | .u16 => 2
  | .u32 => 4
  | .u64 => 8
  | .i32 => 4
  | .str => 0
  | .domain n => n
  | .cu32 => 8

/-- Whether an expedited transfer may carry the type (R256). -/
def OType.expedited : OType → Bool
  | .str => false
  | .domain _ => false
  | _ => true

/-- Access rights of Table 12-3. -/
inductive Access where
  | ro | rw | wo | rwp | const
  deriving DecidableEq, Repr

/-- One row of the master list. `lo` and `hi` bound an admitted value; a counter admits 0 alone (R250). -/
structure ObjInfo where
  ty : OType
  acc : Access
  dflt : Nat
  lo : Nat
  hi : Nat
  counter : Bool
  deriving DecidableEq, Repr

/-- The largest value of a type. -/
def OType.maxVal : OType → Nat
  | .bool => 1
  | t => 2 ^ (8 * t.len) - 1

def objRo (t : OType) (d : Nat := 0) : ObjInfo := ⟨t, .ro, d, 0, t.maxVal, false⟩
def objConst (t : OType) (d : Nat) : ObjInfo := ⟨t, .const, d, 0, t.maxVal, false⟩
def objCounter (t : OType) : ObjInfo := ⟨t, .rw, 0, 0, 0, true⟩
def objRw (t : OType) (d lo hi : Nat) : ObjInfo := ⟨t, .rw, d, lo, hi, false⟩
def objRwp (t : OType) (d lo hi : Nat) : ObjInfo := ⟨t, .rwp, d, lo, hi, false⟩
def objWo (t : OType) : ObjInfo := ⟨t, .wo, 0, 0, t.maxVal, false⟩

/-- The first index of the family an index belongs to (R247); an index outside every family is its own. A
channel from 28 on has subindices of its own, so it counts as 0x911C (Table 12-12). -/
def objFamily (i : Nat) : Nat :=
  if 0x3000 ≤ i ∧ i ≤ 0x3FFF then 0x3000 + i % 256
  else if 0x1040 ≤ i ∧ i ≤ 0x107F then 0x1040
  else if 0x5000 ≤ i ∧ i ≤ 0x5FFF then 0x5000
  else if 0x9000 ≤ i ∧ i ≤ 0x900F then 0x9000
  else if 0x9100 ≤ i ∧ i ≤ 0x913F then if 28 ≤ i % 32 then 0x911C else 0x9100
  else i

/-- Sixteen rows of one kind, at subindices 0x01 to 0x10 (R161, R204). -/
def objSixteen (o : ObjInfo) : List (Nat × ObjInfo) := (List.range 16).map fun k => (k + 1, o)

/-- Identity, state, communication and configuration (Tables 12-4, 12-9, 12-10, 7-9). -/
def objRowsLow : Nat → List (Nat × ObjInfo)
  | 0x1000 => [(1, objConst .str 0), (2, objConst .u8 0), (3, objConst .u16 0x0100), (4, objConst .str 0),
      (5, objConst .u32 0)]
  | 0x1001 => [(1, objRo .u8 1), (2, objRo .u64), (3, objRo .u8), (4, objRo .u8), (5, objRo .u8), (6, objRo .u32)]
  | 0x1002 => [(1, objConst .u8 8), (2, objConst .u32 65536), (3, objConst .u16 1024), (4, objConst .u32 0),
      (5, objRo .u8), (6, objConst .u16 2000)]
  | 0x1010 => [(1, objRo (.domain 32)), (2, objWo (.domain 48)), (3, objRo .bool), (4, objWo .bool),
      (5, objRo .u32), (6, objRwp .u16 300 10 3600), (7, objWo (.domain 48)), (8, objRo .u8)]
  | 0x1020 => [(1, objRo .u16), (2, objRw .u16 0xFFFF 0 0xFFFF), (3, objRo .u8), (4, objRo .u64)]
  | 0x1040 => [(1, objRw .u16 8 1 1000), (2, objCounter .u32), (3, objRo .bool)]
  | 0x2010 => [(1, objRwp .bool 0 0 1), (2, objRwp .bool 0 0 1)]
  | 0x2030 => [(1, objRw .bool 1 0 1), (2, objRw .u32 10000 1000 1000000), (3, objRw .u32 1000 0 60000),
      (4, objRw .u32 1024 1 65535)]
  | 0x2140 => [(1, objRwp .u8 0 0 1), (2, objRwp .u16 650 650 850), (3, objRwp .u16 750 650 850),
      (4, objRwp .u16 850 650 850)]
  | _ => []

/-- A row of U64 counters at subindices 1 to n. -/
def objCounters (n : Nat) : List (Nat × ObjInfo) := (List.range n).map fun k => (k + 1, objCounter .u64)

/-- The per-hearth objects (Tables 2-8, 3-6, 4-4, 5-4, 6-6, 7-6, 7-7, 7-8, 11-7). -/
def objRowsHearth : Nat → List (Nat × ObjInfo)
  | 0x3020 => objCounters 6 ++ [(7, objRo .u32)]
  | 0x3028 => objCounters 6
  | 0x3030 => objCounters 6
  | 0x3038 => objCounters 11
  | 0x3040 => objCounters 9
  | 0x3048 => objCounters 9
  | 0x3049 => [(1, objRw .u32 0 0 0xFFFFFFFF), (2, objRo .u32), (3, objRo .u8), (4, objRo .u8)]
  | 0x3050 => objCounters 4 ++ [(5, objRo .u32), (6, objCounter .u64), (7, objCounter .u64)]
  | 0x3060 => [(1, objRo .u8), (2, objRo (.domain 136)), (3, objRo .u16), (4, objRo (.domain 2176)),
      (5, objRo .u16 64), (6, objRo .u8 32), (7, objRo .u8), (8, objRo .u64)]
  | _ => []

/-- Partitions, journal, health, contexts (Tables 10-1, 10-2, 10-11, 7-10, 11-8, 11-10). -/
def objRowsWork : Nat → List (Nat × ObjInfo)
  | 0x4000 => objSixteen (objRwp .cu32 0 0 (2 ^ 64 - 1))
  | 0x4010 => [(1, objRo .u8), (2, objRo .u8 10), (3, objRo .u8), (4, objRo .u64), (5, objRo .u32), (6, objRo .u32),
      (7, objRo .u32 15625000)]
  | 0x4020 => objSixteen (objRw .bool 0 0 1)
  | 0x4021 => objSixteen (objRo .u8)
  | 0x4030 => [(1, objRo .u32), (2, objRo .u16), (3, objRo .u16), (4, objRo .u8), (5, objRo .u8), (6, objRo .u16)]
  | 0x4031 => [(1, objRwp .u32 0 0 0xFFFF), (2, objRwp .u8 0 1 3), (3, objRo .u8)]
  | 0x5000 => [(1, objRo .u8), (2, objRw .u8 0 0 15), (3, objRw .u64 0 0 (2 ^ 64 - 1)), (4, objRw .u64 0 0 (2 ^ 64 - 1)),
      (5, objRw .u64 0 0 (2 ^ 64 - 1)), (6, objRw .u8 8 4 16), (7, objRw .u32 0 0 0xFFFFFFFF), (8, objRw .u8 0 0 1),
      (9, objRw .u8 0 0 1), (0x0A, objWo .u8), (0x0B, objRo .u32), (0x0C, objRo .u32), (0x0D, objRw .u8 0 0 7),
      (0x0E, objRw .u8 2 0 15), (0x0F, objRo .u32), (0x10, objRw .u16 0 0 2047)]
  | _ => []

/-- Numerics, errors, power, time, Finwell and check units (Tables 3-5, 4-5, 5-5, 9-3, 9-4, 11-5a, R237, 12-11,
12-12). -/
def objRowsHigh : Nat → List (Nat × ObjInfo)
  | 0x6010 => [(1, objRo .u32), (2, objRo .u64), (3, objRo .u32), (4, objRo .u32), (5, objWo .u8), (6, objRo .u32)]
  | 0x6020 => [(1, objRw .u32 65536 0 0xFFFFFFFF), (2, objRo .u32), (3, objRo .u32)]
  | 0x6030 => [(1, objRw .u8 0 0 1), (2, objRo .u32), (3, objRo .u32), (4, objRw .bool 0 0 1), (5, objRo .u32)]
  | 0x6040 => [(1, objRw .u8 24 1 30), (2, objRw .u16 256 1 65535), (3, objConst .u8 16), (4, objConst .u8 2),
      (5, objRo .u32), (6, objRo .u32), (7, objRo .u32), (8, objRo .u32), (9, objRo .u32), (0x0A, objRo .u32)]
  | 0x6041 => [(1, objRw .u32 0 0 0x0FFFFFFF), (2, objRwp .i32 0 0 0xFFFFFFFF), (3, objRo .i32), (4, objRo .i32),
      (5, objRo .u8), (6, objRo .u8), (7, objRo .u8), (8, objRo .u32), (9, objRo .u8)]
  | 0x7000 => [(1, objRo .u64), (2, objRw .u64 0 0 (2 ^ 64 - 1)), (3, objRo .u32), (4, objRo .u16),
      (5, objRw .bool 0 0 1), (6, objRw .u64 0 0 (2 ^ 64 - 1)), (7, objRo (.domain 64))]
  | 0x7010 => (List.range 0x1C).map fun k => (k + 1, objCounter .u32)
  | 0x8000 => [(1, objRw .u16 2200 600 2200), (2, objRo .u16), (3, objRo .bool), (4, objConst .u16 1)]
  | 0x8010 => [(1, objRo .u32), (2, objRo .u32), (3, objRo .u32)]
  | 0x8020 => [(1, objRo .i32), (2, objRo .u8), (3, objRw .u16 95 60 95), (4, objConst .u16 105)]
  | 0x8030 => [(1, objRo .u64), (2, objRo .u8), (3, objRo .i32)]
  | 0x9000 => [(1, objRo .u8), (2, objRo .u16 0xFFFF), (3, objRw .bool 1 0 1), (4, objCounter .u32),
      (5, objCounter .u32), (6, objCounter .u64)]
  | 0x9100 => [(1, objRw .u8 0 0 3), (2, objRw .u64 0 0 (2 ^ 64 - 1)), (3, objCounter .u32)]
  | 0x911C => [(1, objRw .u8 0 0 4), (2, objRw .u64 0 0 (2 ^ 64 - 1)), (3, objCounter .u32), (4, objRwp .u8 32 8 64),
      (5, objRwp .u64 0x1EDC6F41 0 (2 ^ 64 - 1)), (6, objRwp .u64 0xFFFFFFFF 0 (2 ^ 64 - 1)),
      (7, objRwp .u64 0xFFFFFFFF 0 (2 ^ 64 - 1)), (8, objRwp .u8 3 0 3)]
  | _ => []

/-- The rows of an index, without NUM_SUB. -/
def objRows (i : Nat) : List (Nat × ObjInfo) :=
  let f := objFamily i
  if f < 0x3000 then objRowsLow f
  else if f < 0x4000 then objRowsHearth f
  else if f < 0x6000 then objRowsWork f
  else objRowsHigh f

/-- Subindex 0x00, NUM_SUB: the highest subindex of a defined index (R247). -/
def objNumSub (i : Nat) : Option Nat :=
  match objRows i with
  | [] => none
  | rows => some (rows.foldl (fun a r => max a r.1) 0)

/-- The row of an object, NUM_SUB included (R247). -/
def objInfo (i sub : Nat) : Option ObjInfo :=
  match objNumSub i with
  | none => none
  | some n => if sub = 0 then some (objConst .u8 n) else ((objRows i).find? fun r => r.1 = sub).map (·.2)

/-- The default of an object (R251); 0 where the list has none. -/
def objDefault (i sub : Nat) : Nat :=
  match objInfo i sub with
  | some o => o.dflt
  | none => 0

/-- The largest value of an object, at which a counter holds (R60, R236, R237). -/
def objMax (i sub : Nat) : Nat :=
  match objInfo i sub with
  | some o => o.ty.maxVal
  | none => 2 ^ 64 - 1

/-- The key of an object in `State.dict`. -/
def objKey (i sub : Nat) : Nat := 256 * i + sub

end Sys2Proof.Machine
end

