-- ==== Sys2Proof/Machine/Ops.lean ====
section
/-!
DEFINITION. The named operations over the state: sparse maps, units, dictionary values, reports, interrupts,
host messages, the journal's append, the timekeeper.
-/
namespace Sys2Proof.Machine

abbrev Result := Host.Outcome State Fault Refusal

/-! ## Sparse maps and memory -/

/-- The value at a key; `d` where none is listed. -/
def tget {α : Type} (d : α) : Table α → Nat → α
  | [], _ => d
  | (k', v) :: m, k => if k = k' then v else tget d m k

/-- Place a value at its key in rising order. -/
def tinsert {α : Type} (k : Nat) (v : α) : Table α → Table α
  | [] => [(k, v)]
  | (k', v') :: m =>
    if k < k' then (k, v) :: (k', v') :: m
    else if k = k' then (k, v) :: m
    else (k', v') :: tinsert k v m

/-- Write a key, keeping keys strictly rising and no entry equal to the default: the default's entry is removed. -/
def tset {α : Type} [DecidableEq α] (d : α) (m : Table α) (k : Nat) (v : α) : Table α :=
  if v = d then m.filter (fun e => decide (e.1 ≠ k)) else tinsert k v m

/-- The canonical form of a sparse map: strictly rising keys above `lo`, no entry equal to the default. -/
def twfFrom {α : Type} [DecidableEq α] (d : α) : Nat → Table α → Bool
  | _, [] => true
  | lo, (k, v) :: m => decide (lo ≤ k) && decide (v ≠ d) && twfFrom d (k + 1) m

def twf {α : Type} [DecidableEq α] (d : α) (m : Table α) : Bool := twfFrom d 0 m

/-- HBM bytes never written read 0 (log 3). -/
def hbmDefault : Byte := 0

/-- The canonical form of memory. -/
def Memory.wf (m : List Host.Cell) : Bool := twf hbmDefault m

def memRead (m : List Host.Cell) (a : Nat) : Byte := tget hbmDefault m a
def memWrite (m : List Host.Cell) (a : Nat) (b : Byte) : List Host.Cell := tset hbmDefault m a b

/-- Write bytes at rising addresses. -/
def memWriteBytes (m : List Host.Cell) (a : Nat) : List Byte → List Host.Cell
  | [] => m
  | b :: bs => memWriteBytes (memWrite m a b) (a + 1) bs

/-- Read n bytes. -/
def memReadBytes (m : List Host.Cell) (a n : Nat) : List Byte := (List.range n).map fun i => memRead m (a + i)

/-! ## Bits and bytes (little-endian, 00_scope) -/

/-- Bits lo to lo + len − 1 of a number. -/
def bitsAt (v lo len : Nat) : Nat := v / 2 ^ lo % 2 ^ len

/-- A field of a structure laid out in bits. -/
def fld {w : Nat} (x : BitVec w) (lo len : Nat) : Nat := bitsAt x.toNat lo len

/-- A two's-complement field. -/
def signed (v w : Nat) : Int := if v < 2 ^ (w - 1) then v else (v : Int) - 2 ^ w

/-- The code of an integer in w bits. -/
def codeOf (w : Nat) (x : Int) : Nat := (x % (2 ^ w : Int)).toNat

def toBytes (n v : Nat) : List Byte := (List.range n).map fun i => BitVec.ofNat 8 (v / 2 ^ (8 * i))

def fromBytes : List Byte → Nat
  | [] => 0
  | b :: bs => b.toNat + 256 * fromBytes bs

/-- The number that two numbers are bitwise complements in w bits. -/
def isCompl (w a b : Nat) : Bool := a + b = 2 ^ w - 1

/-- Replace element n of a list. -/
def setAt {α : Type} (l : List α) (n : Nat) (v : α) : List α := l.set n v

/-! ## Outcomes -/

/-- The step a command names does not take place, because the condition that the rule states for it does not hold, or
because the unit that would take it is off, failed or held in reset: nothing changes (log 6). -/
def State.stay (s : State) (_rule : String) : Result := .next s

/-! ## Units of the state -/

def coreKey (h c : Nat) : Nat := 1088 * h + c
def idKey (c : CoreId) : Nat := coreKey c.hearth.val c.core.val

def State.core (s : State) (k : Nat) : Core := tget Core.reset s.cores k
def State.setCore (s : State) (k : Nat) (c : Core) : State := { s with cores := tset Core.reset s.cores k c }
def State.port (s : State) (p : Nat) : PortState := tget PortState.reset s.ports p
def State.setPort (s : State) (p : Nat) (v : PortState) : State := { s with ports := tset PortState.reset s.ports p v }
def State.mbox (s : State) (m : Nat) : Mbox := tget Mbox.reset s.mboxes m
def State.setMbox (s : State) (m : Nat) (v : Mbox) : State := { s with mboxes := tset Mbox.reset s.mboxes m v }
def State.ctx (s : State) (c : Nat) : Context := tget Context.reset s.ctxs c
def State.setCtx (s : State) (c : Nat) (v : Context) : State := { s with ctxs := tset Context.reset s.ctxs c v }
def State.part (s : State) (p : Nat) : Part := tget Part.reset s.parts p
def State.setPart (s : State) (p : Nat) (v : Part) : State := { s with parts := tset Part.reset s.parts p v }
def State.larder (s : State) (h : Nat) : Larder := tget Larder.reset s.larders h
def State.setLarder (s : State) (h : Nat) (v : Larder) : State := { s with larders := tset Larder.reset s.larders h v }
def State.mover (s : State) (m : Nat) : Mover := tget Mover.reset s.movers m
def State.setMover (s : State) (m : Nat) (v : Mover) : State := { s with movers := tset Mover.reset s.movers m v }
def State.link (s : State) (p : Nat) : Link := tget Link.reset s.links p
def State.setLink (s : State) (p : Nat) (v : Link) : State := { s with links := tset Link.reset s.links p v }
def State.foldsOf (s : State) (h : Nat) : List Fold := tget [] s.folds h
def State.setFolds (s : State) (h : Nat) (v : List Fold) : State := { s with folds := tset [] s.folds h v }

/-- Session codes of R254. -/
def sessCode : Session → Nat
  | .bar0A => 0
  | .bar0B => 1
  | .mctp => 2
  | .lane => 3

def State.session (s : State) (x : Session) : SessionState := tget SessionState.reset s.sessions (sessCode x)
def State.setSession (s : State) (x : Session) (v : SessionState) : State :=
  { s with sessions := tset SessionState.reset s.sessions (sessCode x) v }

/-- The session of a port's BAR0 window (R253). -/
def portSession (p : Nat) : Session := if p = 0 then .bar0A else .bar0B

def State.hearth (s : State) (h : Nat) : HearthHealth := tget HearthHealth.reset s.health.hearths h
def State.setHearth (s : State) (h : Nat) (v : HearthHealth) : State :=
  { s with health := { s.health with hearths := tset HearthHealth.reset s.health.hearths h v } }

/-- Movers by number: 8 × hearth + mover, then 128 + 4 × proofer + mover. -/
def moverKey : MoverId → Nat
  | .hearth h m => 8 * h.val + m.val
  | .proofer p m => 128 + 4 * p.val + m.val

/-! ## Dictionary values and counters -/

/-- The value of an object kept in `State.dict`. -/
def State.obj (s : State) (i sub : Nat) : Nat := tget (objDefault i sub) s.dict (objKey i sub)
def State.setObj (s : State) (i sub v : Nat) : State :=
  { s with dict := tset (objDefault i sub) s.dict (objKey i sub) v }
/-- Add to a counter, which holds at the largest value of its type (R37, R60, R236). -/
def State.bump (s : State) (i sub n : Nat) : State := s.setObj i sub (min (s.obj i sub + n) (objMax i sub))
/-- A counter of hearth h (R247: stride 0x100). -/
def State.bumpH (s : State) (base h sub n : Nat) : State := s.bump (base + 0x100 * h) sub n

/-! ## The timekeeper -/

/-- The timekeeper has come to t: it never moves backward (R319). -/
def State.reach (s : State) (t : Nat) : State := { s with time := { s.time with now := max s.time.now t } }
def State.now (s : State) : Nat := s.time.now

/-- One unit of the time base (R319): 1 ns with REF100, one XTAL32K cycle of 30,517 + 37/64 ns without. -/
def TimeBase.tick (t : TimeBase) : TimeBase :=
  if t.ref100 then { t with now := (t.now + 1) % 2 ^ 64 }
  else
    let f := t.frac + 37
    { t with now := (t.now + 30517 + f / 64) % 2 ^ 64, frac := f % 64 }

/-- Leaven runs: it has come up and the device is neither held in reset nor tripped. -/
def State.leavenUp (s : State) : Bool :=
  s.boot.leavenRuns && decide (s.power.rst ≠ .warmHeld) && decide (s.power.rst ≠ .supplyHeld) && !s.power.tripped

/-- What the block does while no command waits: the timekeeper, in the always-on domain fed from VAUX33, moves on
by one unit of its time base (R317, R319; log 5), and the idle baker cores lie in lull (Table 15-5). -/
def State.idleTick (s : State) : State :=
  let s := if s.power.vaux33 then { s with time := s.time.tick } else s
  if s.leavenUp then { s with power := { s.power with bakerLull := true } } else s

/-! ## Codes, units and reports (Tables 11-3 to 11-5) -/

def cBankConflict : Nat := 0x01
def cHandleInvalid : Nat := 0x02
def cHandleStale : Nat := 0x03
def cComplement : Nat := 0x04
def cEccUncorrectable : Nat := 0x05
def cBankOffWrite : Nat := 0x06
def cExtent : Nat := 0x07
def cAccTileBusy : Nat := 0x08
def cStreamKey : Nat := 0x09
def cSparsity : Nat := 0x0A
def cLoadCheck : Nat := 0x0B
def cDeadlineMissed : Nat := 0x0C
def cMailboxTimeout : Nat := 0x0D
def cLinkAckTimeout : Nat := 0x0E
def cDenied : Nat := 0x0F
def cNoObject : Nat := 0x10
def cTypeMismatch : Nat := 0x11
def cAccOverflow : Nat := 0x12
def cStepSkipped : Nat := 0x13
def cDoldrums : Nat := 0x14
def cInputLost : Nat := 0x15
def cCapacity : Nat := 0x16
def cCheckValue : Nat := 0x17
def cPoisonRead : Nat := 0x18
def cSampleDeviation : Nat := 0x19
def cPrecisionLoss : Nat := 0x1A
def cUnitFailed : Nat := 0x1B
def cUnitRestored : Nat := 0x1C

/-- The codes of Table 11-5 whose kind is Event. -/
def isEvent (code : Nat) : Bool := decide (code ∈ [0x12, 0x13, 0x14, 0x19, 0x1A, 0x1C])

/-- UNIT codes of Table 11-3. -/
def unitCore (k : Nat) : Nat := 0x8000 + 0x800 * (k / 1088) + k % 1088
def unitLeaven : Nat := 0
def unitHearth (h : Nat) : Nat := 0x0800 + h
def unitMover (m : Nat) : Nat := if m < 128 then 0x1000 + m else 0x3000 + (m - 128)
def unitStack (h : Nat) : Nat := 0x1800 + h
def unitFold (h : Nat) : Nat := 0x2000 + h
def unitProofer (p : Nat) : Nat := 0x2800 + p
def unitCheck (k : Nat) : Nat := 0x3800 + k
def unitPcie (p : Nat) : Nat := 0x4000 + p
def unitFinwell (n : Nat) : Nat := 0x4800 + n
def unitMailbox (m : Nat) : Nat := 0x5000 + m
def unitMgmt (k : Nat) : Nat := 0x5800 + k
def unitLoader : Nat := 0x6000
def unitJournal : Nat := 0x6800
def unitComparator (n : Nat) : Nat := 0x7000 + n

/-- The management path of a session (Table 11-3). -/
def sessUnit : Session → Nat
  | .bar0A => unitMgmt 0
  | .bar0B => unitMgmt 0
  | .mctp => unitMgmt 1
  | .lane => unitMgmt 2

/-- ADDRESS of kind BANK (Table 11-4). -/
def bankAddress (k bank row word : Nat) : Nat :=
  word + 2 ^ 3 * row + 2 ^ 15 * bank + 2 ^ 19 * (k % 1088) + 2 ^ 30 * (k / 1088)
/-- ADDRESS of kind OBJECT for the device itself. -/
def objAddress (i sub : Nat) : Nat := sub + 2 ^ 8 * i + 2 ^ 24 * 0xFFFF

/-- A report with no details. -/
def plainReport (code unit : Nat) (k : AddrKind) (a : Nat) : Report :=
  ⟨code, 0, unit, k, a, 0, 0, 0, 0, none, none⟩

/-- A report is detected now and waits to be logged (R230, R234). -/
def State.report (s : State) (r : Report) : State :=
  { s with log := { s.log with waiting := s.log.waiting ++ [{ r with time := s.now }] } }

/-- ACCESS_DENIED. -/
def State.deny (s : State) (unit : Nat) (k : AddrKind) (a : Nat) : State := s.report (plainReport cDenied unit k a)

/-- The device state is READY or READY_DEGRADED (R328). -/
def State.isReady (s : State) : Bool := decide (s.boot.dev = .ready) || decide (s.boot.dev = .readyDegraded)

/-! ## Host messages and interrupts -/

/-- A port has failed, by itself or with its proofer (R263, Table 11-9). -/
def State.portFailed (s : State) (p : Nat) : Bool := decide (p ∈ s.health.pcieFailed) || decide (p ∈ s.health.proofersFailed)

/-- A function that may send: in D0 with bus mastering, its port neither off nor failed and its link up, the device not held in a warm reset
(R263, R265, Table 15-8). -/
def State.canSend (s : State) (p : Nat) : Bool :=
  let f := s.port p
  f.d0 && f.busMaster && f.perst && f.linkUp && !s.portFailed p && decide (s.power.rst ≠ .warmHeld)

/-- Send a message, or hold it in order until the function returns (R264, R265). -/
def State.send (s : State) (p : Nat) (m : HostMsg) : State :=
  let f := s.port p
  if s.canSend p && f.held.isEmpty then s.setPort p { f with sent := f.sent ++ [m] }
  else s.setPort p { f with held := f.held ++ [m] }

/-- A vector of the MSI-X table after a reset of its function: masked (R265, R278). -/
def vectorReset : Nat × Nat × Bool := (0, 0, true)

/-- Whether a vector is masked. -/
def PortState.masked (f : PortState) (v : Nat) : Bool := (tget vectorReset f.vectors v).2.2

/-- A function sends no vector now: it is masked by itself or with the function, or MSI-X is disabled (R278). -/
def PortState.mutes (f : PortState) (v : Nat) : Bool := f.masked v || f.funcMask || !f.msixEnable

/-- Raise a vector of a function: masked vectors stay pending; one raised again before it is sent is sent once (R278), and
after what is held by then (R264). -/
def State.raise (s : State) (p v : Nat) : State :=
  let f := s.port p
  if f.mutes v then
    (if v ∈ f.msixPending then s else s.setPort p { f with msixPending := f.msixPending ++ [v] })
  else (s.setPort p { f with held := f.held.filter (· ≠ .msix v) }).send p (.msix v)

/-- Raise a vector on both functions (Table 13-8). -/
def State.raiseBoth (s : State) (v : Nat) : State := (s.raise 0 v).raise 1 v

/-- The function that sends mailbox m's vector: its home port, or the other when that has failed (Table 13-8). -/
def State.mboxPort (s : State) (m : Nat) : Nat :=
  let home := m / 32
  if s.portFailed home then 1 - home else home

def State.raiseMbox (s : State) (m : Nat) : State := s.raise (s.mboxPort m) (1920 + m)

/-- DEVICE_STATE changes: STATE_TIME and vector 2,045 (R327). -/
def State.setDev (s : State) (d : DevState) : State :=
  if s.boot.dev = d then s
  else ({ s with boot := { s.boot with dev := d, stateTime := s.now } }).raiseBoth 2045

/-- 0x1001.01 codes (Table 12-9). -/
def DevState.code : DevState → Nat
  | .bootRom => 1
  | .leavenUp => 2
  | .ready => 3
  | .readyDegraded => 4
  | .awaitManager => 5
  | .bootFailed => 6

/-! ## The journal -/

/-- Units of 64 bytes of a record: header of 16 bytes and body, and their complement (R220). -/
def recUnits (bodyBytes : Nat) : Nat := (2 * (16 + bodyBytes) + 63) / 64

/-- The code of a record kind (Table 10-6). -/
def RecBody.kind : RecBody → Nat
  | .accept _ _ => 1
  | .refuse _ _ => 2
  | .bind _ _ _ => 3
  | .mark _ _ _ => 4
  | .scale _ => 5
  | .ret _ _ => 6
  | .ctxReset => 7

/-- The fields of a final MARK record (Table 10-6). -/
def Final.bytes (f : Final) : List Byte :=
  toBytes 1 f.status ++ toBytes 1 f.code ++ toBytes 2 f.subcode ++ toBytes 2 f.flags ++ toBytes 4 f.offset ++ toBytes 4 f.marks

/-- The body of a scale record: the fields of R200 in their order (log 24). -/
def ScaleRec.bytes (r : ScaleRec) : List Byte :=
  toBytes 2 r.ctx ++ toBytes 8 r.program ++ toBytes 2 r.group ++ toBytes 2 (codeOf 16 r.delta)
    ++ (List.range 16).map (fun i => BitVec.ofNat 8 (r.hist.getD i 0)) ++ toBytes 1 r.hist.length ++ toBytes 4 r.skips
    ++ toBytes 4 r.run ++ toBytes 1 ((if r.atLimit then 1 else 0) + (if r.restarted then 2 else 0) + (if r.inDoldrums then 4 else 0))

/-- The body of a record: the fields of Table 10-6 in their order (log 24). -/
def RecBody.bytes : RecBody → List Byte
  | .accept d a => toBytes 64 d.toNat ++ toBytes 192 a.toNat
  | .refuse c sub => toBytes 1 c ++ toBytes 2 sub
  | .bind p q g => toBytes 8 p ++ toBytes 1 q ++ toBytes 4 g
  | .mark n ph f => toBytes 4 n ++ toBytes 4 ph ++ ((f.map Final.bytes).getD [])
  | .scale r => r.bytes
  | .ret c first => toBytes 1 c ++ toBytes 4 first
  | .ctxReset => []

/-- Whether a record is a scale record, whose space the bind has reserved (R200, R220). -/
def RecBody.isScale : RecBody → Bool
  | .scale _ => true
  | _ => false

/-- The header of a record (R220). -/
def JRec.header (r : JRec) : List Byte :=
  toBytes 16 (r.body.kind + 2 ^ 8 * r.units + 2 ^ 16 * r.ctx + 2 ^ 32 * r.seq + 2 ^ 64 * r.time)

/-- The bytes of a record in each copy: header, body, their complement (R220), up to its whole units (log 24). -/
def JRec.bytes (r : JRec) : List Byte :=
  let hb := r.header ++ r.body.bytes
  let all := hb ++ hb.map fun b => ~~~b
  all ++ List.replicate (64 * r.units - all.length) 0

/-- Append a durable record to the journal (R219, R220, R229). -/
def State.journalAppend (s : State) (ctx seq : Nat) (b : RecBody) : State :=
  let j := s.journal
  let u := recUnits b.bytes.length
  { s with journal := { j with
      recs := j.recs ++ [⟨ctx, seq, s.now, u, b, j.written⟩]
      written := min (j.written + 1) (2 ^ 64 - 1)
      free := if b.isScale then j.free else j.free - u } }

/-- The journal area of a stack begins here, and its units (R219, R229). -/
def journalBase : Nat := 47000000000
def journalUnits : Nat := 15625000

/-- The stacks that hold a copy of the journal (R219). -/
def State.journalCopies (s : State) : List Nat :=
  if s.health.journalLost then []
  else if s.journal.state = 0 then [s.journal.first, s.journal.second]
  else s.journal.survivor.toList

/-- Where a record begins in the copy of a stack. -/
def JRec.addrIn (r : JRec) (st : Nat) : Nat := 2 ^ 36 * st + journalBase + 64 * (Config.recordUnit r.serial % journalUnits)

/-- A byte of the journal area of a stack: that of the newest record which lies there. -/
def State.journalByte (s : State) (addr : Nat) : Option Byte :=
  let st := bitsAt addr 36 4
  if st ∈ s.journalCopies then
    (s.journal.recs.reverse.find? fun r => decide (r.addrIn st ≤ addr) && decide (addr < r.addrIn st + 64 * r.units)).map fun r =>
      r.bytes.getD (addr - r.addrIn st) 0
  else none

/-- Leaven reads a record, `bad` naming the stacks whose copy fails its complement: each failing copy is logged, and is
rewritten from the other; whether both have failed (R219; Table 11-6 row 6, and row 7 of a scale record). -/
def State.readRecord (s : State) (r : JRec) (bad : List Stack) : State × Bool :=
  let cs := s.journalCopies
  let failing := cs.filter fun st => bad.any fun b => decide (b.val = st)
  let s := failing.foldl (fun s st => s.report { plainReport cComplement unitJournal .hbm (r.addrIn st) with
    d0 := if r.body.isScale then 7 else 6 }) s
  (s, !failing.isEmpty && decide (failing.length = cs.length))

/-- Reclaim the records that a test picks (R220). -/
def State.journalReclaim (s : State) (p : JRec → Bool) : State :=
  let j := s.journal
  let gone := j.recs.filter p
  { s with journal := { j with
      recs := j.recs.filter fun r => !p r
      free := j.free + ((gone.filter fun r => !r.body.isScale).map (·.units)).sum } }

/-! ## Domains -/

def State.logicOf (s : State) (h : Nat) : Domain := tget .on s.power.logic h
def State.memoryOf (s : State) (h : Nat) : Domain := tget .on s.power.memory h
def State.setLogic (s : State) (h : Nat) (d : Domain) : State :=
  { s with power := { s.power with logic := tset .on s.power.logic h d } }
def State.setMemory (s : State) (h : Nat) (d : Domain) : State :=
  { s with power := { s.power with memory := tset .on s.power.memory h d } }

/-- The cores of a hearth, changed. -/
def State.mapHearthCores (s : State) (h : Nat) (f : Core → Core) : State :=
  let mid := (List.range 1088).map fun i => (coreKey h i, f (s.core (coreKey h i)))
  { s with cores := (s.cores.filter fun e => decide (e.1 < coreKey h 0)) ++ (mid.filter fun e => decide (e.2 ≠ Core.reset)) ++
      (s.cores.filter fun e => decide (coreKey (h + 1) 0 ≤ e.1)) }

/-- A hearth logic domain in LULL wakes (R318, Table 15-5). -/
def State.wakeHearth (s : State) (h : Nat) : State :=
  if s.logicOf h = .low then
    (s.mapHearthCores h fun c => if c.power = .low then { c with power := .on } else c).setLogic h .on
  else s

/-- The quadrant of a stack (Table 1-2). -/
def quadrantOf (h : Nat) : Nat := 2 * (h / 8) + (h % 4) / 2

/-- The device as a whole takes steps: not held in reset, not tripped, supplies in range. -/
def State.alive (s : State) : Bool :=
  decide (s.power.rst ≠ .warmHeld) && decide (s.power.rst ≠ .supplyHeld) && !s.power.tripped
    && s.power.vin48 && s.power.vaux33

/-- A function answers memory requests: in D0, with bus mastering since its last reset, its port up (R265). -/
def State.portAnswers (s : State) (p : Nat) : Bool := s.alive && s.canSend p

/-- A hearth whose logic may step: powered and not failed. -/
def State.hearthRuns (s : State) (h : Nat) : Bool :=
  s.alive && decide (s.logicOf h ≠ .off) && !(s.hearth h).logicFailed

/-- A core that may step. -/
def State.coreRuns (s : State) (k : Nat) : Bool :=
  s.hearthRuns (k / 1088) && decide ((s.core k).power ≠ .off) && !decide (k % 1088 ∈ (s.hearth (k / 1088)).faulty)

/-- The partition a hearth belongs to, if any (R204). -/
def State.partOf (s : State) (h : Nat) : Option Nat :=
  (List.range 16).find? fun p => ((s.part p).map.getLsbD h)

/-- A partition whose map pair checks (R204; Table 11-6 row 8). -/
def State.mapOk (s : State) (p : Nat) : Bool := decide ((s.part p).mapC = ~~~(s.part p).map)

/-- The item at the head of the context that a partition runs. -/
def State.running (s : State) (p : Nat) : Option (Nat × Item) :=
  match (s.part p).current with
  | none => none
  | some c => match (s.ctx c).items with
    | [] => none
    | i :: _ => some (c, i)

/-- Update the head item of a context. -/
def Context.mapHead (c : Context) (f : Item → Item) : Context :=
  match c.items with
  | [] => c
  | i :: is => { c with items := f i :: is }

def State.mapHead (s : State) (c : Nat) (f : Item → Item) : State := s.setCtx c ((s.ctx c).mapHead f)

/-- Draw n free bytes (log 4). -/
def State.draw (s : State) (f : Nat → Byte) (n : Nat) : List Byte × State :=
  ((List.range n).map fun i => f (s.freeCtr + i), { s with freeCtr := s.freeCtr + n })

end Sys2Proof.Machine
end

