-- ==== Sys2Proof/Machine/Numerics.lean ====
section
/-!
DEFINITION. Number formats, rounding and conversion (03_formats_rounding_and_rescale, R38 to R59) and the Breeze
generator (R54).
-/
namespace Sys2Proof.Machine

/-! ## Rounding and noise -/

/-- Rounding modes of R52. -/
inductive RMode where
  | rhe | sr
  deriving DecidableEq, Repr

/-- R52: discard k low bits of a two's-complement integer. -/
def roundShift (p : Int) (k : Nat) (mode : RMode) (noise : Nat) : Int :=
  if k = 0 then p
  else
    let lo := p / (2 ^ k : Int)
    let d := (p - lo * 2 ^ k).toNat
    match mode with
    | .rhe =>
      let half := 2 ^ (k - 1)
      if half < d ∨ (d = half ∧ lo % 2 = 1) then lo + 1 else lo
    | .sr =>
      let t := if k ≤ 48 then d * 2 ^ (48 - k) else d / 2 ^ (k - 48)
      if noise % 2 ^ 48 < t then lo + 1 else lo

/-- The discarded part of a rounding of k bits is not zero. -/
def discards (p : Int) (k : Nat) : Bool := decide (p % (2 ^ k : Int) ≠ 0)

/-- R54: one round of the Breeze function. -/
def breezeRound (k x : W64) (r : Nat) : W64 :=
  let x := x + k + BitVec.ofNat 64 r * 0x632BE59BD9B4E019
  let x := (x ^^^ (x >>> 30)) * 0xBF58476D1CE4E5B9
  let x := (x ^^^ (x >>> 27)) * 0x94D049BB133111EB
  x ^^^ (x >>> 31)

/-- R54: the Breeze value of a seed, a stream key and a coordinate. -/
def breeze (seed key coord : Nat) : Nat :=
  let k : W64 := BitVec.ofNat 64 seed ^^^ (BitVec.ofNat 64 key * 0x9E3779B97F4A7C15)
  (breezeRound k (breezeRound k (breezeRound k (breezeRound k (BitVec.ofNat 64 coord) 0) 1) 2) 3).toNat

/-! ## Format codes (Table 3-1) -/

def fmtKind (f : Nat) : Nat := f / 16
def fmtWidth (f : Nat) : Nat := f % 16 + 1

def kIn : Nat := 0
def kUn : Nat := 1
def kB1 : Nat := 2
def kT2 : Nat := 3
def kBI : Nat := 4
def kBf : Nat := 5
def kMxInt : Nat := 6
def kMxFp : Nat := 7

/-- R38: kinds and widths that Table 3-1 allows. -/
def fmtOk (f : Nat) : Bool :=
  match fmtKind f with
  | 0 => true
  | 1 => true
  | 2 => fmtWidth f = 1
  | 3 => fmtWidth f = 2
  | 4 => true
  | 5 => fmtWidth f = 16
  | 6 => fmtWidth f = 8
  | 7 => fmtWidth f = 4
  | _ => false

/-- Formats that a stored buffer may have: all of Table 3-1 but the import and export ones. -/
def fmtStored (f : Nat) : Bool := fmtOk f && decide (fmtKind f ≤ 5)
/-- Formats that an array operand may have. -/
def fmtArray (f : Nat) : Bool := fmtOk f && decide (fmtKind f ≤ 4)

/-- R40: container bits, the width rounded up to 1, 2, 4, 8 or 16. -/
def container (w : Nat) : Nat := if w ≤ 1 then 1 else if w ≤ 2 then 2 else if w ≤ 4 then 4 else if w ≤ 8 then 8 else 16
def fmtBits (f : Nat) : Nat := container (fmtWidth f)

def fmtSigned (f : Nat) : Bool := decide (fmtKind f ≠ kUn)

/-- The format computes as B1: B1 itself, and BI1 mantissas (R44, Block integers). -/
def fmtIsB1 (f : Nat) : Bool := decide (fmtKind f = kB1) || (decide (fmtKind f = kBI) && decide (fmtWidth f = 1))

/-- R41, Table 3-1: the value of an element's container; bits above the width are ignored. -/
def elemValue (f container : Nat) : Int :=
  let w := fmtWidth f
  let v := container % 2 ^ w
  if fmtIsB1 f then (if v = 1 then 1 else -1)
  else match fmtKind f with
    | 1 => v
    | 3 => if v = 1 then 1 else if v = 2 then -1 else 0
    | _ => signed v w

/-- R39, R41: the canonical container of a value, filled with sign copies for a signed format. -/
def elemCode (f : Nat) (x : Int) : Nat :=
  if fmtIsB1 f then (if 0 ≤ x then 1 else 0)
  else match fmtKind f with
    | 1 => x.toNat
    | 3 => if x = 1 then 1 else if x = -1 then 2 else 0
    | _ => codeOf (fmtBits f) x

/-- The zero code of R113. -/
def isZeroCode (f code : Nat) : Bool :=
  if fmtIsB1 f then false else decide (code % 2 ^ fmtWidth f = 0)

/-! ## Exact values -/

/-- An exact dyadic value num × 2^ex. -/
structure Dy where
  num : Int
  ex : Int
  deriving DecidableEq, Repr

def Dy.zero : Dy := ⟨0, 0⟩
def Dy.neg? (v : Dy) : Bool := decide (v.num < 0)
/-- floor(log2 |v|) of a value other than 0. -/
def Dy.log2 (v : Dy) : Int := (v.num.natAbs.log2 : Int) + v.ex
/-- v / 2^g rounded to an integer. -/
def Dy.round (v : Dy) (g : Int) (mode : RMode) (noise : Nat) : Int :=
  if g ≤ v.ex then v.num * 2 ^ (v.ex - g).toNat else roundShift v.num (g - v.ex).toNat mode noise
/-- The rounding of v to the grid 2^g discards something. -/
def Dy.inexactAt (v : Dy) (g : Int) : Bool :=
  if g ≤ v.ex then false else discards v.num (g - v.ex).toNat
/-- Exact comparison of values with their own exponents (R81). -/
def Dy.lt (a b : Dy) : Bool :=
  let m := min a.ex b.ex
  decide (a.num * 2 ^ (a.ex - m).toNat < b.num * 2 ^ (b.ex - m).toNat)
def Dy.eq (a b : Dy) : Bool := !a.lt b && !b.lt a

/-- Counts of Table 3-6 that one conversion adds. -/
structure ConvStat where
  sat : Nat
  under : Nat
  nan : Nat
  inf : Nat
  imp : Nat
  sr : Nat
  deriving DecidableEq, Repr

def ConvStat.zero : ConvStat := ⟨0, 0, 0, 0, 0, 0⟩
def ConvStat.add (a b : ConvStat) : ConvStat :=
  ⟨a.sat + b.sat, a.under + b.under, a.nan + b.nan, a.inf + b.inf, a.imp + b.imp, a.sr + b.sr⟩

def countIf (b : Bool) : Nat := if b then 1 else 0

/-- Clamp to a range; whether it changed. -/
def clampTo (lo hi x : Int) : Int × Bool :=
  if hi < x then (hi, true) else if x < lo then (lo, true) else (x, false)

/-! ## Conversion of one element -/

/-- The range of an integer target (R43). -/
def intRange (f : Nat) : Int × Int :=
  let w := fmtWidth f
  match fmtKind f with
  | 1 => (0, 2 ^ w - 1)
  | 3 => (-1, 1)
  | _ => (-(2 ^ (w - 1)), 2 ^ (w - 1) - 1)

def srCount (mode : RMode) (inexact : Bool) : Nat :=
  match mode with
  | .rhe => 0
  | .sr => countIf inexact

/-- R43, R46: conversion to In, Un or T2. A value that rounds to another integer and saturates to 0 is no underflow
(log 32). -/
def convInt (f : Nat) (v : Dy) (mode : RMode) (noise : Nat) : Nat × ConvStat :=
  let q := v.round 0 mode noise
  let (lo, hi) := intRange f
  let (x, sat) := clampTo lo hi q
  (elemCode f x, { ConvStat.zero with
    sat := countIf sat
    under := countIf (decide (v.num ≠ 0) && decide (q = 0))
    sr := srCount mode (v.inexactAt 0) })

/-- R44: conversion to B1 by the sign of the exact value. -/
def convB1 (v : Dy) : Nat × ConvStat := (if v.num < 0 then 0 else 1, ConvStat.zero)

/-- R48: conversion to bfloat16. -/
def convBf (v : Dy) (mode : RMode) (noise : Nat) : Nat × ConvStat :=
  if v.num = 0 then (0, ConvStat.zero)
  else
    let g : Int := max (v.log2 - 7) (-133)
    let q := v.round g mode noise
    let mag := q.natAbs
    -- a significand of 256 is 128 on the next grid
    let (mag, g) := if mag = 256 then (128, g + 1) else (mag, g)
    let sr := srCount mode (v.inexactAt g)
    if mag = 0 then (0, { ConvStat.zero with under := 1, sr := sr })
    else
      let sign := if q < 0 then 0x8000 else 0
      if 120 < g then (sign + 0x7F7F, { ConvStat.zero with sat := 1, sr := sr })
      else if mag < 128 then (sign + mag, { ConvStat.zero with sr := sr })
      else (sign + 128 * (g + 134).toNat + (mag - 128), { ConvStat.zero with sr := sr })

/-- What reading a bfloat16 code gives (R47). -/
inductive BfVal where
  | fin (v : Dy)
  | inf (neg : Bool)
  | nan
  deriving DecidableEq, Repr

def bfRead (code : Nat) : BfVal :=
  let s := code / 0x8000 % 2
  let e := code / 128 % 256
  let f := code % 128
  if e = 255 then (if f = 0 then .inf (decide (s = 1)) else .nan)
  else
    let m : Int := if e = 0 then f else 128 + f
    let x : Int := if e = 0 then -133 else (e : Int) - 134
    .fin ⟨if s = 1 then -m else m, x⟩

/-- A value beyond every finite code, for an infinity (R47). -/
def beyond (neg : Bool) : Dy := ⟨if neg then -1 else 1, 4096⟩

/-- The exact value of a bfloat16 code and what reading it counts. -/
def bfDy (code : Nat) : Dy × ConvStat :=
  match bfRead code with
  | .fin v => (v, ConvStat.zero)
  | .inf n => (beyond n, { ConvStat.zero with inf := 1 })
  | .nan => (Dy.zero, { ConvStat.zero with nan := 1 })

/-- Conversion of one exact value to a target that is no block format. -/
def convElem (f : Nat) (v : Dy) (mode : RMode) (noise : Nat) : Nat × ConvStat :=
  match fmtKind f with
  | 2 => convB1 v
  | 5 => convBf v mode noise
  | _ => convInt f v mode noise

/-! ## Blocks -/

/-- The largest magnitude of a block, as floor(log2); none for an all-zero block. -/
def blockLog : List Dy → Option Int
  | [] => none
  | v :: vs =>
    let rest := blockLog vs
    if v.num = 0 then rest
    else match rest with
      | none => some v.log2
      | some m => some (max v.log2 m)

/-- R45, R46 (an infinity that becomes a BI1 sign counts no saturation: DEDUCED, log 131): 32 exact values (fewer at the end of a row) to BIw: exponent and mantissa codes. Positions marked
unwritten enter as exact zeros, draw no noise and count nothing (R78). -/
def convBlock (f : Nat) (vs : List (Dy × Bool × Nat)) (mode : RMode) : Int × List Nat × ConvStat :=
  let w := fmtWidth f
  let vals := vs.map fun x => if x.2.1 then x.1 else Dy.zero
  match blockLog vals with
  | none => (-128, vs.map fun _ => (if fmtIsB1 f then 1 else 0), ConvStat.zero)
  | some l =>
    if w = 1 then
      (min (max l (-128)) 127, vals.map (fun v => (convB1 v).1), ConvStat.zero)
    else
      let e := min (max (l - ((w : Int) - 2)) (-128)) 127
      let outs := vs.map fun x =>
        if x.2.1 then
          let q := x.1.round e mode x.2.2
          let (m, sat) := clampTo (-(2 ^ (w - 1))) (2 ^ (w - 1) - 1) q
          (codeOf (fmtBits f) m, ({ ConvStat.zero with
            sat := countIf sat
            under := countIf (decide (x.1.num ≠ 0) && decide (m = 0))
            sr := srCount mode (x.1.inexactAt e) } : ConvStat))
        else (0, ConvStat.zero)
      (e, outs.map (·.1), (outs.map (·.2)).foldl ConvStat.add ConvStat.zero)

/-- R49: an MXINT8 block, scale X, to BI8: exponent, mantissa codes. -/
def importMxInt (x : Nat) (elems : List Nat) : Int × List Nat × ConvStat :=
  if x = 255 then (-128, elems.map fun _ => 0, { ConvStat.zero with nan := 1 })
  else if 5 ≤ x then ((x : Int) - 133, elems.map (· % 256), ConvStat.zero)
  else
    let outs := elems.map fun c =>
      let v := signed (c % 256) 8
      let q := roundShift v (5 - x) .rhe 0
      (codeOf 8 q, countIf (decide (v ≠ 0) && decide (q = 0)))
    (-128, outs.map (·.1), { ConvStat.zero with imp := 1, under := (outs.map (·.2)).sum })

/-- Twice the E2M1 magnitude of a code (Table 3-3). -/
def e2m1 (c : Nat) : Nat :=
  match c % 8 with
  | 0 => 0
  | 1 => 1
  | 2 => 2
  | 3 => 3
  | 4 => 4
  | 5 => 6
  | 6 => 8
  | _ => 12

/-- R50: an MXFP4 block, scale X, to BI5. -/
def importMxFp (x : Nat) (elems : List Nat) : Int × List Nat × ConvStat :=
  if x = 255 then (-128, elems.map fun _ => 0, { ConvStat.zero with nan := 1 })
  else ((x : Int) - 128,
    elems.map (fun c => codeOf 8 (if 8 ≤ c % 16 then -(e2m1 c : Int) else e2m1 c)), ConvStat.zero)

/-- R51: the BI8 block that an MXINT8 export writes, as scale and element codes. Beyond e = 121 the scale stays at its
largest value and each mantissa is brought to it and held to −128 or 127 (DEDUCED, log 131). -/
def exportMxInt (e : Int) (mants : List Int) : Nat × List Nat × ConvStat :=
  if e ≤ 121 then ((e + 133).toNat, mants.map (codeOf 8), ConvStat.zero)
  else
    let outs := mants.map fun m => clampTo (-128) 127 (m * 2 ^ (e - 121).toNat)
    (254, outs.map (fun o => codeOf 8 o.1), { ConvStat.zero with sat := (outs.map fun o => countIf o.2).sum })

/-- R51: the E2M1 magnitude code nearest to a value (ties to the code whose fraction bit is 0): the thresholds
between neighbouring codes, in quarters. -/
def e2m1Round (v : Dy) : Nat :=
  let a : Dy := ⟨v.num.natAbs, v.ex + 2⟩
  -- a is 4|v|; a threshold t lies between codes; at the threshold the even code wins
  let above (t : Int) : Bool := (Dy.mk t 0).lt a
  let atLeast (t : Int) : Bool := !a.lt ⟨t, 0⟩
  if !above 1 then 0
  else if !atLeast 3 then 1
  else if !above 5 then 2
  else if !atLeast 7 then 3
  else if !above 10 then 4
  else if !atLeast 14 then 5
  else if !above 20 then 6
  else 7

/-- R51: a block to MXFP4: scale and codes. -/
def exportMxFp (vs : List Dy) : Nat × List Nat × ConvStat :=
  match blockLog vs with
  | none => (0, vs.map fun _ => 0, ConvStat.zero)
  | some l =>
    let x := (min (max (l - 2 + 127) 0) 254).toNat
    let outs := vs.map fun v =>
      let y : Dy := ⟨v.num, v.ex - ((x : Int) - 127)⟩
      let c := e2m1Round y
      let big := (Dy.mk 6 0).lt ⟨(y.num.natAbs : Int), y.ex⟩
      let code := if c = 0 then 0 else if v.num < 0 then 8 + c else c
      let lost := decide (v.num ≠ (0 : Int)) && decide (c = 0)
      (code, ({ ConvStat.zero with sat := countIf big, under := countIf lost } : ConvStat))
    (x, outs.map (·.1), (outs.map (·.2)).foldl ConvStat.add ConvStat.zero)

/-! ## What conversions are allowed (Table 3-6a) -/

/-- R59: a pair of source and target of Table 3-6a. An In or Un target of the source's own width is neither wider nor
narrower, so the table does not hold it. -/
def convPair (a t : Nat) : Bool :=
  let ka := fmtKind a
  let kt := fmtKind t
  let ints := decide (kt ≤ 5) && (decide (1 < kt) || decide (fmtWidth a ≠ fmtWidth t))
  fmtOk a && fmtOk t &&
  (match ka with
   | 0 => ints
   | 1 => ints
   | 4 => decide (kt = 2) || decide (kt = 4) || decide (kt = 5) || decide (kt = 6) || decide (kt = 7)
   | 5 => decide (kt = 0) || decide (kt = 1) || decide (kt = 4)
   | 6 => decide (t = 0x47)
   | 7 => decide (t = 0x44)
   | _ => false)

/-- The kinds that carry one exponent byte a block: BIw and the MX formats (their scale). -/
def fmtBlocked (f : Nat) : Bool := decide (fmtKind f = 4) || decide (fmtKind f = 6) || decide (fmtKind f = 7)

/-- R59: CONVERT of one block of elements: source format, exponent byte, container codes with whether each is
written and its noise; gives the exponent byte and the codes. Rounds half to even for MX targets (R51). -/
def convertBlock (a t : Nat) (expByte : Nat) (xs : List (Nat × Bool × Nat)) (mode : RMode) :
    Nat × List Nat × ConvStat :=
  match fmtKind a with
  | 6 => let (e, m, st) := importMxInt expByte (xs.map (·.1)); (codeOf 8 e, m, st)
  | 7 => let (e, m, st) := importMxFp expByte (xs.map (·.1)); (codeOf 8 e, m, st)
  | _ =>
    let e := signed expByte 8
    let read : Nat → Dy × ConvStat := fun c =>
      if fmtKind a = 5 then bfDy (c % 65536)
      else (⟨elemValue a c, if fmtKind a = 4 then e else 0⟩, ConvStat.zero)
    let vs := xs.map fun x => ((read x.1).1, x.2.1, x.2.2)
    let rst := ((xs.filter fun x => x.2.1).map fun x => (read x.1).2).foldl ConvStat.add ConvStat.zero
    match fmtKind t with
    | 4 =>
      if fmtKind a = 4 ∧ fmtWidth a ≤ fmtWidth t then
        (expByte, xs.map (fun x => if x.2.1 then elemCode t (elemValue a x.1) else 0), ConvStat.zero)
      else
        let (e', m, st) := convBlock t vs mode
        (codeOf 8 e', m, rst.add st)
    | 6 =>
      if fmtWidth a ≤ 8 then
        let (x, m, st) := exportMxInt e (xs.map fun y => elemValue a y.1)
        (x, m, st)
      else
        let (e', m, st) := convBlock 0x47 vs .rhe
        let (x, m', st') := exportMxInt e' (m.map fun c => signed (c % 256) 8)
        -- beyond e = 121 every element that saturated in the BI8 step changes again: it counts once (Table 3-6)
        (x, m', { st.add st' with sat := max st.sat st'.sat })
    | 7 => let (x, m, st) := exportMxFp (vs.map (·.1)); (x, m, st)
    | _ =>
      let outs := vs.map fun v => if v.2.1 then convElem t v.1 mode v.2.2 else (0, ConvStat.zero)
      (0, outs.map (·.1), rst.add ((outs.map (·.2)).foldl ConvStat.add ConvStat.zero))

end Sys2Proof.Machine
end

