-- ==== Sys2Proof/Machine/Operands.lean ====
section
/-!
DEFINITION. Operand forms: access to scratchpad buffers through handles (R127 to R140), with bank power, ECC and
poison, for scheduled accesses of a core and for movers.
-/
namespace Sys2Proof.Machine

/-- A fault that an access raises: code, ADDRESS and details of its log entry (Table 11-5). -/
structure CFault where
  code : Nat
  kind : AddrKind
  address : Nat
  d0 : Nat
  d1 : Nat
  d2 : Nat
  deriving DecidableEq, Repr

/-- Where an access comes from: an operation index, or the HBM address of a mover descriptor (Table 11-5). -/
structure Origin where
  kind : AddrKind
  address : Nat
  deriving DecidableEq, Repr

/-! ## Handle fields (Table 7-1) -/

def Handle.valid (h : Handle) : Bool := h.value.getLsbD 0
def Handle.we (h : Handle) : Bool := h.value.getLsbD 1
def Handle.fmt (h : Handle) : Nat := fld h.value 4 8
def Handle.bankMask (h : Handle) : Nat := fld h.value 12 16
def Handle.rowBase (h : Handle) : Nat := fld h.value 28 12
def Handle.rowCount (h : Handle) : Nat := fld h.value 40 12 + 1
def Handle.epoch (h : Handle) : Nat := fld h.value 52 8
/-- The value word equals the complement of the complement word (R132 check 1). -/
def Handle.pairOk (h : Handle) : Bool := decide (h.comp = ~~~h.value)

/-- The set bits of a 16-bit mask in ascending order. -/
def maskBits (m : Nat) : List Nat := (List.range 16).filter fun i => m / 2 ^ i % 2 = 1

/-- Bytes a buffer holds (R128). -/
def Handle.bytes (h : Handle) : Nat := (maskBits h.bankMask).length * h.rowCount * 64

def Core.handle (c : Core) (e : Nat) : Handle := tget Handle.reset c.handles e
def Core.bank (c : Core) (b : Nat) : Bank := tget Bank.reset c.banks b
def Core.setBank (c : Core) (b : Nat) (v : Bank) : Core := { c with banks := tset Bank.reset c.banks b v }
def Core.setHandle (c : Core) (e : Nat) (h : Handle) : Core := { c with handles := tset Handle.reset c.handles e h }

/-- R128: bank, bank row and word of 64-bit word j of a buffer. -/
def Handle.locate (h : Handle) (j : Nat) : Nat × Nat × Nat :=
  let bs := maskBits h.bankMask
  let r := j / 8
  (bs.getD (r % bs.length) 0, h.rowBase + r / bs.length, j % 8)

/-- The key of a scratchpad word in `State.scratch`. -/
def wordKey (k bank row word : Nat) : Nat := ((k * 16 + bank) * 3584 + row) * 8 + word

/-- R132: the first failing check of an access, with the code it faults with. -/
def checkHandle (c : Core) (hd : Nat) (o : Origin) (isWrite : Bool) (lastByte : Nat) : Option CFault :=
  let h := c.handle hd
  if !h.pairOk then some ⟨cComplement, o.kind, o.address, 3, 0, 0⟩
  else if !h.valid ∨ hd = 0 ∨ 64 ≤ hd then some ⟨cHandleInvalid, o.kind, o.address, hd, 0, 0⟩
  else if h.epoch ≠ c.epoch then some ⟨cHandleStale, o.kind, o.address, hd, h.epoch, c.epoch⟩
  else if isWrite ∧ !h.we then some ⟨cDenied, o.kind, o.address, 0, 0, 0⟩
  else if h.bytes ≤ lastByte then some ⟨cDenied, o.kind, o.address, 0, 0, 0⟩
  else none

/-! ## Upsets, ECC and poison -/

def State.word (s : State) (key : Nat) : SWord := tget .poisoned s.scratch key
def State.setWord (s : State) (key : Nat) (w : SWord) : State := { s with scratch := tset .poisoned s.scratch key w }

/-- What an upset makes of a stored word; a poisoned word is no error of the memory (R137). -/
def upsetWord : UpsetKind → SWord → SWord
  | _, .poisoned => .poisoned
  | .uncorrectable, _ => .bad
  | .single, .clean v => .flipped v
  | .single, .flipped _ => .bad
  | .single, .bad => .bad

def State.upset (s : State) (u : Upset) : State :=
  let key := wordKey (idKey u.core) u.bank.val u.row u.word
  s.setWord key (upsetWord u.kind (s.word key))

def State.upsets (s : State) (us : List Upset) : State := us.foldl State.upset s

/-- Mark a bank in the hearth's health map (R141). -/
def State.markBank (s : State) (k b : Nat) : State :=
  let hh := s.hearth (k / 1088)
  let id := 16 * (k % 1088) + b
  if id ∈ hh.marked then s else s.setHearth (k / 1088) { hh with marked := hh.marked ++ [id] }

/-- R136, R141: a corrected error is counted for the hearth and the bank, with its row; at the threshold the bank is
marked. -/
def State.countCorrected (s : State) (k b row : Nat) : State :=
  let s := s.bumpH 0x3048 (k / 1088) 1 1
  let c := s.core k
  let bk := c.bank b
  let s := s.setCore k (c.setBank b { bk with
    ceCount := bk.ceCount + 1
    failing := if row ∈ bk.failing then bk.failing else bk.failing ++ [row] })
  if s.obj 0x2030 4 ≤ bk.ceCount + 1 then s.markBank k b else s

/-- R138, R140: an uncorrectable word is poisoned and counted. -/
def State.poisonWord (s : State) (k key : Nat) : State := (s.setWord key .poisoned).bumpH 0x3048 (k / 1088) 2 1

/-- Table 7-2, R143: an access wakes a bank in lull, and its idle time starts anew; whether it woke. -/
def State.wakeBank (s : State) (k b : Nat) : State × Bool :=
  let c := s.core k
  let bk := c.bank b
  if bk.power = .lull then
    ((s.setCore k (c.setBank b { bk with power := .awake, lastUse := s.now })).bumpH 0x3048 (k / 1088) 7 1, true)
  else (s.setCore k (c.setBank b { bk with lastUse := s.now }), false)

/-- Outcome of a read of one word: the state, whether a cause of Table 2-6 lengthened the step, and the data. -/
structure WordRead where
  st : State
  stretched : Bool
  data : Except CFault W64

/-- R136 to R138, Table 7-2: read one word of a bank. -/
def readWord (s : State) (k b row w : Nat) : WordRead :=
  let a := bankAddress k b row w
  if ((s.core k).bank b).power = .off then
    ⟨s.bumpH 0x3048 (k / 1088) 3 1, false, .error ⟨cPoisonRead, .bank, a, 0, 0, 0⟩⟩
  else
    let (s, woke) := s.wakeBank k b
    let key := wordKey k b row w
    match s.word key with
    | .clean v => ⟨s, woke, .ok v⟩
    | .flipped v => ⟨s.countCorrected k b row, true, .ok v⟩
    | .bad => ⟨s.poisonWord k key, woke, .error ⟨cEccUncorrectable, .bank, a, 0, 0, 0⟩⟩
    | .poisoned => ⟨s.bumpH 0x3048 (k / 1088) 3 1, woke, .error ⟨cPoisonRead, .bank, a, 0, 0, 0⟩⟩

/-- Read words j to j + n − 1 of a buffer, least significant first, stopping at the first fault. -/
def readWords (s : State) (k : Nat) (h : Handle) (j : Nat) : Nat → State × Bool × Except CFault Nat
  | 0 => (s, false, .ok 0)
  | n + 1 =>
    let (b, row, w) := h.locate j
    let r := readWord s k b row w
    match r.data with
    | .error e => (r.st, r.stretched, .error e)
    | .ok v =>
      let (s', t, rest) := readWords r.st k h (j + 1) n
      (s', r.stretched || t, rest.map fun x => v.toNat + 2 ^ 64 * x)

/-- Read n bits from bit `bit` of the buffer behind a handle (R40, R128, R132). -/
def readBuf (s : State) (k hd : Nat) (o : Origin) (bit n : Nat) : State × Bool × Except CFault Nat :=
  if n = 0 then (s, false, .ok 0)
  else
    let c := s.core k
    match checkHandle c hd o false ((bit + n - 1) / 8) with
    | some e => (if e.code = cHandleStale then s.bumpH 0x3048 (k / 1088) 8 1 else s, false, .error e)
    | none =>
      let j := bit / 64
      let (s', t, r) := readWords s k (c.handle hd) j ((bit + n - 1) / 64 + 1 - j)
      (s', t, r.map fun x => bitsAt x (bit % 64) n)

/-- R129, R138, R139: write the masked bits of one word; `none` for the fault when it is performed. -/
def writeWord (s : State) (k b row w : Nat) (mask data : W64) : State × Bool × Option CFault :=
  let a := bankAddress k b row w
  if ((s.core k).bank b).power = .off then
    (s, false, some ⟨cBankOffWrite, .bank, a, unitCore k, 0, 0⟩)
  else
    let (s, woke) := s.wakeBank k b
    let key := wordKey k b row w
    if mask = BitVec.allOnes 64 then (s.setWord key (.clean data), woke, none)
    else
      let merge (v : W64) : SWord := .clean ((v &&& ~~~mask) ||| (data &&& mask))
      match s.word key with
      | .clean v => (s.setWord key (merge v), woke, none)
      | .flipped v => ((s.countCorrected k b row).setWord key (merge v), true, none)
      | .poisoned => ((s.setWord key (merge 0)).bumpH 0x3048 (k / 1088) 4 1, woke, none)
      | .bad => (s.poisonWord k key, woke, some ⟨cEccUncorrectable, .bank, a, 0, 0, 0⟩)

/-- Bits lo to hi − 1 of a word, as a mask. -/
def bitMask (lo hi : Nat) : W64 := BitVec.ofNat 64 (2 ^ hi - 2 ^ lo)

/-- Write words of a buffer from word j on: `bit` and `n` count from the first bit of word j. -/
def writeWords (s : State) (k : Nat) (h : Handle) (j : Nat) (bit n v : Nat) : Nat → State × Bool × Option CFault
  | 0 => (s, false, none)
  | fuel + 1 =>
    let (b, row, w) := h.locate j
    let here := min (64 - bit) n
    let (s', t, f) := writeWord s k b row w (bitMask bit (bit + here)) (BitVec.ofNat 64 (v % 2 ^ here * 2 ^ bit))
    match f with
    | some e => (s', t, some e)
    | none =>
      let (s'', t', f') := writeWords s' k h (j + 1) 0 (n - here) (v / 2 ^ here) fuel
      (s'', t || t', f')

/-- Write n bits at bit `bit` of the buffer behind a handle. -/
def writeBuf (s : State) (k hd : Nat) (o : Origin) (bit n v : Nat) : State × Bool × Option CFault :=
  if n = 0 then (s, false, none)
  else
    let c := s.core k
    match checkHandle c hd o true ((bit + n - 1) / 8) with
    | some e => (if e.code = cHandleStale then s.bumpH 0x3048 (k / 1088) 8 1 else s, false, some e)
    | none => writeWords s k (c.handle hd) (bit / 64) (bit % 64) n v ((bit % 64 + n + 63) / 64)

/-- Read a list of runs (bit, length) of one buffer. -/
def readRuns (s : State) (k hd : Nat) (o : Origin) : List (Nat × Nat) → State × Bool × Except CFault (List Nat)
  | [] => (s, false, .ok [])
  | (b, n) :: rest =>
    match readBuf s k hd o b n with
    | (s', t, .error e) => (s', t, .error e)
    | (s', t, .ok v) =>
      let (s'', t', r) := readRuns s' k hd o rest
      (s'', t || t', r.map (v :: ·))

/-- Write a list of runs (bit, length, value) of one buffer. -/
def writeRuns (s : State) (k hd : Nat) (o : Origin) : List (Nat × Nat × Nat) → State × Bool × Option CFault
  | [] => (s, false, none)
  | (b, n, v) :: rest =>
    match writeBuf s k hd o b n v with
    | (s', t, some e) => (s', t, some e)
    | (s', t, none) =>
      let (s'', t', f) := writeRuns s' k hd o rest
      (s'', t || t', f)

/-- Join runs of a container each into longer runs, so that one word is not written piece by piece. -/
def joinRuns : List (Nat × Nat × Nat) → List (Nat × Nat × Nat)
  | [] => []
  | (b, n, v) :: rest =>
    match joinRuns rest with
    | (b', n', v') :: tl => if b + n = b' then (b, n + n', v + 2 ^ n * v') :: tl else (b, n, v) :: (b', n', v') :: tl
    | [] => [(b, n, v)]

end Sys2Proof.Machine
end

