-- ==== Sys2Proof/Machine/Flags.lean ====
section
/-!
DEFINITION. Flag computations: the entry range, alignment and its results (R66), additions with the sticky
overflow bit (R67, R68, R72), and what the error log shows (UNACKED_ERRORS and ALERT_N, R236).
-/
namespace Sys2Proof.Machine

/-! ## Entries (R61, R68, R72) -/

/-- The bounds of an entry. -/
def entryLo (acc16 : Bool) : Int := if acc16 then -32768 else -2147483648
def entryHi (acc16 : Bool) : Int := if acc16 then 32767 else 2147483647

/-- Hold a value within the entry's range. -/
def entrySat (acc16 : Bool) (x : Int) : Int := min (max x (entryLo acc16)) (entryHi acc16)
/-- The value lies within the entry's range. -/
def entryFits (acc16 : Bool) (x : Int) : Bool := decide (entryLo acc16 ≤ x) && decide (x ≤ entryHi acc16)

/-- What an alignment reports (R66). -/
inductive AlignKind where
  | exact | inexact | zeroed | overflow
  deriving DecidableEq, Repr

/-- R66: a partial p with exponent e aligned to anchor a. -/
def alignTo (acc16 : Bool) (p e a : Int) : Int × AlignKind :=
  if p = 0 then (0, .exact)
  else
    let s := e - a
    let k := if 0 ≤ s then 0 else min (-s).toNat 47
    let v := if 0 ≤ s then p * 2 ^ s.toNat else roundShift p k .rhe 0
    if !entryFits acc16 v then (entrySat acc16 v, .overflow)
    else if !discards p k then (v, .exact)
    else if v = 0 then (0, .zeroed)
    else (v, .inexact)

/-- R67, R68: add an exact value to an entry; `flag` is the overflow bit that comes with the value. -/
def accAdd (acc16 : Bool) (e : Entry) (v : Int) (flag : Bool) : Entry :=
  let x := e.val + v
  { e with val := entrySat acc16 x, ovf := e.ovf || flag || !entryFits acc16 x }

/-- R66, R68: align a partial and add it. -/
def accAlign (acc16 : Bool) (e : Entry) (p ep a : Int) : Entry × AlignKind :=
  let r := alignTo acc16 p ep a
  (accAdd acc16 e r.1 (decide (r.2 = .overflow)), r.2)

/-- ALIGN_INEXACT counts every result but exact (R66). -/
def AlignKind.isInexact (k : AlignKind) : Bool := decide (k ≠ .exact)
def AlignKind.isZeroed (k : AlignKind) : Bool := decide (k = .zeroed)

/-- Bits of |x| (R198). -/
def bitLength (x : Nat) : Nat := if x = 0 then 0 else x.log2 + 1

/-! ## Comparison of ranked values p / 2^sh (R81, R93) -/

/-- p / 2^a < q / 2^b. -/
def ratLt (p : Int) (a : Nat) (q : Int) (b : Nat) : Bool := decide (p * 2 ^ b < q * 2 ^ a)

/-- R93: the ranked value is below the threshold (above it under MIN). -/
def belowTheta (etMin : Bool) (theta : Int) (p : Int) (sh : Nat) : Bool :=
  if etMin then ratLt theta 0 p sh else ratLt p sh theta 0

/-! ## The error log (R236) -/

/-- An entry of the ring that is an unacknowledged error. -/
def Log.unackedAt (l : Log) (e : Nat × Nat × Report) : Bool := decide (l.ack ≤ e.2.1) && !isEvent e.2.2.code

/-- UNACKED_ERRORS. -/
def Log.unacked (l : Log) : Nat := (l.slots.filter l.unackedAt).length

/-- The device asserts ALERT_N: an unacknowledged error, VIN48 out of range, or a failed boot (R236, R307,
R330). -/
def State.alert (s : State) : Bool :=
  decide (0 < s.log.unacked) || !s.power.vin48 || decide (s.boot.dev = .bootFailed)

end Sys2Proof.Machine
end

