-- ==== Sys2Proof/Machine/Crypto.lean ====
section
/-!
DEFINITION. The check functions the manual names: CRCs in the parametrised model of Table 14-5 (R282, R302 to
R304; IMAGE_CHECK of R163) and HMAC-SHA-384 (R254).
-/
namespace Sys2Proof.Machine

/-- Reverse the low w bits of a number. -/
def reflectBits (w v : Nat) : Nat :=
  (List.range w).foldl (fun a i => 2 * a + v / 2 ^ i % 2) 0

/-- A CRC model (Table 14-5, Table 12-12). -/
structure CrcModel where
  width : Nat
  poly : Nat
  init : Nat
  refIn : Bool
  refOut : Bool
  xorOut : Nat
  deriving DecidableEq, Repr

def crc32c : CrcModel := ⟨32, 0x1EDC6F41, 0xFFFFFFFF, true, true, 0xFFFFFFFF⟩
def crc32iso : CrcModel := ⟨32, 0x04C11DB7, 0xFFFFFFFF, true, true, 0xFFFFFFFF⟩
def crc64xz : CrcModel := ⟨64, 0x42F0E1EBA9EA3693, 2 ^ 64 - 1, true, true, 2 ^ 64 - 1⟩
def crc16ibm : CrcModel := ⟨16, 0x1021, 0xFFFF, false, false, 0⟩

/-- One bit of the register in its input domain (R303): reflected registers shift right. -/
def crcBit (m : CrcModel) (rpoly reg bit : Nat) : Nat :=
  if m.refIn then
    let t := (reg + bit) % 2
    if t = 1 then (reg / 2) ^^^ rpoly else reg / 2
  else
    let top := reg / 2 ^ (m.width - 1) % 2
    let t := (top + bit) % 2
    let sh := 2 * reg % 2 ^ m.width
    if t = 1 then sh ^^^ m.poly else sh

def crcByte (m : CrcModel) (rpoly reg : Nat) (b : Byte) : Nat :=
  (List.range 8).foldl
    (fun r i => crcBit m rpoly r (if m.refIn then b.toNat / 2 ^ i % 2 else b.toNat / 2 ^ (7 - i) % 2)) reg

/-- The register, in its input domain, at the start (R303: the init value). -/
def crcInit (m : CrcModel) : Nat := if m.refIn then reflectBits m.width m.init else m.init

/-- Process bytes from a register value. -/
def crcRun (m : CrcModel) (reg : Nat) (bs : List Byte) : Nat :=
  let rp := if m.refIn then reflectBits m.width m.poly else m.poly
  bs.foldl (crcByte m rp) reg

/-- R303: the check value of a register. -/
def crcValue (m : CrcModel) (reg : Nat) : Nat :=
  (if m.refIn = m.refOut then reg else reflectBits m.width reg) ^^^ m.xorOut

def crcOf (m : CrcModel) (bs : List Byte) : Nat := crcValue m (crcRun m (crcInit m) bs)

/-- R304: the check value as bytes: little-endian when the output is reflected, else big-endian. -/
def crcBytes (m : CrcModel) (v : Nat) : List Byte :=
  let bs := toBytes ((m.width + 7) / 8) v
  if m.refOut then bs else bs.reverse

/-! ## SHA-384 and HMAC (FIPS 180-4, RFC 2104), as R254 names them -/

/-- The integer k-th root of n below r + 2^bits, when it is at least r: one bit of the root per step. -/
def rootFrom (k n : Nat) : Nat → Nat → Nat
  | 0, r => r
  | bits + 1, r => if (r + 2 ^ bits) ^ k ≤ n then rootFrom k n bits (r + 2 ^ bits) else rootFrom k n bits r

/-- The first 64 bits of the fraction of the k-th root of p. -/
def rootFraction (k p : Nat) : W64 := BitVec.ofNat 64 (rootFrom k (p * 2 ^ (64 * k)) 72 0)

/-- The primes below n, in order. -/
def primesBelow (n : Nat) : List Nat :=
  (List.range n).filter fun p => decide (2 ≤ p) && (List.range p).all fun d => decide (d < 2 ∨ p % d ≠ 0)

/-- The round constants: cube roots of the first eighty primes. -/
def shaK : List W64 := (primesBelow 410).map (rootFraction 3)

/-- The first chaining value of SHA-384: square roots of the ninth to the sixteenth prime. -/
def shaInit384 : List W64 := ((primesBelow 54).drop 8).map (rootFraction 2)

def rotr (x : W64) (n : Nat) : W64 := x.rotateRight n

/-- The message schedule, newest word first. -/
def shaExtend : Nat → List W64 → List W64
  | 0, w => w
  | n + 1, w =>
    let w2 := w.getD 1 0
    let w15 := w.getD 14 0
    let s0 := rotr w15 1 ^^^ rotr w15 8 ^^^ (w15 >>> 7)
    let s1 := rotr w2 19 ^^^ rotr w2 61 ^^^ (w2 >>> 6)
    shaExtend n ((w.getD 15 0 + s0 + w.getD 6 0 + s1) :: w)

def shaRound (v : List W64) (kw : W64) : List W64 :=
  match v with
  | [a, b, c, d, e, f, g, h] =>
    let s1 := rotr e 14 ^^^ rotr e 18 ^^^ rotr e 41
    let ch := (e &&& f) ^^^ (~~~e &&& g)
    let t1 := h + s1 + ch + kw
    let s0 := rotr a 28 ^^^ rotr a 34 ^^^ rotr a 39
    let maj := (a &&& b) ^^^ (a &&& c) ^^^ (b &&& c)
    [t1 + (s0 + maj), a, b, c, d + t1, e, f, g]
  | _ => v

def fromBytesBE (bs : List Byte) : Nat := bs.foldl (fun a b => 256 * a + b.toNat) 0

def shaBlock (h : List W64) (block : List Byte) : List W64 :=
  let w0 := (List.range 16).map fun i => BitVec.ofNat 64 (fromBytesBE ((block.drop (8 * i)).take 8))
  let w := (shaExtend 64 w0.reverse).reverse
  let v := (List.zipWith (· + ·) shaK w).foldl shaRound h
  List.zipWith (· + ·) h v

def shaBlocks : Nat → List W64 → List Byte → List W64
  | 0, h, _ => h
  | n + 1, h, bs => shaBlocks n (shaBlock h (bs.take 128)) (bs.drop 128)

def sha384 (msg : List Byte) : List Byte :=
  let l := msg.length
  let z := (128 - (l + 17) % 128) % 128
  let padded := msg ++ [0x80] ++ List.replicate z 0 ++ (toBytes 16 (8 * l)).reverse
  let h := shaBlocks (padded.length / 128) shaInit384 padded
  ((h.take 6).map fun x => (toBytes 8 x.toNat).reverse).flatten

/-- HMAC-SHA-384 with a key of at most 128 bytes. -/
def hmacSha384 (key msg : List Byte) : List Byte :=
  let k := key ++ List.replicate (128 - key.length) 0
  sha384 (k.map (· ^^^ 0x5c) ++ sha384 (k.map (· ^^^ 0x36) ++ msg))

end Sys2Proof.Machine
end

