-- ==== Sys2Proof/Machine/Image.lean ====
section
/-!
DEFINITION. The program image: fields of the header, of operation records (Table 8-5), of buffer plan entries
(Table 8-6) and of dimension entries, and what follows from the planned shape alone (R165, R170, R179).
-/
namespace Sys2Proof.Machine

/-- ⌈a / b⌉. -/
def ceilDiv (a b : Nat) : Nat := (a + b - 1) / b

/-! ## Operation records (Table 8-5) -/

abbrev OpRec := BitVec 1024

def OpRec.kind (r : OpRec) : Nat := fld r 0 8
def OpRec.chain (r : OpRec) : Bool := r.getLsbD 8
def OpRec.reuse (r : OpRec) : Bool := r.getLsbD 9
def OpRec.commit (r : OpRec) : Bool := r.getLsbD 10
def OpRec.acc16 (r : OpRec) : Bool := r.getLsbD 11
def OpRec.double (r : OpRec) : Bool := r.getLsbD 12
def OpRec.keep (r : OpRec) : Bool := r.getLsbD 13
def OpRec.rnd (r : OpRec) : Bool := r.getLsbD 14
def OpRec.column (r : OpRec) : Bool := r.getLsbD 15
def OpRec.siftOnly (r : OpRec) : Bool := r.getLsbD 16
def OpRec.siftMin (r : OpRec) : Bool := r.getLsbD 17
def OpRec.sparse (r : OpRec) : Bool := r.getLsbD 18
def OpRec.bidir (r : OpRec) : Bool := r.getLsbD 19
def OpRec.bandWrite (r : OpRec) : Bool := r.getLsbD 20
def OpRec.etMin (r : OpRec) : Bool := r.getLsbD 21
def OpRec.etMode (r : OpRec) : Nat := fld r 22 2
def OpRec.etTest (r : OpRec) : Nat := fld r 24 2
def OpRec.bandAxes (r : OpRec) : Nat := fld r 26 2
def OpRec.foldMode (r : OpRec) : Nat := fld r 28 2
def OpRec.fuse (r : OpRec) : Nat := fld r 30 2
def OpRec.phase (r : OpRec) : Nat := fld r 32 32
def OpRec.dimM (r : OpRec) : Nat := fld r 64 8
def OpRec.dimN (r : OpRec) : Nat := fld r 72 8
def OpRec.dimK (r : OpRec) : Nat := fld r 80 8
def OpRec.aFmt (r : OpRec) : Nat := fld r 88 8
def OpRec.wFmt (r : OpRec) : Nat := fld r 96 8
def OpRec.outFmt (r : OpRec) : Nat := fld r 104 8
def OpRec.aExp (r : OpRec) : Int := signed (fld r 112 8) 8
def OpRec.wExp (r : OpRec) : Int := signed (fld r 120 8) 8
def OpRec.aBuf (r : OpRec) : Nat := fld r 128 8
def OpRec.aXbuf (r : OpRec) : Nat := fld r 136 8
def OpRec.wBuf (r : OpRec) : Nat := fld r 144 8
def OpRec.wXbuf (r : OpRec) : Nat := fld r 152 8
def OpRec.outBuf (r : OpRec) : Nat := fld r 160 8
def OpRec.outXbuf (r : OpRec) : Nat := fld r 168 8
def OpRec.biasBuf (r : OpRec) : Nat := fld r 176 8
def OpRec.tableBuf (r : OpRec) : Nat := fld r 184 8
def OpRec.siftVal (r : OpRec) : Nat := fld r 192 8
def OpRec.siftPos (r : OpRec) : Nat := fld r 200 8
def OpRec.belowMap (r : OpRec) : Nat := fld r 208 8
def OpRec.mask (r : OpRec) : Nat := fld r 216 8
def OpRec.formMap (r : OpRec) : Nat := fld r 224 8
def OpRec.scatter (r : OpRec) : Nat := fld r 232 8
def OpRec.aPadKind (r : OpRec) : Nat := fld r 240 2
def OpRec.wPadKind (r : OpRec) : Nat := fld r 242 2
def OpRec.act (r : OpRec) : Nat := fld r 244 4
def OpRec.tsh (r : OpRec) : Nat := fld r 248 4
def OpRec.q (r : OpRec) : Nat := fld r 252 4
def OpRec.sampleShift (r : OpRec) : Nat := fld r 256 5
def OpRec.sheet (r : OpRec) : Nat := fld r 261 3
def OpRec.slot (r : OpRec) : Nat := fld r 264 3
def OpRec.slotBase (r : OpRec) : Nat := fld r 267 5
def OpRec.slotSize (r : OpRec) : Nat := fld r 272 6
def OpRec.ksplitMax (r : OpRec) : Nat := fld r 278 6
def OpRec.aPad (r : OpRec) : Int := signed (fld r 288 16) 16
def OpRec.wPad (r : OpRec) : Int := signed (fld r 304 16) 16
def OpRec.mBlock (r : OpRec) : Nat := fld r 320 16
def OpRec.siftK (r : OpRec) : Nat := fld r 336 7
def OpRec.sh (r : OpRec) : Nat := fld r 344 8
def OpRec.shC (r : OpRec) : Nat := fld r 352 8
def OpRec.mult (r : OpRec) : Nat := fld r 360 16
def OpRec.multC (r : OpRec) : Nat := fld r 376 16
def OpRec.clampLo (r : OpRec) : Int := signed (fld r 392 16) 16
def OpRec.clampHi (r : OpRec) : Int := signed (fld r 408 16) 16
def OpRec.threshold (r : OpRec) : Int := signed (fld r 424 16) 16
def OpRec.floor (r : OpRec) : Nat := fld r 440 16
def OpRec.streamKey (r : OpRec) : Nat := fld r 456 32
def OpRec.bandLo (r : OpRec) : Int := signed (fld r 488 32) 32
def OpRec.bandHi (r : OpRec) : Int := signed (fld r 520 32) 32
def OpRec.bandModM (r : OpRec) : Nat := fld r 552 32
def OpRec.bandModX (r : OpRec) : Nat := fld r 584 32
def OpRec.anchorIdx (r : OpRec) : Nat := fld r 616 32
def OpRec.constIdx (r : OpRec) : Nat := fld r 648 32
def OpRec.aux0 (r : OpRec) : Nat := fld r 680 16
def OpRec.aux1 (r : OpRec) : Nat := fld r 696 16
def OpRec.aux2 (r : OpRec) : Nat := fld r 712 32

def kMatmul : Nat := 1
def kConvert : Nat := 2
def kPool : Nat := 3
def kTransfer : Nat := 4
def kHalo : Nat := 5
def kAccRead : Nat := 6
def kAccSpill : Nat := 7
def kAccFill : Nat := 8
def kMark : Nat := 9

/-- The kinds that a core runs (R168). -/
def OpRec.onCore (r : OpRec) : Bool := decide (r.kind ∈ [1, 2, 3, 5, 6, 7, 8])
/-- The kinds that have a split of their own (R179). -/
def OpRec.hasSplit (r : OpRec) : Bool := decide (r.kind ∈ [1, 2, 3])
/-- The kinds that take the split of a MATMUL (R334). -/
def OpRec.isAcc (r : OpRec) : Bool := decide (r.kind ∈ [6, 7, 8])

/-! ## Buffer plan entries (Table 8-6) -/

abbrev BufRec := BitVec 256

def BufRec.handle (b : BufRec) : Nat := fld b 0 8
def BufRec.fmt (b : BufRec) : Nat := fld b 8 8
def BufRec.cls (b : BufRec) : Nat := fld b 16 4
def BufRec.dist (b : BufRec) : Nat := fld b 20 4
def BufRec.dimOuter (b : BufRec) : Nat := fld b 24 8
def BufRec.dimInner (b : BufRec) : Nat := fld b 32 8
def BufRec.lbanks (b : BufRec) : Nat := fld b 40 16
def BufRec.ghost (b : BufRec) : Nat := fld b 56 8
def BufRec.owner (b : BufRec) : Nat := fld b 64 32
def BufRec.first (b : BufRec) : Nat := fld b 96 32
def BufRec.last (b : BufRec) : Nat := fld b 128 32
def BufRec.ioPort (b : BufRec) : Nat := fld b 160 4
def BufRec.expRegion (b : BufRec) : Bool := b.getLsbD 164
def BufRec.fromImage (b : BufRec) : Bool := b.getLsbD 165
def BufRec.srcOff (b : BufRec) : Nat := fld b 192 32

def clsScratch : Nat := 0
def clsLarder : Nat := 1
def clsHbm : Nat := 2
def clsHost : Nat := 3

def distSingle : Nat := 0
def distReplicate : Nat := 1
def distOut : Nat := 2
def distA : Nat := 3
def distW : Nat := 4

/-- The buffer lives in HBM (Table 8-6). -/
def BufRec.inHbm (b : BufRec) : Bool := decide (b.cls = clsLarder) || decide (b.cls = clsHbm)

/-! ## Programs -/

def Program.op (p : Program) (i : Nat) : OpRec := p.ops.getD i 0
def Program.buf (p : Program) (i : Nat) : BufRec := p.bufs.getD i 0
def Program.dim (p : Program) (d : Nat) : Nat := p.planned.getD d 0

def Program.pM (p : Program) (r : OpRec) : Nat := p.dim r.dimM
def Program.pN (p : Program) (r : OpRec) : Nat := p.dim r.dimN
def Program.pK (p : Program) (r : OpRec) : Nat := p.dim r.dimK

/-- R170: the index of the buffer that a handle names in a phase. -/
def Program.resolve (p : Program) (handle phase : Nat) : Option Nat :=
  if handle = 0 then none
  else (List.range p.bufs.length).find? fun i =>
    let b := p.buf i
    decide (b.handle = handle) && decide (b.first ≤ phase) && decide (phase ≤ b.last)

/-- Elements along the inner dimension: blocks of 32 in an exponent region (Table 8-6, R42). -/
def Program.innerCount (p : Program) (b : BufRec) : Nat :=
  if b.expRegion then ceilDiv (p.dim b.dimInner) 32 else p.dim b.dimInner

/-- Container bits of a buffer's elements; an exponent is a byte. -/
def BufRec.bits (b : BufRec) : Nat := if b.expRegion then 8 else fmtBits b.fmt

/-- The planned size of a buffer in bytes (R171, R40). -/
def Program.bufBytes (p : Program) (b : BufRec) : Nat :=
  ceilDiv (p.dim b.dimOuter * p.innerCount b * b.bits) 8

/-! ## Shape of an operation (R17, R106, R112, R179) -/

/-- bw′ of R17. -/
def OpRec.bw (r : OpRec) : Nat := fmtBits r.wFmt
/-- Output columns per tile: N_pass, or 64 for the glaze-path kinds (R17, R179). -/
def OpRec.nPass (r : OpRec) : Nat := if r.kind = kMatmul then 512 / r.bw else 64
/-- K positions per tile (R107, R179). -/
def OpRec.kTile (r : OpRec) : Nat := if r.sparse then 128 else 64
/-- K-blocks per tile (R28, R107). -/
def OpRec.kBlocks (r : OpRec) : Nat := if r.sparse then 4 else 2
/-- SHEET_GROUPS (Table 6-6a). -/
def OpRec.sheetGroups (r : OpRec) : Nat :=
  match r.sheet with
  | 1 => 4
  | 2 => 8
  | 3 => 16
  | 4 => 32
  | 5 => 64
  | _ => 0

/-- N-tiles in one unit of the split of N (R179): more than one only for a sheeted output. -/
def OpRec.unitTiles (r : OpRec) : Nat :=
  if r.sheetGroups = 0 then 1 else Nat.lcm r.nPass (64 * r.sheetGroups) / r.nPass

def Program.tM (p : Program) (r : OpRec) : Nat := ceilDiv (p.pM r) r.mBlock
def Program.tN (p : Program) (r : OpRec) : Nat := ceilDiv (p.pN r) r.nPass
def Program.tK (p : Program) (r : OpRec) : Nat := if r.kind = kMatmul then ceilDiv (p.pK r) r.kTile else 0

/-- R112: sheets of a vector. -/
def Program.sheetsPerVector (p : Program) (r : OpRec) : Nat := ceilDiv (p.pN r) (64 * r.sheetGroups)
/-- Bytes of a sheet slot (R115). -/
def OpRec.sheetSlot (r : OpRec) : Nat := r.sheetGroups * 8 * fmtBits r.outFmt

/-- Entries of a unit of the accumulator store (R61, R72). -/
def OpRec.perUnit (r : OpRec) : Nat := if r.acc16 then 1024 else 512
/-- Select rows of a weight tile (R108). -/
def OpRec.selectRows (r : OpRec) : Nat := if r.sparse then 128 / r.bw else 0
/-- Bits of a weight tile in its buffer: 64 weight rows, and the select rows behind them (R19, R108, R172). -/
def OpRec.tileBits (r : OpRec) : Nat := 512 * (64 + r.selectRows)
/-- Entries of the operation's slot. -/
def OpRec.slotEntries (r : OpRec) : Nat := r.slotSize * r.perUnit
/-- Bytes of a spilled slot (R85, R334). -/
def OpRec.regionBytes (r : OpRec) : Nat := 4 * r.slotEntries + r.slotEntries / 8

/-- The ACC operation that names a buffer (R334). -/
def Program.accUser (p : Program) (b : Nat) : Option OpRec :=
  p.ops.find? fun (o : OpRec) => OpRec.isAcc o &&
    decide (p.resolve (if OpRec.kind o = kAccFill then OpRec.aBuf o else OpRec.outBuf o) (OpRec.phase o) = some b)

/-- R334: the MATMUL whose split an ACC kind takes. -/
def Program.accOwner (p : Program) (i : Nat) : Option Nat :=
  let r := p.op i
  let names (j : Nat) : Bool :=
    let m := p.op j
    decide (m.kind = kMatmul) && (decide (m.slot = r.slot) || (m.double && decide (m.slot + 1 = r.slot)))
  if r.kind = kAccFill then
    ((List.range p.ops.length).filter (i < ·)).find? names
  else ((List.range i).reverse).find? names

/-- The operation whose split an operation follows. -/
def Program.splitOf (p : Program) (i : Nat) : Option Nat :=
  let r := p.op i
  if r.hasSplit then some i
  else if r.isAcc then p.accOwner i
  else if r.kind = kHalo then (p.resolve r.outBuf r.phase).map fun b => (p.buf b).owner
  else none

/-! ## Anchors and multipliers (R165) -/

/-- The anchor entry of a column of an operation. -/
def Program.anchorWord (p : Program) (r : OpRec) (n : Nat) : BitVec 32 := p.anchors.getD (r.anchorIdx + n / 32) 0
def anchorOk (w : BitVec 32) : Bool := isCompl 16 (fld w 0 16) (fld w 16 16)
def anchorVal (w : BitVec 32) : Int := signed (fld w 0 16) 16

/-- Bytes of the constant section. -/
def Program.constNat (p : Program) (off len : Nat) : Nat := fromBytes ((p.consts.drop off).take len)

/-- A COLUMN multiplier entry as a 64-bit number. -/
def Program.multWord (p : Program) (r : OpRec) (n : Nat) : Nat := p.constNat (r.constIdx + 8 * n) 8
/-- The complements of a multiplier entry agree (R58, R165). -/
def multOk (w : Nat) : Bool :=
  isCompl 16 (bitsAt w 0 16) (bitsAt w 16 16) && isCompl 8 (bitsAt w 32 8) (bitsAt w 40 8)

/-- The multiplier and shift of a column, complements checked (R58, R77); the program offset on a mismatch. -/
def Program.multOf (p : Program) (i : Nat) (r : OpRec) (n : Nat) : Except Nat (Nat × Nat) :=
  if r.column then
    let w := p.multWord r n
    if multOk w then .ok (bitsAt w 0 16, bitsAt w 32 8) else .error (p.constOff + r.constIdx + 8 * n)
  else if !isCompl 8 r.sh r.shC then .error (p.opsOff + 128 * i + 43)
  else if !isCompl 16 r.mult r.multC then .error (p.opsOff + 128 * i + 45)
  else .ok (r.mult, r.sh)

/-! ## Masks (R106) -/

/-- The nibble of a quad and a column in a mask buffer laid out column by column. -/
def Program.maskNibble (p : Program) (b : BufRec) (quads n quad : Nat) : Nat :=
  let i := n * quads + quad
  p.constNat (b.srcOff + i / 2) 1 / 2 ^ (4 * (i % 2)) % 16

def popCount (w v : Nat) : Nat := ((List.range w).filter fun i => v / 2 ^ i % 2 = 1).length

/-- The positions a nibble keeps, in ascending order. -/
def nibblePos (v : Nat) : List Nat := (List.range 4).filter fun i => v / 2 ^ i % 2 = 1

/-- The SPARSE24 operation whose weight tiles a buffer holds (R106, R108). -/
def Program.sparseUser (p : Program) (b : Nat) : Option OpRec :=
  p.ops.find? fun (o : OpRec) => decide (OpRec.kind o = kMatmul) && OpRec.sparse o &&
    decide (p.resolve (OpRec.wBuf o) (OpRec.phase o) = some b)

/-- The select bits of an array row of a tile (R107, R108): that of column n at bits 2n and 2n + 1. Beyond the planned shape
the mask has no nibble; there the two rows of a quad take its first two activations, each under the padding value. -/
def Program.selectBits (p : Program) (r : OpRec) (nt kt row : Nat) : Nat :=
  match p.resolve r.mask r.phase with
  | none => 0
  | some mbuf => ((List.range r.nPass).map fun c =>
      let n := nt * r.nPass + c
      let q := 32 * kt + row / 2
      let sel := if n < p.pN r ∧ 4 * q < p.pK r then
        (nibblePos (p.maskNibble (p.buf mbuf) (p.pK r / 4) n q)).getD (row % 2) 0
      else row % 2
      sel * 4 ^ c).sum

end Sys2Proof.Machine
end

