-- ==== Sys2Proof/Machine/Loader.lean ====
section
/-!
DEFINITION. The loader's checks of a program image (R163 to R174, R188, R189, R333, R334, R336): the header, the
dimension entries, the buffer plan, the operation records and the checks over the whole program, in the order of
R188; the first failure is reported.
-/
namespace Sys2Proof.Machine

/-- What the loader reports: code, subcode and program offset (R188). -/
structure LoadFail where
  code : Nat
  sub : Nat
  off : Nat
  /-- DETAIL0 of the log entry (Table 11-5). -/
  d0 : Nat
  deriving DecidableEq, Repr

def loadCheck (sub off : Nat) : LoadFail := ⟨cLoadCheck, sub, off, 0⟩

/-- The first row of a list of checks that fails. -/
def firstFail : List (Bool × LoadFail) → Option LoadFail
  | [] => none
  | (bad, f) :: rest => if bad then some f else firstFail rest

/-! ## Step 1: the header (Table 8-1) -/

/-- Bytes of a list as a number, from byte off on. -/
def numAt (bs : List Byte) (off len : Nat) : Nat := fromBytes ((bs.drop off).take len)

/-- The image with IMAGE_CHECK taken as 0 (R163). -/
def imageForCheck (img : List Byte) : List Byte := img.take 28 ++ [0, 0, 0, 0] ++ img.drop 32

/-- R188 step 1. `hdr` is the 64-byte header, `img` the IMAGE_BYTES bytes of the image. -/
def checkHeader (hdr img : List Byte) : Option LoadFail :=
  let n := numAt hdr 24 4
  let ops := numAt hdr 32 4
  let phases := numAt hdr 36 4
  let bufs := numAt hdr 40 2
  let dims := numAt hdr 42 1
  let io := numAt hdr 43 1
  let o1 := numAt hdr 44 4
  let o2 := numAt hdr 48 4
  let o3 := numAt hdr 52 4
  let o4 := numAt hdr 56 4
  let o5 := numAt hdr 60 4
  let bad (off lo hi size : Nat) : Bool := decide (off % 64 ≠ 0) || decide (off < lo) || decide (hi < off + size)
  firstFail [
    (decide (numAt hdr 0 4 ≠ 0x504D4C4D), loadCheck 0x0101 0),
    (decide (numAt hdr 4 2 ≠ 1), loadCheck 0x0101 4),
    (!isCompl 64 (numAt hdr 8 8) (numAt hdr 16 8), ⟨cComplement, 0, 8, 2⟩),
    (decide (numAt hdr 6 1 ≠ 0), loadCheck 0x0102 6),
    (decide (n % 64 ≠ 0) || decide (n < 64) || decide (2 ^ 32 - 64 < n), loadCheck 0x0104 24),
    (decide (crcOf crc32c (imageForCheck img) ≠ numAt hdr 28 4), loadCheck 0x0103 28),
    (decide (ops = 0) || decide (1048576 < ops), loadCheck 0x0104 32),
    (decide (phases = 0) || decide (ops < phases), loadCheck 0x0104 36),
    (decide (bufs = 0), loadCheck 0x0104 40),
    (decide (dims = 0) || decide (32 < dims), loadCheck 0x0104 42),
    (decide (16 < io), loadCheck 0x0104 43),
    (bad o1 64 o2 (128 * ops), loadCheck 0x0104 44),
    (bad o2 (o1 + 128 * ops) o3 (32 * bufs), loadCheck 0x0104 48),
    (bad o3 (o2 + 32 * bufs) o4 (8 * dims), loadCheck 0x0104 52),
    (bad o4 (o3 + 8 * dims) o5 0, loadCheck 0x0104 56),
    (bad o5 o4 n 0, loadCheck 0x0104 60),
    (decide (numAt hdr 7 1 / 2 ≠ 0), loadCheck 0x0105 7)]

/-- Entries of w bytes each. -/
def entriesAt (img : List Byte) (off w n : Nat) : List Nat := (List.range n).map fun i => numAt img (off + w * i) w

/-- The program that an image with a good header holds. -/
def readProgram (img : List Byte) : Program where
  id := numAt img 8 8
  ops := (entriesAt img (numAt img 44 4) 128 (numAt img 32 4)).map (BitVec.ofNat 1024)
  bufs := (entriesAt img (numAt img 48 4) 32 (numAt img 40 2)).map (BitVec.ofNat 256)
  planned := (entriesAt img (numAt img 52 4) 8 (numAt img 42 1)).map (· % 2 ^ 32)
  varDims := (entriesAt img (numAt img 52 4) 8 (numAt img 42 1)).map fun d => decide (bitsAt d 32 1 = 1)
  anchors := (entriesAt img (numAt img 56 4) 4 ((numAt img 60 4 - numAt img 56 4) / 4)).map (BitVec.ofNat 32)
  consts := img.drop (numAt img 60 4)
  phases := numAt img 36 4
  ioCount := numAt img 43 1
  opsOff := numAt img 44 4
  bufsOff := numAt img 48 4
  anchorsOff := numAt img 56 4
  constOff := numAt img 60 4

/-! ## Steps 2 and 3: dimensions and buffers -/

/-- R188 step 2, Table 8-2. -/
def checkDims (img : List Byte) : Option LoadFail :=
  let off := numAt img 52 4
  let ds := entriesAt img off 8 (numAt img 42 1)
  (List.range ds.length).findSome? fun i =>
    let d := ds.getD i 0
    let vars := ((ds.take (i + 1)).filter fun x => bitsAt x 32 1 = 1).length
    firstFail [
      (decide (d / 2 ^ 33 ≠ 0), loadCheck 0x0105 (off + 8 * i)),
      (decide (d % 2 ^ 32 = 0) || decide (2 ^ 31 ≤ d % 2 ^ 32) || decide (8 < vars), loadCheck 0x0108 (off + 8 * i))]

/-- R171, R188 step 3: one buffer plan entry. -/
def checkBuf (p : Program) (i : Nat) : Option LoadFail :=
  let b := p.buf i
  let off := p.bufsOff + 32 * i
  let nd := p.planned.length
  let scratch := decide (b.cls = clsScratch)
  let kind := (p.op b.owner).kind
  let clash := (List.range i).any fun j =>
    let e := p.buf j
    decide (b.handle ≠ 0) && decide (e.handle = b.handle) && decide (e.first ≤ b.last) && decide (b.first ≤ e.last)
  firstFail [
    (b.fromImage && decide (p.consts.length < b.srcOff + p.bufBytes b), loadCheck 0x0104 off),
    (decide (fld b 166 26 ≠ 0) || decide (fld b 224 32 ≠ 0), loadCheck 0x0105 off),
    (decide (nd ≤ b.dimOuter) || decide (nd ≤ b.dimInner), loadCheck 0x0108 off),
    (!fmtOk b.fmt, loadCheck 0x0201 off),
    (if scratch then decide (b.handle = 0) || decide (0x3F < b.handle) else decide (b.handle ≠ 0),
      loadCheck 0x0701 off),
    (clash, loadCheck 0x0702 off),
    (decide (b.cls = clsHost) && decide (p.ioCount ≤ b.ioPort), loadCheck 0x0704 off),
    (decide (3 < b.cls) || decide (4 < b.dist)
      || (!scratch && (decide (b.dist ≠ 0) || decide (b.lbanks ≠ 0) || decide (b.ghost ≠ 0) || decide (b.owner ≠ 0)))
      || (scratch && decide (b.lbanks = 0))
      || (scratch && (decide (p.ops.length ≤ b.owner) || !decide (kind ∈ [1, 2, 3])))
      || decide (64 < b.ghost)
      || decide (p.phases ≤ b.first) || decide (p.phases ≤ b.last) || decide (b.last < b.first),
      loadCheck 0x0709 off)]

/-! ## Step 4: operation records -/

/-- Set bits of a record outside the fields that Table 8-5a names for its kind: fields as (low bit, width). -/
def unusedNonzero (r : OpRec) (used : List (Nat × Nat)) : Bool :=
  let keep := used.foldl (fun (m : BitVec 1024) f => m ||| (BitVec.ofNat 1024 ((2 ^ f.2 - 1) * 2 ^ f.1))) 0
  decide (r &&& ~~~keep ≠ 0)

/-- KIND, COMMIT and PHASE. -/
def fieldsAll : List (Nat × Nat) := [(0, 8), (10, 1), (32, 32)]

/-- Table 8-5a. -/
def fieldsOf (kind : Nat) : List (Nat × Nat) :=
  fieldsAll ++
  match kind with
  | 1 => [(8, 24), (64, 220), (288, 55), (344, 336)]
  | 2 => [(9, 1), (14, 1), (64, 16), (88, 8), (104, 8), (128, 16), (160, 16), (224, 8), (261, 3), (320, 16), (456, 32)]
  | 3 => [(9, 1), (14, 1), (64, 24), (88, 8), (104, 8), (128, 16), (160, 16), (224, 8), (240, 2), (261, 3), (288, 16),
      (320, 16), (456, 32), (680, 16)]
  | 4 => [(680, 32), (712, 32)]
  | 5 => [(160, 8), (240, 2), (288, 16), (680, 32)]
  | 6 => [(8, 1), (11, 1), (160, 8), (264, 14)]
  | 7 => [(8, 1), (11, 1), (160, 8), (264, 14)]
  | 8 => [(8, 1), (11, 1), (128, 8), (264, 14)]
  | 9 => []
  | _ => [(8, 24), (64, 220), (288, 55), (344, 400)]

/-- R26, Table 2-2, R15. -/
def pairingOk (a w : Nat) : Bool :=
  let ka := fmtKind a
  let kw := fmtKind w
  (decide (kw ∈ [0, 1, 2, 4]) && decide (ka ∈ [0, 1, 2, 3, 4])) ||
  (decide (kw = 3) && decide (ka ∈ [0, 1, 3]))

/-- R44, R51: targets that admit no stochastic rounding. -/
def srBarred (t : Nat) : Bool := fmtIsB1 t || decide (fmtKind t ∈ [6, 7])

/-- R186: a value of a format, for padding. -/
def padValueOk (f : Nat) (v : Int) : Bool :=
  if fmtIsB1 f then decide (v = 1) || decide (v = -1)
  else match fmtKind f with
    | 0 => let (lo, hi) := intRange f; decide (lo ≤ v) && decide (v ≤ hi)
    | 1 => let (lo, hi) := intRange f; decide (lo ≤ v) && decide (v ≤ hi)
    | 3 => decide (-1 ≤ v) && decide (v ≤ 1)
    | 5 => decide ((convBf ⟨v, 0⟩ .rhe 0).2 = ConvStat.zero) && (bfDy (convBf ⟨v, 0⟩ .rhe 0).1).1.eq ⟨v, 0⟩
    | _ => false

/-- R39, R103: FLOOR is a canonical code of the target, in the target's own width (log 132). -/
def floorOk (t code : Nat) : Bool :=
  match fmtKind t with
  | 3 => decide (code < 3)
  | 5 => decide (code ≠ 0x8000) && decide (code / 128 % 256 ≠ 255)
  | 6 => false
  | 7 => false
  | _ => decide (code < 2 ^ fmtWidth t)

/-- The largest magnitude of a format (R72). -/
def maxMag (f : Nat) : Nat :=
  if fmtIsB1 f then 1
  else match fmtKind f with
    | 3 => 1
    | 1 => 2 ^ fmtWidth f - 1
    | _ => 2 ^ (fmtWidth f - 1)

def Program.dimsIn (p : Program) (r : OpRec) (k : Nat) : Bool :=
  let nd := p.planned.length
  (!decide (k ∈ [1, 2, 3]) || (decide (r.dimM < nd) && decide (r.dimN < nd))) &&
  (!decide (k ∈ [1, 3]) || decide (r.dimK < nd))

/-- R188: complements of a record's critical values. Its own multiplier and shift are judged under COLUMN too, where they
have no effect (R164, R333). -/
def checkCritical (p : Program) (i : Nat) : Option LoadFail :=
  let r := p.op i
  let off := p.opsOff + 128 * i
  if r.kind ≠ kMatmul then none
  else
    let tensor := firstFail [
      (!isCompl 8 r.sh r.shC, ⟨cComplement, 0, off + 43, 2⟩),
      (!isCompl 16 r.mult r.multC, ⟨cComplement, 0, off + 45, 2⟩)]
    if tensor.isSome ∨ p.planned.length ≤ r.dimN then tensor
    else
      let pn := p.pN r
      let cols := if !r.column ∨ r.constIdx % 8 ≠ 0 then none
        else (List.range (min pn ((p.consts.length - r.constIdx) / 8))).findSome? fun n =>
          if multOk (p.multWord r n) then none else some ⟨cComplement, 0, p.constOff + r.constIdx + 8 * n, 2⟩
      if cols.isSome then cols
      else (List.range (min (ceilDiv pn 32) (p.anchors.length - r.anchorIdx))).findSome? fun g =>
        if anchorOk (p.anchors.getD (r.anchorIdx + g) 0) then none
        else some ⟨cComplement, 0, p.anchorsOff + 4 * (r.anchorIdx + g), 2⟩

/-- Slots an operation claims: number, first unit, units (R61). ACC_READ changes no slot state (R84). -/
def OpRec.claims (r : OpRec) : List (Nat × Nat × Nat) :=
  if r.kind = kMatmul ∧ r.double then
    [(r.slot, r.slotBase, r.slotSize), (r.slot + 1, r.slotBase + r.slotSize, r.slotSize)]
  else if r.kind ∈ [kMatmul, kAccSpill, kAccFill] then [(r.slot, r.slotBase, r.slotSize)]
  else []

/-- R61: the last phase to which the claim of operation i may stay open. -/
def Program.openUntil (p : Program) (i : Nat) : Nat :=
  let r := p.op i
  if r.kind = kAccFill then
    match p.accOwner i with
    | some t => max r.phase (p.op t).phase
    | none => r.phase
  else r.phase

/-- R61: a claim of operation i overlaps a claim of an earlier operation while both can be open. -/
def Program.slotOverlap (p : Program) (i : Nat) : Bool :=
  (List.range i).any fun j =>
    decide ((p.op i).phase ≤ p.openUntil j) &&
    (p.op i).claims.any fun a => (p.op j).claims.any fun b =>
      decide (a.1 ≠ b.1) && decide (a.2.1 < b.2.1 + b.2.2) && decide (b.2.1 < a.2.1 + a.2.2)

/-- The last operation before i that fills i's slot: a MATMUL or an ACC_FILL (R75). -/
def Program.fillerOf (p : Program) (i : Nat) : Option Nat :=
  let r := p.op i
  ((List.range i).reverse).find? fun j =>
    let o := p.op j
    (decide (o.kind = kMatmul) || decide (o.kind = kAccFill)) && o.claims.any fun c => decide (c.1 = r.slot)

/-- The anchors of an operation's planned N. -/
def Program.anchorList (p : Program) (r : OpRec) : List Int :=
  (List.range (ceilDiv (p.pN r) 32)).map fun g => anchorVal (p.anchors.getD (r.anchorIdx + g) 0)

/-- An operation between two others releases the slot of the second with an ACC_SPILL. -/
def Program.spilledBetween (p : Program) (j i : Nat) : Bool :=
  (List.range i).any fun n => decide (j < n) && decide ((p.op n).kind = kAccSpill) && decide ((p.op n).slot = (p.op i).slot)

/-- R75, R182: KEEP is admitted: directly after a fill, or with CHAIN, the anchors and the entry width of the MATMUL
that filled the slot. -/
def Program.keepOk (p : Program) (i : Nat) : Bool :=
  let r := p.op i
  !r.double && decide (p.tM r * p.tN r = 1) &&
  match p.fillerOf i with
  | none => false
  | some j =>
    let f := p.op j
    if f.kind = kAccFill then decide (f.acc16 = r.acc16) && !p.spilledBetween j i
    else r.chain && decide (p.anchorList f = p.anchorList r) && decide (f.acc16 = r.acc16)

/-- R72. -/
def Program.acc16Ok (p : Program) (r : OpRec) : Bool :=
  let e := r.aExp + r.wExp
  let am := max (maxMag r.aFmt) (if r.aPadKind = 1 then r.aPad.natAbs else 0)
  let wm := max (maxMag r.wFmt) (if r.wPadKind = 1 then r.wPad.natAbs else 0)
  decide (fmtKind r.aFmt ≠ kBI) && decide (fmtKind r.wFmt ≠ kBI) &&
  (p.anchorList r).all fun a => decide (a ≤ e) && decide (p.pK r * am * wm * 2 ^ (e - a).toNat ≤ 32767)

/-- The destination operation of a scatter: the owner of the buffer that OUT_BUF names (R122, log 15). -/
def Program.scatterDest (p : Program) (r : OpRec) : Option Nat :=
  (p.resolve r.outBuf r.phase).map fun b => (p.buf b).owner

/-- A mask's first nibble that breaks R110, as a program offset; the mask's start where a planned size is no multiple of
4, so that no nibble offends (DESIGN CHOICE, log 133). -/
def Program.maskFail (p : Program) (r : OpRec) (b : BufRec) : Option Nat :=
  let pk := p.pK r
  let pn := p.pN r
  let quads := pk / 4
  let at' (n q : Nat) : Nat := p.constOff + b.srcOff + (n * quads + q) / 2
  if pk % 4 ≠ 0 ∨ (r.bidir ∧ pn % 4 ≠ 0) then some (p.constOff + b.srcOff)
  else (List.range pn).findSome? fun n => (List.range quads).findSome? fun q =>
    let v := p.maskNibble b quads n q
    let col (j : Nat) : Nat := popCount 4 (((List.range 4).map fun d =>
      (p.maskNibble b quads (4 * (n / 4) + d) q / 2 ^ j % 2) * 2 ^ d).sum)
    if popCount 4 v ≠ 2 then some (at' n q)
    else if r.bidir ∧ (List.range 4).any (fun j => decide (col j ≠ 2)) then some (at' n q)
    else none

/-- One operand of a record: handle, whether it must resolve, its format, whether it is an exponent region, the
dimensions it must have, whether it is written, and its natural distribution. -/
structure Role where
  handle : Nat
  need : Bool
  fmt : Option Nat
  exp : Bool
  outer : Option Nat
  inner : Option Nat
  written : Bool
  dist : Nat
  deriving DecidableEq, Repr

def fU1 : Nat := 0x10
def fU8 : Nat := 0x17
def fU16 : Nat := 0x1F
def fI16 : Nat := 0x0F
def fU4 : Nat := 0x13
def fU2 : Nat := 0x11

/-- The operands of a record in ascending bit position (Tables 8-5, 8-5a). -/
def rolesOf (r : OpRec) : List Role :=
  let bi (f : Nat) : Bool := fmtBlocked f
  match r.kind with
  | 1 =>
    let plain := decide (r.foldMode < 2)
    [⟨r.aBuf, true, some r.aFmt, false, some r.dimM, some r.dimK, false, distA⟩,
     ⟨r.aXbuf, bi r.aFmt, some fU8, true, some r.dimM, some r.dimK, false, distA⟩,
     ⟨r.wBuf, true, some r.wFmt, false, some r.dimN, if r.sparse then none else some r.dimK, false, distW⟩,
     ⟨r.wXbuf, bi r.wFmt, some fU8, true, some r.dimN, some r.dimK, false, distW⟩,
     ⟨r.outBuf, !r.siftOnly || !plain, if plain then some r.outFmt else none, false,
       if plain then some r.dimM else none, if plain then some r.dimN else none, true, distOut⟩,
     ⟨r.outXbuf, bi r.outFmt && !r.siftOnly && plain, some fU8, true, some r.dimM, some r.dimN, true, distOut⟩,
     ⟨r.biasBuf, false, some fI16, false, none, some r.dimN, false, distReplicate⟩,
     ⟨r.tableBuf, decide (r.act = 3), some fI16, false, none, none, false, distReplicate⟩,
     ⟨r.siftVal, decide (r.siftK ≠ 0), some r.outFmt, false, some r.dimM, none, true, distOut⟩,
     ⟨r.siftPos, decide (r.siftK ≠ 0), some fU16, false, some r.dimM, none, true, distOut⟩,
     ⟨r.belowMap, false, some fU1, false, some r.dimM, some r.dimN, true, distOut⟩,
     ⟨r.mask, r.sparse, some fU4, false, some r.dimN, none, false, distReplicate⟩,
     ⟨r.formMap, false, some fU2, false, some r.dimM, none, true, distOut⟩,
     ⟨r.scatter, false, some fU16, false, none, none, false, distReplicate⟩]
  | 2 =>
    [⟨r.aBuf, true, some r.aFmt, false, some r.dimM, some r.dimN, false, distOut⟩,
     ⟨r.aXbuf, bi r.aFmt, some fU8, true, some r.dimM, some r.dimN, false, distOut⟩,
     ⟨r.outBuf, true, some r.outFmt, false, some r.dimM, some r.dimN, true, distOut⟩,
     ⟨r.outXbuf, bi r.outFmt, some fU8, true, some r.dimM, some r.dimN, true, distOut⟩,
     ⟨r.formMap, false, some fU2, false, some r.dimM, none, true, distOut⟩]
  | 3 =>
    [⟨r.aBuf, true, some r.aFmt, false, some r.dimK, some r.dimN, false, distReplicate⟩,
     ⟨r.aXbuf, bi r.aFmt, some fU8, true, some r.dimK, some r.dimN, false, distReplicate⟩,
     ⟨r.outBuf, true, some r.outFmt, false, some r.dimM, some r.dimN, true, distOut⟩,
     ⟨r.outXbuf, bi r.outFmt, some fU8, true, some r.dimM, some r.dimN, true, distOut⟩,
     ⟨r.formMap, false, some fU2, false, some r.dimM, none, true, distOut⟩]
  | 5 => [⟨r.outBuf, true, none, false, none, none, true, distOut⟩]
  | 6 => [⟨r.outBuf, true, none, false, none, none, true, distOut⟩]
  | 7 => [⟨r.outBuf, true, none, false, none, none, true, distOut⟩]
  | 8 => [⟨r.aBuf, true, none, false, none, none, false, distOut⟩]
  | _ => []

/-- R181: the most K-parts that a binding can give the operation. -/
def Program.kLimit (p : Program) (r : OpRec) : Nat :=
  if r.kind = kMatmul ∧ r.etMode = 0 ∧ ¬r.keep ∧ r.foldMode < 2 then min r.ksplitMax (p.tK r) else 1

/-- Two operations split alike at every binding (R179, R181). -/
def Program.sameSplit (p : Program) (i j : Nat) : Bool :=
  let a := p.op i
  let b := p.op j
  decide (i = j) ||
  (decide (p.tM a = p.tM b) && decide (p.tN a = p.tN b) && decide (a.mBlock = b.mBlock)
    && decide (a.nPass = b.nPass) && decide (a.unitTiles = b.unitTiles)
    && decide (p.pM a = p.pM b) && decide (p.pN a = p.pN b)
    && decide (a.fuse = 0) && decide (b.fuse = 0)
    && decide (p.kLimit a = p.kLimit b)
    && (decide (p.kLimit a ≤ 1) || (decide (p.tK a = p.tK b) && decide (a.kTile = b.kTile))))

/-- The operation has one part at every binding. -/
def Program.onePart (p : Program) (r : OpRec) : Bool :=
  decide (p.tM r = 1) && decide (p.tN r ≤ r.unitTiles) && decide (p.kLimit r ≤ 1)

/-- R172: the operation needs a share that its cores hold. -/
def Program.shareOk (p : Program) (i : Nat) (r : OpRec) (x : Role) (b : BufRec) : Bool :=
  if b.dist = distSingle ∨ (b.dist = distReplicate ∧ x.written) then
    p.onePart r && p.onePart (p.op b.owner) && decide (x.dist ≠ distW)
  else if b.dist = distReplicate then decide (x.dist ≠ distW)
  else if x.dist = distA ∧ r.fuse ≠ 0 then decide (b.dist = distOut)
  else if x.dist = distReplicate then
    -- POOL_MAX may read a part of its input: the vectors that feed its M-part (log 16)
    decide (r.kind = kPool) && decide (b.dist = distOut) &&
      (decide (b.owner = i) ||
        (decide (p.tM r = p.tM (p.op b.owner)) && decide (p.tN r = p.tN (p.op b.owner))
          && decide ((p.op b.owner).mBlock = r.aux0 * r.mBlock) && decide ((p.op b.owner).nPass = r.nPass)
          && decide ((p.op b.owner).unitTiles = r.unitTiles)))
  else decide (b.dist = x.dist) && p.sameSplit i b.owner
    || (decide (x.dist = distOut) && decide (b.dist = distOut) && !x.written
        && decide (p.tM r = p.tM (p.op b.owner)) && decide (p.tN r = p.tN (p.op b.owner))
        && decide (r.mBlock = (p.op b.owner).mBlock) && decide (r.nPass = (p.op b.owner).nPass)
        && decide (r.unitTiles = (p.op b.owner).unitTiles))

/-- Some operation writes the buffer through the sheeter (R117). -/
def Program.sheeted (p : Program) (b : Nat) : Bool :=
  p.ops.any fun (o : OpRec) => decide (OpRec.sheet o ≠ 0) && decide (p.resolve (OpRec.outBuf o) (OpRec.phase o) = some b)

/-- The most bank rows that a read of `unit` elements of c bits takes, over the vectors of a region whose vectors hold
`width` elements, packed without gaps (R41, R42): offsets recur after 512 vectors and after 512 / c units. -/
def rowsPerRead (c width unit vectors : Nat) : Nat :=
  (List.range (min vectors 512)).foldl (fun n m =>
    ((List.range (min 8 (ceilDiv width unit)) ++ [ceilDiv width unit - 1]).foldl (fun n t =>
      let lo := (m * width + t * unit) * c
      let hi := lo + c * min unit (width - t * unit)
      max n ((hi - 1) / 512 + 1 - lo / 512)) n)) 0

/-- R19, R25, R109, R134: no two accesses of a step can meet in a bank. The weight loader's four rows lie in four banks, the
feeder's rows of a step in as many, its values apart from its exponents and both apart from the loader's; and what the
glaze writes lies apart from what it drains beside, where the operation has more than one pair (log 33). -/
def Program.bankStaticOk (p : Program) (r : OpRec) : Bool :=
  let lb (h : Nat) : Nat := match p.resolve h r.phase with
    | some b => (p.buf b).lbanks
    | none => 0
  let a := lb r.aBuf
  let ax := lb r.aXbuf
  let w := lb r.wBuf
  let wx := lb r.wXbuf
  let outs := lb r.outBuf ||| lb r.outXbuf ||| lb r.belowMap ||| lb r.formMap ||| lb r.siftVal ||| lb r.siftPos
  decide (((a ||| ax) &&& (w ||| wx)) = 0) && decide ((a &&& ax) = 0)
    && decide (4 ≤ popCount 16 w)
    && decide (rowsPerRead (fmtBits r.aFmt) (p.pK r) r.kTile (p.pM r) ≤ popCount 16 a)
    && (decide (r.aXbuf = 0) || decide (rowsPerRead 8 (ceilDiv (p.pK r) 32) r.kBlocks (p.pM r) ≤ popCount 16 ax))
    && (decide (p.tM r * p.tN r ≤ 1) || decide (2 ≤ r.foldMode) || decide (outs &&& (a ||| ax ||| w ||| wx) = 0))

/-- R185, R189 0x0708: the smallest M-part over the splits that R179 can choose. -/
def Program.smallestPart (p : Program) (r : OpRec) : Nat :=
  let t := p.tM r
  let parts := 2 ^ t.log2
  ((List.range parts).map fun i =>
    min ((i + 1) * t / parts * r.mBlock) (p.pM r) - i * t / parts * r.mBlock).foldl min (p.pM r)

/-- Stream keys of the sites before record i (R55). -/
def Program.keyBefore (p : Program) (i key : Nat) : Bool :=
  (List.range i).any fun j => OpRec.rnd (p.op j) && decide (OpRec.streamKey (p.op j) = key)

/-- The dimensions of the sift buffers break R82. -/
def Program.siftShapeBad (p : Program) (r : OpRec) : Bool :=
  let bad (h want : Nat) : Bool := match p.resolve h r.phase with
    | none => false
    | some b => decide ((p.buf b).dimOuter ≠ r.dimM) || decide (p.dim (p.buf b).dimInner ≠ want)
  bad r.siftVal r.siftK || bad r.siftPos (r.siftK * (if 65536 < p.pN r then 2 else 1))

/-- R167 to R187 for one record: the rows of Table 8-9 in the table's order. -/
def checkOp (p : Program) (i : Nat) : Option LoadFail :=
  let r := p.op i
  let off := p.opsOff + 128 * i
  let k := r.kind
  let f (sub : Nat) : LoadFail := loadCheck sub off
  let mm := decide (k = kMatmul)
  let conv := decide (k ∈ [2, 3])
  let inS (l : List Nat) : Bool := decide (k ∈ l)
  let sift := decide (r.siftK ≠ 0)
  let roles := rolesOf r
  let ix (x : Role) : Option BufRec := (p.resolve x.handle r.phase).map p.buf
  let prevPhase := if i = 0 then 0 else (p.op (i - 1)).phase
  let colBits := mm && r.column && decide (r.dimN < p.planned.length) &&
    (List.range (p.pN r)).any fun n => decide (p.multWord r n / 2 ^ 48 ≠ 0)
  -- a field named for the kind is judged even where it has no effect (R333)
  let shifts : List Nat := r.sh :: (if r.column then (List.range (p.pN r)).map fun n => bitsAt (p.multWord r n) 32 8 else [])
  let blockBad := mm && ((fmtBlocked r.aFmt && ((ix ⟨r.aBuf, true, none, false, none, none, false, 0⟩).any fun b =>
      decide (b.dimInner ≠ r.dimK))) ||
    (fmtBlocked r.wFmt && !r.sparse && ((ix ⟨r.wBuf, true, none, false, none, none, false, 0⟩).any fun b =>
      decide (b.dimInner ≠ r.dimK))))
  let padBad :=
    (mm && (decide (1 < r.aPadKind) || decide (1 < r.wPadKind) || (decide (r.aPadKind ≠ 0) && decide (r.wPadKind ≠ 0))
      || (decide (r.aPadKind = 1) && !padValueOk r.aFmt r.aPad)
      || (decide (r.wPadKind = 1) && !padValueOk r.wFmt r.wPad)
      || (fmtBlocked r.aFmt && decide (r.aPadKind ≠ 0)) || (fmtBlocked r.wFmt && decide (r.wPadKind ≠ 0)))) ||
    (decide (k = kPool) && (decide (2 < r.aPadKind) || (decide (r.aPadKind = 1) && !padValueOk r.aFmt r.aPad)
      || (fmtBlocked r.aFmt && decide (r.aPadKind ≠ 0)))) ||
    (decide (k = kHalo) && (decide (1 < r.aPadKind) ||
      (decide (r.aPadKind = 1) && !((p.resolve r.outBuf r.phase).any fun b => padValueOk (p.buf b).fmt r.aPad))))
  let tb (n : Nat) : BufRec := p.buf n
  let isT := decide (k = kTransfer)
  let tIn := decide (r.aux0 < p.bufs.length) && decide (r.aux1 < p.bufs.length)
  let fmtBad :=
    (roles.any fun x => match ix x, x.fmt with
      | some b, some c => decide (b.fmt ≠ c)
      | _, _ => false) ||
    (isT && tIn && (decide ((tb r.aux0).fmt ≠ (tb r.aux1).fmt) || decide ((tb r.aux0).dimOuter ≠ (tb r.aux1).dimOuter)
      || decide ((tb r.aux0).dimInner ≠ (tb r.aux1).dimInner)))
  let live (b : Nat) : Bool := decide ((tb b).first ≤ r.phase) && decide (r.phase ≤ (tb b).last)
  let n := if r.double then 2 else 1
  let dest := p.scatterDest r
  let local' := roles.any fun x => match ix x with
    | none => false
    | some b => decide (b.expRegion ≠ x.exp)
      || (x.outer.any fun d => decide (b.dimOuter ≠ d)) || (x.inner.any fun d => decide (b.dimInner ≠ d))
      || (!r.isAcc && decide (k ≠ kHalo) && !(mm && decide (2 ≤ r.foldMode) && decide (x.handle = r.outBuf))
            && !p.shareOk i r x b)
  let accBad := r.isAcc && match p.accOwner i with
    | none => false
    | some m => match p.resolve (if k = kAccFill then r.aBuf else r.outBuf) r.phase with
      | none => false
      | some b => decide ((tb b).dist ≠ distOut) || decide ((tb b).owner ≠ m) || decide (p.bufBytes (tb b) < r.regionBytes)
        || (p.accUser b).any fun a => decide (OpRec.regionBytes a ≠ r.regionBytes)
  let rangeBad := mm && (
    (match p.resolve r.tableBuf r.phase with
      | some b => decide (r.act = 3) && decide (p.bufBytes (tb b) < 256)
      | none => false) ||
    (match p.resolve r.scatter r.phase with
      | some b => decide (p.bufBytes (tb b) < 4 * p.pM r)
      | none => false) ||
    (match p.resolve r.mask r.phase with
      | some b => r.sparse && decide (2 * p.bufBytes (tb b) < p.pN r * (p.pK r / 4))
      | none => false) ||
    (match p.resolve r.wBuf r.phase with
      | some b => r.sparse && decide (2 * p.dim (tb b).dimInner ≠ p.pK r)
      | none => false)) ||
    (mm && decide (r.foldMode = 3) && (p.resolve r.outBuf r.phase).any fun b => decide (p.bufBytes (tb b) < 8 * (p.pM r * p.pN r))) ||
    (match p.resolve r.formMap r.phase with
      | some b => decide (r.sheetGroups ≠ 0) && decide (4 * p.bufBytes (tb b) < p.pM r * p.sheetsPerVector r * r.sheetGroups)
      | none => false)
  firstFail [
    ((mm && decide (r.constIdx % 8 ≠ 0)) ||
      (mm && r.column && decide (r.dimN < p.planned.length) && decide (p.consts.length < r.constIdx + 8 * p.pN r)), f 0x0104),
    (unusedNonzero r (fieldsOf k) || colBits || decide (r.fuse = 3) || (decide (r.streamKey ≠ 0) && !r.rnd)
      || (isT && decide (r.aux2 / 2 ^ 9 ≠ 0))
      || (decide (k = kPool) && (decide (r.aux0 = 0) || decide (64 < r.aux0)))
      || (decide (k = kHalo) && (decide (r.aux0 = 0) || decide (64 < r.aux0) || decide (r.aux1 = 0) || decide (3 < r.aux1))),
      f 0x0105),
    (decide (r.phase < prevPhase) || decide (p.phases ≤ r.phase), f 0x0106),
    (decide (k = 0) || decide (9 < k), f 0x0107),
    (!p.dimsIn r k, f 0x0108),
    ((mm && (!fmtOk r.aFmt || !fmtOk r.wFmt || !fmtOk r.outFmt)) || (conv && (!fmtOk r.aFmt || !fmtOk r.outFmt)), f 0x0201),
    (mm && !pairingOk r.aFmt r.wFmt, f 0x0202),
    (blockBad, f 0x0203),
    ((mm && decide (5 < fmtKind r.outFmt)) || (decide (k = kConvert) && !convPair r.aFmt r.outFmt)
      || (decide (k = kPool) && !(decide (fmtKind r.aFmt ≤ 5) && decide (fmtKind r.outFmt ≤ 5)
        && (convPair r.aFmt r.outFmt || decide (r.aFmt = r.outFmt)))),
      f 0x0204),
    ((mm || conv) && r.rnd && srBarred r.outFmt, f 0x0205),
    (padBad, f 0x0206),
    (fmtBad, f 0x0207),
    ((mm || r.isAcc) && (decide (r.slotSize = 0) || (mm && r.double && decide (r.slot = 7))
      || decide (32 < r.slotBase + n * r.slotSize)), f 0x0301),
    ((mm || r.isAcc) && p.slotOverlap i, f 0x0302),
    (inS [1, 2, 3] && (decide (r.mBlock = 0) || decide (16384 < r.mBlock)
      || (mm && decide (r.slotEntries < r.nPass * r.mBlock))), f 0x0303),
    (mm && (p.anchorList r).any fun a => decide (a < -512) || decide (511 < a), f 0x0304),
    (mm && decide (p.anchors.length < r.anchorIdx + ceilDiv (p.pN r) 32), f 0x0305),
    (mm && r.acc16 && !p.acc16Ok r, f 0x0306),
    ((mm && r.keep && !p.keepOk i) || (r.isAcc && (p.accOwner i).isNone), f 0x0308),
    (mm && shifts.any fun m => decide (47 < m), f 0x0309),
    (mm && decide (3 < r.act), f 0x030A),
    (mm && ((sift && (!decide (fmtKind r.outFmt ∈ [0, 1, 5]) || decide (64 < r.siftK)
        || decide (16384 < r.siftK * r.mBlock) || p.siftShapeBad r)) || (r.siftOnly && !sift)), f 0x030B),
    ((mm || conv) && r.rnd && !r.reuse && p.keyBefore i r.streamKey, ⟨cStreamKey, 0, off, r.streamKey⟩),
    ((mm || conv) && r.rnd && decide (r.streamKey = 0), f 0x0401),
    (mm && (decide (r.etMode = 3) || (decide (r.etMode ≠ 0) && decide (r.etTest = 0))), f 0x0501),
    (mm && decide (2 ≤ r.etTest) && (!sift || !r.siftOnly || decide (r.etMin ≠ r.siftMin) || decide (r.belowMap ≠ 0)), f 0x0502),
    (mm && decide (r.act = 3) && decide (r.etTest ≠ 0), f 0x0503),
    (mm && (decide (r.etTest ≠ 0) || r.bandWrite) && !decide (fmtKind r.outFmt ∈ [0, 1, 5]), f 0x0504),
    (mm && !floorOk r.outFmt r.floor, f 0x0505),
    (mm && ((decide (r.etMode ≠ 2) && (decide (r.q ≠ 0) || decide (r.sampleShift ≠ 0))) || decide (16 < r.sampleShift)), f 0x0506),
    (mm && (decide (r.bandAxes = 3) || decide (r.bandHi < r.bandLo)), f 0x0507),
    (mm && r.sparse && (p.resolve r.mask r.phase).any fun b => (tb b).fromImage && (p.maskFail r (tb b)).isSome,
      ⟨cSparsity, 0, ((p.resolve r.mask r.phase).bind fun b => p.maskFail r (tb b)).getD off, 0⟩),
    (mm && r.bidir && !r.sparse, f 0x0601),
    ((mm || conv) && (decide (6 ≤ r.sheet) || (decide (r.sheet ≠ 0) && (r.siftOnly || decide (r.formMap = 0)))), f 0x0602),
    ((roles.any fun x => !x.written && (p.resolve x.handle r.phase).any p.sheeted), f 0x0604),
    (mm && (decide (r.ksplitMax = 0) || decide (32 < r.ksplitMax)), f 0x0605),
    (mm && ((decide (2 ≤ r.foldMode) && (sift || decide (r.etMode ≠ 0) || decide (r.sheet ≠ 0) || decide (r.scatter = 0)))
      || (decide (r.foldMode < 2) && decide (r.scatter ≠ 0))), f 0x0606),
    (mm && (decide (r.foldMode ≠ 0) || decide (1 < r.ksplitMax)) && (decide (2 ^ 32 < p.pM r * p.pN r)
      || (decide (2 ≤ r.foldMode) && dest.any fun d => decide (2 ^ 32 < p.pM (p.op d) * p.pN r))), f 0x0607),
    (mm && decide (r.foldMode = 2) && dest.any fun d => decide (p.anchorList (p.op d) ≠ p.anchorList r), f 0x0608),
    ((roles.any fun x => (x.need || decide (x.handle ≠ 0)) && (ix x).isNone)
      || (isT && (!tIn || !live r.aux0 || !live r.aux1))
      || (mm && r.sparse && (p.resolve r.mask r.phase).any fun b => !(tb b).fromImage), f 0x0703),
    (local' || accBad
      || (decide (k = kHalo) && (p.resolve r.outBuf r.phase).any fun b => decide ((tb b).dist ≠ distOut))
      || (mm && decide (r.foldMode = 3) && (p.resolve r.outBuf r.phase).any fun b => decide ((tb b).dist ≠ distSingle)), f 0x0705),
    (mm && !p.bankStaticOk r, f 0x0706),
    (rangeBad, f 0x0707),
    (decide (k = kHalo) && (p.resolve r.outBuf r.phase).any fun b =>
      decide ((tb b).ghost < r.aux0) || decide (p.smallestPart (p.op (tb b).owner) < r.aux0), f 0x0708),
    ((roles.any fun x => decide (x.dist = distA) && decide (r.fuse ≠ 0) && (p.resolve x.handle r.phase).any fun b =>
      decide ((p.op (tb b).owner).phase = r.phase)), f 0x0801),
    (r.commit && decide (i + 1 < p.ops.length) && decide ((p.op (i + 1)).phase = r.phase), f 0x0802)]

/-! ## Step 5: the whole program -/

/-- Buffers an operation reads, and those it writes (R173). -/
def Program.reads (p : Program) (r : OpRec) : List Nat :=
  if r.kind = kTransfer then [r.aux0]
  else if r.kind = kHalo then (p.resolve r.outBuf r.phase).toList
  else (rolesOf r).filterMap fun x => if x.written then none else p.resolve x.handle r.phase

def Program.writes (p : Program) (r : OpRec) : List Nat :=
  if r.kind = kTransfer then [r.aux1]
  else if r.kind = kMatmul ∧ r.foldMode = 3 then (p.resolve r.outBuf r.phase).toList
  else if r.kind = kMatmul ∧ r.foldMode = 2 then []
  else (rolesOf r).filterMap fun x => if x.written then p.resolve x.handle r.phase else none

/-- R174: the phases that end with a commit mark. -/
def Program.markPhase (p : Program) (ph : Nat) : Bool :=
  decide (ph + 1 = p.phases) || p.ops.any fun (o : OpRec) => OpRec.commit o && decide (OpRec.phase o = ph)

/-- The slot that operation i names is held by an ACC_FILL before it, which no MATMUL has taken since (R173). -/
def Program.behindFill (p : Program) (i : Nat) : Bool :=
  (p.fillerOf i).any fun j => decide ((p.op j).kind = kAccFill)

/-- R74: CHAIN waits that could never release: an operation other than a KEEP behind a filled slot, whose release waits
for a later operation; and an operation on the slot of a scatter's destination that waits for it although it issues
before the scatter on the same core. -/
def Program.chainCycle (p : Program) (i : Nat) : Bool :=
  let r := p.op i
  r.chain && ((decide (r.kind ∈ [kMatmul, kAccRead, kAccSpill, kAccFill]) && !(decide (r.kind = kMatmul) && r.keep) && p.behindFill i) ||
  (List.range p.ops.length).any fun s =>
    let o := p.op s
    decide (o.kind = kMatmul) && decide (o.foldMode = 2) && decide (i ≤ s) && decide (o.phase = r.phase) &&
    (p.scatterDest o).any fun d => decide (d < i) && decide ((p.op d).phase = r.phase) &&
      (p.op d).claims.any fun c => r.claims.any fun c' => decide (c.1 = c'.1))

/-- R174: the slot of an ACC_FILL stays OWNED across a commit mark: no KEEP takes it before the next one. -/
def Program.heldAcrossMark (p : Program) (i : Nat) : Bool :=
  let r := p.op i
  decide (r.kind = kAccFill) &&
  let taken := ((List.range p.ops.length).filter (i < ·)).find? fun j =>
    decide ((p.op j).kind = kMatmul) && (p.op j).keep && decide ((p.op j).slot = r.slot)
  (List.range p.phases).any fun ph => decide (r.phase ≤ ph) && p.markPhase ph && match taken with
    | some j => decide (ph < (p.op j).phase)
    | none => true

/-- R188 step 5. -/
def checkWhole (p : Program) (needsDebug : Bool) : Option LoadFail :=
  let ids := List.range p.ops.length
  let off (i : Nat) : Nat := p.opsOff + 128 * i
  let hasRead := p.ops.any fun (o : OpRec) => decide (OpRec.kind o = kAccRead)
  if needsDebug ≠ hasRead then some (loadCheck 0x0109 7)
  else
    let cyc := ids.find? p.chainCycle
    if let some i := cyc then some (loadCheck 0x0307 (off i))
    else
      let haz := ids.find? fun i => (List.range i).any fun j =>
        let a := p.op i
        let b := p.op j
        decide (a.phase = b.phase) &&
        (((p.writes b).any fun x => decide (x ∈ p.reads a ++ p.writes a)) ||
          ((p.writes a).any fun x => decide (x ∈ p.reads b)))
      if let some i := haz then some (loadCheck 0x0801 (off i))
      else
        (ids.find? p.heldAcrossMark).map fun i => loadCheck 0x0803 (off i)

/-- R188 steps 1 to 5. `img` holds the bytes of the image; it is empty past the end of what the header allows. -/
def checkProgram (img : List Byte) : Option LoadFail :=
  (checkHeader (img.take 64) img).or <| (checkDims img).or <|
    let p := readProgram img
    ((List.range p.bufs.length).findSome? (checkBuf p)).or <|
    ((List.range p.ops.length).findSome? fun i => (checkCritical p i).or (checkOp p i)).or <|
    checkWhole p (decide (numAt img 7 1 % 2 = 1))

end Sys2Proof.Machine
end

