-- ==== Sys2Proof/Machine/Groups.lean ====
section
/-!
DEFINITION. Scale groups of a program (R193) and the range of an offset (R195).
-/
namespace Sys2Proof.Machine

/-! ## Scale groups (R193) -/

/-- A managed operation: a MATMUL without ACC16. -/
def OpRec.managed (r : OpRec) : Bool := decide (r.kind = kMatmul) && !r.acc16

/-- The buffer plan entry that a managed operation writes, as R193 names it. -/
def Program.scaleEntry (p : Program) (r : OpRec) : Option Nat :=
  p.resolve (if r.outBuf = 0 then r.siftVal else r.outBuf) r.phase

/-- The array product whose slot an ACC_SPILL or a CHAIN continues. -/
def Program.productBefore (p : Program) (i : Nat) : Option Nat :=
  let r := p.op i
  ((List.range i).reverse).find? fun j =>
    let o := p.op j
    decide (o.kind = kMatmul) && o.claims.any fun c => decide (c.1 = r.slot)

/-- The buffers from which TRANSFER records bring contents to those of a list, with the list itself. -/
def Program.sourcesOf (p : Program) : Nat → List Nat → List Nat
  | 0, bs => bs
  | fuel + 1, bs =>
    let more := (p.ops.filter fun (o : OpRec) => decide (OpRec.kind o = kTransfer) && decide (OpRec.aux1 o ∈ bs)).map fun (o : OpRec) => OpRec.aux0 o
    p.sourcesOf fuel (bs ++ (more.filter fun b => b ∉ bs).eraseDups)

/-- The products that an ACC_FILL continues: those whose spill wrote what it reads, by way of TRANSFER records, since the two
name buffers of their own (R334). -/
def Program.spilledInto (p : Program) (j : Nat) : List Nat :=
  let f := p.op j
  let from' := p.sourcesOf p.bufs.length (p.resolve f.aBuf f.phase).toList
  ((List.range j).filter fun i =>
    let o := p.op i
    decide (o.kind = kAccSpill) && (p.resolve o.outBuf o.phase).any fun b => decide (b ∈ from')).filterMap p.productBefore

/-- Operations whose anchors R75, R86 or R122 ties to those of operation i. -/
def Program.tiedTo (p : Program) (i : Nat) : List Nat :=
  let r := p.op i
  (if r.keep then match p.fillerOf i with
    | some j => if (p.op j).kind = kAccFill then p.spilledInto j else [j]
    | none => []
  else []) ++ (if r.foldMode = 2 then (p.scatterDest r).toList else [])

/-- Managed operations i and j are in direct relation. -/
def Program.related (p : Program) (i j : Nat) : Bool :=
  let a := p.scaleEntry (p.op i)
  (a.isSome && decide (a = p.scaleEntry (p.op j))) || decide (j ∈ p.tiedTo i) || decide (i ∈ p.tiedTo j)

/-- One round of passing the lowest entry to related operations. -/
def Program.spread (p : Program) (ids : List Nat) (label : List (Nat × Nat)) : List (Nat × Nat) :=
  ids.map fun i => (i, ids.foldl (fun m j =>
    if i = j ∨ p.related i j then match label.find? fun e => e.1 = j with
      | some e => min m e.2
      | none => m
    else m) 65535)

/-- Group number of every managed operation. -/
def Program.scaleLabels (p : Program) : List (Nat × Nat) :=
  let ids := (List.range p.ops.length).filter fun i => (p.op i).managed
  ids.foldl (fun l _ => p.spread ids l) (ids.map fun i => (i, (p.scaleEntry (p.op i)).getD 65535))

/-- The group of an operation. -/
def Program.groupOf (p : Program) (i : Nat) : Option Nat := (p.scaleLabels.find? fun e => e.1 = i).map (·.2)

/-- The groups of a program in ascending order, and the operations of a group. -/
def Program.groups (p : Program) : List Nat :=
  let l := p.scaleLabels
  (List.range (p.bufs.length)).filter fun g => l.any fun e => decide (e.2 = g)
def Program.groupOps (p : Program) (g : Nat) : List Nat := (p.scaleLabels.filter fun e => e.2 = g).map (·.1)

/-! ## The range of an offset (R195) -/

/-- The shifts of an operation over its planned columns. -/
def Program.shifts (p : Program) (r : OpRec) : List Int :=
  if r.column then (List.range (p.pN r)).map fun n => ((bitsAt (p.multWord r n) 32 8 : Nat) : Int) else [(r.sh : Int)]

def minOf : List Int → Int
  | [] => 0
  | x :: xs => xs.foldl min x
def maxOf : List Int → Int
  | [] => 0
  | x :: xs => xs.foldl max x

/-- δ_min and δ_max of a group. -/
def Program.deltaRange (p : Program) (g : Nat) : Int × Int :=
  let ops := p.groupOps g
  let sh := ops.flatMap fun i => p.shifts (p.op i)
  let an := ops.flatMap fun i => p.anchorList (p.op i)
  (max (maxOf sh - 47) (-512 - minOf an), min (minOf sh) (511 - maxOf an))

def clampIn (r : Int × Int) (x : Int) : Int := min (max x r.1) r.2

end Sys2Proof.Machine
end

