-- ==== Sys2Proof/Machine/Binding.lean ====
section
/-!
DEFINITION. Work descriptors (R209, R210), and the binding of a checked program to one partition (R172, R175 to R184, R194, R200, R215 to R217,
R334): logical grids, splits, parts, shares of buffers, rows on the cores, HBM placement, undo, checkpoint and scale-record
areas.
-/
namespace Sys2Proof.Machine

/-! ## Grids (R176, R178) -/

/-- Row pairs in the order R176 tries them. -/
def rowPairs : List (Nat × Nat) :=
  ((List.range 34).reverse).flatMap fun r2 => ((List.range r2).reverse).map fun r1 => (r1, r2)

/-- Columns that keep no faulty core when two rows are dropped. -/
def gridCols (bad : List Nat) (r1 r2 : Nat) : List Nat :=
  (List.range 32).filter fun c => bad.all fun b => decide (b % 32 ≠ c) || decide (b / 32 = r1) || decide (b / 32 = r2)

/-- R176: the first pair that keeps the most columns. -/
def bestPair (bad : List Nat) : Nat × Nat :=
  (rowPairs.foldl (fun (best : Nat × Nat × Option Nat) pr =>
    let n := (gridCols bad pr.1 pr.2).length
    match best.2.2 with
    | none => (pr.1, pr.2, some n)
    | some m => if m < n then (pr.1, pr.2, some n) else best) (32, 33, none)) |> fun b => (b.1, b.2.1)

def hearthGrid (h : Nat) (bad : List Nat) : Grid :=
  let (r1, r2) := bestPair bad
  ⟨h, (List.range 34).filter fun r => decide (r ≠ r1) && decide (r ≠ r2), gridCols bad r1 r2⟩

/-- U of R178. -/
def gridCores (gs : List Grid) : Nat := 32 * (gs.map fun g => g.cols.length).sum

/-- R178: the physical core of a core index, as a core key. -/
def coreOfIndex : List Grid → Nat → Option Nat
  | [], _ => none
  | g :: gs, q =>
    let n := 32 * g.cols.length
    if q < n then some (coreKey g.hearth (32 * g.rows.getD (q % 32) 0 + g.cols.getD (q / 32) 0))
    else coreOfIndex gs (q - n)

/-- R178: the core index of a physical core. -/
def indexOfCore : List Grid → Nat → Option Nat
  | [], _ => none
  | g :: gs, k =>
    if k / 1088 = g.hearth then
      let row := k % 1088 / 32
      let col := k % 32
      match g.rows.findIdx? (· = row), g.cols.findIdx? (· = col) with
      | some y, some x => some (32 * x + y)
      | _, _ => none
    else (indexOfCore gs k).map fun q => 32 * g.cols.length + q

/-! ## Splits (R179 to R181, R184) -/

/-- The key of R179, compared in order. -/
def splitKey (tm tn r c : Nat) : List Nat :=
  [ceilDiv tm r * ceilDiv tn c, r * c, (if r.log2 < 5 then 5 - r.log2 else r.log2 - 5), r]

def lexLt : List Nat → List Nat → Bool
  | a :: as, b :: bs => decide (a < b) || (decide (a = b) && lexLt as bs)
  | _, _ => false

/-- R179: parts along M and N. -/
def chooseSplit (tm tn u : Nat) : Nat × Nat :=
  let cands := ((List.range 17).map (2 ^ ·)).filter fun r => decide (r ≤ min tm u)
  cands.foldl (fun (best : Nat × Nat) r =>
    let c := min tn (u / r)
    if lexLt (splitKey tm tn r c) (splitKey tm tn best.1 best.2) then (r, c) else best) (1, min tn u)

/-- R181: parts along K. -/
def kParts (r : OpRec) (tk u rc : Nat) : Nat :=
  if r.kind = kMatmul ∧ r.etMode = 0 ∧ ¬r.keep ∧ r.foldMode ≤ 1 then max 1 (min r.ksplitMax (min (u / rc) tk)) else 1

def noSplit : Split := ⟨0, 0, 0, 1, 0, 0, 0⟩

/-- A part of n: tiles ⌊idx t / n⌋ to ⌊(idx + 1) t / n⌋ − 1 (R180). -/
def partRange (idx n t : Nat) : Nat × Nat := (idx * t / n, (idx + 1) * t / n)

/-- N-tiles of N-part j. -/
def Program.nRange (p : Program) (r : OpRec) (s : Split) (j : Nat) : Nat × Nat :=
  let (a, b) := partRange j s.c s.tn
  (min (a * s.unit) (p.tN r), min (b * s.unit) (p.tN r))

/-- The split of one operation, given those of the operations before it; R184 overrides under FUSE. -/
def splitOne (p : Program) (before : List Split) (i u : Nat) : Except LoadFail Split :=
  let r := p.op i
  let off := p.opsOff + 128 * i
  let bad : Except LoadFail Split := .error (loadCheck 0x0903 off)
  if !r.hasSplit then .ok noSplit
  else
    let tm := p.tM r
    let tk := p.tK r
    let tn := ceilDiv (p.tN r) r.unitTiles
    if r.kind = kMatmul ∧ r.fuse ≠ 0 then
      match p.resolve r.aBuf r.phase with
      | none => bad
      | some b =>
        let o := (p.buf b).owner
        let pr := p.op o
        let ps := before.getD o noSplit
        if i ≤ o ∨ pr.mBlock ≠ r.mBlock ∨ p.pM pr ≠ p.pM r then bad
        else if r.keep ∧ (tm * p.tN r ≠ 1 ∨ 1 < ps.r) then bad
        else if r.fuse = 1 then
          if ps.c ≠ 1 then bad else .ok ⟨tm, tn, tk, r.unitTiles, ps.r, 1, 1⟩
        else if r.ksplitMax < ps.c ∨ 32 < ps.c ∨ (1 < ps.c ∧ (r.etMode ≠ 0 ∨ r.keep ∨ 1 < r.foldMode)) then bad
        else
          let s : Split := ⟨tm, tn, tk, r.unitTiles, ps.r, 1, ps.c⟩
          let same := (List.range ps.c).all fun k =>
            let (a, e) := partRange k ps.c tk
            let (na, ne) := p.nRange pr ps k
            decide (a * r.kTile = na * pr.nPass) &&
              decide (min (e * r.kTile) (p.pK r) = min (ne * pr.nPass) (p.pN pr))
          if same then .ok s else bad
    else
      let (rr, c) := chooseSplit tm tn u
      .ok ⟨tm, tn, tk, r.unitTiles, rr, c, kParts r tk u (rr * c)⟩

/-- The splits of all operations in record order. -/
def splitsFrom (p : Program) (u : Nat) : List Nat → List Split → Except LoadFail (List Split)
  | [], acc => .ok acc
  | i :: is, acc =>
    match splitOne p acc i u with
    | .error e => .error e
    | .ok s => splitsFrom p u is (acc ++ [s])

/-- The split that an operation runs with: its own, or that of its MATMUL or buffer owner (R179, R334). -/
def Program.splitFor (p : Program) (ss : List Split) (i : Nat) : Split :=
  match p.splitOf i with
  | some j => ss.getD j noSplit
  | none => noSplit

/-- R180: the part that a core index runs. -/
def Split.part (s : Split) (q : Nat) : Option (Nat × Nat × Nat) :=
  if q < s.r * s.c * s.s then some (q % s.r, q / s.r % s.c, q / (s.r * s.c)) else none

def Split.index (s : Split) (i j k : Nat) : Nat := k * s.r * s.c + j * s.r + i

/-! ## Shares (R172, R177, R334) -/

/-- How the elements of a share lie in its bytes. -/
inductive ShareForm where
  /-- Row-major over the share. -/
  | linear
  /-- Weight tiles (R19, R108): N_pass, K-tiles of the part, bw′, bits of a tile. -/
  | weights (nPass nk bw tile : Nat)
  /-- Exponents of weight tiles (R42): N_pass, K-tiles of the part, K-blocks per tile. -/
  | wexps (nPass nk kb : Nat)
  /-- Sheets (R115): bits of a slot and sheets of a vector in the part. -/
  | sheets
  deriving DecidableEq, Repr

/-- The share of a buffer on one core: outer and inner ranges in the planned shape. -/
structure Share where
  core : Nat
  o0 : Nat
  o1 : Nat
  i0 : Nat
  i1 : Nat
  ghost : Nat
  bits : Nat
  bytes : Nat
  form : ShareForm
  deriving DecidableEq, Repr

/-- Bit offset of an element of a share by row of the share (ghost rows count) and inner coordinate. -/
def Share.rowBit (s : Share) (row inner : Nat) : Nat := (row * (s.i1 - s.i0) + (inner - s.i0)) * s.bits

/-- Bit offset of an element in the bytes of a share. -/
def Share.bitOf (s : Share) (outer inner : Nat) : Nat :=
  match s.form with
  | .linear => s.rowBit (outer - s.o0 + s.ghost) inner
  | .sheets => s.rowBit (outer - s.o0) inner
  | .weights np nk bw tile =>
    let t := (outer / np - s.o0 / np) * nk + (inner / 64 - s.i0 / 64)
    tile * t + 512 * (inner % 64) + outer % np * bw
  | .wexps np nk kb =>
    let t := (outer / np - s.o0 / np) * nk + (inner / kb - s.i0 / kb)
    8 * (t * (kb * np) + outer % np * kb + inner % kb)

/-- Whether an operation is the owner that writes the buffer as sheets or as a form map (R115). -/
def Program.isForm (p : Program) (o : OpRec) (b : Nat) : Bool :=
  decide (o.sheetGroups ≠ 0) && decide (p.resolve o.formMap o.phase = some b)
def Program.isPayload (p : Program) (o : OpRec) (b : Nat) : Bool :=
  decide (o.sheetGroups ≠ 0) && decide (p.resolve o.outBuf o.phase = some b)

/-- The operations that name a buffer with a handle (R172 REPLICATE). -/
def Program.namers (p : Program) (b : Nat) : List Nat :=
  (List.range p.ops.length).filter fun i =>
    let r := p.op i
    (rolesOf r).any fun x => decide (p.resolve x.handle r.phase = some b)

/-- Core indices that hold a buffer. -/
def Program.holders (p : Program) (ss : List Split) (b : Nat) : List Nat :=
  let r := p.buf b
  let s := ss.getD r.owner noSplit
  let own := List.range (s.r * s.c * s.s)
  if r.cls ≠ clsScratch then []
  else if r.dist = distSingle then [0]
  else if r.dist = distReplicate then
    let ns := (p.namers b).map fun i => let t := p.splitFor ss i; t.r * t.c * t.s
    List.range (ns.foldl max own.length)
  else own

/-- Part q of the owner's split writes its copy of an OUT_PART buffer: of several K-parts the lowest alone (R121), and of a
sift buffer the first N-part (R82, R123). A copy that nothing writes is no source of a TRANSFER (log 23). -/
def Program.copyWritten (p : Program) (ss : List Split) (b q : Nat) : Bool :=
  let br := p.buf b
  let o := p.op br.owner
  decide (br.dist ≠ distOut) || (p.accUser b).isSome || match (ss.getD br.owner noSplit).part q with
    | some (_, j, k) => decide (k = 0) && (decide (j = 0) || decide (br.dimInner = o.dimN) || p.isForm o b || p.isPayload o b)
    | none => true

/-- R172: the share of buffer b on core index q. -/
def Program.share (p : Program) (ss : List Split) (gs : List Grid) (b q : Nat) : Option Share :=
  let br := p.buf b
  let o := p.op br.owner
  let s := ss.getD br.owner noSplit
  if q ∉ p.holders ss b then none
  else
    (coreOfIndex gs q).map fun core =>
    let whole : Share :=
      let i1 := p.innerCount br
      ⟨core, 0, p.dim br.dimOuter, 0, i1, 0, br.bits, p.bufBytes br, .linear⟩
    match p.accUser b with
    | some a => ⟨core, 0, 1, 0, a.regionBytes, 0, 8, a.regionBytes, .linear⟩
    | none =>
      match s.part q with
      | none => whole
      | some (i, j, k) =>
        if br.dist = distSingle ∨ br.dist = distReplicate then whole
        else
          let (b0, b1) := partRange i s.r s.tm
          let sc := if o.kind = kPool ∧ br.dimOuter = o.dimK ∧ o.dimK ≠ o.dimM then o.aux0 else 1
          let dimO := p.dim br.dimOuter
          let o0 := min (b0 * o.mBlock * sc) dimO
          let o1 := min (b1 * o.mBlock * sc) dimO
          let (n0, n1) := p.nRange o s j
          let (k0, k1) := partRange k s.s s.tk
          let blk (x : Nat) : Nat := if br.expRegion then x / 32 else x
          let blkUp (x : Nat) : Nat := if br.expRegion then ceilDiv x 32 else x
          if br.dist = distW then
            let kt := k1 - k0
            let pn := p.dim br.dimOuter
            if br.expRegion then
              ⟨core, n0 * o.nPass, min (n1 * o.nPass) pn, k0 * o.kBlocks, min (k1 * o.kBlocks) (p.innerCount br), 0, 8,
                (n1 - n0) * kt * (o.kBlocks * o.nPass), .wexps o.nPass kt o.kBlocks⟩
            else
              ⟨core, n0 * o.nPass, min (n1 * o.nPass) pn, k0 * 64, min (k1 * 64) (p.innerCount br), 0, o.bw,
                (n1 - n0) * kt * (o.tileBits / 8), .weights o.nPass kt o.bw o.tileBits⟩
          else if br.dist = distA then
            let i0 := blk (min (k0 * o.kTile) (p.pK o))
            let i1 := blkUp (min (k1 * o.kTile) (p.pK o))
            ⟨core, o0, o1, i0, i1, 0, br.bits, ceilDiv ((o1 - o0) * (i1 - i0) * br.bits) 8, .linear⟩
          else if p.isPayload o b then
            let sw := 64 * o.sheetGroups
            let i0 := n0 * o.nPass / sw * sw
            let i1 := ceilDiv (min (n1 * o.nPass) (p.pN o)) sw * sw
            ⟨core, o0, o1, i0, i1, 0, br.bits, ceilDiv ((o1 - o0) * (i1 - i0) * br.bits) 8, .sheets⟩
          else if p.isForm o b then
            let sw := 64 * o.sheetGroups
            let i0 := n0 * o.nPass / sw * o.sheetGroups
            let i1 := ceilDiv (min (n1 * o.nPass) (p.pN o)) sw * o.sheetGroups
            ⟨core, o0, o1, i0, i1, 0, 2, ceilDiv ((o1 - o0) * (i1 - i0) * 2) 8, .sheets⟩
          else
            let byN := decide (br.dimInner = o.dimN)
            let i0 := if byN then blk (min (n0 * o.nPass) (p.pN o)) else 0
            let i1 := if byN then blkUp (min (n1 * o.nPass) (p.pN o)) else p.innerCount br
            ⟨core, o0, o1, i0, i1, br.ghost, br.bits,
              ceilDiv ((o1 - o0 + 2 * br.ghost) * (i1 - i0) * br.bits) 8, .linear⟩

/-! ## Rows on the cores (R177) -/

/-- A buffer placed on a core: buffer index, first row, rows per bank. -/
structure Placed where
  buf : Nat
  base : Nat
  rows : Nat
  deriving DecidableEq, Repr

/-- The first phase in which a buffer holds its rows. Contents that the bind forms, those of a FROM_IMAGE buffer and the
select rows of SPARSE24 tiles, are held from the bind on (Table 8-6, R108; log 30). -/
def Program.heldFrom (p : Program) (b : Nat) : Nat :=
  if (p.buf b).fromImage ∨ (p.sparseUser b).isSome then 0 else (p.buf b).first

/-- Two buffers may not share rows (R177). -/
def Program.meet (p : Program) (a b : Nat) : Bool :=
  let x := p.buf a
  let y := p.buf b
  decide (p.heldFrom a ≤ y.last) && decide (p.heldFrom b ≤ x.last) && decide ((x.lbanks &&& y.lbanks) ≠ 0)

/-- First fit in ascending row. -/
def firstFit (p : Program) (placed : List Placed) (b rows : Nat) : Nat :=
  let foes := placed.filter fun e => p.meet e.buf b
  let cands := 0 :: foes.map fun e => e.base + e.rows
  let ok := cands.filter fun c => foes.all fun e => decide (e.base + e.rows ≤ c) || decide (c + rows ≤ e.base)
  ok.foldl min (foes.foldl (fun a e => max a (e.base + e.rows)) 0)

/-- Place every SCRATCH buffer of core index q; the buffer that does not fit on failure. -/
def placeCore (p : Program) (ss : List Split) (gs : List Grid) (q : Nat) : List Nat → List Placed → Except Nat (List Placed)
  | [], acc => .ok acc
  | b :: bs, acc =>
    match p.share ss gs b q with
    | none => placeCore p ss gs q bs acc
    | some sh =>
      let rows := max 1 (ceilDiv sh.bytes (64 * popCount 16 (p.buf b).lbanks))
      let base := firstFit p acc b rows
      if 3584 < base + rows then .error b else placeCore p ss gs q bs (acc ++ [⟨b, base, rows⟩])

/-- R177: physical banks of logical ones on a core with marked banks. -/
def bankMapOf (used : Nat) (marked : List Nat) : List Nat :=
  let u := (List.range 16).filter fun l => used / 2 ^ l % 2 = 1
  let rest := (List.range 16).filter fun l => used / 2 ^ l % 2 ≠ 1
  let good := (List.range 16).filter fun b => b ∉ marked
  let taken := good.take u.length
  let others := (List.range 16).filter fun b => b ∉ taken
  (List.range 16).map fun l =>
    match u.findIdx? (· = l) with
    | some i => taken.getD i 0
    | none => match rest.findIdx? (· = l) with
      | some i => others.getD i 0
      | none => 0

/-- The physical mask of a logical one. -/
def mapMask (bm : List Nat) (mask : Nat) : Nat :=
  ((List.range 16).map fun l => if mask / 2 ^ l % 2 = 1 then 2 ^ bm.getD l 0 else 0).sum

/-- The logical banks that a program uses. -/
def Program.usedBanks (p : Program) : Nat :=
  p.bufs.foldl (fun a (b : BufRec) => if BufRec.cls b = clsScratch then a ||| BufRec.lbanks b else a) 0

/-- Rows of every SCRATCH buffer on every core: per core the list of placed buffers. -/
def placeAll (p : Program) (ss : List Split) (gs : List Grid) (qs : List Nat) : Except Nat (List (Nat × List Placed)) :=
  match qs with
  | [] => .ok []
  | q :: rest =>
    match placeCore p ss gs q (List.range p.bufs.length) [], placeAll p ss gs rest with
    | .error b, _ => .error b
    | .ok _, .error b => .error b
    | .ok l, .ok t => .ok ((q, l) :: t)

/-! ## HBM (R152, R153, R183, R215 to R218; log 17) -/

def pageBytes : Nat := 4096
def pagesOf (n : Nat) : Nat := ceilDiv n pageBytes
/-- The staging area begins here (Table 13-2): buffers lie below. -/
def stagingBase : Nat := 40000000000

/-- A buffer that some operation writes. -/
def Program.isWritten (p : Program) (b : Nat) : Bool := p.ops.any fun o => decide (b ∈ p.writes o)

/-- R215: carried HBM data. -/
def Program.carriedHbm (p : Program) (b : Nat) : Bool :=
  let r := p.buf b
  r.inHbm && (!r.fromImage || p.isWritten b)

/-- R215: carried scratchpad data: the lifetime spans a commit mark. -/
def Program.carriedScratch (p : Program) (b : Nat) : Bool :=
  let r := p.buf b
  decide (r.cls = clsScratch) && (!r.fromImage || p.isWritten b) &&
    (List.range p.phases).any fun ph => decide (r.first ≤ ph) && decide (ph < r.last) && p.markPhase ph

/-- The intervals between commit marks: first and last phase. -/
def Program.intervals (p : Program) : List (Nat × Nat) :=
  ((List.range p.phases).filter p.markPhase).foldl
    (fun (acc : List (Nat × Nat) × Nat) m => (acc.1 ++ [(acc.2, m)], m + 1)) ([], 0) |>.1

/-- The payload of a buffer in HBM: a sheeted one also carries its form map directly behind (log 18). -/
def Program.hbmBytes (p : Program) (b : Nat) : Nat :=
  let r := p.buf b
  let o := (p.ops.find? fun (o : OpRec) => decide (OpRec.kind o = kTransfer) && decide (OpRec.aux1 o = b) &&
    decide (OpRec.aux2 o % 2 = 1)).bind fun (o : OpRec) => p.ops.find? fun (m : OpRec) => p.isPayload m (OpRec.aux0 o)
  match o with
  | some m => p.dim r.dimOuter * p.sheetsPerVector m * (OpRec.sheetSlot m + OpRec.sheetGroups m / 4)
  | none => p.bufBytes r

/-- R216, R217: pages of the undo area. -/
def Program.undoPages (p : Program) (training : Bool) : Nat :=
  let pagesIn (f : OpRec → Bool) : Nat :=
    ((List.range p.bufs.length).map fun b =>
      if p.carriedHbm b && p.ops.any (fun o => f o && decide (b ∈ p.writes o)) then pagesOf (p.hbmBytes b) else 0).sum
  if training then pagesIn fun _ => true
  else (p.intervals.map fun iv => pagesIn fun o => decide (iv.1 ≤ OpRec.phase o) && decide (OpRec.phase o ≤ iv.2)).foldl max 0

/-- R200: bytes of the scale records of a program's groups, each with its header and its complement (R220). -/
def Program.scaleBytes (p : Program) : Nat := 64 * recUnits 40 * p.groups.length

/-- What a stack has handed out: bytes from its lower or upper end (log 17). -/
structure StackUse where
  stack : Nat
  used : Nat
  deriving DecidableEq, Repr

/-- Stacks below their partner fill from offset 0 up, the others from the staging area down, so that a mirror copy
meets the partner's own buffers only when the capacity of the two is exceeded (R153, log 17). -/
def stackAddr (stack used bytes : Nat) : Nat :=
  2 ^ 36 * stack + (if stack < stack ^^^ 10 then used else stagingBase - used - pagesOf bytes * pageBytes)

/-- Bytes handed out of a stack. -/
def usedOf (us : List StackUse) (st : Nat) : Nat := ((us.filter fun u => u.stack = st).map (·.used)).sum

/-- The first stack with room, where `taken` names the bytes of a stack that mirror copies take. -/
def allocHbm (taken : Nat → Nat) (us : List StackUse) (bytes : Nat) : Option (Nat × List StackUse) :=
  match us with
  | [] => none
  | u :: rest =>
    let need := pagesOf bytes * pageBytes
    if u.used + need + taken u.stack ≤ stagingBase then
      some (stackAddr u.stack u.used bytes, { u with used := u.used + need } :: rest)
    else (allocHbm taken rest bytes).map fun (a, l) => (a, u :: l)

/-- Place a list of areas: tag, bytes and the program offset to report when it does not fit. -/
def allocAll (reserved : Nat → Nat) (mirror : Bool) :
    List (Nat × Nat × Nat) → List StackUse → Except LoadFail (List (Nat × Nat))
  | [], _ => .ok []
  | (tag, bytes, off) :: rest, us =>
    match allocHbm (fun st => reserved st + if mirror then usedOf us (st ^^^ 10) else 0) us bytes with
    | none => .error (loadCheck 0x0901 off)
    | some (a, us') =>
      match allocAll reserved mirror rest us' with
      | .error e => .error e
      | .ok l => .ok ((tag, a) :: l)

/-! ## The binding -/

/-- The inputs of a binding (R175). -/
structure BindIn where
  hearths : List Nat
  /-- Faulty cores and marked banks (16 × core + bank) of a hearth. -/
  faulty : List (Nat × List Nat)
  marked : List (Nat × List Nat)
  stackIds : List Nat
  mirror : Bool
  training : Bool
  /-- Bytes that other partitions hold in the partner of a stack, where one of the two mirrors. -/
  reserved : List (Nat × Nat)
  deriving DecidableEq, Repr

def assocList {α : Type} (l : List (Nat × List α)) (k : Nat) : List α :=
  match l.find? fun e => e.1 = k with
  | some e => e.2
  | none => []

/-- Cores that this bind treats as faulty (R176). -/
def badCores (p : Program) (b : BindIn) (h : Nat) : List Nat :=
  let used := popCount 16 p.usedBanks
  let mk := assocList b.marked h
  let full := ((mk.map (· / 16)).eraseDups).filter fun c => decide (16 < used + (mk.filter fun x => x / 16 = c).length)
  assocList b.faulty h ++ full

/-- R175 to R184: the binding of a checked program, or the failure of its bind. -/
def bindProgram (p : Program) (inp : BindIn) : Except LoadFail Binding :=
  let gs := (inp.hearths.map fun h => hearthGrid h (badCores p inp h)).filter fun g => !g.cols.isEmpty
  if gs.isEmpty then .error (loadCheck 0x0902 0)
  else
    let u := gridCores gs
    match splitsFrom p u (List.range p.ops.length) [] with
    | .error e => .error e
    | .ok ss =>
      let nb := List.range p.bufs.length
      let qmax := (nb.flatMap fun b => p.holders ss b).foldl (fun a q => max a (q + 1)) 0
      match placeAll p ss gs (List.range qmax) with
      | .error b => .error (loadCheck 0x0901 (p.bufsOff + 32 * b))
      | .ok cores =>
        let areas := (nb.filter fun b => (p.buf b).inHbm).map (fun b => (b, p.hbmBytes b, p.bufsOff + 32 * b))
        let cks := (nb.filter p.carriedScratch).map fun b => (65536 + b, p.bufBytes (p.buf b), p.bufsOff + 32 * b)
        let up := p.undoPages inp.training
        let und := if up = 0 then [] else [(131072, up * pageBytes,
          ((nb.find? p.carriedHbm).map fun b => p.bufsOff + 32 * b).getD 0)]
        let scl := if p.scaleBytes = 0 then [] else [(196608, p.scaleBytes, 0)]
        match allocAll (fun st => ((inp.reserved.filter fun e => e.1 = st).map (·.2)).sum) inp.mirror (areas ++ cks ++ und ++ scl)
            (inp.stackIds.map fun st => ⟨st, 0⟩) with
        | .error e => .error e
        | .ok addrs =>
          let addr (tag : Nat) : Nat := ((addrs.find? fun a => a.1 = tag).map (·.2)).getD 0
          let places := nb.map fun b =>
            let rows := cores.filterMap fun (q, l) =>
              match l.find? fun e => e.buf = b, coreOfIndex gs q with
              | some e, some k =>
                let mk := ((assocList inp.marked (k / 1088)).filter fun x => x / 16 = k % 1088).map (· % 16)
                some (⟨k, e.base, e.rows, mapMask (bankMapOf p.usedBanks mk) (p.buf b).lbanks⟩ : CoreRows)
              | _, _ => none
            (⟨addr b, rows⟩ : Placement)
          .ok {
            ctx := 0
            image := 0
            training := inp.training
            generation := 0
            prog := p
            grids := gs
            splits := ss
            places := places
            ckpt := (nb.filter p.carriedScratch).map fun b => (b, addr (65536 + b))
            saved := []
            undoBase := addr 131072
            undoPages := up
            scaleBase := addr 196608
            scaleBytes := p.scaleBytes
            deltas := []
            undo := []
            extents := []
            seed := 0
            train := false
            ioAddr := []
            stats := []
            tokens := []
            issued := []
            edges := []
            modes := []
            spareCores := gs.flatMap fun g => (List.range 1088).filterMap fun c =>
              if c ∈ assocList inp.faulty g.hearth ∨ (indexOfCore gs (coreKey g.hearth c)).isSome then none
              else some (coreKey g.hearth c)
            raiseBelow := 0
            doldrumsRun := 0 }

/-! ## Reading a binding -/

def Binding.split (b : Binding) (i : Nat) : Split := b.prog.splitFor b.splits i
def Binding.index (b : Binding) (k : Nat) : Option Nat := indexOfCore b.grids k
def Binding.coreAt (b : Binding) (q : Nat) : Option Nat := coreOfIndex b.grids q
/-- The part of operation i that core k runs. -/
def Binding.part (b : Binding) (i k : Nat) : Option (Nat × Nat × Nat) :=
  (b.index k).bind fun q => (b.split i).part q
/-- Core of a part. -/
def Binding.partCore (b : Binding) (op i j k : Nat) : Option Nat := b.coreAt ((b.split op).index i j k)
/-- Cores an operation runs on. -/
def Binding.coresOf (b : Binding) (op : Nat) : List Nat :=
  let s := b.split op
  (List.range (s.r * s.c * s.s)).filterMap b.coreAt
def Binding.shareAt (b : Binding) (buf k : Nat) : Option Share :=
  (b.index k).bind fun q => b.prog.share b.splits b.grids buf q
/-- The extent of a dimension (R166). -/
def Binding.ext (b : Binding) (d : Nat) : Nat := b.extents.getD d (b.prog.dim d)
def Binding.eM (b : Binding) (r : OpRec) : Nat := b.ext r.dimM
def Binding.eN (b : Binding) (r : OpRec) : Nat := b.ext r.dimN
def Binding.eK (b : Binding) (r : OpRec) : Nat := b.ext r.dimK
def Binding.hearths (b : Binding) : List Nat := b.grids.map (·.hearth)

/-- R166: extents of all dimensions from those of the variable ones, in ascending dimension index. -/
def extentsFrom (p : Program) (vals : List Nat) : List Nat :=
  ((List.range p.planned.length).foldl (fun (acc : List Nat × List Nat) d =>
    if p.varDims.getD d false then (acc.1 ++ [acc.2.headD (p.dim d)], acc.2.drop 1) else (acc.1 ++ [p.dim d], acc.2))
    ([], vals)).1

/-! ## The bound constants (R194) -/

/-- The offset that the bound constants of an operation carry: that of its group. -/
def Binding.deltaOf (b : Binding) (i : Nat) : Int :=
  if b.deltas.isEmpty then 0
  else match b.prog.groupOf i with
  | some g => tget 0 b.deltas g
  | none => 0

/-- The bound anchor of a column of operation i. -/
def Binding.anchor (b : Binding) (i n : Nat) : Int := anchorVal (b.prog.anchorWord (b.prog.op i) n) + b.deltaOf i
/-- The bound shift of operation i, from that of the image. -/
def Binding.shift (b : Binding) (i sh : Nat) : Nat := ((sh : Int) - b.deltaOf i).toNat

/-! ## Work descriptors and argument blocks (Table 10-3, R210) -/

abbrev Desc := BitVec 512
def Desc.seq (d : Desc) : Nat := fld d 0 32
def Desc.seqC (d : Desc) : Nat := fld d 32 32
def Desc.program (d : Desc) : Nat := fld d 64 64
def Desc.programC (d : Desc) : Nat := fld d 128 64
def Desc.image (d : Desc) : Nat := fld d 192 64
def Desc.seed (d : Desc) : Nat := fld d 256 64
def Desc.deadline (d : Desc) : Nat := fld d 320 64
def Desc.argsAddr (d : Desc) : Nat := fld d 384 64
def Desc.train (d : Desc) : Bool := d.getLsbD 448
def Desc.noIrq (d : Desc) : Bool := d.getLsbD 449
def Desc.rsvd (d : Desc) : Nat := fld d 450 62

abbrev Args := BitVec 1536
def Args.extent (a : Args) (i : Nat) : Nat := fld a (32 * i) 32
def Args.ioAddr (a : Args) (i : Nat) : Nat := fld a (256 + 64 * i) 64
def Args.rsvd (a : Args) : Nat := fld a 1280 256

def Item.train (i : Item) : Bool := Desc.train i.desc
def Item.deadline (i : Item) : Nat := Desc.deadline i.desc

end Sys2Proof.Machine
end

