-- ==== Sys2Proof/Machine/Memory.lean ====
section
/-!
DEFINITION. Banks, handles and the scrubber (R127 to R146): SCRUB_READ, BANK_REPAIR, HANDLE_WRITE, LULL_REQUEST,
AUTO_LULL, OFF_REQUEST, CLOSING_COMPLETE, LULL_WAKE, ON_REQUEST, BANK_RETURN.
-/
namespace Sys2Proof.Machine

/-! ## Handles -/

/-- A value word with an epoch and its complement (R131, Table 7-1): RsvdZ bits are 0. -/
def Handle.stamp (value : W64) (epoch : Nat) : Handle :=
  let low : W64 := BitVec.ofNat 64 (value.toNat % 2 ^ 52) &&& 0xFFFFFFFFFFFFFFF3
  let v := low ||| BitVec.ofNat 64 (2 ^ 52 * (epoch % 256))
  ⟨v, ~~~v⟩

/-- The entry with VALID = 0 and its complement. -/
def Handle.invalidate (h : Handle) : Handle :=
  let v := h.value &&& ~~~(1 : W64)
  ⟨v, ~~~v⟩

/-- R131: what refuses a handle write. -/
def handleRefused (entry : Nat) (value comp : W64) : Option Nat :=
  let h : Handle := ⟨value, comp⟩
  if !h.pairOk then some cComplement
  else if h.valid ∧ (h.bankMask = 0 ∨ 3583 < h.rowBase + (h.rowCount - 1) ∨ entry = 0) then some cHandleInvalid
  else none

/-- The effect of an accepted handle write. -/
def State.writeHandle (s : State) (k entry : Nat) (value : W64) : State :=
  s.setCore k ((s.core k).setHandle entry (Handle.stamp value (s.core k).epoch))

/-- HANDLE_WRITE (R131, Table 11-6 row 3). -/
def execHandleWrite (c : CoreId) (entry : Fin 64) (value comp : W64) (s : State) : Result :=
  let k := idKey c
  if !s.coreRuns k then s.stay "R130"
  else match handleRefused entry.val value comp with
    | some code =>
      -- the address of an entry is its number (VALUE); HANDLE_INVALID names the operation that the core is about to issue
      .next (s.report (if code = cComplement then { plainReport code (unitCore k) .value entry.val with d0 := 3 }
        else { plainReport code (unitCore k) .operation (s.core k).next with d0 := entry.val }))
    | none => .next (s.writeHandle k entry.val value)

/-! ## Returning banks (R133, R146) -/

/-- R133: what a return does to one entry with VALID = 1. -/
def restamp (old new : Nat) (banks : Nat) (coreItself : Bool) (h : Handle) : Handle :=
  if !h.valid then h
  else if h.epoch = new then h.invalidate
  else if !coreItself ∧ h.epoch = old ∧ (h.bankMask &&& banks) = 0 then Handle.stamp h.value new
  else h

/-- Every word of a bank is poisoned until it is written. -/
def State.poisonBank (s : State) (k b : Nat) : State :=
  { s with scratch := s.scratch.filter fun e => decide (e.1 / 28672 ≠ 16 * k + b) }

/-- R133, R146: banks of a core return from off or from repair. -/
def State.bankReturn (s : State) (k : Nat) (banks : List Nat) (coreItself : Bool) : State :=
  let c := s.core k
  let new := (c.epoch + 1) % 256
  let mask := (banks.map (2 ^ ·)).sum
  let c := { c with
    epoch := new
    handles := (c.handles.map fun e => (e.1, restamp c.epoch new mask coreItself e.2)) }
  let c := banks.foldl (fun c b => c.setBank b { c.bank b with power := .awake, queue := [], returning := false }) c
  let c := if coreItself then { c with power := .on, closing := false, returning := false } else c
  banks.foldl (fun s b => s.poisonBank k b) (s.setCore k c)

/-- What Leaven keeps of a bank whose power goes: its scrub counts and the rows that spare rows stand for (R141, R159). -/
def Bank.kept (b : Bank) : Bank := { Bank.reset with ceCount := b.ceCount, failing := b.failing, spares := b.spares }

/-- A core with all its banks after a return (R133, R146): its epoch rises, entries are judged, nothing else is kept but the
scrub counts. -/
def Core.returned (c : Core) : Core :=
  let new := (c.epoch + 1) % 256
  { Core.reset with
    epoch := new
    handles := c.handles.map fun e => (e.1, restamp c.epoch new 0xFFFF true e.2)
    banks := (c.banks.map fun e => (e.1, e.2.kept)).filter fun e => decide (e.2 ≠ Bank.reset) }

/-! ## Scrubber (R140, R141) -/

/-- A resident binding places a buffer in the bank. -/
def State.bankUsed (s : State) (k b : Nat) : Bool :=
  (List.range 16).any fun p => match (s.part p).binding with
    | none => false
    | some bd => bd.places.any fun pl => pl.rows.any fun r => decide (r.core = k) && decide (r.banks / 2 ^ b % 2 = 1)

/-- A resident binding places a part on the core. -/
def State.coreUsed (s : State) (k : Nat) : Bool :=
  (List.range 16).any fun p => match (s.part p).binding with
    | none => false
    | some bd => (bd.index k).any fun q =>
        (List.range bd.prog.ops.length).any fun i => let t := bd.split i; decide (q < t.r * t.c * t.s)

/-- A scrub pass of a bank begins at its first word, with its count at 0 (R140, R141; log 20). -/
def State.beginPass (s : State) (k b : Nat) : State :=
  s.setCore k ((s.core k).setBank b { (s.core k).bank b with ceCount := 0, failing := [], inPass := true })

/-- The scrubber starts again with a fresh pass of every bank (R160, Table 7-9). -/
def State.freshScrub (s : State) : State :=
  { s with cores := (s.cores.map fun e => (e.1, { e.2 with
      banks := (e.2.banks.map fun q => (q.1, { q.2 with ceCount := 0, failing := [], inPass := false })).filter
        fun q => decide (q.2 ≠ Bank.reset) })).filter fun e => decide (e.2 ≠ Core.reset) }

/-- SCRUB_READ (R135, R140, R141, Table 7-3). A read past the first word belongs to a pass that is under way. -/
def execScrubRead (c : CoreId) (b : BankNo) (row : Fin 3584) (word : Fin 8) (found : Option UpsetKind)
    (rewritten : Bool) (s : State) : Result :=
  let k := idKey c
  let bk := (s.core k).bank b.val
  if !s.coreRuns k ∨ bk.power = .off then s.stay "R142"
  else if s.obj 0x2030 3 = 0 ∨ (!bk.inPass ∧ (row.val ≠ 0 ∨ word.val ≠ 0)) then s.stay "R160"
  else
    let s := match found with
      | none => s
      | some u => s.upset ⟨c, b, row.val, word.val, u⟩
    let s := if row.val = 0 ∧ word.val = 0 then s.beginPass k b.val else s
    let s := (s.wakeBank k b.val).1
    let key := wordKey k b.val row.val word.val
    match s.word key with
    | .flipped v =>
      let s := s.countCorrected k b.val row.val
      .next (if rewritten then s else s.setWord key (.clean v))
    | .bad => .next (if rewritten then s.bumpH 0x3048 (k / 1088) 2 1 else s.poisonWord k key)
    | .clean _ => .next s
    | .poisoned => .next s

/-- R141: the failing rows of a bank are remapped onto its 32 spare rows, as far as those go. -/
def Bank.repaired (b : Bank) : Bank :=
  { b with
    spares := b.spares ++ (b.failing.filter fun r => decide (r ∉ b.spares)).take (32 - b.spares.length)
    failing := []
    ceCount := 0 }

/-- BANK_REPAIR (R141): Leaven takes a marked bank off, remaps its failing rows, and the bank returns from repair;
it is then no longer marked (log 20). -/
def execBankRepair (c : CoreId) (b : BankNo) (s : State) : Result :=
  let k := idKey c
  let h := k / 1088
  let hh := s.hearth h
  let id := 16 * (k % 1088) + b.val
  if !s.coreRuns k then s.stay "R141"
  else if id ∉ hh.marked ∨ s.bankUsed k b.val then s.stay "R141"
  else
    let s := s.setHearth h { hh with marked := hh.marked.filter (· ≠ id) }
    let s := s.setCore k ((s.core k).setBank b.val ((s.core k).bank b.val).repaired)
    .next (s.bankReturn k [b.val] false)

/-! ## Power states of banks and cores (R142 to R145) -/

def State.setBankPower (s : State) (k b : Nat) (p : BankPower) : State :=
  s.setCore k ((s.core k).setBank b { (s.core k).bank b with power := p })

/-- A lull request to a bank: only an AWAKE bank closes (Table 7-2). -/
def State.lullBank (s : State) (k b : Nat) : State :=
  if ((s.core k).bank b).power = .awake then s.setBankPower k b .closingLull else s

/-- LULL_REQUEST (R144). -/
def execLullRequest (c : CoreId) (b : BankNo) (s : State) : Result :=
  if !s.coreRuns (idKey c) then s.stay "R142" else .next (s.lullBank (idKey c) b.val)

/-- AUTO_LULL (R143): an AWAKE bank has served no access for LULL_IDLE_NS. -/
def execAutoLull (c : CoreId) (b : BankNo) (s : State) : Result :=
  let k := idKey c
  if !s.coreRuns k then s.stay "R142"
  else if s.obj 0x2030 1 = 0 ∨ ((s.core k).bank b.val).power ≠ .awake then s.stay "R143"
  else .next ((s.reach (((s.core k).bank b.val).lastUse + s.obj 0x2030 2)).lullBank k b.val)

/-- An off request to one bank (R144, Table 7-3). -/
def State.offBank (s : State) (k b : Nat) : State :=
  if ((s.core k).bank b).power = .off then s else s.setBankPower k b .closingOff

def allBanks : List Nat := List.range 16

/-- What a core that goes off keeps: its epoch, its handle table, and its banks' states (R133, R146; log 21). -/
def Core.lose (c : Core) : Core :=
  { Core.reset with
    power := .off
    epoch := c.epoch
    handles := c.handles
    banks := c.banks }

/-- OFF_REQUEST (R143, R144). -/
def execOffRequest (c : CoreId) (t : PowerTarget) (s : State) : Result :=
  let k := idKey c
  if !s.coreRuns k then s.stay "R142"
  else match t with
    | .bank b => if s.bankUsed k b.val then s.stay "R143" else .next (s.offBank k b.val)
    | .core =>
      if s.coreUsed k ∨ (s.core k).slots.any (fun e => decide (e.2.phase ≠ .free)) then s.stay "R143"
      else
        let s := allBanks.foldl (fun s b => s.offBank k b) s
        let s := s.setCore k { s.core k with closing := true }
        -- every bank already off: the core goes off at once
        .next (if allBanks.all fun b => decide (((s.core k).bank b).power = .off) then s.setCore k (s.core k).lose else s)

/-- CLOSING_COMPLETE (R144): the queue is empty; the last bank of a core requested off takes the core off. -/
def execClosingComplete (c : CoreId) (b : BankNo) (s : State) : Result :=
  let k := idKey c
  let bk := (s.core k).bank b.val
  if !s.hearthRuns (k / 1088) then s.stay "R142"
  else if !bk.queue.isEmpty then s.stay "R144"
  else match bk.power with
    | .closingLull => .next (s.setBankPower k b.val .lull)
    | .closingOff =>
      let s := s.setBankPower k b.val .off
      let c := s.core k
      .next (if c.closing ∧ allBanks.all (fun b => decide ((c.bank b).power = .off)) then s.setCore k c.lose else s)
    | _ => s.stay "R144"

/-- LULL_WAKE (Table 7-2). -/
def execLullWake (c : CoreId) (b : BankNo) (s : State) : Result :=
  let k := idKey c
  if !s.coreRuns k then s.stay "R142"
  else if ((s.core k).bank b.val).power ≠ .lull then s.stay "R142"
  else .next (s.wakeBank k b.val).1

/-- ON_REQUEST (R142). -/
def execOnRequest (c : CoreId) (t : PowerTarget) (s : State) : Result :=
  let k := idKey c
  if !s.hearthRuns (k / 1088) then s.stay "R142"
  else match t with
    | .bank b =>
      let bk := (s.core k).bank b.val
      if bk.power = .off ∧ (s.core k).power ≠ .off then
        .next (s.setCore k ((s.core k).setBank b.val { bk with returning := true }))
      else .next s
    | .core => if (s.core k).power = .off then .next (s.setCore k { s.core k with returning := true }) else .next s

/-- BANK_RETURN (R133, R146). -/
def execBankReturn (c : CoreId) (t : PowerTarget) (s : State) : Result :=
  let k := idKey c
  if !s.hearthRuns (k / 1088) then s.stay "R142"
  else match t with
    | .bank b => if ((s.core k).bank b.val).returning then .next (s.bankReturn k [b.val] false) else s.stay "R133"
    | .core => if (s.core k).returning then .next (s.bankReturn k allBanks true) else s.stay "R133"

end Sys2Proof.Machine
end

