-- ==== Sys2Proof/Machine/Cores.lean ====
section
/-!
DEFINITION. How the cores, movers and fold trees of a partition work on its running item: the next operation of a
core (R168, R173), faults (R156, R225, R230), slots (R61, R73), folds in the making (R118), phase tokens: the
commands PHASE_TOKEN and PHASE_BEGIN.
-/
namespace Sys2Proof.Machine

/-! ## The running item -/

/-- The running item of a partition with its binding. -/
structure Job where
  part : Nat
  ctx : Nat
  item : Item
  bd : Binding
  deriving DecidableEq, Repr

/-- The job a partition works on: its item is RUNNING and no fault has stopped it (R204, R214, R225). -/
def State.job (s : State) (p : Nat) : Option Job :=
  match (s.part p).binding, s.running p with
  | some b, some (c, i) =>
    if i.state = .running ∧ (s.part p).fault.isNone ∧ s.mapOk p then some ⟨p, c, i, b⟩ else none
  | _, _ => none

/-- The job of a core that may step. -/
def State.coreJob (s : State) (k : Nat) : Option Job :=
  if s.coreRuns k then (s.partOf (k / 1088)).bind s.job else none

/-- Put back the binding of a partition after a change. -/
def State.setBinding (s : State) (p : Nat) (f : Binding → Binding) : State :=
  s.setPart p { s.part p with binding := (s.part p).binding.map f }

/-- Statistics of an operation. -/
def Binding.opStats (b : Binding) (i : Nat) : OpStats := tget OpStats.reset b.stats i
def State.stat (s : State) (p i : Nat) (f : OpStats → OpStats) : State :=
  s.setBinding p fun b => { b with stats := tset OpStats.reset b.stats i (f (b.opStats i)) }

/-! ## Faults of the running item -/

/-- Table 10-8, second row: the fault repeats on replay. -/
def codePermanent (c : Nat) : Bool := decide (c ∈ [cBankConflict, cAccTileBusy, cDenied])

/-- The first fault of an item stops the work of its partition. -/
def State.raiseFault (s : State) (p : Nat) (f : RunFault) : State :=
  if (s.part p).fault.isSome then s else s.setPart p { s.part p with fault := some f }

/-- A fault of an operation: one log entry with the item, and the item stops (R230, R225). -/
def State.jobFault (s : State) (x : Job) (op unit : Nat) (e : CFault) : State :=
  (s.report { plainReport e.code unit e.kind e.address with
      d0 := e.d0
      d1 := e.d1
      d2 := e.d2
      item := some (x.ctx, x.item.seq)
      ctx := some x.ctx }).raiseFault x.part
    ⟨e.code, op, codePermanent e.code, !codePermanent e.code, false⟩

/-- A fault met by a core. -/
def State.opFault (s : State) (x : Job) (k op : Nat) (e : CFault) : State := s.jobFault x op (unitCore k) e

def opOrigin (op : Nat) : Origin := ⟨.operation, op⟩

/-! ## Operations of a core -/

/-- The key of an operation's vector in a core's candidate lists and gathered sheets. -/
def vecKey (op m : Nat) : Nat := 2 ^ 32 * op + m

/-- Core k runs a part of operation i. A HALO acts on the written shares alone: those of K-part 0. -/
def Binding.runsOn (b : Binding) (i k : Nat) : Bool :=
  let r := b.prog.op i
  r.onCore && match b.part i k with
    | some (_, _, kp) => decide (r.kind ≠ kHalo) || decide (kp = 0)
    | none => false

/-- The next operation that a core issues, in record order (R168). -/
def State.nextOp (s : State) (x : Job) (k : Nat) : Option Nat :=
  (List.range x.bd.prog.ops.length).find? fun i => decide ((s.core k).next ≤ i) && x.bd.runsOn i k

/-- A core issues an operation of a kind: it has begun the operation's phase, no product runs and no CHAIN waits. -/
def State.issue (s : State) (k kind : Nat) : Option (Job × Nat) :=
  (s.coreJob k).bind fun x => (s.nextOp x k).bind fun i =>
    let c := s.core k
    if c.begun ∧ c.run.isNone ∧ c.chainWait.isNone ∧ (x.bd.prog.op i).phase = c.phase
      ∧ (x.bd.prog.op i).kind = kind then some (x, i) else none

/-- The operation has issued. -/
def State.issued (s : State) (k i : Nat) : State := s.setCore k { s.core k with next := i + 1 }

/-- The part of an operation that a core runs; (0, 0, 0) where it runs none. -/
def Binding.partAt (b : Binding) (i k : Nat) : Nat × Nat × Nat := (b.part i k).getD (0, 0, 0)

/-- The handle and share of an operand on a core. -/
def Job.share (x : Job) (i handle k : Nat) : Option Share :=
  (x.bd.prog.resolve handle (x.bd.prog.op i).phase).bind fun b => x.bd.shareAt b k

/-! ## Slots (R61, R73) -/

def Core.slot (c : Core) (n : Nat) : Slot := tget Slot.reset c.slots n
def Core.setSlot (c : Core) (n : Nat) (v : Slot) : Core := { c with slots := tset Slot.reset c.slots n v }
def Core.entry (c : Core) (key : Nat) : Entry := tget Entry.reset c.acc key
def Core.setEntry (c : Core) (key : Nat) (e : Entry) : Core := { c with acc := tset Entry.reset c.acc key e }

/-- The place of entry e of a slot in the store (R61, R62, R72). -/
def Slot.key (t : Slot) (e : Nat) : Nat := if t.acc16 then 1024 * t.base + e else 2 * (512 * t.base + e)

/-- ACC_INIT ZERO clears the entries, overflow bits and stop bits of a slot's units (R75, R95). -/
def Core.clearUnits (c : Core) (base size : Nat) : Core :=
  { c with acc := c.acc.filter fun e => decide (e.1 < 1024 * base) || decide (1024 * (base + size) ≤ e.1) }

/-- The slots that an operation names (R61). -/
def OpRec.slotNames (r : OpRec) : List Nat := if r.double then [r.slot, r.slot + 1] else [r.slot]

/-- The slot of a claim, by its parity under DOUBLE (R182). -/
def OpRec.slotOf (r : OpRec) (n : Nat) : Nat × Nat :=
  if r.double ∧ n % 2 = 1 then (r.slot + 1, r.slotBase + r.slotSize) else (r.slot, r.slotBase)

/-- Claim a slot for a pair (R73, R75, R182). -/
def Core.claim (c : Core) (op : Nat) (r : OpRec) (n : Nat) (keep : Bool) (mb nt : Nat) : Core :=
  let (slot, base) := r.slotOf n
  (if keep then c else c.clearUnits base r.slotSize).setSlot slot ⟨.owned, base, r.slotSize, r.acc16, op, mb, nt, false, false, 0⟩

/-- Change one core. -/
def State.mapCore (s : State) (k : Nat) (f : Core → Core) : State := s.setCore k (f (s.core k))

/-- The pair a slot holds, in the order in which the glaze unit drains. -/
def Slot.order (t : Slot) : List Nat := [t.op, t.mb, t.nt]

/-- The slot that the glaze unit drains: the earliest DRAINING one (R76). -/
def Core.draining (c : Core) : Option (Nat × Slot) :=
  c.slots.find? fun e => decide (e.2.phase = .draining) &&
    c.slots.all fun f => decide (f.2.phase ≠ .draining) || !lexLt (Slot.order f.2) (Slot.order e.2)

/-- In a step of the core the glaze unit drains 64 entries of that slot (R76). -/
def Core.tickDrain (c : Core) : Core :=
  match c.draining with
  | none => c
  | some e => c.setSlot e.1 { e.2 with left := e.2.left - 1 }

/-- The last entry of a slot has been read: its release, SLOT_DRAIN, comes before the core's next step (R73, R76). -/
def Core.releaseDue (c : Core) : Bool := c.slots.any fun e => decide (e.2.phase = .draining) && decide (e.2.left = 0)

/-- Every slot is FREE but those that an ACC_FILL holds (R173). -/
def Core.slotsFree (c : Core) : Bool := c.slots.all fun e => decide (e.2.phase = .free) || e.2.filled

/-- A core has nothing more to do for an operation. -/
def Core.opDone (c : Core) (op : Nat) : Bool :=
  decide (op < c.next) && (match c.run with
    | some r => decide (r.op ≠ op)
    | none => true)
  && decide (c.chainWait ≠ some op) && c.slots.all fun e => decide (e.2.phase = .free) || decide (e.2.op ≠ op) || e.2.filled

/-- Every core of an operation is done with it. -/
def State.opDone (s : State) (b : Binding) (op : Nat) : Bool :=
  (b.coresOf op).all fun k => !b.runsOn op k || (s.core k).opDone op

/-! ## Folds in the making (R118, R121 to R123) -/

/-- A fold is that of an operation and a destination pair. -/
def Fold.is (f : Fold) (p op mb nt : Nat) : Bool :=
  decide (f.part = p) && decide (f.op = op) && decide (f.mb = mb) && decide (f.nt = nt) && f.emitting.isNone

/-- Change an open fold of a hearth, opening it with the sources it awaits. -/
def State.withFold (s : State) (h p op mb nt : Nat) (awaited : List Nat) (f : Fold → Fold) : State :=
  let fs := s.foldsOf h
  if fs.any fun x => x.is p op mb nt then s.setFolds h (fs.map fun x => if x.is p op mb nt then f x else x)
  else s.setFolds h (fs ++ [f ⟨p, op, mb, nt, awaited, [], [], [], none⟩])

/-- A source sends its pairs and is no longer awaited. -/
def State.sendPairs (s : State) (h p op mb nt : Nat) (awaited : List Nat) (source : Nat) (ps : List Pair) : State :=
  s.withFold h p op mb nt awaited fun f => { f with inFlight := f.inFlight ++ ps, awaited := f.awaited.filter (· ≠ source) }

/-- What a fold of candidate lists carries in place of an N-tile: it gathers a whole M-block (R123). -/
def siftTag : Nat := 2 ^ 32

/-- A source sends its candidate lists. -/
def State.sendCands (s : State) (h p op mb : Nat) (awaited : List Nat) (source : Nat) (cs : List (Nat × Cand)) : State :=
  s.withFold h p op mb siftTag awaited fun f => { f with cands := f.cands ++ cs, awaited := f.awaited.filter (· ≠ source) }

/-- The scatter operations that send into operation d (R122). -/
def Program.scatterInto (p : Program) (d : Nat) : List Nat :=
  (List.range p.ops.length).filter fun i =>
    let r := p.op i
    decide (r.kind = kMatmul) && decide (r.foldMode = 2) && decide (p.scatterDest r = some d)

/-- Everything that scatters into a pair of operation d has arrived. -/
def State.scatterDone (s : State) (x : Job) (h d mb nt : Nat) : Bool :=
  (x.bd.prog.scatterInto d).all fun i => s.opDone x.bd i &&
    (s.foldsOf h).all fun f => !(decide (f.part = x.part) && decide (f.op = i) && decide (f.mb = mb) && decide (f.nt = nt))

/-- Destination cores of an operation's folds. -/
def Binding.foldCores (b : Binding) (i : Nat) : List Nat :=
  let r := b.prog.op i
  let t := b.split i
  if r.kind ≠ kMatmul then []
  else if r.foldMode = 3 then (b.coreAt 0).toList
  else if r.foldMode = 2 then match b.prog.scatterDest r with
    | some d => let u := b.split d; (List.range (u.r * u.c)).filterMap b.coreAt
    | none => []
  else (if 1 < t.s then (List.range (t.r * t.c)).filterMap b.coreAt else [])
    ++ (if 1 < t.c ∧ r.siftK ≠ 0 then (List.range t.r).filterMap b.coreAt else [])

/-! ## Sorting and summing (R119, R120) -/

/-- The order of R119: by index, then by source. -/
def pairLe (a b : Pair) : Bool := decide (a.index < b.index) || (decide (a.index = b.index) && decide (a.source ≤ b.source))

def insertPair (p : Pair) : List Pair → List Pair
  | [] => [p]
  | q :: qs => if pairLe p q then p :: q :: qs else q :: insertPair p qs

def sortPairs : List Pair → List Pair
  | [] => []
  | p :: ps => insertPair p (sortPairs ps)

/-- Add a pair to the total of its index at the head of a list of exact totals. -/
def mergePair (acc : List Pair) (p : Pair) : List Pair :=
  match acc with
  | [] => [p]
  | t :: ts => if t.index = p.index then { t with val := t.val + p.val, ovf := t.ovf || p.ovf } :: ts else p :: t :: ts

/-- R119: one emitted pair for each index, in index order: the exact total held to the entry's range. -/
def sumFold (acc16 : Bool) (ps : List Pair) : List Pair :=
  ((sortPairs ps).foldl mergePair []).reverse.map fun t =>
    { t with val := entrySat acc16 t.val, ovf := t.ovf || !entryFits acc16 t.val }

/-- R120: the pairs whose source lies in each range, in ascending order of range. -/
def foldRanges (width : Nat) (ps : List Pair) : List (List Pair) :=
  let n := ps.foldl (fun m p => max m (p.source / width + 1)) 0
  ((List.range n).map fun g => ps.filter fun p => decide (p.source / width = g)).filter fun l => !l.isEmpty

/-! ## Phases (R173) -/

/-- Cores that run a part of some operation: parts fill the lowest core indices. -/
def Binding.cores (b : Binding) : List Nat :=
  let n := (List.range b.prog.ops.length).foldl (fun m i => let t := b.split i; max m (t.r * t.c * t.s)) 0
  (List.range n).filterMap b.coreAt

/-- The mover that carries out a TRANSFER (log 22): a proofer mover of the host port for a HOST buffer or a check
channel, else a mover of the binding's first hearth. -/
def Binding.moverOf (b : Binding) (hostPort i : Nat) : Nat :=
  let r := b.prog.op i
  let cls (n : Nat) : Nat := (b.prog.buf n).cls
  if cls r.aux0 = clsHost ∨ cls r.aux1 = clsHost ∨ bitsAt r.aux2 2 2 ≠ 0 then 128 + 4 * hostPort + i % 4
  else 8 * (b.hearths.headD 0) + i % 8

def unitKey : UnitId → Nat
  | .core c => 3 * idKey c
  | .mover m => 3 * moverKey m + 1
  | .fold h => 3 * h.val + 2

/-- Operations that a unit takes part in, in a phase. -/
def State.unitOps (s : State) (x : Job) (u : UnitId) (ph : Nat) : List Nat :=
  let ids := (List.range x.bd.prog.ops.length).filter fun i => decide ((x.bd.prog.op i).phase = ph)
  match u with
  | .core c => ids.filter fun i => x.bd.runsOn i (idKey c)
  | .mover m => ids.filter fun i => decide ((x.bd.prog.op i).kind = kTransfer)
      && decide (x.bd.moverOf (s.ctx x.ctx).hostPort i = moverKey m)
  | .fold h => ids.filter fun i => (x.bd.foldCores i).any fun k => decide (k / 1088 = h.val)

def State.unitReads (s : State) (x : Job) (u : UnitId) (ph : Nat) : List Nat :=
  match u with
  | .fold _ => []
  | _ => (s.unitOps x u ph).flatMap fun i => x.bd.prog.reads (x.bd.prog.op i)
def State.unitWrites (s : State) (x : Job) (u : UnitId) (ph : Nat) : List Nat :=
  (s.unitOps x u ph).flatMap fun i => x.bd.prog.writes (x.bd.prog.op i)

/-- A core key as a unit. -/
def coreUnit (k : Nat) : UnitId := .core ⟨⟨k / 1088 % 16, by omega⟩, ⟨k % 1088, by omega⟩⟩

/-- The progress of a unit that takes part in the job. -/
def State.unitPhase (s : State) (x : Job) (u : UnitId) : Option UnitPhase :=
  match u with
  | .core c =>
    let k := idKey c
    if k ∈ x.bd.cores ∧ s.coreRuns k then some ⟨u, (s.core k).phase, (s.core k).begun⟩ else none
  | _ => x.bd.tokens.find? fun t => decide (t.unit = u)

/-- All units of the job. -/
def Job.units (x : Job) : List UnitId := x.bd.cores.map coreUnit ++ x.bd.tokens.map (·.unit)

/-- A unit has passed its token for a phase. -/
def State.passed (s : State) (x : Job) (u : UnitId) (ph : Nat) : Bool :=
  match s.unitPhase x u with
  | some t => decide (ph < t.phase)
  | none => false

/-- Phases that end with a commit mark for this item: a training item commits once, at its end (R197). -/
def Job.markPhase (x : Job) (ph : Nat) : Bool :=
  if x.bd.train then decide (ph + 1 = x.bd.prog.phases) else x.bd.prog.markPhase ph

/-- R173: the dependencies of a unit's next phase. -/
def State.phaseFree (s : State) (x : Job) (u : UnitId) (ph : Nat) : Bool :=
  let rd := s.unitReads x u ph
  let wr := s.unitWrites x u ph
  (x.units.filter (· ≠ u)).all fun v =>
    ((List.range ph).all fun q =>
      !((s.unitWrites x v q).any fun b => decide (b ∈ rd)) || s.passed x v q) &&
    (decide (ph = 0) || !((s.unitReads x v (ph - 1)).any fun b => decide (b ∈ wr)) || s.passed x v (ph - 1))

/-- Every commit mark before a phase has been recorded. -/
def Job.marksDone (x : Job) (ph : Nat) : Bool :=
  (List.range ph).all fun q => !x.markPhase q || decide (q < x.item.resumePhase)

/-- The rows of a buffer on a core (R177). -/
def Binding.rowsOn (b : Binding) (k i : Nat) : Option CoreRows :=
  (b.places[i]?).bind fun pl => pl.rows.find? fun r => r.core = k

def CoreRows.meets (a b : CoreRows) : Bool :=
  decide (a.banks &&& b.banks ≠ 0) && decide (a.rowBase < b.rowBase + b.rowCount) && decide (b.rowBase < a.rowBase + a.rowCount)

/-- Buffers on a core whose lifetime begins in a phase. -/
def Binding.startsOn (b : Binding) (k ph : Nat) : List (Nat × CoreRows) :=
  ((List.range b.prog.bufs.length).filter fun i => decide ((b.prog.buf i).cls = clsScratch) && decide ((b.prog.buf i).first = ph)).filterMap
    fun i => (b.rowsOn k i).map fun r => (i, r)

/-- Buffers on a core whose handle number or rows pass to a buffer whose lifetime begins in the phase (R170, R177). -/
def Binding.displaced (b : Binding) (k ph : Nat) : List Nat :=
  let ys := b.startsOn k ph
  if ys.isEmpty then []
  else (List.range b.prog.bufs.length).filter fun i => match b.rowsOn k i with
    | none => false
    | some r => ys.any fun y => decide (y.1 ≠ i) && (decide ((b.prog.buf y.1).handle = (b.prog.buf i).handle) || y.2.meets r)

/-- The handle entries that a unit uses in a phase are in place, and those that a core replaces are no longer in use
(R170, R173; log 57). -/
def State.handlesReady (s : State) (x : Job) (u : UnitId) (ph : Nat) : Bool :=
  match u with
  | .core c =>
    let ds := x.bd.displaced (idKey c) ph
    ds.isEmpty || (x.units.filter (· ≠ u)).all fun v => (List.range ph).all fun q =>
      !((s.unitReads x v q ++ s.unitWrites x v q).any fun i => decide (i ∈ ds)) || s.passed x v q
  | _ => (s.unitReads x u ph ++ s.unitWrites x u ph).all fun i =>
    let br := x.bd.prog.buf i
    decide (br.cls ≠ clsScratch) || (((x.bd.places[i]?).map (·.rows)).getD []).all fun r =>
      match s.unitPhase x (coreUnit r.core) with
      | some t => decide (br.first < t.phase) || (decide (br.first = t.phase) && t.begun)
      | none => true

/-- A unit may begin its next phase. -/
def State.beginReady (s : State) (x : Job) (u : UnitId) : Bool :=
  match s.unitPhase x u with
  | none => false
  | some t => !t.begun && decide (t.phase < x.bd.prog.phases) && x.marksDone t.phase && s.phaseFree x u t.phase
      && s.handlesReady x u t.phase

/-- No descriptor of an operation is left on a mover. -/
def Mover.clearOf (m : Mover) (part op : Nat) : Bool :=
  m.queue.all (fun d => decide (d.part ≠ part) || decide (d.op ≠ op)) &&
  m.active.all fun a => decide (a.desc.part ≠ part) || decide (a.desc.op ≠ op)

/-- A unit may pass its token for the phase it has begun (R173). -/
def State.tokenReady (s : State) (x : Job) (u : UnitId) : Bool :=
  match s.unitPhase x u with
  | none => false
  | some t => t.begun && match u with
    | .core c =>
      let k := idKey c
      let c := s.core k
      ((s.unitOps x u t.phase).all fun i => decide (i < c.next)) && c.run.isNone && c.chainWait.isNone && c.slotsFree
    | .mover m => (s.unitOps x u t.phase).all fun i =>
        decide (i ∈ x.bd.issued) && (s.mover (moverKey m)).clearOf x.part i
    | .fold h => (s.unitOps x u t.phase).all fun i =>
        s.opDone x.bd i && (s.foldsOf h.val).all fun f => decide (f.part ≠ x.part) || decide (f.op ≠ i)

def setUnit (ts : List UnitPhase) (v : UnitPhase) : List UnitPhase := ts.map fun t => if t.unit = v.unit then v else t

/-- Record a unit's progress. -/
def State.setPhase (s : State) (x : Job) (u : UnitId) (ph : Nat) (begun : Bool) : State :=
  match u with
  | .core c => s.setCore (idKey c) { s.core (idKey c) with phase := ph, begun := begun }
  | _ => s.setBinding x.part fun b => { b with tokens := setUnit b.tokens ⟨u, ph, begun⟩ }

/-- The value word of the handle entry of a buffer (Table 7-1, R170). -/
def handleWord (br : BufRec) (written : Bool) (r : CoreRows) : W64 :=
  BitVec.ofNat 64 (1 + (if written then 2 else 0) + 2 ^ 4 * br.fmt + 2 ^ 12 * r.banks + 2 ^ 28 * r.rowBase
    + 2 ^ 40 * (r.rowCount - 1))

/-- Write the handle entries of a core for the buffers that a test picks. -/
def State.writeHandles (s : State) (b : Binding) (k : Nat) (pick : BufRec → Bool) : State :=
  (List.range b.prog.bufs.length).foldl (fun s i =>
    let br := b.prog.buf i
    if br.cls = clsScratch ∧ pick br then
      match (b.places[i]?).bind fun pl => pl.rows.find? fun r => r.core = k with
      | some r => s.writeHandle k br.handle (handleWord br (b.prog.isWritten i) r)
      | none => s
    else s) s

/-- Put every unit of a job at the first phase after a mark, slots free and handles written (R173, R214, R225). -/
def State.armUnits (s : State) (p ph : Nat) : State :=
  match (s.part p).binding, (s.part p).current with
  | some b, some c =>
    let port := (s.ctx c).hostPort
    let first := (b.prog.ops.filter fun (o : OpRec) => decide (OpRec.phase o < ph)).length
    let s := b.cores.foldl (fun s k =>
      let c := s.core k
      let s := s.setCore k { c with
        phase := ph
        begun := false
        next := first
        run := none
        chainWait := none
        slots := []
        acc := []
        sift := []
        sheet := [] }
      s.writeHandles b k fun br => decide (br.first ≤ ph) && decide (ph ≤ br.last)) s
    let ids := List.range b.prog.ops.length
    let movers := (ids.filter fun i => decide ((b.prog.op i).kind = kTransfer)).map (b.moverOf port)
    let folds := ids.flatMap fun i => (b.foldCores i).map (· / 1088)
    let mUnits := (List.finRange 16).flatMap fun h => (List.finRange 8).filterMap fun m =>
      if 8 * h.val + m.val ∈ movers then some (UnitId.mover (.hearth h m)) else none
    let pUnits := (List.finRange 2).flatMap fun q => (List.finRange 4).filterMap fun m =>
      if 128 + 4 * q.val + m.val ∈ movers then some (UnitId.mover (.proofer q m)) else none
    let fUnits := (List.finRange 16).filterMap fun h => if h.val ∈ folds then some (UnitId.fold h) else none
    let s := s.setBinding p fun b => { b with
      tokens := (mUnits ++ pUnits ++ fUnits).map fun u => ⟨u, ph, false⟩
      issued := b.issued.filter fun i => decide ((b.prog.op i).phase < ph)
      modes := b.modes.filter fun e => decide ((b.prog.op e.1).phase < ph)
      stats := b.stats.filter fun e => decide ((b.prog.op e.1).phase < ph) }
    -- what the lost run left on the shadow cores, in the fold trees and on the movers is gone
    let s := b.spareCores.foldl (fun s k =>
      if (s.core k).sample.any fun sm => decide (sm.part = p) then s.setCore k { s.core k with sample := none } else s) s
    let s := (List.range 16).foldl (fun s h =>
      s.setFolds h ((s.foldsOf h).filter fun f => decide (f.part ≠ p))) s
    (List.range 136).foldl (fun s m => s.setMover m { s.mover m with
      queue := (s.mover m).queue.filter fun d => decide (d.part ≠ p)
      active := (s.mover m).active.filter fun a => decide (a.desc.part ≠ p) }) s
  | _, _ => s

/-- The first partition whose job meets a test. -/
def State.findJob (s : State) (f : Job → Bool) : Option Job := ((List.range 16).filterMap s.job).find? f

/-- PHASE_TOKEN (R32, R173). -/
def execPhaseToken (u : UnitId) (s : State) : Result :=
  match s.findJob fun x => s.tokenReady x u with
  | none => s.stay "R173"
  | some x => match s.unitPhase x u with
    | none => s.stay "R173"
    | some t => .next (s.setPhase x u (t.phase + 1) false)

/-- The word of a scratchpad key lies in the rows of a buffer. -/
def CoreRows.covers (r : CoreRows) (key : Nat) : Bool :=
  let row := key % 28672 / 8
  decide (key / 458752 = r.core) && decide (r.banks / 2 ^ (key / 28672 % 16) % 2 = 1) &&
    decide (r.rowBase ≤ row) && decide (row < r.rowBase + r.rowCount)

/-- A word with other data. -/
def SWord.withData : SWord → W64 → SWord
  | .clean _, v => .clean v
  | .flipped _, v => .flipped v
  | w, _ => w

/-- Rows whose contents are undefined take free data; what is poisoned stays so (R215, log 125). -/
def State.undefine (s : State) (rs : List CoreRows) : State :=
  if rs.isEmpty then s
  else { s with
    scratch := s.scratch.map fun e =>
      (e.1, if rs.any (·.covers e.1) then e.2.withData (Config.freeWord s.freeCtr e.1) else e.2)
    freeCtr := s.freeCtr + 1 }

/-- R108: form the select regions of a buffer's SPARSE24 tiles on the cores that a test picks. -/
def State.loadSelects (s : State) (x : Job) (i : Nat) (pick : Nat → Bool) : State :=
  match x.bd.prog.sparseUser i, x.bd.places[i]? with
  | some r, some pl => pl.rows.foldl (fun s cr =>
      match if pick cr.core then x.bd.shareAt i cr.core else none with
      | none => s
      | some sh =>
        let h := Handle.stamp (handleWord (x.bd.prog.buf i) true cr) 0
        let tiles := ((List.range (ceilDiv sh.o1 r.nPass)).filter fun nt => decide (sh.o0 / r.nPass ≤ nt)).flatMap fun nt =>
          ((List.range (ceilDiv sh.i1 64)).filter fun kt => decide (sh.i0 / 64 ≤ kt)).map fun kt => (nt, kt)
        tiles.foldl (fun s t => (List.range 64).foldl (fun s row =>
          let bit := sh.bitOf (t.1 * r.nPass) (64 * t.2) + 512 * 64 + 2 * r.nPass * row
          let n := 2 * r.nPass
          (writeWords s cr.core h (bit / 64) (bit % 64) n (x.bd.prog.selectBits r t.1 t.2 row) ((bit % 64 + n + 63) / 64)).1) s) s) s
  | _, _ => s

/-- The unit begins a phase; the loader's handle entries for the buffers whose lifetime begins are in place (R170), and
such a buffer holds nothing defined unless it is carried or filled from the image (R215). -/
def State.beginPhase (s : State) (x : Job) (u : UnitId) (ph : Nat) : State :=
  let s := s.setPhase x u ph true
  match u with
  | .core c =>
    let k := idKey c
    let starts := x.bd.startsOn k ph
    let s := s.undefine ((starts.filter fun y => !(x.bd.prog.buf y.1).fromImage && !x.bd.prog.carriedScratch y.1).map (·.2))
    let s := starts.foldl (fun s y => s.loadSelects x y.1 fun q => decide (q = k)) s
    s.writeHandles x.bd k fun br => decide (br.first = ph)
  | _ => s

/-- PHASE_BEGIN (R32, R173). -/
def execPhaseBegin (u : UnitId) (s : State) : Result :=
  match s.findJob fun x => s.beginReady x u with
  | none => s.stay "R173"
  | some x => match s.unitPhase x u with
    | none => s.stay "R173"
    | some t => .next (s.beginPhase x u t.phase)

end Sys2Proof.Machine
end

