-- ==== Sys2Proof/Machine/Glaze.lean ====
section
/-!
DEFINITION. The glaze path (R76 to R83, R93, R98, R99, R112 to R116, R187): rescale, bias, activation and conversion
of accumulator entries, floor codes, the sift unit, the sheeter, and the pairs that a slot sends to a fold tree; the
command SLOT_DRAIN.
-/
namespace Sys2Proof.Machine

/-! ## A chain of accesses that stops at its first fault -/

/-- The sources of a core's bank accesses that a step schedules, in the order of R134. -/
inductive BankSource where
  | loader | feeder | glaze
  deriving DecidableEq, Repr

/-- One access to a row of a bank in a step. -/
structure BankUse where
  source : BankSource
  bank : Nat
  row : Nat
  deriving DecidableEq, Repr

/-- The state after some accesses, the fault that stopped them, how many were lengthened (Table 2-6), and the bank rows
that the weight loader and the feeder addressed in the step. -/
structure Acc where
  st : State
  fault : Option CFault
  stretched : Nat
  uses : List BankUse
  deriving Repr

def Acc.ofState (s : State) : Acc := ⟨s, none, 0, []⟩

/-- One more access, unless a fault has stopped the chain. -/
def Acc.andThen (a : Acc) (f : State → State × Bool × Option CFault) : Acc :=
  if a.fault.isSome then a
  else
    let (s, t, e) := f a.st
    { a with st := s, fault := e, stretched := a.stretched + countIf t }

/-- A change of the state that meets no fault. -/
def Acc.map (a : Acc) (f : State → State) : Acc := if a.fault.isSome then a else { a with st := f a.st }

/-- Run a chain over a list. -/
def Acc.each {α : Type} (a : Acc) (l : List α) (f : Acc → α → Acc) : Acc :=
  l.foldl (fun a x => if a.fault.isSome then a else f a x) a

/-- Read n bits, giving the value to what follows. -/
def Acc.read (a : Acc) (k hd : Nat) (o : Origin) (bit n : Nat) : Acc × Nat :=
  if a.fault.isSome then (a, 0)
  else match readBuf a.st k hd o bit n with
    | (s, t, .ok v) => ({ a with st := s, stretched := a.stretched + countIf t }, v)
    | (s, t, .error e) => ({ a with st := s, fault := some e, stretched := a.stretched + countIf t }, 0)

/-- Step n of a command that takes several: its accesses lengthen it once, and so does back-pressure (Table 2-6, R37). -/
def Acc.inStep (a : Acc) (env : StepEnv) (n : Nat) (f : Acc → Acc) : Acc :=
  if a.fault.isSome then a
  else
    let b := f { a with stretched := 0 }
    { b with stretched := a.stretched + countIf (decide (b.stretched ≠ 0) || decide (n ∈ env.backPressure)) }

/-- Run steps over a list, numbered from n on. -/
def Acc.eachStep {α : Type} (a : Acc) (env : StepEnv) (n : Nat) (l : List α) (f : Acc → α → Acc) : Acc :=
  (l.zip (List.range l.length)).foldl (fun a x => a.inStep env (n + x.2) fun a => f a x.1) a

/-- STRETCHED_STEPS (Table 2-8). -/
def State.countStretched (s : State) (k n : Nat) : State := if n = 0 then s else s.bumpH 0x3020 (k / 1088) 6 n

/-- Count what conversions report (Table 3-6). -/
def State.countConv (s : State) (k : Nat) (c : ConvStat) : State :=
  let h := k / 1088
  (((((s.bumpH 0x3028 h 1 c.sat).bumpH 0x3028 h 2 c.under).bumpH 0x3028 h 3 c.nan).bumpH 0x3028 h 4 c.inf).bumpH
    0x3028 h 5 c.imp).bumpH 0x3028 h 6 c.sr

/-! ## Bands (R98, R99) -/

/-- The element (m, x) lies in band. -/
def OpRec.inBand (r : OpRec) (m x : Nat) : Bool :=
  let i : Int := if r.bandModM = 0 then m else (m % r.bandModM : Nat)
  let j : Int := if r.bandModX = 0 then x else (x % r.bandModX : Nat)
  decide (r.bandLo ≤ j - i) && decide (j - i ≤ r.bandHi)

/-- Out of an MN band. -/
def OpRec.outMN (r : OpRec) (m n : Nat) : Bool := decide (r.bandAxes = 1) && !r.inBand m n
/-- Out of an MK band. -/
def OpRec.outMK (r : OpRec) (m k : Nat) : Bool := decide (r.bandAxes = 2) && !r.inBand m k

/-! ## The ranked value (R78) -/

/-- The ranked value p / 2^sh, and whether TABLE clamped its index. -/
structure Ranked where
  p : Int
  sh : Nat
  clamped : Bool
  deriving DecidableEq, Repr

/-- R78 up to the ranked value; `tab` holds tbase then tslope. -/
def glazeRank (r : OpRec) (tab : List Int) (c : ColParam) (a : Int) : Ranked :=
  let p := a * c.m + c.bias * 2 ^ c.sh
  match r.act with
  | 1 => ⟨max p 0, c.sh, false⟩
  | 2 => ⟨min (max p (r.clampLo * 2 ^ c.sh)) (r.clampHi * 2 ^ c.sh), c.sh, false⟩
  | 3 =>
    let (y, sat) := clampTo (-32768) 32767 (roundShift p c.sh .rhe 0)
    let u := (y + 32768).toNat
    ⟨tab.getD (u / 1024) 0 * 1024 + tab.getD (64 + u / 1024) 0 * (u % 1024 : Nat), 10 + r.tsh, sat⟩
  | _ => ⟨p, c.sh, false⟩

/-- Rounding mode of an operation's output. -/
def OpRec.mode (r : OpRec) : RMode := if r.rnd then .sr else .rhe

/-- R53, R79: the noise of an output element; none is drawn under rhe. -/
def Binding.noise (b : Binding) (r : OpRec) (m n : Nat) : Nat :=
  if r.rnd then breeze b.seed r.streamKey (m * b.prog.pN r + n) else 0

/-- Multipliers, shifts and biases of columns n0 to n1 − 1, complements checked (R58, R77). -/
def Acc.params (a : Acc) (x : Job) (k i n0 n1 : Nat) : Acc × List ColParam :=
  let p := x.bd.prog
  let r := p.op i
  match (List.range (n1 - n0)).findSome? fun d => match p.multOf i r (n0 + d) with
    | .error off => some off
    | .ok _ => none with
  | some off => ({ a with fault := a.fault.or (some ⟨cComplement, .program, off, 4, 0, 0⟩) }, [])
  | none =>
    let (a, biases) :=
      if r.biasBuf = 0 ∨ n1 ≤ n0 then (a, 0)
      else match x.share i r.biasBuf k with
        | none => (a, 0)
        | some sh => a.read k r.biasBuf (opOrigin i) (sh.bitOf sh.o0 n0) (16 * (n1 - n0))
    (a, (List.range (n1 - n0)).map fun d => match p.multOf i r (n0 + d) with
      | .ok (m, sh) => ⟨m, x.bd.shift i sh, signed (bitsAt biases (16 * d) 16) 16⟩
      | .error _ => ⟨0, 0, 0⟩)

/-- The table of ACT TABLE: tbase[64] then tslope[64] (Table 4-3). -/
def Acc.table (a : Acc) (x : Job) (k i : Nat) : Acc × List Int :=
  let r := x.bd.prog.op i
  if r.act ≠ 3 then (a, [])
  else
    let (a, v) := a.read k r.tableBuf (opOrigin i) 0 2048
    (a, (List.range 128).map fun d => signed (bitsAt v (16 * d) 16) 16)

/-! ## Output elements -/

/-- What the glaze makes of one element of the written region: not written (R99), FLOOR (R93, R95, R99), or a
ranked value that converts. -/
inductive OutElem where
  | skip
  | floor
  | value (v : Ranked)
  deriving DecidableEq, Repr

def OpRec.thresholds (r : OpRec) : Bool := decide (r.etTest = 1) || decide (r.etTest = 3)
def OpRec.ranksTopk (r : OpRec) : Bool := decide (r.etTest = 2) || decide (r.etTest = 3)

/-- R80, R93, R95, R99: the element of an entry at (m, n). -/
def outElem (r : OpRec) (tab : List Int) (m n : Nat) (c : ColParam) (e : Entry) : OutElem :=
  if r.outMN m n then (if r.bandWrite then .floor else .skip)
  else if e.stop then .floor
  else
    let v := glazeRank r tab c e.val
    if r.thresholds && belowTheta r.etMin r.threshold v.p v.sh then .floor else .value v

/-- The FLOOR code in the target's container (R39, R41). -/
def OpRec.floorCode (r : OpRec) : Nat := if fmtKind r.outFmt = kBf then r.floor else elemCode r.outFmt (elemValue r.outFmt r.floor)

/-- The code of an element for a target that is no block format; none where nothing is written. -/
def outCode (b : Binding) (r : OpRec) (m n : Nat) : OutElem → Option Nat × ConvStat
  | .skip => (none, ConvStat.zero)
  | .floor => (some r.floorCode, ConvStat.zero)
  | .value v =>
    let (c, st) := convElem r.outFmt ⟨v.p, -(v.sh : Int)⟩ r.mode (b.noise r m n)
    (some c, { st with sat := st.sat + countIf v.clamped })

/-- Codes of 32 columns, or fewer at the end of a row, of a block target, with the exponent byte when any position
is written (R45, R78). -/
def outBlock (b : Binding) (r : OpRec) (m n0 : Nat) (es : List OutElem) : List (Option Nat) × Option Nat × ConvStat :=
  let vs := (es.zip (List.range es.length)).map fun (e, d) => match e with
    | .value v => ((⟨v.p, -(v.sh : Int)⟩ : Dy), true, b.noise r m (n0 + d))
    | _ => ((Dy.zero : Dy), false, 0)
  let (e, codes, st) := convBlock r.outFmt vs r.mode
  let clamps := (es.map fun e => match e with
    | .value v => countIf v.clamped
    | _ => 0).sum
  if vs.any fun v => v.2.1 then
    ((vs.zip codes).map fun (v, c) => if v.2.1 then some c else none, some (codeOf 8 e), { st with sat := st.sat + clamps })
  else (es.map fun _ => none, none, ConvStat.zero)

/-- A list in pieces of 32. -/
def chunks32 {α : Type} : Nat → List α → List (List α)
  | 0, _ => []
  | _, [] => []
  | f + 1, l => l.take 32 :: chunks32 f (l.drop 32)

/-- Codes of a row of elements that starts at a multiple of 32, with the exponent bytes of its blocks. -/
def outRow (b : Binding) (r : OpRec) (m n0 : Nat) (es : List OutElem) : List (Option Nat) × List (Option Nat) × ConvStat :=
  if fmtKind r.outFmt = kBI then
    let cs := chunks32 (es.length + 1) es
    let bs := (cs.zip (List.range cs.length)).map fun (c, d) => outBlock b r m (n0 + 32 * d) c
    (bs.flatMap (·.1), bs.map (·.2.1), (bs.map (·.2.2)).foldl ConvStat.add ConvStat.zero)
  else
    let cs := (es.zip (List.range es.length)).map fun (e, d) => outCode b r m (n0 + d) e
    (cs.map (·.1), [], (cs.map (·.2)).foldl ConvStat.add ConvStat.zero)

/-! ## The sheeter (R112 to R116) -/

/-- One group: its code in the form map, its bits and their number (R114, R116). -/
def sheetGroup (c ne : Nat) (beyond : Bool) (es : List Nat) : Nat × Nat × Nat :=
  if beyond then (3, 0, 0)
  else
    let nz := es.filter (· ≠ 0)
    let dense := ne * c
    let bitmap := 64 + nz.length * c
    let pack (l : List Nat) : Nat := l.reverse.foldl (fun a e => a * 2 ^ c + e) 0
    if bitmap < dense then
      let mask := ((es.zip (List.range es.length)).map fun (e, i) => if e ≠ 0 then 2 ^ i else 0).sum
      (1, mask + 2 ^ 64 * pack nz, bitmap)
    else (0, pack es, dense)

/-- Write a gathered sheet of vector m: its payload, packed bit-contiguously and filled to a byte with zeros, and
its form-map codes (R115). -/
def Acc.flushSheet (a : Acc) (x : Job) (k i m t : Nat) (codes : Nat → Nat) : Acc :=
  let p := x.bd.prog
  let r := p.op i
  let c := fmtBits r.outFmt
  let pn := p.pN r
  let en := x.bd.eN r
  let groups := (List.range r.sheetGroups).map fun g =>
    let n0 := 64 * (t * r.sheetGroups + g)
    let ne := min 64 (pn - n0)
    (sheetGroup c ne (decide (en ≤ n0)) ((List.range ne).map fun d => codes (n0 + d)), ne * c)
  let packed := groups.foldl (fun (acc : Nat × Nat) g => (acc.1 + 2 ^ acc.2 * g.1.2.1, acc.2 + g.1.2.2)) (0, 0)
  let form := ((groups.zip (List.range groups.length)).map fun (g, d) => g.1.1 * 4 ^ d).sum
  let n1 (f : (Nat × Nat × Nat) × Nat → Bool) : Nat := (groups.filter f).length
  let saved := (groups.map fun g => if g.1.1 = 3 then 0 else g.2 - g.1.2.2).sum
  match x.share i r.outBuf k, x.share i r.formMap k with
  | some sh, some fm =>
    let a := a.andThen fun s =>
      writeBuf s k r.outBuf (opOrigin i) (sh.bitOf m (64 * t * r.sheetGroups)) (8 * ceilDiv packed.2 8) packed.1
    let a := a.andThen fun s =>
      writeBuf s k r.formMap (opOrigin i) (fm.bitOf m (t * r.sheetGroups)) (2 * r.sheetGroups) form
    a.map fun s => ((s.bumpH 0x3040 (k / 1088) 3 (n1 fun g => decide (g.1.1 = 0))).bumpH 0x3040 (k / 1088) 4
      (n1 fun g => decide (g.1.1 = 1))).bumpH 0x3040 (k / 1088) 5 saved
  | _, _ => a

/-- One past the last column that the running tiles of a part reach (R167). -/
def Binding.runEnd (b : Binding) (i k : Nat) : Nat :=
  let p := b.prog
  let r := p.op i
  let (_, j, _) := b.partAt i k
  let (_, n1) := p.nRange r (b.split i) j
  min (min (n1 * r.nPass) (p.pN r)) (ceilDiv (b.eN r) r.nPass * r.nPass)

/-- Give the sheeter the codes of a tile of vector m; write every sheet that is complete. -/
def Acc.putSheet (a : Acc) (x : Job) (k i m : Nat) (cols : List (Nat × Nat)) : Acc :=
  let r := x.bd.prog.op i
  let w := 64 * r.sheetGroups
  let fin := x.bd.runEnd i k
  let a := a.map fun s =>
    let c := s.core k
    s.setCore k { c with sheet := tset [] c.sheet (vecKey i m) (tget [] c.sheet (vecKey i m) ++ cols) }
  a.each ((cols.map fun e => e.1 / w).eraseDups) fun a t =>
    let have' := (tget [] (a.st.core k).sheet (vecKey i m)).filter fun e => decide (e.1 / w = t)
    if have'.length < min ((t + 1) * w) fin - t * w then a
    else
      let a := a.flushSheet x k i m t fun n => match have'.find? fun e => decide (e.1 = n) with
        | some e => e.2
        | none => 0
      a.map fun s =>
        let c := s.core k
        s.setCore k { c with sheet := tset [] c.sheet (vecKey i m) ((tget [] c.sheet (vecKey i m)).filter fun e => decide (e.1 / w ≠ t)) }

/-- R116: the sheets of a part that lie wholly past its running tiles: each vector within the extent gets their NONE
codes when the operation issues (log 50). -/
def Acc.emptySheets (a : Acc) (x : Job) (k i : Nat) (vecs : List Nat) : Acc :=
  let p := x.bd.prog
  let r := p.op i
  if r.sheetGroups = 0 then a
  else
    let w := 64 * r.sheetGroups
    let (_, j, kp) := x.bd.partAt i k
    let n := p.nRange r (x.bd.split i) j
    let last := ceilDiv (min (n.2 * r.nPass) (p.pN r)) w
    let first := max (n.1 * r.nPass / w) (ceilDiv (x.bd.runEnd i k) w)
    if kp ≠ 0 then a
    else a.each vecs fun a m => a.each ((List.range last).filter fun t => decide (first ≤ t)) fun a t =>
      a.flushSheet x k i m t fun _ => 0

/-! ## Writing a row of outputs -/

/-- Runs of the written elements of a row. -/
def rowRuns (sh : Share) (m n0 : Nat) (codes : List (Option Nat)) : List (Nat × Nat × Nat) :=
  joinRuns ((codes.zip (List.range codes.length)).filterMap fun (c, d) => c.map fun v => (sh.bitOf m (n0 + d), sh.bits, v))

/-- R199: whether an operation has written an element other than a zero code. -/
def State.wroteNonzero (s : State) (x : Job) (i : Nat) (b : Bool) : State :=
  s.stat x.part i fun o => { o with nonzeroOut := o.nonzeroOut || b }

/-- Write the codes of a row: elements of OUT_BUF or of the sheeter, and exponents of OUT_XBUF (R78, R116, R187). -/
def Acc.putRow (a : Acc) (x : Job) (k i m n0 : Nat) (codes : List (Option Nat)) (exps : List (Option Nat)) : Acc :=
  let r := x.bd.prog.op i
  let a :=
    if r.sheetGroups ≠ 0 then
      a.putSheet x k i m ((codes.zip (List.range codes.length)).map fun (c, d) => (n0 + d, c.getD 0))
    else match x.share i r.outBuf k with
      | none => a
      | some sh => a.andThen fun s => writeRuns s k r.outBuf (opOrigin i) (rowRuns sh m n0 codes)
  let a := match x.share i r.outXbuf k with
    | none => a
    | some sh => a.andThen fun s => writeRuns s k r.outXbuf (opOrigin i) (rowRuns sh m (n0 / 32) exps)
  a.map fun s => s.wroteNonzero x i (codes.any fun c => !isZeroCode r.outFmt (c.getD 0) && c.isSome)

/-- BELOW_MAP: 1 where FLOOR was written, 0 where another code was (Table 5-3). -/
def Acc.putBelow (a : Acc) (x : Job) (k i m n0 : Nat) (es : List OutElem) : Acc :=
  let r := x.bd.prog.op i
  match x.share i r.belowMap k with
  | none => a
  | some sh =>
    let bits := es.map fun e => match e with
      | .skip => none
      | .floor => some 1
      | .value _ => some 0
    let a := a.andThen fun s => writeRuns s k r.belowMap (opOrigin i) (rowRuns sh m n0 bits)
    a.map fun s => s.wroteNonzero x i (bits.any fun b => decide (b = some 1))

/-! ## The sift unit (R81 to R83, R94, R123) -/

/-- R81: candidate a ranks before candidate b. -/
def siftBefore (isMin : Bool) (a b : Cand) : Bool :=
  if isMin then ratLt a.p a.sh b.p b.sh || (!ratLt b.p b.sh a.p a.sh && decide (a.col < b.col))
  else ratLt b.p b.sh a.p a.sh || (!ratLt a.p a.sh b.p b.sh && decide (a.col < b.col))

/-- Insert a candidate into a list in rank order, keeping the first k. -/
def siftInsert (isMin : Bool) (k : Nat) (l : List Cand) (c : Cand) : List Cand :=
  (l.takeWhile (fun x => siftBefore isMin x c) ++ c :: l.dropWhile (fun x => siftBefore isMin x c)).take k

/-- The smallest code of a target (R82). -/
def smallestCode (f : Nat) : Nat := if fmtKind f = kBf then 0xFF7F else elemCode f (intRange f).1

/-- Elements of a position (R82). -/
def Program.posElems (p : Program) (r : OpRec) : Nat := if 65536 < p.pN r then 2 else 1

/-- Write the values and positions of vector m on core k (R82). -/
def Acc.putSift (a : Acc) (x : Job) (k i m : Nat) (l : List Cand) : Acc :=
  let p := x.bd.prog
  let r := p.op i
  let pe := 16 * p.posElems r
  let ranks := List.range r.siftK
  match x.share i r.siftVal k, x.share i r.siftPos k with
  | some sv, some sp =>
    let code (j : Nat) : Nat := match l[j]? with
      | some c => c.code
      | none => smallestCode r.outFmt
    let col (j : Nat) : Nat := match l[j]? with
      | some c => c.col
      | none => 2 ^ pe - 1
    let a := a.andThen fun s => writeRuns s k r.siftVal (opOrigin i) (joinRuns (ranks.map fun j => (sv.bitOf m j, sv.bits, code j)))
    let a := a.andThen fun s => writeRuns s k r.siftPos (opOrigin i) (joinRuns (ranks.map fun j =>
      (sp.bitOf m (j * p.posElems r), pe, col j)))
    a.map fun s => s.wroteNonzero x i (ranks.any fun j => !isZeroCode r.outFmt (code j) || decide (col j ≠ 0))
  | _, _ => a

/-- Every N-tile of an M-block has drained on the core (R83). -/
def Core.blockDone (c : Core) (op mb : Nat) : Bool :=
  (match c.run with
    | some r => decide (r.op ≠ op) || r.todo.all fun w => decide (w.mb ≠ mb)
    | none => true)
  && c.slots.all fun e => decide (e.2.phase = .free) || decide (e.2.op ≠ op) || decide (e.2.mb ≠ mb)

/-- Vectors of an M-block within the extent. -/
def Binding.blockVecs (b : Binding) (r : OpRec) (mb : Nat) : List Nat :=
  (List.range r.mBlock).filterMap fun d => if mb * r.mBlock + d < b.eM r then some (mb * r.mBlock + d) else none

/-- The N-parts of an operation that run tiles within the extent (R167). -/
def Binding.nPartsRun (b : Binding) (i : Nat) : List Nat :=
  let r := b.prog.op i
  let t := b.split i
  (List.range t.c).filter fun j => let n := b.prog.nRange r t j; decide (n.1 < n.2) && decide (n.1 * r.nPass < b.eN r)

/-- The candidate list of a vector of an operation on a core. -/
def Core.candsOf (c : Core) (i m : Nat) : List Cand := tget [] c.sift (vecKey i m)

/-- Once an M-block has drained, its candidate lists go to the buffers, or to the fold tree of the destination when N
spans cores (R82, R123). -/
def Acc.siftDone (a : Acc) (x : Job) (k i mb : Nat) : Acc :=
  let r := x.bd.prog.op i
  if r.siftK = 0 ∨ !(a.st.core k).blockDone i mb then a
  else
    let vecs := x.bd.blockVecs r mb
    let lists := vecs.map fun m => (m, (a.st.core k).candsOf i m)
    let (pi, pj, _) := x.bd.partAt i k
    let a :=
      if (x.bd.split i).c ≤ 1 then
        (a.each lists fun a e => a.putSift x k i e.1 e.2).map fun s => s.bumpH 0x3030 (k / 1088) 5 vecs.length
      else match x.bd.partCore i pi 0 0 with
        | none => a
        | some d => a.map fun s => s.sendCands (d / 1088) x.part i mb (x.bd.nPartsRun i) pj
            (lists.flatMap fun e => e.2.map fun c => (e.1, c))
    a.map fun s =>
      let c := s.core k
      s.setCore k { c with sift := vecs.foldl (fun t m => tset [] t (vecKey i m) []) c.sift }

/-! ## One row of a pair -/

/-- The columns of an N-tile within the planned N: first, one past the last. -/
def Program.tileCols (p : Program) (r : OpRec) (nt : Nat) : Nat × Nat := (nt * r.nPass, min ((nt + 1) * r.nPass) (p.pN r))

/-- Write, rank and count a row of output elements of vector m from column n0 on; columns at or beyond E_N are
masked (R80, R82, R93, R187). SIFT_ONLY suppresses FLOOR codes with the rest of the output, so BELOW_MAP marks none
(log 48). -/
def Acc.glazeRow (a : Acc) (x : Job) (k i m n0 : Nat) (es : List OutElem) : Acc :=
  let p := x.bd.prog
  let r := p.op i
  let (codes, exps, st) := outRow x.bd r m n0 es
  let floors := (es.filter fun e => decide (e = .floor)).length
  let cands := ((es.zip codes).zip (List.range es.length)).filterMap fun ((e, c), d) => match e with
    | .value v => some (⟨v.p, v.sh, n0 + d, c.getD 0⟩ : Cand)
    | _ => none
  let a := a.map fun s =>
    let s := (s.countConv k st).stat x.part i fun o => { o with underflow := o.underflow + st.under }
    if r.siftK = 0 then s
    else
      let c := s.core k
      s.setCore k { c with sift := tset [] c.sift (vecKey i m) (cands.foldl (siftInsert r.siftMin r.siftK) (c.candsOf i m)) }
  if r.siftOnly then a
  else
    let a := (a.putRow x k i m n0 codes exps).putBelow x k i m n0 es
    a.map fun s => s.bumpH 0x3038 (k / 1088) 6 floors

/-- What the glaze unit handles in each of its steps (R76): pieces of at most 64 columns, as vector of the M-block and first
column within the tile. -/
def OpRec.drainSteps (r : OpRec) : List (List (Nat × Nat)) :=
  (List.range (ceilDiv (r.mBlock * r.nPass) 64)).map fun d =>
    if 64 ≤ r.nPass then [(d / (r.nPass / 64), 64 * (d % (r.nPass / 64)))]
    else [(2 * d, 0), (2 * d + 1, 0)].filter fun q => decide (q.1 < r.mBlock)

/-- The elements of a piece of a row of a pair: those of the planned columns, `skip` at or beyond E_N. -/
def tilePiece (b : Binding) (r : OpRec) (nt c0 : Nat) (f : Nat → OutElem) : Nat × List OutElem :=
  let n1 := (b.prog.tileCols r nt).2
  let n0 := nt * r.nPass + c0
  (n0, (List.range (min (n1 - n0) 64)).map fun d => if n0 + d < b.eN r then f (n0 + d) else .skip)

/-- R99: the FLOOR codes of a dropped pair, or its unwritten elements, without the array. Of several K-parts, only
the lowest writes; a scatter sends nothing for it. -/
def Acc.dropPair (a : Acc) (x : Job) (k i mb nt : Nat) : Acc :=
  let r := x.bd.prog.op i
  let (_, _, kp) := x.bd.partAt i k
  if kp ≠ 0 ∨ 2 ≤ r.foldMode then a
  else
    let a := a.each r.drainSteps.flatten fun a q =>
      let m := mb * r.mBlock + q.1
      let (n0, es) := tilePiece x.bd r nt q.2 fun _ => if r.bandWrite then .floor else .skip
      if m < x.bd.eM r ∧ es ≠ [] then a.glazeRow x k i m n0 es else a
    a.siftDone x k i mb

/-! ## Pairs to a fold tree (R118, R121, R122) -/

/-- Vectors, columns or K positions of a tile, planned. -/
def spanOf (t size planned : Nat) : List Nat := (List.range (min ((t + 1) * size) planned - t * size)).map (t * size + ·)

/-- The entry of vector m and column n of a slot's pair. -/
def Core.pairEntry (c : Core) (r : OpRec) (t : Slot) (m n : Nat) : Entry :=
  c.entry (t.key ((m - t.mb * r.mBlock) * r.nPass + (n - t.nt * r.nPass)))

/-- The index of the pair that an entry of a slot sends (R118): its coordinate in the planned output. An entry outside the
planned shape has none; it takes a number behind all of them, by its place in the slot (log 29). -/
def Program.pairIndex (p : Program) (r : OpRec) (t : Slot) (place : Nat) : Nat :=
  let m := t.mb * r.mBlock + place / r.nPass
  let n := t.nt * r.nPass + place % r.nPass
  if m < p.pM r ∧ n < p.pN r then m * p.pN r + n else p.pM r * p.pN r + place

/-- The place in a slot of the pair with an index: `Program.pairIndex` read back. -/
def Program.pairPlace (p : Program) (r : OpRec) (t : Slot) (index : Nat) : Nat :=
  if index < p.pM r * p.pN r then (index / p.pN r - t.mb * r.mBlock) * r.nPass + (index % p.pN r - t.nt * r.nPass)
  else index - p.pM r * p.pN r

/-- R118, R121: every entry of a K-part's slot, with its overflow bit, as a pair. -/
def Core.ksplitPairs (c : Core) (p : Program) (r : OpRec) (t : Slot) (source : Nat) : List Pair :=
  (List.range (r.mBlock * r.nPass)).map fun place =>
    let v := c.entry (t.key place)
    ⟨p.pairIndex r t place, source, v.val, v.ovf⟩

/-- Send a K-part's pairs to the fold tree of the part with the lowest source. -/
def State.sendKsplit (s : State) (x : Job) (k n : Nat) : State :=
  let c := s.core k
  let t := c.slot n
  let p := x.bd.prog
  let r := p.op t.op
  let sp := x.bd.split t.op
  let (i, j, kp) := x.bd.partAt t.op k
  match x.bd.partCore t.op i j 0 with
  | none => s
  | some d => s.sendPairs (d / 1088) x.part t.op t.mb t.nt (List.range sp.s) kp
      (c.ksplitPairs p r t ((partRange kp sp.s sp.tk).1 * r.kBlocks))

/-- The part of a split that holds a block or tile. -/
def partHolding (n t y : Nat) : Nat := ((List.range n).find? fun i => let q := partRange i n t; decide (q.1 ≤ y) && decide (y < q.2)).getD 0

/-- The core that holds pair (mb, nt) of an operation, in its lowest K-part. -/
def Binding.pairCore (b : Binding) (op mb nt : Nat) : Option Nat :=
  let t := b.split op
  b.partCore op (partHolding t.r t.tm mb) (partHolding t.c t.tn (nt / t.unit)) 0

/-- The M-block and N-tile that hold a coordinate of an operation's planned output. -/
def Program.pairTile (p : Program) (r : OpRec) (index : Nat) : Nat × Nat :=
  (index / p.pN r / r.mBlock, index % p.pN r / r.nPass)

/-- R122: send the entries of a scatter's slot. Entries outside an MN band send no pair (R99; log 47). -/
def Acc.sendScatter (a : Acc) (x : Job) (k n : Nat) (env : StepEnv) : Acc :=
  let c := a.st.core k
  let t := c.slot n
  let p := x.bd.prog
  let r := p.op t.op
  let (n0, n1) := p.tileCols r t.nt
  match p.scatterDest r, x.share t.op r.scatter k with
  | some d, some sh =>
    let dr := p.op d
    a.eachStep env 0 r.drainSteps fun a qs => a.each ((qs.filter fun q => decide (q.2 = 0) &&
        decide (t.mb * r.mBlock + q.1 < x.bd.eM r)).map fun q => t.mb * r.mBlock + q.1) fun a m =>
      let (a, idx) := a.read k r.scatter (opOrigin t.op) (sh.bitOf sh.o0 (2 * m)) 32
      let cols := (List.range (min n1 (x.bd.eN r) - n0)).filterMap fun e => if r.outMN m (n0 + e) then none else some (n0 + e)
      if p.pM dr ≤ idx ∨ x.bd.eM dr ≤ idx then
        a.map fun s => s.bumpH 0x3040 (k / 1088) 8 cols.length
      else
        let pairs := cols.map fun n =>
          let v := c.pairEntry r t m n
          (⟨idx * p.pN r + n, m * p.pN r + n, v.val, v.ovf⟩ : Pair)
        if r.foldMode = 3 then match x.bd.coreAt 0 with
          | none => a
          | some q => a.map fun s => s.sendPairs (q / 1088) x.part t.op 0 0 [] 0 pairs
        else
          -- the index is a coordinate of the destination's planned shape, which says where the entry lies (R118)
          a.each ((pairs.map (p.pairTile dr ·.index)).eraseDups) fun a tile => match x.bd.pairCore d tile.1 tile.2 with
            | none => a
            | some q => a.map fun s => s.sendPairs (q / 1088) x.part t.op tile.1 tile.2 [] 0
                (pairs.filter fun e => decide (p.pairTile dr e.index = tile))
  | _, _ => a

/-- What drained entries add to an operation's figures (R69, R87, R198). -/
def State.countDrained (s : State) (x : Job) (k i : Nat) (es : List Entry) : State :=
  let flagged := (es.filter (·.ovf)).length
  (s.bumpH 0x3030 (k / 1088) 3 flagged).stat x.part i fun o => { o with
    flagged := o.flagged + flagged
    drained := o.drained + es.length
    peak := es.foldl (fun m e => max m (bitLength e.val.natAbs)) o.peak }

/-- The entries of a slot's pair within the written region. -/
def Core.writtenEntries (c : Core) (b : Binding) (t : Slot) : List Entry :=
  let r := b.prog.op t.op
  let (n0, n1) := b.prog.tileCols r t.nt
  (b.blockVecs r t.mb).flatMap fun m => (List.range (min n1 (b.eN r) - n0)).map fun d => c.pairEntry r t m (n0 + d)

def State.freeSlot (s : State) (k n : Nat) : State := s.setCore k ((s.core k).setSlot n Slot.reset)

/-! ## SLOT_DRAIN -/

/-- R78 over a slot's pair, 64 entries in each step. -/
def Acc.glazeSlot (a : Acc) (x : Job) (k n : Nat) (env : StepEnv) : Acc :=
  let c := a.st.core k
  let t := c.slot n
  let r := x.bd.prog.op t.op
  let (n0, n1) := x.bd.prog.tileCols r t.nt
  let (a, cols) := a.params x k t.op n0 (min n1 (x.bd.eN r))
  let (a, tab) := a.table x k t.op
  -- the constants are read in the first step
  let env : StepEnv := if a.stretched = 0 then env else { env with backPressure := 0 :: env.backPressure }
  let a := ({ a with stretched := 0 } : Acc).map fun s => s.countDrained x k t.op (c.writtenEntries x.bd t)
  let a := a.eachStep env 0 r.drainSteps fun a qs => a.each qs fun a q =>
    let m := t.mb * r.mBlock + q.1
    let (c0, es) := tilePiece x.bd r t.nt q.2 fun n =>
      outElem r tab m n (cols.getD (n - n0) ⟨0, 0, 0⟩) (c.pairEntry r t m n)
    if m < x.bd.eM r ∧ es ≠ [] then a.glazeRow x k t.op m c0 es else a
  (a.map fun s => s.freeSlot k n).siftDone x k t.op t.mb

/-- The slot drains now: it is DRAINING, or everything that scatters into it has arrived; earlier pairs first. -/
def State.drainReady (s : State) (x : Job) (k n : Nat) : Bool :=
  let c := s.core k
  let t := c.slot n
  (decide (t.phase = .draining) ||
    (decide (t.phase = .owned) && t.awaitsFold && !(x.bd.prog.scatterInto t.op).isEmpty
      && !((s.foldsOf (k / 1088)).any fun f => f.is x.part t.op t.mb t.nt)
      && s.scatterDone x (k / 1088) t.op t.mb t.nt)) &&
  (decide (t.left = 0) || (c.run.isNone && c.chainWait.isNone)) &&
  c.slots.all fun e => decide (e.2.phase ≠ .draining) || !lexLt [e.2.op, e.2.mb, e.2.nt] [t.op, t.mb, t.nt]

/-- The drain of a slot: the glaze, or the pairs of a K-part or a scatter; then the release (R73, R76). `env` names the
steps of the drain that back-pressure lengthened beside those of the array. -/
def State.drain (s : State) (x : Job) (k n : Nat) (env : StepEnv) : State :=
  let t := (s.core k).slot n
  let r := x.bd.prog.op t.op
  let (_, _, kp) := x.bd.partAt t.op k
  let a := Acc.ofState (s.upsets env.upsets)
  let a :=
    if 1 < (x.bd.split t.op).s ∧ kp ≠ 0 then
      (a.eachStep env 0 r.drainSteps fun a _ => a).map fun s => (s.sendKsplit x k n).freeSlot k n
    else if 2 ≤ r.foldMode then
      ((a.map fun s => s.countDrained x k t.op ((s.core k).writtenEntries x.bd t)).sendScatter x k n env).map
        fun s => s.freeSlot k n
    else a.glazeSlot x k n env
  let s := a.st.countStretched k a.stretched
  match a.fault with
  | none => s
  | some e => s.opFault x k t.op e

/-- SLOT_DRAIN (R73, R76, R78). -/
def execSlotDrain (c : CoreId) (slot : Fin 8) (env : StepEnv) (s : State) : Result :=
  match s.coreJob (idKey c) with
  | none => s.stay "R73"
  | some x => if s.drainReady x (idKey c) slot.val then .next (s.drain x (idKey c) slot.val env) else s.stay "R73"

end Sys2Proof.Machine
end

