-- ==== Sys2Proof/Machine/Array.lean ====
section
/-!
DEFINITION. The bit-serial array (R17 to R31, R36, R62 to R68, R73 to R76, R89 to R111, R134, R182, R186, R187): the
commands MATMUL, CHAIN_ISSUE's array part, ARRAY_STEP, SWAP_STEP, TOPK_REFERENCE_COMPLETE and SHADOW_CHECK.
-/
namespace Sys2Proof.Machine

/-! ## Weight tiles (R17 to R19, R27, R89, R106 to R111) -/

/-- Steps that a tile takes to load (R19, R108). -/
def OpRec.tLoad (r : OpRec) : Nat := if r.sparse then 16 + 32 / r.bw else 16

/-- The logical K position of the weight in a row and column of a tile. -/
def Tile.kOf (t : Tile) (r : OpRec) (row col : Nat) : Nat :=
  if r.sparse then 128 * t.kt + 4 * (row / 2) + (t.selects.getD row []).getD col 0 else 64 * t.kt + row

/-- Which of a vector's activations a weight takes. -/
def Tile.actOf (t : Tile) (r : OpRec) (row col : Nat) : Nat := t.kOf r row col - r.kTile * t.kt

/-- The weight of a row and column; none where R27 disables it or its row. -/
def Tile.weight (t : Tile) (b : Binding) (r : OpRec) (row col : Nat) : Option Int :=
  if (t.disabled.getD row 0).getLsbD (col * r.bw) then none
  else if r.aPadKind = 0 ∧ b.eK r ≤ t.kOf r row col then none
  else some (elemValue r.wFmt (fld (t.rows.getD row 0) (col * r.bw) r.bw))

/-- Sum of the weights of a row-group in a column that a test picks. -/
def Tile.weightSum (t : Tile) (b : Binding) (r : OpRec) (col g : Nat) (pick : Int → Bool) : Int :=
  ((List.range 16).map fun d => match t.weight b r (16 * g + d) col with
    | some w => if pick w then w else 0
    | none => 0).sum

/-- Form Wpos and Wneg (R89). -/
def Tile.sums (t : Tile) (b : Binding) (r : OpRec) : Tile :=
  { t with
    wpos := (List.range r.nPass).map fun c => (List.range 4).map fun g => t.weightSum b r c g fun w => decide (0 < w)
    wneg := (List.range r.nPass).map fun c => (List.range 4).map fun g => t.weightSum b r c g fun w => decide (w < 0) }

/-- Cells whose four slices are all 0 (R111). -/
def Tile.zeroCells (t : Tile) : Nat :=
  (t.rows.map fun w => ((List.range 128).filter fun q => decide (fld w (4 * q) 4 = 0)).length).sum

/-- The selects that the rows of a tile give: bits 2n and 2n + 1 of an array row's 2 × N_pass (R107, R108). -/
def selectsOf (r : OpRec) (rows : List Nat) : List (List Nat) :=
  if r.sparse then
    let v := ((rows.zip (List.range rows.length)).map fun e => e.1 * 2 ^ (512 * e.2)).sum
    (List.range 64).map fun row => (List.range r.nPass).map fun c => bitsAt v (2 * (r.nPass * row + c)) 2
  else []

/-- The bits and disabled bits of one array row as the weight loader writes it (R18, R27, R186). -/
def Tile.loadRow (t : Tile) (b : Binding) (r : OpRec) (row raw : Nat) : BitVec 512 × BitVec 512 :=
  let w := r.bw
  let one (c : Nat) : Nat × Nat :=
    if b.eK r ≤ t.kOf r row c ∨ b.eN r ≤ t.nt * r.nPass + c then
      (if r.wPadKind = 0 then (0, 2 ^ w - 1) else (elemCode r.wFmt r.wPad % 2 ^ w, 0))
    else
      let v := bitsAt raw (c * w) w
      ((if fmtWidth r.wFmt < w then codeOf w (elemValue r.wFmt v) else v), 0)
  let cs := (List.range r.nPass).map fun c => (one c, c * w)
  (BitVec.ofNat 512 (cs.map fun x => x.1.1 * 2 ^ x.2).sum, BitVec.ofNat 512 (cs.map fun x => x.1.2 * 2 ^ x.2).sum)

/-- The tile that a finished load leaves in the latches: its selects, then its rows as R18, R27 and R109 have them, its
exponents and its column sums (R89). -/
def Load.finish (l : Load) (b : Binding) (r : OpRec) (exps : List (List Int)) : Tile :=
  let t := { l.tile with selects := selectsOf r (l.raw.drop 64), exps := exps }
  let rows := ((l.raw.take 64).zip (List.range 64)).map fun e => t.loadRow b r e.2 e.1
  ({ t with rows := rows.map (·.1), disabled := rows.map (·.2) } : Tile).sums b r

/-! ## Bank conflicts (R127, R134) -/

/-- Banks and rows that an access of n bits touches. -/
def Handle.rowsOf (h : Handle) (bit n : Nat) : List (Nat × Nat) :=
  if n = 0 then []
  else (List.range ((bit + n - 1) / 512 + 1 - bit / 512)).map fun d => let l := h.locate (8 * (bit / 512 + d)); (l.1, l.2.1)

/-- The accesses of a source to rows of banks. -/
def usesOf (src : BankSource) (rows : List (Nat × Nat)) : List BankUse := rows.map fun e => ⟨src, e.1, e.2⟩

/-- An access of a step meets an earlier one in a bank: one of another source, or another row of its own. The accesses
stand in the order of R134; the first is served, the other is not. -/
def conflictOf (k : Nat) (before us : List BankUse) : Option CFault :=
  (List.range us.length).findSome? fun i => (us[i]?).bind fun y =>
    ((before ++ us.take i).find? fun x =>
        decide (x.bank = y.bank) && (decide (x.source ≠ y.source) || decide (x.row ≠ y.row))).map fun x =>
      ⟨cBankConflict, .bank, bankAddress k x.bank x.row 0, y.row, 0, 0⟩

/-- A conflict among the accesses of a step faults the operation, and is counted (R134, Table 7-8). -/
def Acc.conflict (a : Acc) (k : Nat) (before us : List BankUse) : Acc :=
  match conflictOf k before us with
  | some e => { a.map fun s => s.bumpH 0x3048 (k / 1088) 5 1 with fault := a.fault.or (some e) }
  | none => a

/-! ## The weight loader (R19, R20, R108) -/

/-- The tile to load next: the first K-tile not yet live. -/
def Run.nextTile (u : Run) : Option (Nat × Nat × Nat) :=
  u.todo.findSome? fun w => if w.dropped then none else w.kts.head?.map fun kt => (w.mb, w.nt, kt)

/-- What a load step reads, as first bit and length: four rows of 64 weight rows and the select rows behind them. Rows
wholly beyond E_K and columns at or beyond E_N are not read (R187). -/
def loadSpans (b : Binding) (r : OpRec) (sh : Share) (t : Tile) (step : Nat) : List (Nat × Nat) :=
  let base := sh.bitOf (t.nt * r.nPass) (64 * t.kt)
  (List.range 4).map fun d =>
    let row := 4 * step + d
    let k := if r.sparse then 128 * t.kt + 4 * (row / 2) else 64 * t.kt + row
    (base + 512 * row,
      if 64 ≤ row then 512
      else if k < b.eK r then min 512 ((b.eN r - t.nt * r.nPass) * r.bw)
      else 0)

/-- What the exponents of a tile take of their buffer: those of columns below E_N (R187). -/
def expSpan (b : Binding) (r : OpRec) (xs : Share) (t : Tile) : Nat × Nat :=
  (xs.bitOf (t.nt * r.nPass) (r.kBlocks * t.kt), 8 * (r.kBlocks * min r.nPass (b.eN r - t.nt * r.nPass)))

/-- Start a load when the shadow latches are free. -/
def Run.startLoad (u : Run) : Run :=
  if u.load.isSome ∨ u.shadow.isSome then u
  else match u.nextTile with
    | none => u
    | some (mb, nt, kt) => { u with load := some ⟨⟨mb, nt, kt, [], [], [], [], [], []⟩, [], 0⟩ }

/-- One step of the weight loader; the tile is complete with its column sums after its last step, in which the exponents
come in, from a bank that the step's own rows leave free (log 33). -/
def Acc.loadStep (a : Acc) (x : Job) (k : Nat) (u : Run) : Acc × Run :=
  let b := x.bd
  let r := b.prog.op u.op
  match u.load, x.share u.op r.wBuf k with
  | some l, some sh =>
    let spans := loadSpans b r sh l.tile l.steps
    let h := (a.st.core k).handle r.wBuf
    let us := usesOf .loader (spans.flatMap fun sp => h.rowsOf sp.1 sp.2)
    let a := { a.conflict k [] us with uses := us }
    let (a, raw) := spans.foldl (fun (acc : Acc × List Nat) sp =>
      let (a, v) := acc.1.read k r.wBuf (opOrigin u.op) sp.1 sp.2
      (a, acc.2 ++ [v])) (a, l.raw)
    let l := { l with raw := raw, steps := l.steps + 1 }
    if l.steps < r.tLoad then (a, { u with load := some l })
    else
      let (a, exps) := match x.share u.op r.wXbuf k with
        | none => (a, [])
        | some xs =>
          let sp := expSpan b r xs l.tile
          let (a, v) := a.read k r.wXbuf (opOrigin u.op) sp.1 sp.2
          ({ a with uses := a.uses ++ usesOf .loader (((a.st.core k).handle r.wXbuf).rowsOf sp.1 sp.2) },
            (List.range r.nPass).map fun c => (List.range r.kBlocks).map fun e =>
              signed (bitsAt v (8 * (c * r.kBlocks + e)) 8) 8)
      let t := l.finish b r exps
      let a := a.map fun s => s.bumpH 0x3040 (k / 1088) 2 t.zeroCells
      (a, { u with load := none, shadow := some t })
  | _, _ => (a, u)

/-! ## The feeder (R21, R22, R25, R99, R109, R186) -/

/-- m(v) of R22 for an active value. -/
def planeCount (f : Nat) (v : Int) : Nat :=
  if fmtIsB1 f then 1
  else if v = 0 then 0
  else if fmtSigned f then (if 0 < v then bitLength v.toNat + 1 else bitLength (-v - 1).toNat + 1)
  else bitLength v.toNat

/-- A vector with the values and active rows that the array sees, and its plane counts. A position beyond an extent takes
its padding value whether or not it lies in band (DEDUCED, log 134). -/
def feedVec (b : Binding) (r : OpRec) (m kt : Nat) (raw : Nat) (exps : List Int) : FedVec :=
  let k0 := r.kTile * kt
  let c := fmtBits r.aFmt
  let pad := (if r.aPadKind = 0 then 0 else r.aPad, decide (r.aPadKind ≠ 0))
  let cells := (List.range r.kTile).map fun d =>
    let k := k0 + d
    if b.eM r ≤ m ∨ b.eK r ≤ k then pad
    else if r.outMK m k then (0, !fmtIsB1 r.aFmt)
    else (elemValue r.aFmt (bitsAt raw (c * d) c), true)
  let per := r.kTile / 4
  let planes := (List.range 4).map fun g =>
    ((cells.drop (per * g)).take per).foldl (fun n x => if x.2 then max n (planeCount r.aFmt x.1) else n) 0
  ⟨m - m / r.mBlock * r.mBlock, cells.map (·.1), cells.map (·.2), planes, exps⟩

/-- What the feeder reads for vector m: bits of the values and of the exponents. -/
def feedSpans (x : Job) (k i m kt : Nat) : (Nat × Nat) × (Nat × Nat) :=
  let b := x.bd
  let r := b.prog.op i
  if b.eM r ≤ m then ((0, 0), (0, 0))
  else
    let k0 := r.kTile * kt
    let k1 := min (k0 + r.kTile) (b.eK r)
    let va := match x.share i r.aBuf k with
      | some sh => (sh.bitOf m k0, fmtBits r.aFmt * (k1 - k0))
      | none => (0, 0)
    let ea := match x.share i r.aXbuf k with
      | some sh => (sh.bitOf m (k0 / 32), 8 * (ceilDiv k1 32 - k0 / 32))
      | none => (0, 0)
    (va, ea)

/-- R25, R109: read vector m of the M-block for a K-tile, in banks apart from each other and from the weight loader's. -/
def Acc.feed (a : Acc) (x : Job) (k i m kt : Nat) : Acc × FedVec :=
  let r := x.bd.prog.op i
  let sp := feedSpans x k i m kt
  let us := usesOf .feeder (((a.st.core k).handle r.aBuf).rowsOf sp.1.1 sp.1.2 ++ ((a.st.core k).handle r.aXbuf).rowsOf sp.2.1 sp.2.2)
  let a := { a.conflict k a.uses us with uses := a.uses ++ us }
  let (a, v) := a.read k r.aBuf (opOrigin i) sp.1.1 sp.1.2
  let (a, e) := a.read k r.aXbuf (opOrigin i) sp.2.1 sp.2.2
  (a, feedVec x.bd r m kt v ((List.range (sp.2.2 / 8)).map fun d => signed (bitsAt e (8 * d) 8) 8))

/-! ## Planes and registers (R21, R23, R24, R26, R28) -/

/-- R24. -/
def FedVec.len (v : FedVec) : Nat := v.planes.foldl max 1

/-- The bit, or the ±1 of B1, that plane p drives on a row. -/
def planeBit (f : Nat) (v : Int) (p : Nat) : Int := if fmtIsB1 f then v else v / 2 ^ p % 2

/-- The plane sum of row-group g in a column (Table 2-2). -/
def planeSum (b : Binding) (r : OpRec) (t : Tile) (v : FedVec) (col g p : Nat) : Int :=
  ((List.range 16).map fun d =>
    let row := 16 * g + d
    let ai := t.actOf r row col
    match t.weight b r row col with
    | some w => if v.active.getD ai false then planeBit r.aFmt (v.values.getD ai 0) p * w else 0
    | none => 0).sum

/-- R23, R28: the registers of a column after a step. -/
def stepRegs (b : Binding) (r : OpRec) (t : Tile) (v : FedVec) (len step col : Nat) (regs : List Int) : List Int :=
  (List.range 4).map fun g =>
    let n := v.planes.getD g 0
    let s := regs.getD g 0
    if step + n < len + 1 ∨ n = 0 then s
    else
      let p := len - step
      let sum := planeSum b r t v col g p
      if p + 1 = n then (if fmtSigned r.aFmt ∧ ¬ fmtIsB1 r.aFmt then -sum else sum) else 2 * s + sum

/-- R28, R107: the K-block partials of a column. -/
def partialsOf (r : OpRec) (regs : List Int) : List Int :=
  if r.sparse then (List.range 4).map fun g => regs.getD g 0
  else [regs.getD 0 0 + regs.getD 1 0, regs.getD 2 0 + regs.getD 3 0]

/-- R65: exponents of the partials of a column. -/
def partialExps (r : OpRec) (t : Tile) (v : FedVec) (col : Nat) : List Int :=
  (List.range r.kBlocks).map fun e =>
    (if fmtKind r.aFmt = kBI then v.exps.getD e 0 else r.aExp) +
    (if fmtKind r.wFmt = kBI then (t.exps.getD col []).getD e 0 else r.wExp)

/-- The column-group of a column (R17). -/
def OpRec.group (r : OpRec) (col : Nat) : Nat := col * r.bw / 128

/-! ## Early termination (R89 to R97) -/

/-- Alignment and addition of partials to an entry value, without counting (R66, R67, R91). -/
def accSum (acc16 : Bool) (prev : Entry) (a : Int) (ps es : List Int) : Entry :=
  (ps.zip es).foldl (fun e pe => (accAlign acc16 e pe.1 pe.2 a).1) prev

/-- R91: bounds on the final value of a column's entry after step j. -/
def entryBounds (r : OpRec) (t : Tile) (v : FedVec) (len j col : Nat) (regs : List Int) (approx : Bool) (q : Nat)
    (prev : Entry) (anchor : Int) : Int × Int :=
  let grp := (List.range 4).map fun g =>
    let n := v.planes.getD g 0
    let wp := (t.wpos.getD col []).getD g 0
    let wn := (t.wneg.getD col []).getD g 0
    if n = 0 then ((0 : Int), (0 : Int), (0 : Int))
    else
      let u := len - j
      let h : Int := 2 ^ (n - 1)
      let (known, lo, hi) : Int × Int × Int :=
        if len + 1 ≤ j + n then (regs.getD g 0 * 2 ^ u, (2 ^ u - 1) * wn, (2 ^ u - 1) * wp)
        else if fmtSigned r.aFmt then (0, -h * wp + (h - 1) * wn, -h * wn + (h - 1) * wp)
        else (0, (2 ^ n - 1) * wn, (2 ^ n - 1) * wp)
      if approx then (known, -((-lo) * (16 - q) / 16), hi * (16 - q) / 16) else (known, lo, hi)
  let lows := partialsOf r (grp.map fun x => x.1 + x.2.1)
  let highs := partialsOf r (grp.map fun x => x.1 + x.2.2)
  let es := partialExps r t v col
  ((accSum r.acc16 prev anchor lows es).val, (accSum r.acc16 prev anchor highs es).val)

/-- R95: a column is proven, given the ranked values of its bounds. -/
def provenBy (r : OpRec) (lo hi : Ranked) (ref : Option Cand) : Bool :=
  (r.thresholds && (if r.etMin then ratLt r.threshold 0 lo.p lo.sh else ratLt hi.p hi.sh r.threshold 0)) ||
  (r.ranksTopk && match ref with
    | none => false
    | some c => if r.siftMin then ratLt c.p c.sh lo.p lo.sh else ratLt hi.p hi.sh c.p c.sh)

/-- R94: the reference of a vector. -/
def Core.topkRef (c : Core) (i : Nat) (r : OpRec) (m : Nat) : Option Cand := (c.candsOf i m)[r.siftK - 1]?

/-- Column-groups that stop at the end of step j (R95). -/
def stopsAt (x : Job) (c : Core) (u : Run) (t : Tile) (ps : Pass) (j : Nat) : List Nat :=
  let b := x.bd
  let r := b.prog.op u.op
  let m := t.mb * r.mBlock + ps.fed.vec
  let slot := c.slot u.slot
  let proven (col : Nat) : Bool :=
    let n := t.nt * r.nPass + col
    if b.eN r ≤ n ∨ r.outMN m n then true
    else
      let prev := c.pairEntry r slot m n
      let a := b.anchor u.op n
      let (lo, hi) := entryBounds r t ps.fed ps.len j col (ps.regs.getD col []) (decide (u.etMode = 2)) u.q prev a
      let cp := u.cols.getD col ⟨0, 0, 0⟩
      provenBy r (glazeRank r [] cp lo) (glazeRank r [] cp hi) (c.topkRef u.op r m)
  (List.range 4).filter fun g => !(ps.stopped.any fun e => decide (e.1 = g)) &&
    (List.range (r.nPass / 4)).all fun d => proven (g * (r.nPass / 4) + d)

/-! ## The sampling checker (R100 to R102) -/

/-- The shadow cores of a hearth: those that the bind left unassigned and that have not failed since (R102). A core that
returns to health serves from the next bind on (R246). -/
def State.spares (s : State) (b : Binding) (h : Nat) : List Nat :=
  b.spareCores.filter fun k => decide (k / 1088 = h) && !(s.hearth h).faulty.contains (k % 1088)

/-- R100: a column's exact value proves it. -/
def exactProven (x : Job) (c : Core) (u : Run) (t : Tile) (v : FedVec) (col : Nat) : Bool :=
  let b := x.bd
  let r := b.prog.op u.op
  let m := t.mb * r.mBlock + v.vec
  let n := t.nt * r.nPass + col
  if b.eN r ≤ n ∨ r.outMN m n then true
  else
    let regs := (List.range v.len).foldl (fun g j => stepRegs b r t v v.len (j + 1) col g) [0, 0, 0, 0]
    let e := accSum r.acc16 (c.pairEntry r (c.slot u.slot) m n) (b.anchor u.op n) (partialsOf r regs)
      (partialExps r t v col)
    let rk := glazeRank r [] (u.cols.getD col ⟨0, 0, 0⟩) e.val
    provenBy r rk rk (c.topkRef u.op r m)

/-- The pass of a logical column-group is selected. -/
def sampleSelected (b : Binding) (r : OpRec) (m g : Nat) : Bool :=
  let gn := ceilDiv (b.prog.pN r) (r.nPass / 4)
  decide (bitsAt (breeze b.seed 0 (m * gn + g)) 48 16 % 2 ^ r.sampleShift = 0)

/-- Forward the selected column-groups of a pass to a shadow core, or drop the sample (R100). The first idle shadow core of
the hearth takes it, and it is dropped when all are busy (DESIGN CHOICE, log 135). -/
def State.forwardSamples (s : State) (x : Job) (k : Nat) (u : Run) (t : Tile) (ps : Pass) : State :=
  let b := x.bd
  let r := b.prog.op u.op
  let m := t.mb * r.mBlock + ps.fed.vec
  if u.etMode ≠ 2 ∨ r.sampleShift = 0 ∨ !u.checked ∨ b.prog.pM r ≤ m then s
  else (List.range 4).foldl (fun s g =>
    let lg := 4 * t.nt + g
    if b.prog.pN r ≤ lg * (r.nPass / 4) ∨ !sampleSelected b r m lg then s
    else match (s.spares b (k / 1088)).find? fun q => (s.core q).sample.isNone with
      | none => s.bumpH 0x3038 (k / 1088) 0x0A 1
      | some q =>
        s.setCore q { s.core q with sample := some ⟨x.part, u.op, ps.stopped.any (fun e => decide (e.1 = g)),
          (List.range (r.nPass / 4)).all fun d => exactProven x (s.core k) u t ps.fed (g * (r.nPass / 4) + d)⟩ }) s

/-- SHADOW_CHECK (R100): the shadow finishes a sampled group and judges it. -/
def execShadowCheck (c : CoreId) (s : State) : Result :=
  let k := idKey c
  if !s.coreRuns k then s.stay "R102"
  else match (s.core k).sample with
    | none => s.stay "R100"
    | some sm =>
      let dev := countIf (sm.stoppedGroup && !sm.proven)
      let s := s.setCore k { s.core k with sample := none }
      let s := (s.bumpH 0x3038 (k / 1088) 8 1).bumpH 0x3038 (k / 1088) 9 dev
      .next (s.stat sm.part sm.op fun o => { o with taken := o.taken + 1, deviated := o.deviated + dev })

/-! ## Alignment (R63 to R68) -/

/-- The first anchor of a tile whose complement fails: its program offset (R64). -/
def Binding.badAnchor (b : Binding) (r : OpRec) (nt : Nat) : Option Nat :=
  let (n0, n1) := b.prog.tileCols r nt
  (List.range (ceilDiv (n1 - n0) 32)).findSome? fun d =>
    let n := n0 + 32 * d
    if anchorOk (b.prog.anchorWord r n) then none else some (b.prog.anchorsOff + 4 * (r.anchorIdx + n / 32))

/-- Align the partials of a pass into the entries of its slot: counts of inexact and zeroed alignments (R66 to R68,
R95). The columns are those that have an anchor: whole anchor groups of the planned N (R63; log 46). -/
def Core.alignTail (c : Core) (b : Binding) (r : OpRec) (t : Tail) : Core × Nat × Nat :=
  let slot := c.slot t.slot
  let n0 := slot.nt * r.nPass
  let n1 := min (n0 + r.nPass) (32 * ceilDiv (b.prog.pN r) 32)
  (List.range (n1 - n0)).foldl (fun (acc : Core × Nat × Nat) col =>
    let (c, ix, zr) := acc
    let key := slot.key (t.vec * r.nPass + col)
    let e := c.entry key
    if r.group col ∈ t.stopped then (c.setEntry key { e with stop := true }, ix, zr)
    else
      let a := b.anchor slot.op (n0 + col)
      let out := ((t.partials.getD col []).zip (t.exps.getD col [])).foldl (fun (q : Entry × Nat × Nat) pe =>
        let (e, kd) := accAlign slot.acc16 q.1 pe.1 pe.2 a
        (e, q.2.1 + countIf kd.isInexact, q.2.2 + countIf kd.isZeroed)) (e, 0, 0)
      (c.setEntry key out.1, ix + out.2.1, zr + out.2.2)) (c, 0, 0)

/-- The slot's last partial has aligned, or it has none: DRAINING, or OWNED until its folds are written (R73, R121,
R122). -/
def State.finishSlot (s : State) (x : Job) (k n : Nat) : State :=
  let t := (s.core k).slot n
  let (_, _, kp) := x.bd.partAt t.op k
  let put (s : State) (v : Slot) : State := s.setCore k ((s.core k).setSlot n v)
  if 1 < (x.bd.split t.op).s ∧ kp = 0 then (put s { t with awaitsFold := true }).sendKsplit x k n
  else if !(x.bd.prog.scatterInto t.op).isEmpty then put s { t with awaitsFold := true }
  else
    let r := x.bd.prog.op t.op
    put s { t with phase := .draining, left := ceilDiv (r.mBlock * r.nPass) 64 }

/-- One step of the tails: those at the alignment stage align (R28, R64). -/
def Acc.tickTails (a : Acc) (x : Job) (k : Nat) (u : Run) : Acc × Run :=
  let r := x.bd.prog.op u.op
  let ts := u.tails.map fun t => { t with left := t.left - 1 }
  let a := a.each (ts.filter fun t => decide (t.left = 0)) fun a t =>
    match x.bd.badAnchor r ((a.st.core k).slot t.slot).nt with
    | some off => { a with st := a.st.freeSlot k t.slot, fault := some ⟨cComplement, .program, off, 5, 0, 0⟩ }
    | none => a.map fun s =>
        let (c, ix, zr) := (s.core k).alignTail x.bd r t
        let s := ((s.setCore k c).bumpH 0x3030 (k / 1088) 1 ix).bumpH 0x3030 (k / 1088) 2 zr
        let s := s.stat x.part u.op fun o => { o with inexact := o.inexact + ix, zeroed := o.zeroed + zr }
        if t.last then s.finishSlot x k t.slot else s
  (a, { u with tails := ts.filter fun t => decide (t.left ≠ 0) })

/-! ## Pairs and claims (R74 to R76, R99, R182) -/

/-- The slot of the run's next claim is free, or held by a fill for this KEEP. -/
def Core.canClaim (c : Core) (r : OpRec) (n : Nat) : Bool :=
  let t := c.slot (r.slotOf n).1
  decide (t.phase = .free) || (r.keep && decide (n = 0) && t.filled)

/-- Claim the slot of the current pair; the bound test's column constants come with it. -/
def Acc.claimHead (a : Acc) (x : Job) (k : Nat) (u : Run) (w : PairWork) : Acc × Run :=
  let r := x.bd.prog.op u.op
  let a := a.map fun s => s.setCore k ((s.core k).claim u.op r u.claims (r.keep && decide (u.claims = 0)) w.mb w.nt)
  let (n0, n1) := x.bd.prog.tileCols r w.nt
  let (a, cols) := if u.etMode = 0 then (a, []) else a.params x k u.op n0 (min n1 (x.bd.eN r))
  (a, { u with claims := u.claims + 1, claimed := true, slot := (r.slotOf u.claims).1, cols := cols })

/-- Settle the pairs at the front: dropped pairs write their FLOOR codes, pairs without a K-tile claim and finish,
and the first pair with tiles claims its slot when it can. -/
def Acc.settle (a : Acc) (x : Job) (k : Nat) : Nat → Run → Acc × Run
  | 0, u => (a, u)
  | f + 1, u =>
    match u.todo with
    | [] => (a, u)
    | w :: rest =>
      if w.dropped then
        let u := { u with todo := rest, claimed := false }
        let a := a.map fun s => s.setCore k { s.core k with run := some u }
        (a.dropPair x k u.op w.mb w.nt).settle x k f u
      else if u.claimed then (a, u)
      else if !(a.st.core k).canClaim (x.bd.prog.op u.op) u.claims then (a, u)
      else
        let (a, u) := a.claimHead x k u w
        if w.kts.isEmpty ∧ u.live.isNone then
          let u := { u with todo := rest, claimed := false }
          let a := a.map fun s => (s.setCore k { s.core k with run := some u }).finishSlot x k u.slot
          a.settle x k f u
        else (a, u)

/-! ## One pass (R20, R24, R97) -/

/-- The N-tiles before the current one have not all been ranked (R94). -/
def Core.earlierTiles (c : Core) (op mb nt : Nat) : Bool :=
  c.slots.any fun e => decide (e.2.phase ≠ .free) && decide (e.2.op = op) && decide (e.2.mb = mb) && decide (e.2.nt < nt)

/-- The live tile is the final K-tile of its entries (R90). -/
def Run.finalTile (u : Run) : Bool :=
  match u.todo with
  | [] => true
  | w :: _ => w.kts.isEmpty

/-- Counters of a pass that ends (Tables 2-8, 5-4, 6-6). -/
def State.countPass (s : State) (k : Nat) (r : OpRec) (u : Run) (ps : Pass) : State :=
  let h := k / 1088
  let planes := ps.fed.planes.sum
  let s := ((s.bumpH 0x3020 h 1 ps.step).bumpH 0x3020 h 2 1).bumpH 0x3020 h 3 planes
  let s := s.bumpH 0x3020 h 4 (4 * fmtWidth r.aFmt - planes)
  let s := if r.sparse then s.bumpH 0x3040 h 1 1 else s
  if u.etMode = 0 ∨ !u.finalTile ∨ ps.len < 2 then s
  else
    let s := (s.bumpH 0x3038 h 1 4).bumpH 0x3038 h 2 ps.stopped.length
    let s := s.bumpH 0x3038 h 3 (ps.stopped.map fun e => ps.len - e.2).sum
    if ps.step < ps.len then (s.bumpH 0x3038 h 4 1).bumpH 0x3038 h 5 (ps.len - ps.step) else s

/-- The pass ends: its partials enter the tail, and the next vector or tile follows (R20, R28, R182). -/
def Acc.endPass (a : Acc) (x : Job) (k : Nat) (u : Run) (t : Tile) (ps : Pass) : Acc × Run :=
  let r := x.bd.prog.op u.op
  let a := a.map fun s => s.countPass k r u ps
  let a := if u.finalTile then a.map fun s => s.forwardSamples x k u t ps else a
  let tileDone := decide (r.mBlock ≤ u.vec + 1)
  let pairDone := tileDone && u.finalTile
  let tail : Tail := {
    left := 3
    slot := u.slot
    vec := ps.fed.vec
    partials := ps.regs.map (partialsOf r)
    exps := (List.range r.nPass).map (partialExps r t ps.fed)
    stopped := ps.stopped.map (·.1)
    last := pairDone }
  let u := { u with
    pass := none
    tails := u.tails ++ [tail]
    vec := if tileDone then 0 else u.vec + 1
    live := if tileDone then none else some t
    todo := if pairDone then u.todo.drop 1 else u.todo
    claimed := u.claimed && !pairDone }
  (a, u)

/-- One step of a pass, with the feeder's read of the next vector in its first step and the bound test at its end. -/
def Acc.passStep (a : Acc) (x : Job) (k : Nat) (u : Run) (t : Tile) (ps : Pass) : Acc × Run :=
  let r := x.bd.prog.op u.op
  let j := ps.step + 1
  let (a, u) :=
    if j = 1 ∧ u.vec + 1 < r.mBlock then
      let (a, v) := a.feed x k u.op (t.mb * r.mBlock + u.vec + 1) t.kt
      (a, { u with fed := some v })
    else (a, u)
  let ps := { ps with
    step := j
    regs := (List.range r.nPass).map fun c =>
      let g := ps.regs.getD c []
      if ps.stopped.any fun e => decide (e.1 = r.group c) then g else stepRegs x.bd r t ps.fed ps.len j c g }
  let ps :=
    if u.etMode ≠ 0 ∧ u.finalTile ∧ j < ps.len then
      { ps with stopped := ps.stopped ++ (stopsAt x (a.st.core k) u t ps j).map fun g => (g, j) }
    else ps
  if ps.len ≤ j ∨ ps.stopped.length = 4 then a.endPass x k u t ps else (a, { u with pass := some ps })

/-- What the array does in a step: a step of a pass, or a wait for a slot, for a reference or for a load. -/
def Acc.arrayPart (a : Acc) (x : Job) (k : Nat) (u : Run) : Acc × Run :=
  let r := x.bd.prog.op u.op
  let h := k / 1088
  match u.live with
  | none =>
    if u.todo.isEmpty then (a, u)
    else if u.todo.head?.any (fun w => w.kts.isEmpty) then (a.map fun s => s.bumpH 0x3030 h 4 1, u)
    else if u.swaps = 0 then (a, u)
    else (a.map fun s => s.bumpH 0x3020 h 5 1, u)
  | some t =>
    match u.pass with
    | some ps => a.passStep x k u t ps
    | none =>
      if !u.claimed then (a.map fun s => s.bumpH 0x3030 h 4 1, u)
      else if u.topkWait ∨ (u.etMode ≠ 0 ∧ r.ranksTopk ∧ u.finalTile ∧ u.vec = 0 ∧ (a.st.core k).earlierTiles u.op t.mb t.nt) then
        (a.map fun s => s.bumpH 0x3038 h 0x0B 1, { u with topkWait := true })
      else match u.fed with
        | none => (a, u)
        | some v =>
          let ps : Pass := ⟨v, v.len, 0, (List.range r.nPass).map fun _ => [0, 0, 0, 0], []⟩
          a.passStep x k { u with fed := none } t ps

/-- Keep the run, or end it when its last partial has aligned. -/
def Run.orDone (u : Run) : Option Run :=
  if u.todo.isEmpty ∧ u.pass.isNone ∧ u.live.isNone ∧ u.tails.isEmpty then none else some u

/-- Put a run back into its core; a fault stops the partition. -/
def Acc.close (a : Acc) (x : Job) (k op : Nat) (u : Run) (env : StepEnv) : State :=
  let s := a.st.setCore k { a.st.core k with run := u.orDone }
  let s := s.countStretched k (countIf (decide (a.stretched ≠ 0) || !env.backPressure.isEmpty))
  match a.fault with
  | none => s
  | some e => s.opFault x k op e

/-- What the glaze unit writes in a step of its drain: the operation it drains, and the bank rows of OUT_BUF, OUT_XBUF and
BELOW_MAP that the step's elements lie in. The rows of sheets and of sift lists follow the data and stand in no stated
step (log 58). -/
def State.glazeUses (s : State) (x : Job) (k : Nat) : Option (Nat × List BankUse) :=
  let c := s.core k
  c.draining.bind fun e =>
    let t := e.2
    let r := x.bd.prog.op t.op
    let (_, _, kp) := x.bd.partAt t.op k
    if t.left = 0 ∨ 2 ≤ r.foldMode ∨ kp ≠ 0 ∨ r.siftOnly then none
    else
      let cells := ((r.drainSteps.getD (r.drainSteps.length - t.left) []).flatMap fun q =>
        (List.range 64).map fun d => (t.mb * r.mBlock + q.1, t.nt * r.nPass + q.2 + d)).filter fun y =>
          decide (y.1 < x.bd.eM r) && decide (y.2 < x.bd.eN r) && decide (y.2 < (t.nt + 1) * r.nPass)
            && (r.bandWrite || !r.outMN y.1 y.2)
      let rows (hd : Nat) (unit : Nat) : List (Nat × Nat) := match x.share t.op hd k with
        | none => []
        | some sh => cells.flatMap fun y => (c.handle hd).rowsOf (sh.bitOf y.1 (y.2 / unit)) sh.bits
      some (t.op, usesOf .glaze
        ((if r.sheetGroups = 0 then rows r.outBuf 1 else []) ++ rows r.outXbuf 32 ++ rows r.belowMap 1).eraseDups)

/-- The glaze unit's writes of a step meet the step's other accesses: the operation it drains faults (R134). The rows that
it writes itself lie in no stated order within the step and are not set against each other. -/
def State.glazeConflict (s : State) (x : Job) (k : Nat) (others : List BankUse) (g : Option (Nat × List BankUse)) : State :=
  match g with
  | none => s
  | some (op, us) => match us.findSome? fun y => conflictOf k others [y] with
    | none => s
    | some e => (s.bumpH 0x3048 (k / 1088) 5 1).opFault x k op e

/-- One handshake step with a run (R30): weight loader, feeder and rows, columns, then alignment. -/
def State.stepRun (s : State) (x : Job) (k : Nat) (u : Run) (env : StepEnv) : State :=
  let glaze := s.glazeUses x k
  let a := Acc.ofState ((s.upsets env.upsets).mapCore k Core.tickDrain)
  let u := u.startLoad
  let pre := u.tails
  let (a, v) := a.loadStep x k u
  let (a, v) := a.settle x k v.todo.length v
  let (a, v) := a.arrayPart x k v
  -- partials of the pass that ends in this step begin their three steps with the next one
  let fresh := v.tails.drop pre.length
  let (a, w) := a.tickTails x k { v with tails := pre }
  let w := { w with tails := w.tails ++ fresh }
  let (a, w) := a.settle x k w.todo.length w
  (a.close x k u.op w env).glazeConflict x k a.uses glaze

/-- The wait for a top-k reference is over: TOPK_REFERENCE_COMPLETE comes before the core's next step (R94). -/
def Run.referenceDue (u : Run) (c : Core) : Bool := u.topkWait && match u.live with
  | some t => !c.earlierTiles u.op t.mb t.nt
  | none => false

/-- A step is enabled: something other than the swap step is next, and neither a release nor a reference is due, so that a
core's steps do not depend on when those commands come (R35). -/
def Run.stepEnabled (u : Run) (c : Core) : Bool :=
  !c.releaseDue && !u.referenceDue c && !(u.live.isNone && u.shadow.isSome && (match u.todo with
    | [] => false
    | w :: _ => !w.kts.isEmpty))

/-- R74: every slot the operation names is FREE, or held by a fill for its KEEP. -/
def Core.slotsReady (c : Core) (r : OpRec) : Bool :=
  r.slotNames.all fun n => decide ((c.slot n).phase = .free) || (r.keep && (c.slot n).filled)

/-- ARRAY_STEP (R30 and the rules it couples). -/
def execArrayStep (c : CoreId) (env : StepEnv) (s : State) : Result :=
  let k := idKey c
  match s.coreJob k with
  | none => s.stay "R30"
  | some x =>
    match (s.core k).run with
    | some u => if u.stepEnabled (s.core k) then .next (s.stepRun x k u env) else s.stay "R20"
    | none =>
      match (s.core k).chainWait with
      | some i =>
        if !(s.core k).releaseDue ∧ !(s.core k).slotsReady (x.bd.prog.op i) then
          .next (((((s.upsets env.upsets).mapCore k Core.tickDrain).bumpH 0x3030 (k / 1088) 4 1).countStretched k
            (countIf (!env.backPressure.isEmpty))).glazeConflict x k [] (s.glazeUses x k))
        else s.stay "R74"
      | none => s.stay "R30"

/-- The tile in the shadow latches belongs to the current pair and the array stands. -/
def Run.swapReady (u : Run) : Option Tile :=
  match u.shadow, u.todo with
  | some t, w :: _ => if u.live.isNone ∧ t.mb = w.mb ∧ t.nt = w.nt ∧ w.kts.head? = some t.kt ∧ ¬ w.dropped then some t else none
  | _, _ => none

/-- The swap step makes the loaded tile live; the feeder reads its first vector (R19, R20, R25). -/
def State.swap (s : State) (x : Job) (k : Nat) (u : Run) (t : Tile) (env : StepEnv) : State :=
  let r := x.bd.prog.op u.op
  let glaze := s.glazeUses x k
  let a := Acc.ofState (((s.upsets env.upsets).mapCore k Core.tickDrain).bumpH 0x3020 (k / 1088) 5 1)
  let (a, v) := a.feed x k u.op (t.mb * r.mBlock) t.kt
  let u := { u with
    live := some t
    shadow := none
    swaps := u.swaps + 1
    vec := 0
    fed := some v
    todo := match u.todo with
      | [] => []
      | w :: ws => { w with kts := w.kts.drop 1 } :: ws }
  let (a, u) := a.tickTails x k u
  (a.close x k u.op u env).glazeConflict x k a.uses glaze

/-- SWAP_STEP (R19, R20). -/
def execSwapStep (c : SwapStep) (s : State) : Result :=
  let k := idKey c.core
  match s.coreJob k with
  | none => s.stay "R20"
  | some x => match (s.core k).run with
    | none => s.stay "R20"
    | some u => match u.swapReady with
      | none => s.stay "R20"
      | some t => if (s.core k).releaseDue then s.stay "R76" else .next (s.swap x k u t c.env)

/-- TOPK_REFERENCE_COMPLETE (R94). -/
def execTopkReferenceComplete (c : CoreId) (s : State) : Result :=
  let k := idKey c
  match s.coreJob k with
  | none => s.stay "R94"
  | some _ => match (s.core k).run with
    | none => s.stay "R94"
    | some u =>
      match u.live with
      | none => s.stay "R94"
      | some t =>
        if u.topkWait ∧ !(s.core k).earlierTiles u.op t.mb t.nt then
          .next (s.setCore k { s.core k with run := some { u with topkWait := false } })
        else s.stay "R94"

/-! ## Issue (R73, R74, R99, R102, R105, R167, R182) -/

/-- R99: every element of a pair lies out of an MN band. -/
def Binding.pairOut (b : Binding) (r : OpRec) (mb nt : Nat) : Bool :=
  decide (r.bandAxes = 1) && (spanOf mb r.mBlock (b.prog.pM r)).all fun m => (spanOf nt r.nPass (b.prog.pN r)).all (r.outMN m)
/-- R99: every activation of a K-tile lies out of an MK band for every vector of the M-block. -/
def Binding.tileOut (b : Binding) (r : OpRec) (mb kt : Nat) : Bool :=
  decide (r.bandAxes = 2) && (spanOf mb r.mBlock (b.prog.pM r)).all fun m => (spanOf kt r.kTile (b.prog.pK r)).all (r.outMK m)

def rangeList (q : Nat × Nat) : List Nat := (List.range (q.2 - q.1)).map (q.1 + ·)

/-- The planned pairs and K-tiles of a core's part, with their drops. -/
def Binding.plannedPairs (b : Binding) (i k : Nat) : List PairWork :=
  let r := b.prog.op i
  let t := b.split i
  let (pi, pj, pk) := b.partAt i k
  (rangeList (partRange pi t.r t.tm)).flatMap fun mb => (rangeList (b.prog.nRange r t pj)).map fun nt =>
    ⟨mb, nt, (rangeList (partRange pk t.s t.tk)).filter fun kt => !b.tileOut r mb kt, b.pairOut r mb nt⟩

/-- Tiles that R99 drops from the part at bind, over the planned shape (log 49). -/
def Binding.droppedTiles (b : Binding) (i k : Nat) : Nat :=
  let t := b.split i
  let (_, _, pk) := b.partAt i k
  let n := (rangeList (partRange pk t.s t.tk)).length
  ((b.plannedPairs i k).map fun w => if w.dropped then n else n - w.kts.length).sum

/-- The pairs that run, within the extents (R167). -/
def Binding.pairs (b : Binding) (i k : Nat) : List PairWork :=
  let r := b.prog.op i
  (b.plannedPairs i k).filterMap fun w =>
    if w.mb * r.mBlock < b.eM r ∧ w.nt * r.nPass < b.eN r then
      some { w with kts := w.kts.filter fun kt => decide (kt * r.kTile < b.eK r) }
    else none

/-- R92, R102: the mode that the operation runs with, whether the checker serves it, and what is counted. -/
def State.chooseMode (s : State) (b : Binding) (i : Nat) : Nat × Bool × Option Nat :=
  let r := b.prog.op i
  if s.obj 0x6030 4 = 1 then (0, false, none)
  else if r.etMode = 2 ∧ r.sampleShift ≠ 0 then
    if (((b.coresOf i).map (· / 1088)).eraseDups).all fun h => !(s.spares b h).isEmpty then (2, true, none)
    else if s.obj 0x6030 1 = 0 then (2, false, some 3)
    else (1, false, some 5)
  else (r.etMode, false, none)

/-- R105: an operation samples its controls when its first part issues; its other parts follow. -/
def State.sampleMode (s : State) (x : Job) (i : Nat) : State × Nat × Bool :=
  match ((s.part x.part).binding.bind fun b => b.modes.find? fun e => decide (e.1 = i)) with
  | some e => (s, e.2)
  | none =>
    let (mode, checked, counted) := s.chooseMode x.bd i
    let s := match counted with
      | some sub => s.bump 0x6030 sub 1
      | none => s
    (s.setBinding x.part fun b => { b with modes := b.modes ++ [(i, mode, checked)] }, mode, checked)

/-- The product starts on a core: its run, and its first claim (R73, R182). -/
def State.startProduct (s : State) (x : Job) (k i : Nat) : State :=
  let r := x.bd.prog.op i
  let (s, mode, checked) := s.sampleMode x i
  let s := s.bumpH 0x3038 (k / 1088) 7 (x.bd.droppedTiles i k)
  let c := s.core k
  let s := s.setCore k { c with next := max c.next (i + 1), chainWait := none }
  let u : Run := {
    op := i
    etMode := mode
    q := if mode = 2 then r.q else 0
    checked := checked
    todo := x.bd.pairs i k
    claims := 0
    claimed := false
    slot := r.slot
    cols := []
    load := none
    shadow := none
    live := none
    swaps := 0
    vec := 0
    fed := none
    pass := none
    tails := []
    topkWait := false }
  let (pi, _, _) := x.bd.partAt i k
  let rows := (rangeList (partRange pi (x.bd.split i).r (x.bd.split i).tm)).flatMap (x.bd.blockVecs r)
  let (a, u) := ((Acc.ofState s).emptySheets x k i rows).settle x k u.todo.length u
  a.close x k i u {}

/-- The first busy slot that an operation names. -/
def Core.busySlot (c : Core) (r : OpRec) : Nat :=
  (r.slotNames.find? fun n => decide ((c.slot n).phase ≠ .free)).getD r.slot

/-- ACC_TILE_BUSY at issue, or the wait of CHAIN (R74). -/
def State.busyOrWait (s : State) (x : Job) (k i : Nat) : State :=
  let r := x.bd.prog.op i
  let s := s.issued k i
  if r.chain then s.setCore k { s.core k with chainWait := some i }
  else s.opFault x k i ⟨cAccTileBusy, .operation, i, (s.core k).busySlot r, 0, 0⟩

/-- MATMUL (R73, R74, R167, R182): issue of a core's part of an array product. -/
def execMatmul (c : CoreId) (s : State) : Result :=
  let k := idKey c
  match s.issue k kMatmul with
  | none => s.stay "R168"
  | some (x, i) =>
    if (x.bd.pairs i k).isEmpty ∨ (s.core k).slotsReady (x.bd.prog.op i) then .next (s.startProduct x k i)
    else .next (s.busyOrWait x k i)

end Sys2Proof.Machine
end

