-- ==== Sys2Proof/Machine/Larder.lean ====
section
/-!
DEFINITION. The larders and HBM (R147 to R154, R216): sets, tree pseudo-LRU, misses, write-back, pinning, mirror
copies and undo images; the commands LARDER_REQUEST, LARDER_FILL and CLEAN.
-/
namespace Sys2Proof.Machine

/-! ## Addresses -/

/-- Bytes of a stack (R152). -/
def stackBytes : Nat := 48000000000
def stackOf (addr : Nat) : Nat := bitsAt addr 36 4
def offOf (addr : Nat) : Nat := addr % 2 ^ 36
def hbmAddr (stack off : Nat) : Nat := 2 ^ 36 * stack + off
/-- A device HBM address that exists (R152). -/
def hbmOk (addr : Nat) : Bool := decide (addr < 2 ^ 40) && decide (offOf addr < stackBytes)
/-- The partner of R153 and R219. -/
def partner (stack : Nat) : Nat := stack ^^^ 10
/-- R148: the set of a stack offset. -/
def larderSet (off : Nat) : Nat := bitsAt off 7 17 ^^^ bitsAt off 24 12

/-! ## Lines and replacement (R148, R149) -/

def Larder.setLines (l : Larder) (set : Nat) : List Line := tget [] l.lines set
def Larder.putLines (l : Larder) (set : Nat) (ls : List Line) : Larder := { l with lines := tset [] l.lines set ls }
def Larder.find (l : Larder) (line : Nat) : Option Line :=
  (l.setLines (larderSet (128 * line))).find? fun x => x.line = line

/-- The tree bits of a set point away from the way just used: node d on the path of way w. -/
def plruTouch (bits way : Nat) : Nat :=
  (List.range 4).foldl (fun b d =>
    let node := 2 ^ d + way / 2 ^ (4 - d)
    let dir := way / 2 ^ (3 - d) % 2
    if dir = 1 then b - (b / 2 ^ node % 2) * 2 ^ node else b - (b / 2 ^ node % 2) * 2 ^ node + 2 ^ node) bits

/-- The way that the tree bits name, turned aside where a half holds no unpinned way. -/
def plruVictim (bits : Nat) (free : Nat → Bool) : Nat → Nat → Nat
  | 0, node => node - 16
  | d + 1, node =>
    let want := bits / 2 ^ node % 2
    let has (side : Nat) : Bool := (List.range (2 ^ d)).any fun x => free ((2 * node + side) * 2 ^ d + x - 16)
    let side := if has want then want else 1 - want
    plruVictim bits free d (2 * node + side)

/-- The way for a new line: the lowest empty way, else the pseudo-LRU unpinned way. -/
def Larder.victim (l : Larder) (set : Nat) : Nat :=
  let ls := l.setLines set
  match (List.range 16).find? fun w => !(ls.any fun x => decide (x.way = w)) with
  | some w => w
  | none => plruVictim (tget 0 l.plru set) (fun w => ls.any fun x => decide (x.way = w) && !x.pinned) 4 1

def Larder.touch (l : Larder) (set way : Nat) : Larder :=
  { l with plru := tset 0 l.plru set (plruTouch (tget 0 l.plru set) way) }

/-- Replace a present line. -/
def Larder.update (l : Larder) (x : Line) : Larder :=
  let set := larderSet (128 * x.line)
  l.putLines set ((l.setLines set).map fun y => if y.line = x.line then x else y)

/-! ## HBM behind the larder -/

/-- Poison marks of the words of a line (R148). -/
def State.linePoison (s : State) (addr : Nat) : List Bool :=
  (List.range 16).map fun w => decide (addr + 8 * w ∈ s.hbmPoison)

/-- The ECC error that a word of HBM holds, and those of a line. -/
def State.wordEcc (s : State) (addr : Nat) : Option UpsetKind := tget none s.hbmEcc (addr / 8)
def State.lineEcc (s : State) (addr : Nat) : List (Option UpsetKind) := (List.range 16).map fun w => s.wordEcc (addr + 8 * w)
def State.setEcc (s : State) (addr : Nat) (e : Option UpsetKind) : State :=
  { s with hbmEcc := tset none s.hbmEcc (addr / 8) e }

/-- What a further upset makes of a word's ECC error. -/
def upsetEcc : UpsetKind → Option UpsetKind → Option UpsetKind
  | .single, none => some .single
  | _, _ => some .uncorrectable

/-- Write a line's bytes and poison marking to HBM. -/
def State.hbmPutLine (s : State) (addr : Nat) (data : List Byte) (poison : List Bool) : State :=
  let words := (List.range 16).map fun w => addr + 8 * w
  let bad := (List.range 16).filterMap fun w => if poison.getD w false then some (addr + 8 * w) else none
  words.foldl (fun s a => s.setEcc a none) { s with
    hbm := memWriteBytes s.hbm addr data
    hbmPoison := (s.hbmPoison.filter fun a => a ∉ words) ++ bad }

def State.bumpLarder (s : State) (h sub n : Nat) : State := s.bumpH 0x3050 h sub n

/-- A larder holds nothing, and so no pinned line (0x3050.05). -/
def State.dropLarder (s : State) (h : Nat) : State := (s.setLarder h Larder.reset).setObj (0x3050 + 0x100 * h) 5 0

/-! ## Who owns an HBM byte -/

/-- HBM areas of a binding: base, bytes. -/
def Binding.areas (b : Binding) : List (Nat × Nat) :=
  ((List.range b.prog.bufs.length).filterMap fun i =>
    if (b.prog.buf i).inHbm then (b.places[i]?).map fun pl => (pl.hbm, pagesOf (b.prog.hbmBytes i) * pageBytes) else none)
  ++ (b.ckpt.map fun c => (c.2, pagesOf (b.prog.bufBytes (b.prog.buf c.1)) * pageBytes))
  ++ (if b.undoPages = 0 then [] else [(b.undoBase, b.undoPages * pageBytes)])

def inArea (addr : Nat) (a : Nat × Nat) : Bool := decide (a.1 ≤ addr) && decide (addr < a.1 + a.2)

/-- The partition whose resident binding holds an HBM address. -/
def State.hbmOwner (s : State) (addr : Nat) : Option Nat :=
  (List.range 16).find? fun p => match (s.part p).binding with
    | some b => b.areas.any (inArea addr)
    | none => false

/-- 0x4021 MIRROR_STATE of a partition. -/
def State.mirrorState (s : State) (p : Nat) : Nat := s.obj 0x4021 (p + 1)

/-- MIRROR_STATE of the partition that holds a byte; 0 where none does. -/
def State.mirrorAt (s : State) (addr : Nat) : Nat := ((s.hbmOwner addr).map s.mirrorState).getD 0

/-- R153: the byte has a second copy in the partner stack. Under MIRROR_STATE 2 the partition goes on with the copy that
serves it, and has the protection of an unmirrored one (R154). -/
def State.mirrored (s : State) (addr : Nat) : Bool := decide (s.mirrorAt addr = 1)

/-- R154: the address that serves an access, when a stack of a mirrored pair has failed. -/
def State.serveAddr (s : State) (addr : Nat) : Nat :=
  let h := stackOf addr
  if h ∈ s.health.stacksFailed ∧ s.mirrorAt addr ≠ 0 then hbmAddr (partner h) (offOf addr) else addr

/-! ## SECDED of lines and of HBM (R138, R148, R153) -/

/-- A line as a read delivers it: its data and poison marks, the words that failed now, whether a copy served any. -/
structure Mended where
  st : State
  data : List Byte
  poison : List Bool
  failed : List Bool
  served : Bool

/-- What the partner copy of a line holds, and which of its words are no good. -/
def State.partnerCopy (s : State) (h line : Nat) : List Byte × List Bool :=
  let a := hbmAddr (partner h) (128 * line)
  let (data, poison, ecc) := match (s.larder (partner h)).find line with
    | some x => (x.data, x.poison, x.ecc)
    | none => (memReadBytes s.hbm a 128, s.linePoison a, s.lineEcc a)
  (data, (List.range 16).map fun w => poison.getD w false || decide (ecc.getD w none = some .uncorrectable))

/-- R138, R153: an uncorrectable word comes from the partner copy; without one it becomes poisoned, and has failed the read
that met it. -/
def State.mend (s : State) (h line : Nat) (data : List Byte) (poison : List Bool) (ecc : List (Option UpsetKind)) : Mended :=
  let bad (w : Nat) : Bool := decide (ecc.getD w none = some .uncorrectable)
  let copy := s.partnerCopy h line
  let spare := s.mirrored (hbmAddr h (128 * line)) && decide (partner h ∉ s.health.stacksFailed)
  let served (w : Nat) : Bool := bad w && spare && !copy.2.getD w true
  let some' := (List.range 16).any served
  { st := if some' then s.bumpLarder h 7 1 else s
    data := (List.range 128).map fun b =>
      if served (b / 8) then copy.1.getD b 0 else if bad (b / 8) then 0 else data.getD b 0
    poison := (List.range 16).map fun w => poison.getD w false || (bad w && !served w)
    failed := (List.range 16).map fun w => bad w && !served w
    served := some' }

/-- No word of a line has failed. -/
def noFailed : List Bool := List.replicate 16 false

/-- Whether a line's errors include an uncorrectable one. -/
def eccBad (ecc : List (Option UpsetKind)) : Bool := ecc.any fun e => decide (e = some .uncorrectable)

/-- Read a line of HBM (R138, R153): corrected errors are counted; good data of the copy is rewritten to the stack, and what
is lost is marked poisoned there. -/
def State.readHbm (s : State) (h line : Nat) : Mended :=
  let a := hbmAddr h (128 * line)
  let ecc := s.lineEcc a
  let s := if ecc.any fun e => decide (e = some .single) then s.bumpLarder h 6 1 else s
  if eccBad ecc then
    let m := s.mend h line (memReadBytes s.hbm a 128) (s.linePoison a) ecc
    { m with st := m.st.hbmPutLine a m.data m.poison }
  else ⟨s, memReadBytes s.hbm a 128, s.linePoison a, noFailed, false⟩

/-- Write a dirty line back (Table 7-7). -/
def State.writeBack (s : State) (h : Nat) (x : Line) : State :=
  if x.dirty then
    let m := s.mend h x.line x.data x.poison x.ecc
    (m.st.hbmPutLine (hbmAddr h (128 * x.line)) m.data m.poison).bumpLarder h 4 1
  else s

/-- Put a line into its set, evicting a victim. -/
def State.allocLine (s : State) (h line : Nat) (data : List Byte) (dirty : Bool) (poison : List Bool) : State :=
  let l := s.larder h
  let set := larderSet (128 * line)
  let w := l.victim set
  let s := match (l.setLines set).find? fun x => x.way = w with
    | some x => s.writeBack h x
    | none => s
  let l := s.larder h
  let keep := (l.setLines set).filter fun x => x.way ≠ w
  s.setLarder h ((l.putLines set (keep ++ [⟨w, line, data, dirty, false, poison, []⟩])).touch set w)

/-- An upset of a word of a stack, in HBM or in the line its larder holds; a poisoned word is no error (R137). -/
def State.hbmUpset (s : State) (u : HbmUpset) : State :=
  let h := u.stack.val
  let a := hbmAddr h (8 * u.word)
  let w := u.word % 16
  if !u.inLarder then (if a ∈ s.hbmPoison then s else s.setEcc a (upsetEcc u.kind (s.wordEcc a)))
  else match (s.larder h).find (u.word / 16) with
    | none => s
    | some x =>
      let old (v : Nat) : Option UpsetKind := x.ecc.getD v none
      let ecc := (List.range 16).map fun v => if v = w then upsetEcc u.kind (old v) else old v
      if x.poison.getD w false then s else s.setLarder h ((s.larder h).update { x with ecc := ecc })

def State.hbmUpsets (s : State) (us : List HbmUpset) : State := us.foldl State.hbmUpset s

/-! ## Present lines -/

/-- Bring a line in, or find it present, with the words that failed this read. A present line counts in HITS; for an absent
one, `sub` is the counter of Table 7-7 that its HBM read counts in, 0 for none. -/
def State.bringLine (s : State) (sub h line : Nat) : State × Line × List Bool :=
  match (s.larder h).find line with
  | some x =>
    let s := (s.setLarder h ((s.larder h).touch (larderSet (128 * line)) x.way)).bumpLarder h 1 1
    if eccBad x.ecc then
      let m := s.mend h line x.data x.poison x.ecc
      let x := { x with
        data := m.data
        poison := m.poison
        dirty := true
        ecc := x.ecc.map fun e => if e = some .uncorrectable then none else e }
      (m.st.setLarder h ((m.st.larder h).update x), x, m.failed)
    else (s, x, noFailed)
  | none =>
    let m := s.readHbm h line
    let s := (if sub = 0 then m.st else m.st.bumpLarder h sub 1).allocLine h line m.data false m.poison
    (s, ((s.larder h).find line).getD ⟨0, line, m.data, false, false, m.poison, []⟩, m.failed)

/-- Write bytes into a line: whole words clear poison and errors; a partial write onto a poisoned word zeroes the rest of it
(R138, R139, R148). -/
def Line.write (x : Line) (off : Nat) (bs : List Byte) : Line :=
  let n := bs.length
  let covered (b : Nat) : Bool := decide (off ≤ b) && decide (b < off + n)
  let touched (w : Nat) : Bool := (List.range 8).any fun i => covered (8 * w + i)
  let data := (List.range 128).map fun b =>
    if covered b then bs.getD (b - off) 0
    else if x.poison.getD (b / 8) false ∧ touched (b / 8) then 0 else x.data.getD b 0
  { x with
    data := data
    dirty := true
    poison := (List.range 16).map fun w => x.poison.getD w false && !touched w
    ecc := (List.range 16).map fun w => if touched w then none else x.ecc.getD w none }

/-- The spans of an address range within lines: stack, line, offset in the line, length. -/
def lineSpans (addr : Nat) : Nat → Nat → List (Nat × Nat × Nat × Nat)
  | _, 0 => []
  | 0, _ => []
  | fuel + 1, n =>
    let o := offOf addr % 128
    let here := min (128 - o) n
    (stackOf addr, offOf addr / 128, o, here) :: lineSpans (addr + here) fuel (n - here)

def spansOf (addr n : Nat) : List (Nat × Nat × Nat × Nat) := lineSpans addr (n / 128 + 2) n

/-- Write one span into its line: a whole line is allocated without reading HBM (R148). -/
def State.putLine (s : State) (h line off : Nat) (bs : List Byte) : State :=
  if off = 0 ∧ bs.length = 128 ∧ ((s.larder h).find line).isNone then s.allocLine h line bs true noFailed
  else
    let (s, x, _) := s.bringLine 2 h line
    s.setLarder h ((s.larder h).update (x.write off bs))

/-- Write one span to the partner copy of mirrored data (R153). -/
def State.putCopy (s : State) (h line off : Nat) (bs : List Byte) : State :=
  if s.mirrored (hbmAddr h (128 * line)) ∧ partner h ∉ s.health.stacksFailed then s.putLine (partner h) line off bs else s

/-- The words of a line that a range of its bytes touches. -/
def touchesWord (off n w : Nat) : Bool := decide (8 * w < off + n) && decide (off < 8 * w + 8)

/-- The first word of a range that a test picks. -/
def firstWord (off n : Nat) (p : List Bool) : Option Nat := (List.range 16).find? fun w => p.getD w false && touchesWord off n w

/-- A larder answers a request: its source, the response code, the bytes read. -/
def State.answer (s : State) (h source code : Nat) (bs : List Byte) : State :=
  s.setLarder h { s.larder h with replies := (s.larder h).replies ++ [(source, code, bs)] }

/-- Refuse a request of a larder: one log entry, and the answer with the code (R230). -/
def State.refuseReq (s : State) (h : Nat) (r : LarderReq) (code addr : Nat) : State :=
  (s.report (plainReport code (unitStack h) .hbm addr)).answer h r.source code []

/-- Serve a request against a present line: the reply of a read, or the bytes written. A word that a read needs and that
failed in this read of the line, or is poisoned, faults its consumer (R138). -/
def State.serve (s : State) (h : Nat) (failed : List Bool) (r : LarderReq) : State :=
  match (s.larder h).find (r.off / 128) with
  | none => s
  | some x =>
    let o := r.off % 128
    let l := (s.larder h).touch (larderSet r.off) x.way
    match r.data with
    | some d => (s.setLarder h (l.update (x.write o d))).putCopy h (r.off / 128) o d
    | none =>
      let s := s.setLarder h l
      match firstWord o r.len failed, firstWord o r.len x.poison with
      | some w, _ => s.refuseReq h r cEccUncorrectable (hbmAddr h (128 * (r.off / 128) + 8 * w))
      | none, some w => s.refuseReq h r cPoisonRead (hbmAddr h (128 * (r.off / 128) + 8 * w))
      | none, none => s.answer h r.source 0 ((x.data.drop o).take r.len)

/-- The miss of a line completes: one HBM read serves every request merged into it, in issue order (R150). -/
def State.completeMiss (s : State) (sub h line : Nat) (rs : List LarderReq) : State × Line × List Bool :=
  let misses := (s.larder h).misses.filter fun (m : Nat × List LarderReq) => decide (m.1 ≠ line)
  let (s, x, failed) := (s.setLarder h { s.larder h with misses := misses }).bringLine sub h line
  let s := rs.foldl (fun s r => s.serve h failed r) s
  (s, ((s.larder h).find line).getD x, failed)

/-- Bring a line in for an access, or find it present. An access to a line whose miss is outstanding merges into that miss
(R150). -/
def State.fetchLine (s : State) (h line : Nat) : State × Line × List Bool :=
  match (s.larder h).misses.find? fun m => m.1 = line with
  | some m => s.completeMiss 3 h line m.2
  | none => s.bringLine 2 h line

/-- Write one span through its larder, behind what waits for the line; without undo. -/
def State.putSpan (s : State) (h line off : Nat) (bs : List Byte) : State :=
  let s := match (s.larder h).misses.find? fun m => m.1 = line with
    | some m => (s.completeMiss 3 h line m.2).1
    | none => s
  s.putLine h line off bs

/-- Write bytes at a device address through the larders, to both copies of mirrored data (R147, R153) and to the copy that
serves where one is left (R154); no undo. -/
def State.putBytes (s : State) (addr : Nat) (bs : List Byte) : State :=
  ((spansOf addr bs.length).foldl (fun (acc : State × List Byte) sp =>
    let (h, line, off, n) := sp
    let here := acc.2.take n
    let target := stackOf (acc.1.serveAddr (hbmAddr h (128 * line)))
    let s := if target ∈ acc.1.health.stacksFailed then acc.1 else acc.1.putSpan target line off here
    (if target = h then s.putCopy h line off here else s, acc.2.drop n)) (s, bs)).1

/-- The fault of a read of an HBM address. -/
def hbmFault (code addr : Nat) : CFault := ⟨code, .hbm, addr, 0, 0, 0⟩

/-- Read one span through its larder: what an uncorrectable or poisoned word gives its consumer (R138, R148). -/
def State.getSpan (s : State) (h0 line off len : Nat) : State × Except CFault (List Byte) :=
  let here := s.serveAddr (hbmAddr h0 (128 * line))
  let h := stackOf here
  if !hbmOk (here + off) then (s, .error (hbmFault cDenied (here + off)))
  else if h ∈ s.health.stacksFailed then (s, .error (hbmFault cEccUncorrectable (here + off)))
  else
    let (s, x, failed) := s.fetchLine h line
    match firstWord off len failed, firstWord off len x.poison with
    | some w, _ => (s, .error (hbmFault cEccUncorrectable (here + 8 * w)))
    | none, some w => (s, .error (hbmFault cPoisonRead (here + 8 * w)))
    | none, none => (s, .ok ((x.data.drop off).take len))

/-- Read bytes at a device address through the larders, stopping at the first fault. -/
def State.getBytes (s : State) (addr n : Nat) : State × Except CFault (List Byte) :=
  (spansOf addr n).foldl (fun (acc : State × Except CFault (List Byte)) sp =>
    match acc.2 with
    | .error _ => acc
    | .ok got =>
      let r := acc.1.getSpan sp.1 sp.2.1 sp.2.2.1 sp.2.2.2
      (r.1, r.2.map (got ++ ·))) (s, .ok [])

/-! ## Copies that keep poison -/

/-- Bytes of an area and its poisoned words (as word numbers from its start), read past any check: Leaven and the larders
move carried data with its marking. What a failed stack held is poisoned. -/
def State.rawRead (s : State) (addr n : Nat) : State × List Byte × List Nat :=
  (spansOf addr n).foldl (fun (acc : State × List Byte × List Nat) sp =>
    let (h0, line, off, len) := sp
    let base := hbmAddr h0 (128 * line)
    let h := stackOf (acc.1.serveAddr base)
    let (s, data, poison) :=
      if h ∈ acc.1.health.stacksFailed then (acc.1, List.replicate 128 0, List.replicate 16 true)
      else let r := acc.1.fetchLine h line; (r.1, r.2.1.data, r.2.1.poison)
    (s, acc.2.1 ++ (data.drop off).take len, acc.2.2 ++ (List.range 16).filterMap fun w =>
      if poison.getD w false && touchesWord off len w then some ((base + 8 * w - addr) / 8) else none)) (s, [], [])

/-- Mark one word of HBM poisoned. -/
def State.poisonHbm (s : State) (addr : Nat) : State :=
  let h := stackOf (s.serveAddr addr)
  if h ∈ s.health.stacksFailed then s
  else
    let (s, x, _) := s.fetchLine h (offOf addr / 128)
    s.setLarder h ((s.larder h).update { x with
      dirty := true
      poison := (List.range 16).map fun w => x.poison.getD w false || decide (w = offOf addr % 128 / 8) })

def State.rawWrite (s : State) (addr : Nat) (data : List Byte) (poison : List Nat) : State :=
  poison.foldl (fun s w => s.poisonHbm (addr + 8 * w)) (s.putBytes addr data)

/-! ## Undo images (R216) -/

/-- The partition whose carried data includes a page. -/
def Binding.carriesPage (b : Binding) (page : Nat) : Bool :=
  (List.range b.prog.bufs.length).any fun i => b.prog.carriedHbm i &&
    match b.places[i]? with
    | some pl => inArea page (pl.hbm, pagesOf (b.prog.hbmBytes i) * pageBytes)
    | none => false

/-- Copy a page's present contents, with their poison marks, into the undo area before the first write of an interval. -/
def State.capturePage (s : State) (page : Nat) : State :=
  match s.hbmOwner page with
  | none => s
  | some p => match (s.part p).binding with
    | none => s
    | some b =>
      if (s.part p).current.isNone ∨ !b.carriesPage page ∨ (b.undo.any fun u => decide (u.1 = page)) then s
      else
        let slot := b.undo.length
        let (s, data, poison) := s.rawRead page pageBytes
        let s := s.rawWrite (b.undoBase + pageBytes * slot) data poison
        s.setPart p { s.part p with binding := some { b with undo := b.undo ++ [(page, slot)] } }

/-- Pages that a range touches. -/
def pagesIn (addr n : Nat) : List Nat :=
  if n = 0 then []
  else (List.range ((addr + n - 1) / pageBytes + 1 - addr / pageBytes)).map fun i => pageBytes * (addr / pageBytes + i)

/-- A write of part of a word reads the rest of it: an uncorrectable word there faults the write (R138). -/
def State.endWord (s : State) (addr : Nat) (part : Bool) : State × Option CFault :=
  if !part then (s, none)
  else match s.getSpan (stackOf addr) (offOf addr / 128) (offOf addr % 128 / 8 * 8) 8 with
    | (s, .error e) => (s, if e.code = cEccUncorrectable then some e else none)
    | (s, .ok _) => (s, none)

/-- Write bytes at a device HBM address: R152, R153, R216. -/
def State.hbmWrite (s : State) (addr : Nat) (bs : List Byte) : State × Option CFault :=
  let last := addr + bs.length - 1
  if bs.isEmpty then (s, none)
  else if !hbmOk addr ∨ !hbmOk last ∨ stackOf addr ≠ stackOf last then (s, some (hbmFault cDenied addr))
  else
    let (s, e0) := s.endWord addr (decide (addr % 8 ≠ 0 ∨ (bs.length < 8 ∧ addr / 8 = last / 8)))
    let (s, e1) := s.endWord last (decide (last % 8 ≠ 7))
    match e0.or e1 with
    | some e => (s, some e)
    | none => (((pagesIn addr bs.length).foldl State.capturePage s).putBytes addr bs, none)

/-! ## Pinning (R149) -/

/-- Lines of an area that fall into a set count toward its 12 pinned ways. -/
def State.pinFits (s : State) (addr bytes : Nat) : Bool :=
  let h := stackOf addr
  let l := s.larder h
  let sets := (List.range (ceilDiv bytes 128)).map fun i => larderSet (offOf addr + 128 * i)
  sets.all fun x =>
    decide (((l.setLines x).filter (·.pinned)).length + (sets.filter fun y => y = x).length ≤ 12)

def State.setPinned (s : State) (pin : Bool) (addr bytes : Nat) : State :=
  let h := stackOf addr
  (List.range (ceilDiv bytes 128)).foldl (fun s i =>
    let line := (offOf addr + 128 * i) / 128
    let s := if pin then (s.fetchLine h line).1 else s
    match (s.larder h).find line with
    | none => s
    | some x =>
      if x.pinned = pin then s
      else
        let n := s.obj (0x3050 + 0x100 * h) 5
        (s.setLarder h ((s.larder h).update { x with pinned := pin })).setObj (0x3050 + 0x100 * h) 5
          (if pin then n + 1 else n - 1)) s

/-! ## Requests (LARDER_REQUEST, LARDER_FILL) -/

/-- A request waits behind one of its source to its line (R150). -/
def Larder.behind (l : Larder) (r : LarderReq) : Bool :=
  l.waiting.any fun q => decide (q.source = r.source) && decide (q.off / 128 = r.off / 128)

def State.larderWait (s : State) (h : Nat) (r : LarderReq) : State :=
  s.setLarder h { s.larder h with waiting := (s.larder h).waiting ++ [r] }

/-- Take a request in: behind what waits, hit, merge, whole-line allocation, a new miss, or the wait for a miss entry
(R148, R150). -/
def State.larderTake (s : State) (h : Nat) (r : LarderReq) : State :=
  let line := r.off / 128
  if (s.larder h).behind r then s.larderWait h r
  else
    let s := if r.data.isSome then (pagesIn (hbmAddr h r.off) r.len).foldl State.capturePage s else s
    let l := s.larder h
    if (l.find line).isSome then
      let (s, _, failed) := s.bringLine 2 h line
      s.serve h failed r
    else if l.misses.any fun m => decide (m.1 = line) then
      (s.setLarder h { l with misses := l.misses.map fun m => if m.1 = line then (m.1, m.2 ++ [r]) else m }).bumpLarder h 3 1
    else if r.off % 128 = 0 ∧ r.len = 128 ∧ r.data.isSome then
      (s.allocLine h line (r.data.getD []) true noFailed).putCopy h line 0 (r.data.getD [])
    else if 256 ≤ l.misses.length then s.larderWait h r
    else (s.setLarder h { l with misses := l.misses ++ [(line, [r])] }).bumpLarder h 2 1

/-- LARDER_REQUEST (R147, R148, R150, R152). -/
def execLarderRequest (st : Stack) (r : LarderReq) (s : State) : Result :=
  if !s.alive ∨ st.val ∈ s.health.stacksFailed then s.stay "R318"
  else
    let s := s.hbmUpsets r.upsets
    if stackBytes ≤ r.off + r.len - 1 then .next (s.refuseReq st.val r cDenied (hbmAddr st.val r.off))
    else .next (s.larderTake st.val r)

/-- What the controller meets when it reads a line: a corrected error is counted, failed words hold their errors. -/
def State.readMeets (s : State) (h line : Nat) : HbmRead → State
  | .clean => s
  | .corrected => s.bumpLarder h 6 1
  | .uncorrectable ws => (List.range 16).foldl (fun s w =>
      let a := hbmAddr h (128 * line + 8 * w)
      if ws.getLsbD w ∧ a ∉ s.hbmPoison then s.setEcc a (some .uncorrectable) else s) s

/-- What waits for a miss entry is taken in again, in order, as far as entries go. -/
def State.retryWaiting (s : State) (h : Nat) : State :=
  (s.larder h).waiting.foldl (fun s r => s.larderTake h r) (s.setLarder h { s.larder h with waiting := [] })

/-- LARDER_FILL (R148, R150, R153): the miss of a line completes and serves its requests in order; waiting requests then
take the free entry. -/
def execLarderFill (st : Stack) (line : Nat) (own other : HbmRead) (s : State) : Result :=
  let h := st.val
  if !s.alive ∨ h ∈ s.health.stacksFailed then s.stay "R318"
  else match (s.larder h).misses.find? fun m => m.1 = line with
  | none => s.stay "R150"
  | some m =>
    let s := s.readMeets h line own
    let s := if eccBad (s.lineEcc (hbmAddr h (128 * line))) then s.readMeets (partner h) line other else s
    .next ((s.completeMiss 0 h line m.2).1.retryWaiting h)

/-- The line lies in one of the address ranges (lo ≤ offset < hi). -/
def Line.within (x : Line) (ranges : List (Nat × Nat)) : Bool :=
  ranges.any fun r => decide (r.1 ≤ 128 * x.line) && decide (128 * x.line < r.2)

/-- Write back the dirty lines of address ranges; the lines stay, clean (R151). -/
def State.cleanRange (s : State) (h : Nat) (ranges : List (Nat × Nat)) : State :=
  let l := s.larder h
  let s := ((l.lines.flatMap (·.2)).filter fun x => x.dirty && x.within ranges).foldl (fun s x => s.writeBack h x) s
  s.setLarder h { l with lines := l.lines.map fun e =>
    (e.1, e.2.map fun x => if x.within ranges then { x with dirty := false } else x) }

/-- CLEAN (R151). -/
def execClean (st : Stack) (ranges : List (Nat × Nat)) (s : State) : Result :=
  if !s.alive ∨ st.val ∈ s.health.stacksFailed then s.stay "R318" else .next (s.cleanRange st.val ranges)

end Sys2Proof.Machine
end

