-- ==== Sys2Proof/Machine/Links.lean ====
section
/-!
DEFINITION. The link layer of the Finwell ports (R282 to R287, R291): flits, sequence numbers, acknowledgements,
credits, routes; and the END of a transfer, which follows the last acknowledgement (R293, R294).
-/
namespace Sys2Proof.Machine

/-! ## Flits (Tables 14-1, 14-2) -/

abbrev Flit := BitVec 2048

def Flit.ty (f : Flit) : Nat := fld f 0 8
def Flit.cls (f : Flit) : Nat := fld f 8 2
def Flit.ackValid (f : Flit) : Bool := f.getLsbD 10
def Flit.nak (f : Flit) : Bool := f.getLsbD 11
def Flit.seq (f : Flit) : Nat := fld f 12 12
def Flit.ackSeq (f : Flit) : Nat := fld f 24 12
def Flit.credits (f : Flit) : Nat := fld f 36 10
def Flit.creditCls (f : Flit) : Nat := fld f 46 2
def Flit.dst (f : Flit) : Nat := fld f 48 16
def Flit.src (f : Flit) : Nat := fld f 64 16
def Flit.len (f : Flit) : Nat := fld f 80 8
def Flit.rsvd (f : Flit) : Nat := fld f 88 8
def Flit.address (f : Flit) : Nat := fld f 96 64
def Flit.tag (f : Flit) : Nat := fld f 160 32
/-- The 224 payload bytes. -/
def Flit.payload (f : Flit) : List Byte := toBytes 224 (fld f 192 1792)
def Flit.data (f : Flit) : List Byte := (Flit.payload f).take (Flit.len f)

def tIdle : Nat := 0
def tWrite : Nat := 1
def tEnd : Nat := 2
def tEndAck : Nat := 3
def tMgmt : Nat := 4
def tTime : Nat := 5
def tHello : Nat := 6
def tNodeMap : Nat := 7

def clData : Nat := 0
def clResp : Nat := 1
def clMgmt : Nat := 2
def clControl : Nat := 3

/-- LCRC over bytes 0 to 247. -/
def lcrcOf (v : Nat) : Nat := crcOf crc64xz (toBytes 248 v)
def Flit.crcOk (f : Flit) : Bool := decide (lcrcOf f.toNat = fld f 1984 64)

/-- A flit before the link layer stamps it: type, class, nodes, address, tag and payload. -/
def flitOf (ty cls dst src addr tag : Nat) (data : List Byte) : Flit :=
  BitVec.ofNat 2048 (ty + 2 ^ 8 * cls + 2 ^ 48 * (dst % 2 ^ 16) + 2 ^ 64 * (src % 2 ^ 16) + 2 ^ 80 * data.length
    + 2 ^ 96 * (addr % 2 ^ 64) + 2 ^ 160 * (tag % 2 ^ 32) + 2 ^ 192 * fromBytes data)

/-- A flit without the fields that belong to one link: bits 10 to 47 and LCRC are 0. -/
def Flit.strip (f : Flit) : Flit := BitVec.ofNat 2048 (fld f 0 10 + 2 ^ 48 * fld f 48 1936)

/-- Add sequence number, acknowledgement, returned credits and LCRC, in place of those of an earlier link. -/
def Flit.stamp (f : Flit) (seq ack : Nat) (nak : Bool) (credits cls : Nat) : Flit :=
  let v := (Flit.strip f).toNat + 2 ^ 10 + (if nak then 2 ^ 11 else 0) + 2 ^ 12 * seq + 2 ^ 24 * ack + 2 ^ 36 * credits + 2 ^ 46 * cls
  BitVec.ofNat 2048 (v + 2 ^ 1984 * lcrcOf v)

/-! ## Sending (R283, R285) -/

/-- The last flit received in order and intact. -/
def Link.lastGood (l : Link) : Nat := (l.expected + 4095) % 4096

/-- The largest number of unacknowledged flits (R283). -/
def replayMax : Nat := 2048

def Link.canTransmit (l : Link) (f : Flit) : Bool :=
  decide (l.state = .up) && decide (0 < l.credits.getD (Flit.cls f) 0) && decide (l.replay.length < replayMax)

/-- Send a flit against a credit of its class and keep it until it is acknowledged. -/
def Link.transmit (l : Link) (f : Flit) : Link :=
  { l with
    nextSeq := (l.nextSeq + 1) % 4096
    replay := l.replay ++ [(l.nextSeq, f)]
    credits := l.credits.set (Flit.cls f) (l.credits.getD (Flit.cls f) 0 - 1)
    sent := l.sent ++ [Flit.stamp f l.nextSeq l.lastGood false 0 0] }

/-- Send a flit, or queue it behind those of its class. -/
def Link.push (l : Link) (f : Flit) : Link :=
  if l.canTransmit f ∧ (l.waiting.all fun g => decide (Flit.cls g ≠ Flit.cls f)) then l.transmit f
  else { l with waiting := l.waiting ++ [f] }

/-- What waits, MGMT and CONTROL before the others, so that these have their share while flits of theirs wait (R285). -/
def Link.order (l : Link) : List Flit :=
  (l.waiting.filter fun f => decide (2 ≤ Flit.cls f)) ++ l.waiting.filter fun f => decide (Flit.cls f < 2)

/-- Send what waits and has a credit now; no class holds another up. -/
def Link.pump (l : Link) : Link := l.order.foldl Link.push { l with waiting := [] }

/-- An IDLE flit: acknowledgement or NAK, and returned credits. -/
def Link.sendIdle (l : Link) (nak : Bool) (credits cls : Nat) : Link :=
  { l with sent := l.sent ++ [Flit.stamp (flitOf tIdle 0 0xFFFF 0xFFFF 0 0 []) 0 l.lastGood nak credits cls] }

/-- Resend every unacknowledged flit in order. -/
def Link.resend (l : Link) : Link :=
  { l with sent := l.sent ++ l.replay.map fun e => Flit.stamp e.2 e.1 l.lastGood false 0 0 }

/-! ## Nodes and routes (R286, R287, R291) -/

def isUplinkPort (p : Nat) : Bool := decide (p = 7) || decide (p = 15)
/-- The link of a port joins two boards. -/
def State.isUplink (s : State) (p : Nat) : Bool := isUplinkPort p || isUplinkPort (s.link p).peerPort

/-- The node at the far end of a port: as its HELLO gave it, else by its strap on this board, else by the map. -/
def State.peerNode (s : State) (p : Nat) : Nat :=
  let l := s.link p
  if l.state ≠ .up then 0xFFFF
  else if l.peer ≠ 0xFFFF then l.peer
  else if s.net.node = 0xFFFF then 0xFFFF
  else if !s.isUplink p then 16 * (s.net.node / 16) + l.peerStrap
  else match s.net.uplinks.find? fun u => (u.1 = s.net.node ∧ u.2.1 = p) ∨ (u.2.2.1 = s.net.node ∧ u.2.2.2 = p) with
    | some u => if u.1 = s.net.node ∧ u.2.1 = p then u.2.2.1 else u.1
    | none => 0xFFFF

/-- The port with the fewest flits queued, the lowest of them (R291). -/
def State.leastQueued (s : State) (ps : List Nat) : Option Nat :=
  ps.foldl (fun best p => match best with
    | none => some p
    | some q => if (s.link p).waiting.length < (s.link q).waiting.length then some p else some q) none

def State.portsTo (s : State) (node : Nat) : List Nat :=
  (List.range 16).filter fun p => decide ((s.link p).state = .up) && decide (s.peerNode p = node)

/-- Uplink links seen from each end: node, port, far node. -/
def Net.edges (n : Net) : List (Nat × Nat × Nat) :=
  n.uplinks.flatMap fun u => [(u.1, u.2.1, u.2.2.1), (u.2.2.1, u.2.2.2, u.1)]

/-- The shorter of two lengths, where `none` is no path. -/
def optMin : Option Nat → Option Nat → Option Nat
  | some a, some b => some (min a b)
  | some a, none => some a
  | none, b => b

/-- Board hops from board b to board t along links away from board 0. Boards are numbered breadth-first, so a link
leads up to the lower number. -/
def downHops (es : List (Nat × Nat × Nat)) (t : Nat) : Nat → Nat → Option Nat
  | 0, b => if b = t then some 0 else none
  | fuel + 1, b =>
    if b = t then some 0
    else es.foldl (fun m e =>
      if e.1 / 16 = b ∧ b < e.2.2 / 16 then optMin m ((downHops es t fuel (e.2.2 / 16)).map (· + 1)) else m) none

/-- Board hops of the shortest path in up*/down* order. -/
def legalHops (es : List (Nat × Nat × Nat)) (t : Nat) : Nat → Nat → Option Nat
  | 0, b => downHops es t 0 b
  | fuel + 1, b =>
    es.foldl (fun m e =>
      if e.1 / 16 = b ∧ e.2.2 / 16 < b then optMin m ((legalHops es t fuel (e.2.2 / 16)).map (· + 1)) else m)
      (downHops es t (fuel + 1) b)

/-- The link by which the shortest route to board t leaves board b, of the lowest port among equals; after a hop away from
board 0, links towards it are out of bounds (R291). -/
def bestEdge (es : List (Nat × Nat × Nat)) (t : Nat) (down : Bool) (b : Nat) : Option (Nat × Nat × Nat) :=
  let cost (e : Nat × Nat × Nat) : Option Nat :=
    if b < e.2.2 / 16 then downHops es t es.length (e.2.2 / 16)
    else if down then none
    else legalHops es t es.length (e.2.2 / 16)
  ((es.filter fun e => decide (e.1 / 16 = b) && decide (e.2.2 / 16 ≠ b)).foldl (fun (m : Option (Nat × Nat × Nat × Nat)) e =>
    match cost e, m with
    | none, _ => m
    | some c, none => some (c, e)
    | some c, some (c', e') => if c < c' ∨ (c = c' ∧ e.2.1 < e'.2.1) then some (c, e) else m) none).map (·.2)

/-- Whether a flit for board t has gone away from board 0 when it comes to board `here` from board b. -/
def wentDown (es : List (Nat × Nat × Nat)) (t here : Nat) : Nat → Bool → Nat → Bool
  | 0, down, _ => down
  | fuel + 1, down, b =>
    if b = here then down
    else match bestEdge es t down b with
      | none => down
      | some e => wentDown es t here fuel (down || decide (b < e.2.2 / 16)) (e.2.2 / 16)

/-- R291: the port towards a node, of a flit that began at a node. -/
def State.route (s : State) (src dst : Nat) : Option Nat :=
  let me := s.net.node
  let es := s.net.edges
  let t := dst / 16
  if t = me / 16 then s.leastQueued (s.portsTo dst)
  else match bestEdge es t (wentDown es t (me / 16) (es.length + 1) false (src / 16)) (me / 16) with
    | none => none
    | some e => s.leastQueued (s.portsTo (if e.1 = me then e.2.2 else e.1))

/-- A port that cannot carry flits again by itself. -/
def State.portGone (s : State) (p : Nat) : Bool :=
  decide (16 ≤ p) || decide ((s.link p).state = .down) || decide ((s.link p).state = .failed)

def Flow.isOf (w : Flow) (src dst ty tag : Nat) : Bool :=
  decide (w.src = src) && decide (w.dst = dst) && decide (w.ty = ty) && decide (w.tag = tag)

/-- The port of a transfer or message in progress; else the one that the route now gives (R291). -/
def State.flowPort (s : State) (src dst ty tag : Nat) : Option Nat :=
  match s.net.flows.find? fun w => w.isOf src dst ty tag && !s.portGone w.port with
  | some w => some w.port
  | none => s.route src dst

def State.dropFlow (s : State) (src dst ty tag : Nat) : State :=
  { s with net := { s.net with flows := s.net.flows.filter fun w => !w.isOf src dst ty tag } }

/-- All later flits of the transfer or message take this port. -/
def State.keepFlow (s : State) (src dst ty tag p : Nat) : State :=
  let s := s.dropFlow src dst ty tag
  { s with net := { s.net with flows := s.net.flows ++ [⟨src, dst, ty, tag, p⟩] } }

/-- The type under which the flits of one transfer go: an END goes with its WRITEs. -/
def Flit.flowTy (f : Flit) : Nat := if Flit.ty f = tEnd then tWrite else Flit.ty f

/-- A flit after which others of its transfer or message follow. -/
def Flit.hasNext (f : Flit) : Bool :=
  decide (Flit.ty f = tWrite) ||
    ((decide (Flit.ty f = tMgmt) || decide (Flit.ty f = tNodeMap)) && decide (numAt (Flit.payload f) 1 1 % 2 = 0))

/-- Send a flit on a port; 16 stands for no port, where no route is left. -/
def State.sendOn (s : State) (p : Nat) (f : Flit) : State := if 16 ≤ p then s else s.setLink p ((s.link p).push f)

/-- Send a flit towards its DST_NODE, on the link of the flits it follows; where no route is left it is dropped, and the
timeouts of its sender recover it (R259, R291, R293). -/
def State.sendTo (s : State) (f : Flit) : State :=
  match s.flowPort (Flit.src f) (Flit.dst f) (Flit.flowTy f) (Flit.tag f) with
  | some p =>
    (if Flit.hasNext f then s.keepFlow (Flit.src f) (Flit.dst f) (Flit.flowTy f) (Flit.tag f) p
      else s.dropFlow (Flit.src f) (Flit.dst f) (Flit.flowTy f) (Flit.tag f)).sendOn p f
  | none => s

/-! ## Transfers (R293, R294) -/

/-- The arrival record of R294. -/
def arrivalRecord (bytes node ctx seq : Nat) : List Byte :=
  toBytes 64 (bytes + 2 ^ 32 * (2 ^ 32 - 1 - bytes % 2 ^ 32) + 2 ^ 64 * node + 2 ^ 80 * ctx + 2 ^ 96 * seq)

/-- The TAG of a transfer: that of its TRANSFER, of which each descriptor's token is a part (R291, R293; log 138). -/
def MoverDesc.tag (d : MoverDesc) : Nat := d.token / 256 * 256

/-- The END of a transfer (R293). -/
def State.endOf (s : State) (d : MoverDesc) (bytes : Nat) : Flit :=
  let who := s.running d.part
  flitOf tEnd clData d.node s.net.node d.record d.tag
    (arrivalRecord bytes s.net.node ((who.map (·.1)).getD 0) ((who.map fun w => w.2.seq).getD 0))

def State.setActive (s : State) (m i : Nat) (a : Active) : State :=
  s.setMover m { s.mover m with active := (s.mover m).active.set i a }

/-- A descriptor completes and passes its token with a code (R155, R156). -/
def State.doneDesc (s : State) (m i code : Nat) : State :=
  let mv := s.mover m
  match mv.active[i]? with
  | none => s
  | some a => s.setMover m { mv with active := mv.active.eraseIdx i, done := mv.done ++ [(a.desc.token, code)] }

/-- All flits of a transfer are acknowledged: its END follows, or, where a later descriptor of the TRANSFER sends the
END, the descriptor completes. -/
def State.transferAcked (s : State) (m i : Nat) (a : Active) : State :=
  match a.desc.endBytes with
  | none => s.doneDesc m i 0
  | some bytes =>
    ((s.setActive m i { a with endSent := some s.now }).dropFlow s.net.node a.desc.node tWrite a.desc.tag).sendOn a.port
      (s.endOf a.desc bytes)

/-- A flit sent on a port has been acknowledged. -/
def State.flitAcked (s : State) (p : Nat) (f : Flit) : State :=
  if Flit.ty f ≠ tWrite ∨ Flit.src f ≠ s.net.node then s
  else
    let hit (a : Active) : Bool := decide (a.desc.dstSpace = .finwell) && decide (a.desc.tag = Flit.tag f)
      && decide (a.port = p) && decide (0 < a.unacked)
    match (List.range 8).find? fun i => (s.mover (128 + i)).active.any hit with
    | none => s
    | some q =>
      let m := 128 + q
      match (s.mover m).active.findIdx? hit with
      | none => s
      | some i => match (s.mover m).active[i]? with
        | none => s
        | some a =>
          let a := { a with unacked := a.unacked - 1 }
          let s := s.setActive m i a
          if a.unacked = 0 then s.transferAcked m i a else s

/-! ## Receiving (R282, R283, R285) -/

/-- Flits that an ACK_SEQ acknowledges, and those it leaves. -/
def Link.ackedBy (l : Link) (seq : Nat) : List (Nat × Flit) × List (Nat × Flit) :=
  match l.replay.findIdx? fun e => e.1 = seq with
  | none => ([], l.replay)
  | some i => (l.replay.take (i + 1), l.replay.drop (i + 1))

/-- Apply the acknowledgement, NAK and credits of an accepted flit. -/
def State.applyAck (s : State) (p : Nat) (f : Flit) : State :=
  let l := s.link p
  let (gone, left) := if Flit.ackValid f then l.ackedBy (Flit.ackSeq f) else ([], l.replay)
  let cls := Flit.creditCls f
  let l := { l with
    replay := left
    credits := l.credits.set cls (l.credits.getD cls 0 + Flit.credits f) }
  let s := s.setLink p (if Flit.nak f then l.resend else l)
  let s := if Flit.nak f then s.bump (0x9000 + p) 6 left.length else s
  let s := gone.foldl (fun s e => s.flitAcked p e.2) s
  s.setLink p (s.link p).pump

/-- What the link layer makes of a received flit (R282, R283): whether it is delivered. -/
def State.rxFlit (s : State) (p : Nat) (f : Flit) : State × Bool :=
  let l := s.link p
  let deny (s : State) : State := s.deny (unitFinwell p) .value 0
  if !Flit.crcOk f ∨ (Flit.ty f ≠ tIdle ∧ Flit.seq f ≠ l.expected) then
    (if l.nakSent then s else s.setLink p ({ l with nakSent := true }.sendIdle true 0 0), false)
  else if Flit.ty f = tIdle then (if Flit.rsvd f ≠ 0 then deny s else s.applyAck p f, false)
  else
    let s := s.setLink p { l with expected := (l.expected + 1) % 4096, nakSent := false }
    if 7 < Flit.ty f ∨ Flit.rsvd f ≠ 0 then
      (deny (s.setLink p ((s.link p).sendIdle false 1 (Flit.cls f))), false)
    else (s.applyAck p f, true)

/-- Acknowledge a delivered flit and return its credit. -/
def State.ackFlit (s : State) (p : Nat) (f : Flit) : State := s.setLink p ((s.link p).sendIdle false 1 (Flit.cls f))

/-- A flit of one of the routed types that is bound for another node: a relay forwards it (R291). -/
def State.relays (s : State) (f : Flit) : Bool :=
  decide (Flit.dst f ≠ 0xFFFF) && decide (s.net.node ≠ 0xFFFF) && decide (Flit.dst f ≠ s.net.node)

/-- Receive a flit of a type: link layer, relay, or `h`, and then the acknowledgement. A flit of another type that
arrives intact is the business of that type's command. -/
def State.receive (s : State) (p ty : Nat) (routed : Bool) (f : Flit) (h : State → State) : Result :=
  if (s.link p).state ≠ .up ∨ s.power.rst = .warmHeld then s.stay "R283"
  else if Flit.crcOk f ∧ Flit.ty f ≠ ty then s.stay "R282"
  else
    let r := s.rxFlit p f
    .next (if r.2 then (if routed && s.relays f then r.1.sendTo f else h r.1).ackFlit p f else r.1)

/-- IDLE (R283): a received IDLE flit, a damaged one, or one of a reserved TYPE. -/
def execIdle (port : FwNo) (f : BitVec 2048) (s : State) : Result :=
  if (s.link port.val).state ≠ .up then s.stay "R283"
  else if Flit.crcOk f ∧ Flit.ty f ≠ tIdle ∧ Flit.ty f ≤ 7 ∧ Flit.rsvd f = 0 then s.stay "R282"
  else .next (s.rxFlit port.val f).1

end Sys2Proof.Machine
end

