-- ==== Sys2Proof/Machine/Transfer.lean ====
section
/-!
DEFINITION. How the loader expands a TRANSFER into mover descriptors (R172, R292 to R296, R336), and the command
TRANSFER. Where the parts of one TRANSFER lie follows the shares of its buffers; log 23 names what the manual leaves
open about sheets, replicated sources and the buffers of the accumulator kinds.
-/
namespace Sys2Proof.Machine

/-! ## Where a buffer lies -/

/-- One place of a buffer: a share on a core, or the whole buffer at an address; `base` in bits. -/
structure Spot where
  space : Space
  core : Nat
  handle : Nat
  base : Nat
  node : Nat
  share : Share
  deriving DecidableEq, Repr

/-- The operation whose sheeter wrote a buffer, directly or through PACKED transfers. -/
def Program.sheeterOf (p : Program) : Nat → Nat → Option OpRec
  | 0, _ => none
  | fuel + 1, b =>
    match p.ops.find? fun (o : OpRec) => p.isPayload o b with
    | some o => some o
    | none => (p.ops.find? fun (o : OpRec) => decide (OpRec.kind o = kTransfer) && decide (OpRec.aux1 o = b)
        && decide (OpRec.aux2 o % 2 = 1)).bind fun (o : OpRec) => p.sheeterOf fuel (OpRec.aux0 o)

/-- The whole of a buffer, row-major in its planned shape; a sheeted one in the slots of its sheets (R115). -/
def Program.wholeShare (p : Program) (b : Nat) (sheets : Option OpRec) : Share :=
  let br := p.buf b
  match sheets with
  | some m =>
    let n := p.sheetsPerVector m * 64 * m.sheetGroups
    ⟨0, 0, p.dim br.dimOuter, 0, n, 0, br.bits, p.dim br.dimOuter * p.sheetsPerVector m * m.sheetSlot, .sheets⟩
  | none => ⟨0, 0, p.dim br.dimOuter, 0, p.innerCount br, 0, br.bits, p.bufBytes br, .linear⟩

/-- The Finwell form of an IO_ADDR (Table 14-4). -/
def ioFinwell (a : Nat) : Bool := decide (bitsAt a 60 4 = 0xF)
def ioAddress (a : Nat) : Nat := bitsAt a 0 40
def ioRsvd (a : Nat) : Nat := bitsAt a 40 2
def ioNode (a : Nat) : Nat := bitsAt a 42 16
def ioKind (a : Nat) : Nat := bitsAt a 58 2

/-- The places of a buffer. -/
def Job.spots (x : Job) (b : Nat) (asDst : Bool) (sheets : Option OpRec) : List Spot :=
  let p := x.bd.prog
  let br := p.buf b
  if br.cls = clsScratch then
    let all := ((p.holders x.bd.splits b).filter fun q => asDst || p.copyWritten x.bd.splits b q).filterMap fun q =>
      (p.share x.bd.splits x.bd.grids b q).map fun sh => (⟨.scratch, sh.core, br.handle, 0, 0, sh⟩ : Spot)
    if br.dist = distReplicate ∧ !asDst then all.take 1 else all
  else if br.inHbm then
    [⟨.hbm, 0, 0, 8 * ((x.bd.places[b]?).map (·.hbm)).getD 0, 0, p.wholeShare b sheets⟩]
  else
    let a := x.bd.ioAddr.getD br.ioPort 0
    if ioFinwell a then
      [⟨if asDst then .finwell else .hbm, 0, 0, 8 * ioAddress a, ioNode a, p.wholeShare b sheets⟩]
    else [⟨.host, 0, 0, 8 * a, 0, p.wholeShare b sheets⟩]

/-! ## Rectangles of elements that lie evenly in both places -/

/-- Bits from one outer index to the next. -/
def Share.outerStride (s : Share) : Nat :=
  match s.form with
  | .linear => (s.i1 - s.i0) * s.bits
  | .sheets => (s.i1 - s.i0) * s.bits
  | .weights _ _ bw _ => bw
  | .wexps _ _ kb => 8 * kb

/-- Outer indices between breaks of the even spacing. -/
def Share.outerRun (s : Share) : Option Nat :=
  match s.form with
  | .weights np _ _ _ => some np
  | .wexps np _ _ => some np
  | _ => none

/-- Cut lo ≤ o < hi where either place breaks. -/
def outerCuts (a b : Share) (lo hi : Nat) : List (Nat × Nat) :=
  let breaks (s : Share) (o : Nat) : Bool := match s.outerRun with
    | some n => decide (o % n = 0)
    | none => false
  let starts := ((List.range hi).filter fun o => decide (lo ≤ o)).filter fun o => decide (o = lo) || breaks a o || breaks b o
  starts.zip (starts.drop 1 ++ [hi])

/-- A descriptor with nothing set but the two places. -/
def MoverDesc.blank (a b : Spot) : MoverDesc where
  srcSpace := a.space
  dstSpace := b.space
  packed := false
  unpack := false
  append := false
  strip := false
  hostPort := 0
  notify := false
  ordered := false
  channel := 0
  rowBits := 0
  rows := 0
  srcCore := a.core
  srcHandle := a.handle
  srcBit := a.base
  srcStride := 0
  dstCore := b.core
  dstHandle := b.handle
  dstBit := b.base
  dstStride := 0
  node := b.node
  token := 0
  auxSrc := 0
  auxDst := 0
  rsvd := 0
  addr := 0
  part := 0
  op := 0
  window := none
  record := 0
  endBytes := none
  auxSrcHandle := 0
  auxDstHandle := 0
  groups := 0
  codeBits := 0
  skip := 0
  clip := 0
  planned := 0

/-- The descriptors of a plain copy between two places: outer indices below eo, inner ones below ei (R336). -/
def plainPair (a b : Spot) (eo ei : Nat) : List MoverDesc :=
  let x := a.share
  let y := b.share
  let lo := max x.o0 y.o0
  let hi := min (min x.o1 y.o1) eo
  let il := max x.i0 y.i0
  let ih := min (min x.i1 y.i1) ei
  if hi ≤ lo ∨ ih ≤ il then []
  else
    let row (o0 o1 i n : Nat) : MoverDesc :=
      { MoverDesc.blank a b with
        rowBits := n * x.bits
        rows := o1 - o0
        srcBit := a.base + x.bitOf o0 i
        srcStride := x.outerStride
        dstBit := b.base + y.bitOf o0 i
        dstStride := y.outerStride }
    if x.outerRun.isNone ∧ y.outerRun.isNone then [row lo hi il (ih - il)]
    else (outerCuts x y lo hi).flatMap fun c => ((List.range ih).filter fun i => decide (il ≤ i)).map fun i => row c.1 c.2 i 1

/-- Where the form map of a place begins for a vector and a sheet: handle and bit (R115; log 18). -/
def Job.formPlace (x : Job) (m : OpRec) (s : Spot) (phase o sheet : Nat) : Nat × Nat :=
  let p := x.bd.prog
  let g := m.sheetGroups
  match s.space, p.resolve m.formMap phase with
  | .scratch, some fb =>
    match x.bd.shareAt fb s.core with
    | some fs => (m.formMap, fs.bitOf o (sheet * g))
    | none => (m.formMap, 0)
  | _, _ =>
    let spv := p.sheetsPerVector m
    (s.handle, s.base + 8 * s.share.bytes + (o * spv + sheet) * 2 * g)

/-- Descriptors of the sheets of two places: PACKED moves the sheets of a vector, UNPACK one sheet each (R117). -/
def Job.sheetPair (x : Job) (m : OpRec) (unpack : Bool) (a b : Spot) (phase eo ei : Nat) : List MoverDesc :=
  let g := m.sheetGroups
  let w := 64 * g
  let xs := a.share
  let ys := b.share
  let lo := max xs.o0 ys.o0
  let hi := min (min xs.o1 ys.o1) eo
  let il := max xs.i0 ys.i0
  let ih := min (min xs.i1 ys.i1) ei
  if hi ≤ lo ∨ ih ≤ il then []
  else
    let s0 := il / w
    let s1 := ceilDiv ih w
    ((List.range hi).filter fun o => decide (lo ≤ o)).flatMap fun o =>
      let base (s n : Nat) : MoverDesc :=
        let fa := x.formPlace m a phase o s
        { MoverDesc.blank a b with
          rowBits := w * xs.bits
          rows := n
          srcBit := a.base + xs.bitOf o (s * w)
          srcStride := w * xs.bits
          auxSrc := fa.2
          auxSrcHandle := fa.1
          groups := g
          codeBits := xs.bits
          planned := x.bd.prog.pN m - s * w }
      if unpack then
        ((List.range s1).filter fun s => decide (s0 ≤ s)).map fun s =>
          let from' := max il (s * w)
          { base s 1 with
            unpack := true
            dstBit := b.base + ys.bitOf o from'
            skip := (from' - s * w) * xs.bits
            clip := (min ih ((s + 1) * w) - from') * xs.bits }
      else
        let fb := x.formPlace m b phase o s0
        [{ base s0 (s1 - s0) with
            packed := true
            dstBit := b.base + ys.bitOf o (s0 * w)
            dstStride := w * xs.bits
            auxDst := fb.2
            auxDstHandle := fb.1 }]

/-! ## Expansion -/

/-- The last descriptor of a window transfer begins when the others are acknowledged, and sends the END (R293). -/
def closeWindow (bytes record : Nat) : List MoverDesc → List MoverDesc
  | [] => []
  | [d] => [{ d with ordered := true, endBytes := some bytes, record := record }]
  | d :: ds => { d with record := record } :: closeWindow bytes record ds

def round64 (n : Nat) : Nat := ceilDiv n 64 * 64

/-- The extent of a dimension in the units of a buffer's inner index. -/
def Job.innerExt (x : Job) (br : BufRec) : Nat :=
  let e := x.bd.ext br.dimInner
  if br.expRegion then ceilDiv e 32 else e

/-- The byte string of a buffer that an accumulator kind names: the region of part q lies q regions on (log 23). -/
def Job.regionPair (x : Job) (r : OpRec) (bytes : Nat) (a b : Spot) : List MoverDesc :=
  let q (s : Spot) : Nat := if s.space = .scratch then (x.bd.index s.core).getD 0 else 0
  let off (s : Spot) (k : Nat) : Nat := if s.space = .scratch then 0 else 8 * k * r.regionBytes
  let k := max (q a) (q b)
  let n := min r.regionBytes (bytes - k * r.regionBytes)
  if n = 0 ∨ (a.space = .scratch ∧ b.space = .scratch ∧ q a ≠ q b) then []
  else [{ MoverDesc.blank a b with
      rowBits := 8 * n
      rows := 1
      srcBit := a.base + off a k
      dstBit := b.base + off b k }]

/-- The window or inlet that a HOST source names (R295, R296). -/
def Job.srcWindow (x : Job) (b : Nat) : Option Window :=
  let br := x.bd.prog.buf b
  let a := x.bd.ioAddr.getD br.ioPort 0
  if br.cls = clsHost ∧ ioFinwell a then
    some ⟨ioAddress a, x.bd.prog.bufBytes br, ioNode a, if ioKind a = 1 then ioNode a else 0⟩
  else none

/-- R292, R296: what the loader refuses when it forms the descriptors. -/
def Job.ioRefused (x : Job) (r : OpRec) (self : Nat) : Bool :=
  let p := x.bd.prog
  let addr (b : Nat) : Option Nat :=
    let br := p.buf b
    let a := x.bd.ioAddr.getD br.ioPort 0
    if br.cls = clsHost ∧ ioFinwell a then some a else none
  let bad (a : Nat) : Bool := decide (2 ≤ ioKind a) || decide (ioRsvd a ≠ 0) || (decide (ioKind a = 0) && decide (ioNode a = self))
  let src := match addr r.aux0 with
    | some a => bad a || (decide (ioKind a = 1) && (decide (ioNode a = 0) || decide (255 < ioNode a)
        || decide ((p.buf r.aux1).cls ≠ clsScratch)))
    | none => false
  let dst := match addr r.aux1 with
    | some a => bad a || decide (ioKind a = 1)
    | none => false
  -- a FOLD port delivers into a SCRATCH buffer in the layout of ACC_SPILL, of the planned size of a slot's data
  let fold := match addr r.aux0 with
    | some a => decide (ioKind a = 1) && ((p.accUser r.aux1).isNone || decide (p.bufBytes (p.buf r.aux1) ≠ p.bufBytes (p.buf r.aux0)))
    | none => false
  src || dst || fold

/-- The mover descriptors of a TRANSFER. -/
def Job.expand (x : Job) (hostPort i : Nat) : List MoverDesc :=
  let p := x.bd.prog
  let r := p.op i
  let br := p.buf r.aux0
  let packed := decide (bitsAt r.aux2 0 1 = 1)
  let unpack := decide (bitsAt r.aux2 1 1 = 1)
  let sheets := if packed ∨ unpack then p.sheeterOf 4 r.aux0 else none
  let win := x.srcWindow r.aux0
  let src : List Spot := x.spots r.aux0 false sheets
  let dst : List Spot := x.spots r.aux1 true (if unpack then none else sheets)
  let eo := x.bd.ext br.dimOuter
  let ei := x.innerExt br
  let bytes := p.bufBytes br
  let ds : List MoverDesc :=
    match (p.accUser r.aux0).or (p.accUser r.aux1) with
    | some o => src.flatMap fun a => dst.flatMap fun b => x.regionPair o bytes a b
    | none => match sheets with
      | some m => src.flatMap fun a => dst.flatMap fun b => x.sheetPair m unpack a b r.phase eo ei
      | none => src.flatMap fun a => dst.flatMap fun b => plainPair a b eo ei
  -- an END follows even where the extents leave nothing to send
  let ds : List MoverDesc := match src, dst with
    | a :: _, b :: _ =>
      if b.space = Space.finwell then
        closeWindow bytes (b.base / 8 + round64 bytes) (if ds.isEmpty then [MoverDesc.blank a b] else ds)
      else ds
    | _, _ => ds
  (ds.zip (List.range ds.length)).map fun ((d, n) : MoverDesc × Nat) =>
    let token := 2 ^ 28 * x.part + 2 ^ 8 * i + n % 256
    { d with
      packed := packed
      unpack := unpack
      append := decide (bitsAt r.aux2 2 1 = 1)
      strip := decide (bitsAt r.aux2 3 1 = 1)
      channel := bitsAt r.aux2 4 5
      hostPort := hostPort
      token := token
      addr := Config.descriptorAddr token
      part := x.part
      op := i
      window := win }

/-- The mover unit of a number. -/
def moverUnit (m : Nat) : UnitId :=
  if m < 128 then .mover (.hearth ⟨m / 8 % 16, by omega⟩ ⟨m % 8, by omega⟩)
  else .mover (.proofer ⟨m / 4 % 2, by omega⟩ ⟨m % 4, by omega⟩)

/-- An operation of a kind that a unit carries out now: it has begun the operation's phase, and the operation has not
been carried out. -/
def State.canCarry (s : State) (x : Job) (u : UnitId) (i kind : Nat) : Bool :=
  decide (i < x.bd.prog.ops.length) && decide ((x.bd.prog.op i).kind = kind) && decide (i ∉ x.bd.issued) &&
    match s.unitPhase x u with
    | some t => t.begun && decide (t.phase = (x.bd.prog.op i).phase)
    | none => false

/-- The operation has been carried out. -/
def State.carried (s : State) (p i : Nat) : State := s.setBinding p fun b => { b with issued := b.issued ++ [i] }

/-- The effect of TRANSFER: the descriptors join the mover's queue, or the loader's refusal faults the item (R292). -/
def State.queueTransfer (s : State) (x : Job) (m i : Nat) : State :=
  let s := s.carried x.part i
  let ds := x.expand (s.ctx x.ctx).hostPort i
  if x.ioRefused (x.bd.prog.op i) s.net.node then
    s.jobFault x i (unitMover m) ⟨cDenied, .hbm, (ds.head?.map (·.addr)).getD 0, 0, 0, 0⟩
  else
    -- a new transfer picks its link afresh (R291)
    let s := ds.foldl (fun s d => if d.dstSpace = .finwell then s.dropFlow s.net.node d.node tWrite d.tag else s) s
    s.setMover m { s.mover m with queue := (s.mover m).queue ++ ds }

/-- TRANSFER (R172, R336). -/
def execTransfer (p : PartNo) (op : Nat) (s : State) : Result :=
  match s.job p.val with
  | none => s.stay "R173"
  | some x =>
    let m := x.bd.moverOf (s.ctx x.ctx).hostPort op
    if s.canCarry x (moverUnit m) op kTransfer then .next (s.queueTransfer x m op) else s.stay "R173"

end Sys2Proof.Machine
end

