-- ==== Sys2Proof/Machine/Movers.lean ====
section
/-!
DEFINITION. The movers (R135, R144, R155 to R157), the check channels they use (R302 to R304), sheets under PACKED
and UNPACK (R117), windows and fold inlets (R295, R296): MOVER_DESCRIPTOR_START, MOVER_BANK_ACCESS,
MOVER_DESCRIPTOR_COMPLETE, WINDOW_ARRIVAL.
-/
namespace Sys2Proof.Machine

/-! ## Check channels (R302, R303) -/

/-- The model of a catalogue selection (Table 14-5). -/
def catalogue (sel : Nat) : CrcModel :=
  match sel with
  | 1 => crc32iso
  | 2 => crc64xz
  | 3 => crc16ibm
  | _ => crc32c

/-- The model that a channel runs: PROGRAMMED ignores the bits above WIDTH (R302). -/
def State.chanModel (s : State) (ch : Nat) : CrcModel :=
  let i := 0x9100 + ch
  if s.obj i 1 = 4 then
    let w := s.obj i 4
    ⟨w, s.obj i 5 % 2 ^ w, s.obj i 6 % 2 ^ w, decide (s.obj i 8 % 2 = 1), decide (s.obj i 8 / 2 % 2 = 1), s.obj i 7 % 2 ^ w⟩
  else catalogue (s.obj i 1)

/-- The register of a channel as a descriptor takes it. `State.dict` holds 0 after a cold reset, 1 for the init value, else
the value plus 2 (R303; log 67). -/
def State.chanRunning (s : State) (ch : Nat) : Nat :=
  let v := s.obj (0x9100 + ch) 2
  if v < 2 then crcInit (s.chanModel ch) else v - 2
/-- What the object reads: after a cold reset its default of Table 12-12. -/
def State.readRunning (s : State) (ch : Nat) : Nat := if s.obj (0x9100 + ch) 2 = 0 then 0 else s.chanRunning ch
def State.setRunning (s : State) (ch v : Nat) : State := s.setObj (0x9100 + ch) 2 (v + 2)
/-- RUNNING returns to the init value, and no descriptor uses the channel. -/
def State.freeChan (s : State) (ch : Nat) : State :=
  { s.setObj (0x9100 + ch) 2 1 with chanUse := s.chanUse.filter (· ≠ ch) }

/-- The channel of a descriptor, on the proofer of its mover (R305). -/
def MoverDesc.chan (d : MoverDesc) (m : Nat) : Nat := 32 * ((m - 128) / 4 % 2) + d.channel
def MoverDesc.checks (d : MoverDesc) : Bool := d.append || d.strip

/-! ## Faults (R156) -/

/-- The hearth a mover belongs to runs, or its proofer works. -/
def State.moverRuns (s : State) (m : Nat) : Bool :=
  if m < 128 then s.hearthRuns (m / 8) else s.alive && !decide ((m - 128) / 4 ∈ s.health.proofersFailed)

/-- An operation that waits on a token faults with the code its descriptor completed with. -/
def State.tokenFault (s : State) (d : MoverDesc) (code : Nat) : State :=
  match s.job d.part with
  | some _ => s.raiseFault d.part ⟨code, d.op, codePermanent code, !codePermanent code, false⟩
  | none => s

/-- Log a fault of a descriptor; the operation that waits on its token faults with the same code. -/
def State.descFault (s : State) (d : MoverDesc) (unit : Nat) (e : CFault) : State :=
  match s.job d.part with
  | some x => s.jobFault x d.op unit e
  | none => s.report { plainReport e.code unit e.kind e.address with
      d0 := e.d0
      d1 := e.d1
      d2 := e.d2 }

/-- Later descriptors of the queue that carry ORDERED complete with the code. -/
def Mover.failQueue (mv : Mover) (code : Nat) : Mover :=
  { mv with
    queue := mv.queue.filter fun d => !d.ordered
    done := mv.done ++ (mv.queue.filter (·.ordered)).map fun d => (d.token, code) }

/-- A fault stops a descriptor; bytes already written stay written. The operations that wait on the token of a later ORDERED
one fault with the same code. -/
def State.failActive (s : State) (m i unit : Nat) (e : CFault) : State :=
  match (s.mover m).active[i]? with
  | none => s
  | some a =>
    let s := if a.desc.checks then s.freeChan (a.desc.chan m) else s
    let s := s.doneDesc m i e.code
    let later := (s.mover m).queue.filter (·.ordered)
    let s := (s.setMover m ((s.mover m).failQueue e.code)).descFault a.desc unit e
    later.foldl (fun s d => s.tokenFault d e.code) s

/-! ## Reading and writing (R157) -/

/-- A move in progress: bytes of host reads still to come, what goes out to the host or a port, the check register. -/
structure Mv where
  st : State
  host : List Byte
  out : List (Nat × Nat × Nat)
  reg : Nat
  fault : Option (Nat × CFault)

def Mv.fail (v : Mv) (unit : Nat) (e : CFault) : Mv := { v with fault := v.fault.or (some (unit, e)) }

/-- Read n bits at a place of the source side. -/
def Mv.read (v : Mv) (d : MoverDesc) (handle bit n : Nat) : Mv × Nat :=
  if v.fault.isSome ∨ n = 0 then (v, 0)
  else match d.srcSpace with
  | .scratch =>
    match readBuf v.st d.srcCore handle ⟨.hbm, d.addr⟩ bit n with
    | (s, _, .ok x) => ({ v with st := s }, x)
    | (s, _, .error e) => ({ v with st := s }.fail (unitCore d.srcCore) e, 0)
  | .host =>
    let k := (bit % 8 + n + 7) / 8
    ({ v with host := v.host.drop k }, bitsAt (fromBytes (v.host.take k)) (bit % 8) n)
  | .fill => (v, bitsAt (d.srcBit % 2 ^ 64 * ((2 ^ (64 * (n / 64 + 2)) - 1) / (2 ^ 64 - 1))) ((bit - d.srcBit) % 64) n)
  | _ =>
    match v.st.getBytes (bit / 8) ((bit % 8 + n + 7) / 8) with
    | (s, .ok bs) => ({ v with st := s }, bitsAt (fromBytes bs) (bit % 8) n)
    | (s, .error e) => ({ v with st := s }.fail (unitStack (stackOf e.address)) e, 0)

/-- Replace n bits at bit `bit` of an HBM byte string; the other bits of its end bytes stay. -/
def State.hbmWriteBits (s : State) (bit n x : Nat) : State × Option CFault :=
  if bit % 8 = 0 ∧ n % 8 = 0 then s.hbmWrite (bit / 8) (toBytes (n / 8) x)
  else
    let k := (bit % 8 + n + 7) / 8
    match s.getBytes (bit / 8) k with
    | (s, .error e) => (s, some e)
    | (s, .ok bs) =>
      let old := fromBytes bs
      let lo := bit % 8
      s.hbmWrite (bit / 8) (toBytes k (old % 2 ^ lo + x % 2 ^ n * 2 ^ lo + old / 2 ^ (lo + n) * 2 ^ (lo + n)))

/-- A bank takes no mover write: it is off, or closing after an off request (Table 7-2). -/
def Bank.shut (b : Bank) : Bool := decide (b.power = .off) || decide (b.power = .closingOff)

/-- A discarded write (R144). -/
def State.bankOffWrite (s : State) (m k b row w : Nat) : State × CFault :=
  (s.bumpH 0x3048 (k / 1088) 6 1, ⟨cBankOffWrite, .bank, bankAddress k b row w, unitMover m, 0, 0⟩)

/-- The words that n bits from bit `bit` of a buffer cover: bank, row, word, mask, data. -/
def wordsOf (h : Handle) (j : Nat) (bit n v : Nat) : Nat → List (Nat × Nat × Nat × W64 × W64)
  | 0 => []
  | fuel + 1 =>
    let (b, row, w) := h.locate j
    let here := min (64 - bit) n
    (b, row, w, bitMask bit (bit + here), BitVec.ofNat 64 (v % 2 ^ here * 2 ^ bit)) ::
      wordsOf h (j + 1) 0 (n - here) (v / 2 ^ here) fuel

/-- R132 for a mover's write of n bits, and the words it covers. -/
def State.moverWords (s : State) (d : MoverDesc) (handle bit n v : Nat) :
    State × Except CFault (List (Nat × Nat × Nat × W64 × W64)) :=
  let c := s.core d.dstCore
  match checkHandle c handle ⟨.hbm, d.addr⟩ true ((bit + n - 1) / 8) with
  | some e => (if e.code = cHandleStale then s.bumpH 0x3048 (d.dstCore / 1088) 8 1 else s, .error e)
  | none => (s, .ok (wordsOf (c.handle handle) (bit / 64) (bit % 64) n v ((bit % 64 + n + 63) / 64)))

/-- Perform a mover's write of one word. -/
def State.moverWord (s : State) (m k : Nat) (x : Nat × Nat × Nat × W64 × W64) : State × Option CFault :=
  let (b, row, w, mask, data) := x
  if ((s.core k).bank b).shut then
    let r := s.bankOffWrite m k b row w
    (r.1, some r.2)
  else
    let r := writeWord s k b row w mask data
    (r.1, r.2.2)

/-- Write n bits at a place of the destination side. What goes to the host or to a port is gathered. -/
def Mv.write (v : Mv) (d : MoverDesc) (m handle bit n x : Nat) : Mv :=
  if v.fault.isSome ∨ n = 0 then v
  else match d.dstSpace with
  | .scratch =>
    match v.st.moverWords d handle bit n x with
    | (s, .error e) => { v with st := s }.fail (unitCore d.dstCore) e
    | (s, .ok ws) => ws.foldl (fun v w =>
        if v.fault.isSome then v
        else match v.st.moverWord m d.dstCore w with
          | (s, none) => { v with st := s }
          | (s, some e) => { v with st := s }.fail (unitCore d.dstCore) e) { v with st := s }
  | .hbm =>
    match v.st.hbmWriteBits bit n x with
    | (s, none) => { v with st := s }
    | (s, some e) => { v with st := s }.fail (unitStack (stackOf e.address)) e
  | _ => { v with out := v.out ++ [(bit, n, x)] }

/-- Runs of whole bytes from gathered pieces: bits that no piece covers are 0 (R336). -/
def byteRuns (ps : List (Nat × Nat × Nat)) : List (Nat × List Byte) :=
  (ps.foldl (fun (acc : List (Nat × List Byte)) p =>
    let (bit, n, x) := p
    let a := bit / 8
    let bs := toBytes ((bit % 8 + n + 7) / 8) (x % 2 ^ n * 2 ^ (bit % 8))
    match acc with
    | (a0, l) :: rest =>
      if a = a0 + l.length then (a0, l ++ bs) :: rest
      else if a + 1 = a0 + l.length then (a0, l.dropLast ++ ((l.getLastD 0 ||| bs.headD 0) :: bs.drop 1)) :: rest
      else (a, bs) :: acc
    | [] => [(a, bs)]) []).reverse

/-! ## Rows -/

/-- Bytes of the check value (R304). -/
def CrcModel.bytes (m : CrcModel) : Nat := (m.width + 7) / 8

/-- Where row r of a descriptor begins in its source: a FILL pattern runs on over the rows. -/
def MoverDesc.srcRow (d : MoverDesc) (r : Nat) : Nat := d.srcBit + r * (if d.srcSpace = .fill then d.rowBits else d.srcStride)

/-- Move one row; the last row of a strip ends before the check value. -/
def Mv.row (v : Mv) (d : MoverDesc) (m : Nat) (model : CrcModel) (r : Nat) : Mv :=
  let cut := if d.strip ∧ r + 1 = d.rows then 8 * model.bytes else 0
  let n := d.rowBits - cut
  let (v, x) := v.read d d.srcHandle (d.srcRow r) n
  let v := if d.checks ∧ v.fault.isNone then { v with reg := crcRun model v.reg (toBytes ((n + 7) / 8) x) } else v
  v.write d m d.dstHandle (d.dstBit + r * d.dstStride) n x

/-! ## Sheets (R114, R115, R117) -/

/-- The 2-bit codes of a sheet. -/
def sheetCodes (g fm : Nat) : List Nat := (List.range g).map fun i => bitsAt fm (2 * i) 2

/-- Bits that a group of n elements of c bits occupies: DENSE, BITMAP with its mask, or none (R114). -/
def groupBits (c n code mask : Nat) : Nat :=
  if code = 0 then n * c else if code = 1 then 64 + c * popCount 64 mask else 0

/-- The dense form of a group whose bits are x. -/
def unpackGroup (c n code x : Nat) : Nat :=
  if code = 0 then bitsAt x 0 (n * c)
  else if code = 1 then
    ((List.range 64).foldl (fun (acc : Nat × Nat) i =>
      if x / 2 ^ i % 2 = 1 then (acc.1 + 1, acc.2 + bitsAt x (64 + c * acc.1) c * 2 ^ (c * i)) else acc) (0, 0)).2
  else 0

/-- The codes of one width joined, the first lowest. -/
def joinCodes (w : Nat) : List Nat → Nat
  | [] => 0
  | x :: xs => x + 2 ^ w * joinCodes w xs

/-- R117: the fault of the reserved code, with the address of its form-map byte. -/
def State.formFault (s : State) (d : MoverDesc) (bit : Nat) : Nat × CFault :=
  match d.srcSpace with
  | .scratch =>
    let (b, row, w) := ((s.core d.srcCore).handle d.auxSrcHandle).locate (bit / 64)
    (unitCore d.srcCore, ⟨cPoisonRead, .bank, bankAddress d.srcCore b row w, 0, 0, 0⟩)
  | _ => (unitStack (stackOf (bit / 8)), ⟨cPoisonRead, .hbm, bit / 8, 0, 0, 0⟩)

/-- Move one sheet: the bytes it occupies with its form map, or its dense form. -/
def Mv.sheet (v : Mv) (d : MoverDesc) (m : Nat) (model : CrcModel) (r : Nat) : Mv :=
  let fbit := d.auxSrc + r * 2 * d.groups
  let (v, fm) := v.read d d.auxSrcHandle fbit (2 * d.groups)
  let codes := sheetCodes d.groups fm
  match codes.findIdx? (· = 2) with
  | some i =>
    let f := v.st.formFault d (fbit + 2 * i)
    if v.fault.isSome then v else { v with fault := some f }
  | none =>
    let sbit := d.srcBit + r * d.srcStride
    -- the slot is read group by group: what lies behind the last group was never written
    let (v, bits, dense) := (codes.zip (List.range codes.length)).foldl (fun (acc : Mv × Nat × List Nat) e =>
      let (v, at', ds) := acc
      let (code, g) := e
      let c := d.codeBits
      let n := min 64 (d.planned - 64 * (r * d.groups + g))
      let (v, mask) := if code = 1 then v.read d d.srcHandle (sbit + at') 64 else (v, 0)
      let len := groupBits c n code mask
      let (v, x) := v.read d d.srcHandle (sbit + at') len
      (v, at' + len, ds ++ [unpackGroup c n code x])) (v, 0, [])
    if d.packed then
      let n := (bits + 7) / 8 * 8
      let (v, x) := v.read d d.srcHandle sbit n
      let v := if d.checks ∧ v.fault.isNone then { v with reg := crcRun model v.reg (toBytes (n / 8) x) } else v
      let v := v.write d m d.dstHandle (d.dstBit + r * d.dstStride) n x
      v.write d m d.auxDstHandle (d.auxDst + r * 2 * d.groups) (2 * d.groups) fm
    else
      let x := bitsAt (joinCodes (64 * d.codeBits) dense) d.skip d.clip
      let v := if d.checks ∧ v.fault.isNone then { v with reg := crcRun model v.reg (toBytes ((d.clip + 7) / 8) x) } else v
      v.write d m d.dstHandle d.dstBit d.clip x

/-! ## Windows and inlets (R294 to R296) -/

/-- Slots of a window: base addresses. -/
def Window.slots (w : Window) : List Nat :=
  if w.peers = 0 then [w.base] else (List.range w.peers).map fun k => w.base + k * (round64 w.bytes + 64)

/-- The arrival record behind a slot. -/
def State.recordOf (s : State) (w : Window) (slot : Nat) : Nat :=
  match (s.getBytes (slot + round64 w.bytes) 64).2 with
  | .ok bs => fromBytes bs
  | .error _ => 0

def recArrived (r : Nat) : Bool := decide (bitsAt r 0 32 ≠ 0) && isCompl 32 (bitsAt r 0 32) (bitsAt r 32 32)

/-- Every slot's record has arrived. -/
def State.windowReady (s : State) (w : Window) : Bool := w.slots.all fun a => recArrived (s.recordOf w a)

/-- What the records say is not what the port names (R295, R296). -/
def State.windowWrong (s : State) (w : Window) : Bool :=
  w.slots.any fun a =>
    let r := s.recordOf w a
    decide (bitsAt r 0 32 ≠ w.bytes) || (decide (w.peers = 0) && decide (bitsAt r 64 16 ≠ w.node))

/-- Entries in the layout of ACC_SPILL: value and overflow bit (R85). -/
def spillEntries (bytes x : Nat) : List (Int × Bool) :=
  let n := 8 * bytes / 33
  (List.range n).map fun i => (signed (bitsAt x (32 * i) 32) 32, decide (bitsAt x (32 * n + i) 1 = 1))

def spillValue (es : List (Int × Bool)) : Nat :=
  joinCodes 32 (es.map fun e => codeOf 32 e.1) + 2 ^ (32 * es.length) * joinCodes 1 (es.map fun e => if e.2 then 1 else 0)

/-- R296 step 2: contribution k as pairs: its entry numbers as indexes, k as their source. -/
def inletPairs (k : Nat) (es : List (Int × Bool)) : List Pair :=
  (es.zip (List.range es.length)).map fun e => ⟨e.2, k, e.1.1, e.1.2⟩

/-- R296 step 3: the fold tree sums the pairs in folds of at most 65,536, each a range of indexes. -/
def inletSums (ls : List (List (Int × Bool))) (n : Nat) : List (Int × Bool) :=
  let pairs := (ls.zip (List.range ls.length)).flatMap fun e => inletPairs e.2 (e.1.take n)
  let width := 65536 / max 1 ls.length
  ((List.range (ceilDiv n width)).flatMap fun g =>
    sumFold false (pairs.filter fun q => decide (q.index / width = g))).map fun q => (q.val, q.ovf)

/-- FOLD_INLET (R296): the fold tree of the hearth that holds the destination takes its entries, with source 0, and those of
every slot. A destination of several regions has a descriptor for each, whose source names where the region's entries begin
in a slot. -/
def Mv.inlet (v : Mv) (d : MoverDesc) (m : Nat) (w : Window) : Mv :=
  let bytes := d.rowBits / 8
  let off := d.srcBit - 8 * w.base
  let own : MoverDesc := { d with
    srcSpace := .scratch
    srcCore := d.dstCore
    srcHandle := d.dstHandle }
  let (v, x0) := v.read own d.dstHandle d.dstBit (8 * bytes)
  let (v, xs) := w.slots.foldl (fun (acc : Mv × List Nat) a =>
    let (v, x) := acc.1.read d 0 (8 * a + off) (8 * bytes)
    (v, acc.2 ++ [x])) (v, [])
  if v.fault.isSome then v
  else
    let n := 8 * bytes / 33
    let out := inletSums ((x0 :: xs).map (spillEntries bytes)) n
    let h := d.dstCore / 1088
    let s := ((v.st.bumpH 0x3040 h 6 ((w.peers + 1) * n)).bumpH 0x3040 h 7 n).bumpH 0x3040 h 9 (out.filter (·.2)).length
    { v with st := s }.write d m d.dstHandle d.dstBit (33 * n) (spillValue out)

/-! ## The whole descriptor -/

/-- Rows from the first not yet moved. -/
def Mv.rows (v : Mv) (d : MoverDesc) (m : Nat) (model : CrcModel) (from' : Nat) : Mv :=
  ((List.range d.rows).filter fun r => decide (from' ≤ r)).foldl (fun v r =>
    if v.fault.isSome then v else if d.packed || d.unpack then v.sheet d m model r else v.row d m model r) v

/-- R304: the check value after the last row, or the comparison of a strip. -/
def Mv.check (v : Mv) (d : MoverDesc) (m : Nat) (model : CrcModel) : Mv :=
  if v.fault.isSome then v
  else
    let val := crcValue model v.reg
    let v := if d.append then
      v.write d m d.dstHandle (d.dstBit + (d.rows - 1) * d.dstStride + d.rowBits) (8 * model.bytes)
        (fromBytes (crcBytes model val)) else v
    if !d.strip ∨ v.fault.isSome then v
    else
      let endBit := d.srcBit + (d.rows - 1) * d.srcStride + d.rowBits
      let (v, x) := v.read d d.srcHandle (endBit - 8 * model.bytes) (8 * model.bytes)
      let bs := toBytes model.bytes x
      let want := fromBytes (if model.refOut then bs else bs.reverse)
      if v.fault.isSome ∨ want = val then v
      else
        let ch := d.chan m
        { v with st := v.st.bump (0x9100 + ch) 3 1 }.fail (unitCheck ch)
          ⟨cCheckValue, if d.srcSpace = Space.host then AddrKind.host else AddrKind.hbm, d.srcBit / 8, want % 2 ^ 32, val % 2 ^ 32, 0⟩

/-- Move everything that is left of a descriptor. -/
def State.moveAll (s : State) (m : Nat) (a : Active) (host : List Byte) : Mv :=
  let d := a.desc
  let ch := d.chan m
  let model := if d.checks then s.chanModel ch else crc32c
  let v : Mv := ⟨s, host, [], if d.checks then s.chanRunning ch else 0, none⟩
  if d.strip ∧ (d.rowBits * d.rows < 8 * model.bytes ∨ d.rowBits < 8 * model.bytes) then
    v.fail (unitMover m) ⟨cDenied, .hbm, d.addr, 0, 0, 0⟩
  else
    match d.window with
    | some w => if w.peers = 0 then (v.rows d m model a.moved).check d m model else v.inlet d m w
    | none => (v.rows d m model a.moved).check d m model

/-- The bits that an operation has written so far to a byte outside the device. -/
def edgeBits (es : List (Nat × Nat × Byte)) (op a : Nat) : Byte :=
  match es.find? fun e => decide (e.1 = op) && decide (e.2.1 = a) with
  | some e => e.2.2
  | none => 0

/-- One byte of a run: a byte that the pieces cover in part keeps the bits that other shares of the TRANSFER wrote
to it, because memory outside the device never receives part of a byte (R336; log 31). -/
def joinByte (op : Nat) (acc : List (Nat × Nat × Byte) × List Byte) (x : Nat × Byte × Byte) : List (Nat × Nat × Byte) × List Byte :=
  if x.2.2 = 0xFF then (acc.1, acc.2 ++ [x.2.1])
  else
    let v := x.2.1 ||| edgeBits acc.1 op x.1
    ((op, x.1, v) :: acc.1.filter (fun e => !(decide (e.1 = op) && decide (e.2.1 = x.1))), acc.2 ++ [v])

/-- The runs of gathered pieces, joined with what the operation wrote before. -/
def edgeRuns (op : Nat) (es : List (Nat × Nat × Byte)) (out : List (Nat × Nat × Nat)) :
    List (Nat × Nat × Byte) × List (Nat × List Byte) :=
  let masks := byteRuns (out.map fun p => (p.1, p.2.1, 2 ^ p.2.1 - 1))
  ((byteRuns out).zip masks).foldl (fun acc rm =>
    let (es, bs) := ((rm.1.2.zip rm.2.2).zip (List.range rm.1.2.length)).foldl (fun q x =>
      joinByte op q (rm.1.1 + x.2, x.1.1, x.1.2)) (acc.1, [])
    (es, acc.2 ++ [(rm.1.1, bs)])) (es, [])

/-- The bytes that a descriptor sends outside the device. -/
def State.joinEdges (s : State) (d : MoverDesc) (out : List (Nat × Nat × Nat)) : State × List (Nat × List Byte) :=
  let es := match (s.part d.part).binding with
    | some b => b.edges
    | none => []
  let (es', rs) := edgeRuns d.op es out
  (if es' = es then s else s.setBinding d.part fun b => { b with edges := es' }, rs)

/-- Send gathered bytes to host memory. -/
def State.sendHost (s : State) (d : MoverDesc) (out : List (Nat × Nat × Nat)) : State :=
  let (s, rs) := s.joinEdges d out
  rs.foldl (fun s r => s.send d.hostPort (.write r.1 r.2)) s

/-- Pieces of at most 224 bytes. -/
def chunks224 : Nat → Nat → List Byte → List (Nat × List Byte)
  | 0, _, _ => []
  | fuel + 1, a, bs => if bs.isEmpty then [] else (a, bs.take 224) :: chunks224 fuel (a + 224) (bs.drop 224)

/-- Send gathered bytes as WRITE flits on a port (R293). -/
def State.sendWindow (s : State) (m i : Nat) (a : Active) (out : List (Nat × Nat × Nat)) : State :=
  let (s, rs) := s.joinEdges a.desc out
  let cs := rs.flatMap fun r => chunks224 (r.2.length / 224 + 1) r.1 r.2
  let a := { a with moved := a.desc.rows, unacked := cs.length }
  let s := s.setActive m i a
  let s := cs.foldl (fun s c => s.sendOn a.port (flitOf tWrite clData a.desc.node s.net.node c.1 a.desc.tag c.2)) s
  if cs.isEmpty then s.transferAcked m i a else s

/-- The end of a move: the fault, what goes out, the token. -/
def State.settleMove (m i : Nat) (a : Active) (v : Mv) : State :=
  match v.fault with
  | some (unit, e) =>
    let s := if a.desc.dstSpace = .host then v.st.sendHost a.desc v.out else v.st
    s.failActive m i unit e
  | none =>
    let s := if a.desc.checks then v.st.freeChan (a.desc.chan m) else v.st
    match a.desc.dstSpace with
    | .finwell => s.sendWindow m i a v.out
    | .host => (s.sendHost a.desc v.out).doneDesc m i 0
    | _ => s.doneDesc m i 0

/-! ## MOVER_DESCRIPTOR_START -/

/-- Codes of Table 7-5a. -/
def Space.code : Space → Nat
  | .hbm => 0
  | .scratch => 1
  | .host => 2
  | .finwell => 3
  | .fill => 4
  | .reserved => 5

/-- An address of Table 7-5a: of a scratchpad place, its byte offset, handle entry, physical core and hearth. -/
def spaceAddress (sp : Space) (core handle bit : Nat) : Nat :=
  match sp with
  | .scratch => bit / 8 % 2 ^ 22 + 2 ^ 22 * handle + 2 ^ 28 * (core % 1088) + 2 ^ 39 * (core / 1088)
  | .fill => bit
  | _ => bit / 8

/-- The 64 bytes of a descriptor (Table 7-5). Its RsvdZ fields hold `rsvd`, lowest bits first; rows and strides that are no
whole number of bytes are rounded up (log 62). -/
def MoverDesc.layout (d : MoverDesc) : BitVec 512 :=
  let b (x : Bool) : Nat := countIf x
  let fields : List (Nat × Nat × Nat) :=
    [(0, 4, d.srcSpace.code), (4, 4, d.dstSpace.code), (8, 1, b d.packed), (9, 1, b d.unpack), (10, 1, b d.append),
     (11, 1, b d.strip), (12, 1, d.hostPort), (13, 1, b d.notify), (14, 1, b d.ordered), (15, 1, d.rsvd),
     (16, 5, d.channel), (21, 11, d.rsvd / 2), (32, 32, ceilDiv d.rowBits 8),
     (64, 64, spaceAddress d.srcSpace d.srcCore d.srcHandle d.srcBit),
     (128, 64, spaceAddress d.dstSpace d.dstCore d.dstHandle d.dstBit), (192, 32, d.rows), (224, 32, ceilDiv d.srcStride 8),
     (256, 32, ceilDiv d.dstStride 8), (288, 16, d.node), (304, 16, d.rsvd / 2 ^ 12), (320, 32, d.token),
     (352, 32, d.rsvd / 2 ^ 28), (384, 64, spaceAddress d.srcSpace d.srcCore d.auxSrcHandle d.auxSrc),
     (448, 64, spaceAddress d.dstSpace d.dstCore d.auxDstHandle d.auxDst)]
  BitVec.ofNat 512 (fields.map fun f => f.2.2 % 2 ^ f.2.1 * 2 ^ f.1).sum

/-- R156: what the 64 bytes of a descriptor may not hold, on mover m. -/
def layoutInvalid (x : BitVec 512) (m : Nat) : Bool :=
  let src := fld x 0 4
  let dst := fld x 4 4
  decide (5 ≤ src) || decide (4 ≤ dst) ||
  (decide (m < 128) && (decide (src = 2) || decide (src = 3) || decide (dst = 2) || decide (dst = 3)
    || decide (fld x 10 2 ≠ 0))) ||
  decide (fld x 8 2 = 3) || decide (fld x 15 1 ≠ 0) || decide (fld x 21 11 ≠ 0) || decide (fld x 304 16 ≠ 0)
    || decide (fld x 352 32 ≠ 0)

def MoverDesc.invalid (d : MoverDesc) (m : Nat) : Bool := layoutInvalid d.layout m

/-- Put a descriptor in progress: the channel it uses (R302), the port that carries it (R291). -/
def State.beginDesc (s : State) (m : Nat) (d : MoverDesc) (rest : List MoverDesc) : State :=
  let mv := s.mover m
  let waits := match d.window with
    | some w => !s.windowReady w
    | none => false
  let port := if d.dstSpace = .finwell then (s.flowPort s.net.node d.node tWrite d.tag).getD 16 else 0
  let s := if d.dstSpace = .finwell then s.keepFlow s.net.node d.node tWrite d.tag port else s
  let s := s.setMover m { mv with
    queue := rest
    active := mv.active ++ [⟨d, 0, waits, port, none, 0⟩] }
  if d.checks then { s with chanUse := s.chanUse ++ [d.chan m] } else s

/-- What a started descriptor does at once: a window is judged, a transfer into a window is sent (R293, R295). -/
def State.launch (s : State) (m i : Nat) : State :=
  match (s.mover m).active[i]? with
  | none => s
  | some a =>
    if a.waits then s
    else if a.desc.window.any s.windowWrong then s.failActive m i (unitMover m) ⟨cDenied, .hbm, a.desc.addr, 0, 0, 0⟩
    else if a.desc.dstSpace = .finwell ∧ a.desc.srcSpace ≠ .host then State.settleMove m i a (s.moveAll m a [])
    else s

/-- MOVER_DESCRIPTOR_START (R155, R156). -/
def execMoverDescriptorStart (m : MoverId) (s : State) : Result :=
  let k := moverKey m
  if !s.moverRuns k then s.stay "R155"
  else match (s.mover k).queue with
  | [] => s.stay "R155"
  | d :: rest =>
    if d.ordered ∧ !(s.mover k).active.isEmpty then s.stay "R155"
    else
      let n := (s.mover k).active.length
      let s := s.beginDesc k d rest
      .next (if d.invalid k then s.failActive k n (unitMover k) ⟨cDenied, .hbm, d.addr, 0, 0, 0⟩ else s.launch k n)

/-! ## MOVER_BANK_ACCESS -/

/-- Commit the head of a bank's write queue (R144); a fault is that of the descriptor the write belongs to (R156). -/
def State.commitWrite (s : State) (k b : Nat) : State :=
  let bk := (s.core k).bank b
  match bk.queue with
  | [] => s
  | w :: rest =>
    let s := s.setCore k ((s.core k).setBank b { bk with queue := rest })
    let r := writeWord s k b w.row w.word w.mask w.data
    match r.2.2, (r.1.mover w.mover).active.findIdx? fun a => decide (a.desc.token = w.token) with
    | none, _ => r.1
    | some e, some i => r.1.failActive w.mover i (unitCore k) e
    | some e, none => r.1.report (plainReport e.code (unitCore k) e.kind e.address)

/-- Commit the writes of a descriptor that wait in a core's banks, and what waits before them. -/
def State.flushDesc (s : State) (k m token : Nat) : State :=
  (List.range 16).foldl (fun s b =>
    let q := ((s.core k).bank b).queue
    let own (w : BankWrite) : Bool := decide (w.mover = m) && decide (w.token = token)
    (List.range (q.length - (q.reverse.takeWhile fun w => !own w).length)).foldl (fun s _ => s.commitWrite k b) s) s

/-- A bank that the descriptor writes returns from off: the write waits (Table 7-3). -/
def State.dstReturning (s : State) (d : MoverDesc) : Bool :=
  decide (d.dstSpace = .scratch) &&
    let c := s.core d.dstCore
    let handles := if d.packed then [d.dstHandle, d.auxDstHandle] else [d.dstHandle]
    c.returning || handles.any fun hd => (maskBits (c.handle hd).bankMask).any fun b => (c.bank b).returning

/-- A word of a mover's write arrives at its bank (R144). -/
def State.arriveWord (s : State) (m token k : Nat) (x : Nat × Nat × Nat × W64 × W64) : State × Option CFault :=
  let (b, row, w, mask, data) := x
  if ((s.core k).bank b).shut then
    let r := s.bankOffWrite m k b row w
    (r.1, some r.2)
  else
    let s := (s.wakeBank k b).1
    let bk := (s.core k).bank b
    (s.setCore k ((s.core k).setBank b { bk with queue := bk.queue ++ [⟨row, w, mask, data, m, token⟩] }), none)

/-- A descriptor whose rows move one bank access at a time: from scratchpad or HBM into scratchpad or HBM. -/
def Active.byAccess (a : Active) : Bool :=
  let d := a.desc
  !a.waits && d.window.isNone && !d.packed && !d.unpack && !d.checks && decide (a.moved < d.rows)
    && (decide (d.srcSpace = .scratch) || decide (d.dstSpace = .scratch))
    && decide (d.srcSpace ∈ [.scratch, .hbm, .fill]) && decide (d.dstSpace ∈ [.scratch, .hbm])

/-- The next row of a descriptor: read, then accepted by the banks it goes to, or written to HBM. -/
def State.accessRow (s : State) (m i : Nat) (a : Active) : State :=
  let d := a.desc
  let (v, x) := (Mv.mk s [] [] 0 none).read d d.srcHandle (d.srcRow a.moved) d.rowBits
  let bit := d.dstBit + a.moved * d.dstStride
  let v := if v.fault.isSome ∨ d.dstSpace ≠ .scratch then v.write d m d.dstHandle bit d.rowBits x
    else match v.st.moverWords d d.dstHandle bit d.rowBits x with
    | (s, .error e) => { v with st := s }.fail (unitCore d.dstCore) e
    | (s, .ok ws) => ws.foldl (fun v w =>
        if v.fault.isSome then v
        else match v.st.arriveWord m d.token d.dstCore w with
          | (s, none) => { v with st := s }
          | (s, some e) => { v with st := s }.fail (unitCore d.dstCore) e) { v with st := s }
  match v.fault with
  | some (unit, e) => v.st.failActive m i unit e
  | none => v.st.setActive m i { a with moved := a.moved + 1 }

/-- The upsets and waits of a transfer that reaches a core's banks (R135, Table 7-6). -/
def State.xferEnv (s : State) (k : Option Nat) (e : XferEnv) : State :=
  let s := (s.upsets e.upsets).hbmUpsets e.hbm
  match k with
  | some k => s.bumpH 0x3048 (k / 1088) 9 e.waitNs
  | none => s

/-- A core whose banks a descriptor reaches. -/
def MoverDesc.coreOf (d : MoverDesc) : Option Nat :=
  if d.dstSpace = .scratch then some d.dstCore else if d.srcSpace = .scratch then some d.srcCore else none

/-- MOVER_BANK_ACCESS (R135, R144). -/
def execMoverBankAccess (m : MoverId) (act : BankAct) (env : XferEnv) (s : State) : Result :=
  let k := moverKey m
  match act with
  | .arrive =>
    if !s.moverRuns k then s.stay "R155"
    else match (s.mover k).active.findIdx? (·.byAccess) with
    | none => s.stay "R135"
    | some i => match (s.mover k).active[i]? with
      | none => s.stay "R135"
      | some a =>
        if s.dstReturning a.desc then s.stay "R145"
        else .next ((s.xferEnv a.desc.coreOf env).accessRow k i a)
  | .commit c b =>
    let q := idKey c
    if !s.coreRuns q then s.stay "R142"
    else if ((s.core q).bank b.val).queue.isEmpty then s.stay "R144"
    else
      .next ((s.xferEnv (some q) env).commitWrite q b.val)

/-! ## MOVER_DESCRIPTOR_COMPLETE and WINDOW_ARRIVAL -/

/-- Bytes that the host reads of a descriptor return. -/
def Active.hostBytes (a : Active) : Nat :=
  let d := a.desc
  if d.srcSpace = .host then
    ((List.range d.rows).map fun r => ((d.srcBit + r * d.srcStride) % 8 + d.rowBits + 7) / 8).sum
  else 0

/-- The port of a HOST descriptor takes transfers (R263, R265). -/
def State.hostOpen (s : State) (d : MoverDesc) : Bool :=
  (decide (d.srcSpace ≠ .host) && decide (d.dstSpace ≠ .host)) ||
    (s.canSend d.hostPort && (s.port d.hostPort).held.isEmpty)

/-- The rest of a descriptor moves and it completes, unless a write of its own that had waited has failed it. -/
def State.complete (s : State) (m : Nat) (a : Active) (host : List Byte) : State :=
  let s := if a.desc.dstSpace = .scratch then s.flushDesc a.desc.dstCore m a.desc.token else s
  match (s.mover m).active.findIdx? fun q => decide (q.desc = a.desc) with
  | none => s
  | some i => State.settleMove m i a (s.moveAll m a host)

/-- MOVER_DESCRIPTOR_COMPLETE (R155, R156, R304). -/
def execMoverDescriptorComplete (m : MoverId) (k : Nat) (env : XferEnv) (s : State) : Result :=
  let q := moverKey m
  if !s.moverRuns q then s.stay "R155"
  else match (s.mover q).active[k]? with
  | none => s.stay "R155"
  | some a =>
    if a.waits ∨ (a.desc.dstSpace = .finwell ∧ (a.desc.srcSpace ≠ .host ∨ a.moved ≠ 0 ∨ a.endSent.isSome)) then s.stay "R293"
    else if s.dstReturning a.desc then s.stay "R145"
    else if !s.hostOpen a.desc ∨ env.hostData.length ≠ a.hostBytes then s.stay "R264"
    else .next ((s.xferEnv a.desc.coreOf env).complete q a env.hostData)

/-- WINDOW_ARRIVAL (R295, R296): the records of a waiting TRANSFER have arrived; it checks them and copies. -/
def execWindowArrival (m : MoverId) (s : State) : Result :=
  let q := moverKey m
  if !s.moverRuns q then s.stay "R155"
  else match (s.mover q).active.findIdx? fun a => a.waits && a.desc.window.any s.windowReady with
  | none => s.stay "R295"
  | some i => match (s.mover q).active[i]? with
    | none => s.stay "R295"
    | some a =>
      if s.dstReturning a.desc then s.stay "R145"
      else
        let a := { a with waits := false }
        let s := s.setActive q i a
        .next (if a.desc.window.any s.windowWrong then
            s.failActive q i (unitMover q) ⟨cDenied, .hbm, a.desc.addr, 0, 0, 0⟩
          else s.complete q a [])

end Sys2Proof.Machine
end

