-- ==== Sys2Proof/Machine/Fold.lean ====
section
/-!
DEFINITION. The fold trees (R118 to R124) and the end of an operation (R69, R88, R101): the commands FOLD_PAIR,
FOLD_CLOSE, FOLD_EMIT and OPERATION_END.
-/
namespace Sys2Proof.Machine

/-! ## FOLD_PAIR -/

/-- Take the k-th pair in flight to a hearth's folds. -/
def takePair : Nat → List Fold → Option (List Fold)
  | _, [] => none
  | k, f :: fs =>
    match f.inFlight[k]? with
    | some p => some ({ f with inFlight := f.inFlight.eraseIdx k, taken := f.taken ++ [p] } :: fs)
    | none => (takePair (k - f.inFlight.length) fs).map (f :: ·)

/-- FOLD_PAIR (R118, Table 6-6). -/
def execFoldPair (h : Hearth) (k : Nat) (s : State) : Result :=
  if !s.hearthRuns h.val then s.stay "R118"
  else match takePair k (s.foldsOf h.val) with
    | none => s.stay "R118"
    | some fs => .next ((s.setFolds h.val fs).bumpH 0x3040 h.val 6 1)

/-! ## Emission -/

def State.dropFold (s : State) (h n : Nat) : State := s.setFolds h ((s.foldsOf h).eraseIdx n)

def State.countEmitted (s : State) (h : Nat) (ps : List Pair) : State :=
  (s.bumpH 0x3040 h 7 ps.length).bumpH 0x3040 h 9 (ps.filter (·.ovf)).length

/-- Put one emitted sum into an entry of a slot: the first fold of a K-split replaces, others add (R120, R121). -/
def Core.emitAt (c : Core) (t : Slot) (replace : Bool) (place : Nat) (q : Pair) : Core :=
  let key := t.key place
  let e := c.entry key
  c.setEntry key (if replace then { e with val := q.val, ovf := q.ovf } else accAdd t.acc16 e q.val q.ovf)

/-- Put emitted sums into the entries of a slot, at their coordinates in the destination's planned shape (R118, R120 to
R122); the sums of a K-split replace. -/
def Core.emit (c : Core) (p : Program) (r : OpRec) (t : Slot) (replace : Bool) (ps : List Pair) : Core :=
  ps.foldl (fun c q => c.emitAt t replace (p.pairPlace r t q.index) q) c

/-- The slot of a core that an operation holds for a pair. -/
def Core.slotFor (c : Core) (op mb nt : Nat) : Option (Nat × Slot) :=
  c.slots.find? fun e => decide (e.2.phase ≠ .free) && decide (e.2.op = op) && decide (e.2.mb = mb) && decide (e.2.nt = nt)

/-- KSPLIT_MERGE (R121): the sums go into the slot of the lowest part, which then drains. A source range of R120 holds
consecutive K-parts, as many as 65,536 planned pairs allow (DESIGN CHOICE, log 136). -/
def State.closeKsplit (s : State) (x : Job) (h n : Nat) (f : Fold) : State :=
  let p := x.bd.prog
  let r := p.op f.op
  match x.bd.pairCore f.op f.mb f.nt with
  | none => s
  | some k =>
    match (s.core k).slotFor f.op f.mb f.nt with
    | none => s
    | some (sl, t) =>
      let sp := x.bd.split f.op
      let entries := r.mBlock * r.nPass
      let starts := (List.range sp.s).map fun q => (partRange q sp.s sp.tk).1 * r.kBlocks
      let per := max 1 (65536 / entries)
      let groups := (List.range (ceilDiv sp.s per)).map fun g =>
        f.taken.filter fun q => match starts.findIdx? (· = q.source) with
          | some i => decide (i / per = g)
          | none => false
      let sums := groups.map (sumFold r.acc16)
      let c := (sums.zip (List.range sums.length)).foldl (fun c (ps, g) => c.emit p r t (decide (g = 0)) ps) (s.core k)
      let done := (p.scatterInto f.op).isEmpty
      let s := s.setCore k (c.setSlot sl (if done then { t with phase := .draining, awaitsFold := false, left := ceilDiv entries 64 } else t))
      (s.dropFold h n).countEmitted h sums.flatten

/-- R122: SCATTER_KEEP writes one record for each pair: index, low half first, then value in two elements. -/
def State.closeKeep (s : State) (x : Job) (h n : Nat) (f : Fold) : State :=
  let r := x.bd.prog.op f.op
  match x.bd.coreAt 0 with
  | none => s
  | some k =>
    let recs := (foldRanges 65536 f.taken).flatMap sortPairs
    let val (q : Pair) : Nat := q.index % 2 ^ 32 + 2 ^ 32 * codeOf 32 q.val
    let a := (Acc.ofState s).andThen fun s =>
      writeRuns s k r.outBuf (opOrigin f.op) (joinRuns ((recs.zip (List.range recs.length)).map fun (q, d) => (64 * d, 64, val q)))
    -- records are no sums: they count as emitted, and flag no sum
    let s := ((a.st.dropFold h n).bumpH 0x3040 h 7 recs.length).wroteNonzero x f.op (recs.any fun q => decide (val q ≠ 0))
    match a.fault with
    | none => s
    | some e => s.opFault x k f.op e

/-- SIFT_CANDIDATE_FOLD (R123): the first k candidates of each vector, written on the destination core. -/
def State.closeSift (s : State) (x : Job) (h n : Nat) (f : Fold) : State :=
  let r := x.bd.prog.op f.op
  let t := x.bd.split f.op
  match x.bd.partCore f.op (partHolding t.r t.tm f.mb) 0 0 with
  | none => s
  | some k =>
    let vecs := x.bd.blockVecs r f.mb
    let a := (Acc.ofState s).each vecs fun a m =>
      a.putSift x k f.op m ((f.cands.filterMap fun c => if c.1 = m then some c.2 else none).foldl
        (siftInsert r.siftMin r.siftK) [])
    let s := (a.st.dropFold h n).bumpH 0x3030 h 5 vecs.length
    match a.fault with
    | none => s
    | some e => s.opFault x k f.op e

/-- Nothing that an earlier operation scatters into the pair is still to come: its cores are done, and no fold of it into
the pair is open (R124). -/
def State.earlierFolded (s : State) (x : Job) (h d : Nat) (f : Fold) : Bool :=
  ((x.bd.prog.scatterInto d).filter (· < f.op)).all fun i => s.opDone x.bd i &&
    (s.foldsOf h).all fun g => decide (g.part ≠ f.part) || decide (g.op ≠ i) || decide (g.mb ≠ f.mb) || decide (g.nt ≠ f.nt)

/-- The fold's destination slot takes its sums now: it is claimed, its own K-split has merged, and every earlier fold
into it has emitted (R122, R124). -/
def State.emitReady (s : State) (x : Job) (h d : Nat) (f : Fold) : Option (Nat × Nat × Slot) :=
  (x.bd.pairCore d f.mb f.nt).bind fun k => ((s.core k).slotFor d f.mb f.nt).bind fun st =>
    let fs := s.foldsOf h
    let merged := decide ((x.bd.split d).s ≤ 1) || (st.2.awaitsFold && !(fs.any fun g => g.is x.part d f.mb f.nt))
    if st.2.phase = .owned ∧ merged ∧ s.earlierFolded x h d f then some (k, st) else none

/-- Emit the sums of a SCATTER_SUM fold into its destination slot (R120, R122). -/
def State.emitScatter (s : State) (x : Job) (h n d k : Nat) (st : Nat × Slot) (ps : List Pair) : State :=
  let p := x.bd.prog
  let s := s.setCore k ((s.core k).emit p (p.op d) st.2 false ps)
  (s.dropFold h n).countEmitted h ps

/-- R119, R120, R122: the sums of a SCATTER_SUM fold, and their emission or their wait for the destination. A source range
is 65,536 sources wide (DESIGN CHOICE, log 136). -/
def State.closeScatter (s : State) (x : Job) (h n : Nat) (f : Fold) : State :=
  let p := x.bd.prog
  let r := p.op f.op
  match p.scatterDest r with
  | none => s
  | some d =>
    let sums := (foldRanges 65536 f.taken).flatMap (sumFold (p.op d).acc16)
    match s.emitReady x h d f with
    | some (k, st) => s.emitScatter x h n d k st sums
    | none => s.setFolds h ((s.foldsOf h).set n { f with emitting := some sums, taken := [] })

/-- Every source of a fold has sent all it sends (R118). -/
def State.foldComplete (s : State) (x : Job) (f : Fold) : Bool :=
  f.inFlight.isEmpty && f.awaited.isEmpty && f.emitting.isNone &&
    (decide ((x.bd.prog.op f.op).foldMode < 2) || s.opDone x.bd f.op)

/-- The job of a fold. -/
def State.foldJob (s : State) (h n : Nat) : Option (Job × Fold) :=
  ((s.foldsOf h)[n]?).bind fun f => (s.job f.part).map fun x => (x, f)

/-- The merge of a closed fold by its mode (R119 to R123). -/
def State.closeFold (s : State) (x : Job) (h n : Nat) (f : Fold) : State :=
  let r := x.bd.prog.op f.op
  if r.foldMode = 2 then s.closeScatter x h n f
  else if r.foldMode = 3 then s.closeKeep x h n f
  else if f.nt = siftTag then s.closeSift x h n f
  else s.closeKsplit x h n f

/-- FOLD_CLOSE (R118 to R123). -/
def execFoldClose (h : Hearth) (fold : Nat) (s : State) : Result :=
  if !s.hearthRuns h.val then s.stay "R118"
  else match s.foldJob h.val fold with
    | none => s.stay "R118"
    | some (x, f) => if s.foldComplete x f then .next (s.closeFold x h.val fold f) else s.stay "R118"

/-- FOLD_EMIT (R124). -/
def execFoldEmit (h : Hearth) (fold : Nat) (s : State) : Result :=
  if !s.hearthRuns h.val then s.stay "R124"
  else match s.foldJob h.val fold with
    | none => s.stay "R124"
    | some (x, f) =>
      match f.emitting, x.bd.prog.scatterDest (x.bd.prog.op f.op) with
      | some ps, some d => match s.emitReady x h.val d f with
        | some (k, st) => .next (s.emitScatter x h.val fold d k st ps)
        | none => s.stay "R124"
      | _, _ => s.stay "R124"

/-! ## OPERATION_END (R69, R88, R101) -/

/-- The events of an operation that has ended. -/
def State.endEvents (s : State) (x : Job) (i : Nat) : State :=
  let o := x.bd.opStats i
  let ev (code d0 d1 : Nat) : Report := { plainReport code unitLeaven .operation i with
    d0 := d0
    d1 := d1
    item := some (x.ctx, x.item.seq)
    ctx := some x.ctx }
  let s := if 0 < o.flagged then (s.report (ev cAccOverflow o.flagged 0)).bump 0x6020 2 1 else s
  let s := if s.obj 0x6020 1 ≠ 0 ∧ s.obj 0x6020 1 ≤ o.inexact then
    (s.report (ev cPrecisionLoss (min o.inexact (2 ^ 32 - 1)) 0)).bump 0x6020 3 1 else s
  if 0 < o.deviated then (s.report (ev cSampleDeviation o.taken o.deviated)).bump 0x6030 2 1 else s

/-- The bits of FLAGS that an operation's end sets (Table 10-7). -/
def State.endFlags (s : State) (o : OpStats) : Nat :=
  (if 0 < o.flagged then 1 else 0) + (if s.obj 0x6020 1 ≠ 0 ∧ s.obj 0x6020 1 ≤ o.inexact then 2 else 0)
    + (if 0 < o.deviated then 4 else 0)

/-- No shadow core still computes a sample of the operation (R100, R101). -/
def State.samplesDone (s : State) (x : Job) (i : Nat) : Bool :=
  x.bd.spareCores.all fun k => match (s.core k).sample with
    | some sm => decide (sm.part ≠ x.part) || decide (sm.op ≠ i) || !s.coreRuns k
    | none => true

/-- The operation has ended on every unit it ran on: its cores and their shadows, its mover, its folds. -/
def State.opEnded (s : State) (x : Job) (i : Nat) : Bool :=
  let r := x.bd.prog.op i
  decide (i < x.bd.prog.ops.length) &&
  (if r.kind = kTransfer then decide (i ∈ x.bd.issued) && (s.mover (x.bd.moverOf (s.ctx x.ctx).hostPort i)).clearOf x.part i
   else if r.kind = kMark then decide (i ∈ x.bd.issued)
   else s.opDone x.bd i && s.samplesDone x i && (List.range 16).all fun h => (s.foldsOf h).all fun f => decide (f.part ≠ x.part) || decide (f.op ≠ i))

/-- OPERATION_END (R69, R88, R101). -/
def execOperationEnd (p : PartNo) (op : Nat) (s : State) : Result :=
  match s.job p.val with
  | none => s.stay "R69"
  | some x =>
    if !s.opEnded x op ∨ (x.bd.opStats op).ended then s.stay "R69"
    else
      let fl := s.endFlags (x.bd.opStats op)
      let s := (s.endEvents x op).stat p.val op fun o => { o with ended := true }
      .next (s.mapHead x.ctx fun it => { it with flags := it.flags ||| fl })

end Sys2Proof.Machine
end

