-- ==== Sys2Proof/Machine/Training.lean ====
section
/-!
DEFINITION. Training (R190 to R203): scale groups, the range of an offset, the offsets of a training item, its
settlement, the doldrums watch, scale records and presets; the command TRAINING_ITEM_START.
-/
namespace Sys2Proof.Machine

/-! ## Records (R200, R201, R203) -/

def ScaleRec.is (r : ScaleRec) (ctx program group : Nat) : Bool :=
  decide (r.ctx = ctx) && decide (r.program = program) && decide (r.group = group)

def Training.find (t : Training) (ctx program group : Nat) : Option ScaleRec := t.recs.find? fun r => r.is ctx program group
/-- Store a record, the newest first. -/
def Training.put (t : Training) (r : ScaleRec) : Training :=
  { t with recs := r :: t.recs.filter fun x => !x.is r.ctx r.program r.group }
def Training.drop (t : Training) (ctx program group : Nat) : Training :=
  { t with recs := t.recs.filter fun x => !x.is ctx program group }

/-- A group's record before anything has been settled. -/
def freshRec (ctx program group : Nat) (range : Int × Int) (delta : Int) (restarted : Bool) : ScaleRec where
  ctx := ctx
  program := program
  group := group
  delta := delta
  dmin := range.1
  dmax := range.2
  hist := []
  skips := 0
  run := 0
  peakLast := 0
  atLimit := false
  restarted := restarted
  inDoldrums := false

/-- An offset written by the host: what the write changes in the record (R203). -/
def ScaleRec.written (r : ScaleRec) (delta : Int) : ScaleRec :=
  { r with
    delta := delta
    hist := []
    skips := 0
    atLimit := false
    restarted := false }

def cTrain : Nat := 0x6040

/-- The offsets that the host wrote take effect: those of every record of the context (R203). -/
def Training.applyPending (t : Training) (ctx : Nat) : Training :=
  let mine := t.pendingDelta.filter fun e => decide (e.1 = ctx)
  { (mine.foldl (fun (t : Training) e => match t.find ctx e.2.1 e.2.2.1 with
      | some r => t.put (r.written e.2.2.2)
      | none => t) t) with pendingDelta := t.pendingDelta.filter fun e => decide (e.1 ≠ ctx) }

/-- The offsets of a context's present scale records, by group (R192). -/
def Training.offsets (t : Training) (ctx : Nat) (p : Program) : Table Int :=
  p.groups.foldl (fun l g => match t.find ctx p.id g with
    | some r => tset 0 l g r.delta
    | none => l) []

/-- Presets of groups that the program does not define are discarded at a training item's bind (R203). -/
def Training.dropPresets (t : Training) (ctx : Nat) (p : Program) : Training :=
  { t with presets := t.presets.filter fun e => decide (e.1 ≠ ctx) || decide (e.2.1 ∈ p.groups) }

/-- The offset with which a group starts (R201, R203). -/
def State.startGroup (s : State) (x : Job) (g : Nat) : State × Int :=
  let p := x.bd.prog
  let range := p.deltaRange g
  if range.2 < range.1 then (s, 0)
  else
    let t := s.train
    match t.find x.ctx p.id g with
    | some r => (s, r.delta)
    | none =>
      match t.presets.find? fun e => e.1 = x.ctx ∧ e.2.1 = g with
      | some e =>
        let d := clampIn range e.2.2
        let hit := decide (d ≠ e.2.2)
        let t := t.put { freshRec x.ctx p.id g range d false with atLimit := hit }
        let s := { s with train := { t with presets := t.presets.filter fun e => !(decide (e.1 = x.ctx) && decide (e.2.1 = g)) } }
        (if hit then s.bump cTrain 8 1 else s, d)
      | none => (s.bump cTrain 9 1, clampIn range (min 2 range.2))

/-- A SCALE record of a group. -/
def JRec.isScaleOf (r : JRec) (ctx program group : Nat) : Bool :=
  match r.body with
  | .scale x => x.is ctx program group
  | _ => false

/-- R201, R219: a record whose complement fails is read from the other copy; one that fails in both is treated as absent. -/
def State.badRecord (s : State) (x : Job) (e : Nat × List Stack) : State :=
  match s.journal.recs.find? fun r => r.isScaleOf x.ctx x.bd.prog.id e.1 with
  | none => s
  | some r =>
    let (s, lost) := s.readRecord r e.2
    if lost then
      ({ s with train := s.train.drop x.ctx x.bd.prog.id e.1 }).journalReclaim fun q => q.isScaleOf x.ctx x.bd.prog.id e.1
    else s

/-- R227: an item that runs on past its deadline under ABORT stops. -/
def State.abortLate (s : State) (p c : Nat) (i : Item) : State :=
  if !(s.ctx c).finishPolicy ∧ i.deadline ≠ 0 ∧ i.deadline < s.now then
    s.setPart p { s.part p with fault := some ⟨0, 0, false, false, true⟩ }
  else s

/-- The start of a training item: offsets of all groups, and the samples of R202. -/
def State.startTraining (s : State) (x : Job) (bad : List (Nat × List Stack)) : State :=
  let s := bad.foldl (fun s e => s.badRecord x e) { s with train := s.train.applyPending x.ctx }
  let (s, ds) := x.bd.prog.groups.foldl (fun (acc : State × Table Int) g =>
    let (s, d) := acc.1.startGroup x g
    (s, tset 0 acc.2 g d)) (s, [])
  let s := s.setBinding x.part fun b => { b with
    deltas := ds
    raiseBelow := s.obj cTrain 1
    doldrumsRun := s.obj cTrain 2 }
  (s.mapHead x.ctx fun it => { it with state := .running, bound := false }).abortLate x.part x.ctx x.item

/-- The partition's item once its binding is in place and before its run starts. -/
def State.boundJob (s : State) (p : Nat) : Option Job :=
  match (s.part p).binding, s.running p with
  | some b, some (c, i) => if i.state = .binding ∧ i.bound ∧ s.mapOk p then some ⟨p, c, i, b⟩ else none
  | _, _ => none

/-- TRAINING_ITEM_START (R194 to R196, R201, R203): `badRecords` names groups with the stacks whose copy of the
group's record fails its complement. -/
def execTrainingItemStart (p : PartNo) (badRecords : List (Nat × List Stack)) (s : State) : Result :=
  match s.boundJob p.val with
  | none => s.stay "R194"
  | some x => if s.leavenUp && x.bd.train then .next (s.startTraining x badRecords) else s.stay "R194"

/-! ## Settlement (R198, R199) -/

/-- What the operations of a group gathered in an item. -/
structure GroupStats where
  flagged : Nat
  drained : Nat
  peak : Nat
  zeroStep : Bool
  deriving DecidableEq, Repr

def Binding.groupStats (b : Binding) (g : Nat) : GroupStats :=
  let os := (b.prog.groupOps g).map b.opStats
  ⟨(os.map (·.flagged)).sum, (os.map (·.drained)).sum, (os.map (·.peak)).foldl max 0,
    (os.all fun o => !o.nonzeroOut) && os.any fun o => decide (0 < o.zeroed + o.underflow)⟩

/-- R198: an offset moved within its range; the flag and the count where it stops at a limit. -/
def ScaleRec.move (r : ScaleRec) (d : Int) : ScaleRec × Bool :=
  let c := clampIn (r.dmin, r.dmax) d
  ({ r with
      delta := c
      hist := []
      atLimit := r.atLimit || decide (c ≠ d) }, decide (c ≠ d))

/-- R198: the record of a skipped group. -/
def ScaleRec.settleSkip (r : ScaleRec) (g : GroupStats) : ScaleRec × Bool :=
  if g.flagged = 0 then (r, false)
  else
    let m := r.move (r.delta + (min (2 ^ r.skips) 8 : Nat))
    ({ m.1 with skips := r.skips + 1 }, m.2)

/-- R198: the record of a committed group, before the watch. -/
def ScaleRec.settleCommit (r : ScaleRec) (g : GroupStats) (raiseBelow : Nat) : ScaleRec × Bool :=
  let h := r.hist ++ [g.peak]
  let h := h.drop (h.length - 16)
  let r := { r with
    skips := 0
    hist := h
    peakLast := g.peak }
  if h.length = 16 ∧ h.foldl max 0 ≤ raiseBelow then r.move (r.delta - 1) else (r, false)

/-- R199: the run count, and whether DOLDRUMS is due. -/
def ScaleRec.watch (r : ScaleRec) (g : GroupStats) (every : Nat) : ScaleRec × Bool :=
  let run := if g.zeroStep then min (r.run + 1) (2 ^ 32 - 1) else 0
  let due := g.zeroStep && decide (run ≠ r.run) && decide (run % every = 0)
  ({ r with
      run := run
      inDoldrums := if run = 0 then false else r.inDoldrums || due }, due)

/-- SCALE_SETTLE (R198 to R200) of one group; whether DOLDRUMS was logged. -/
def State.settleGroup (s : State) (x : Job) (skipped : Bool) (g : Nat) : State × Bool :=
  let p := x.bd.prog
  let range := p.deltaRange g
  if range.2 < range.1 then (s, false)
  else
    let r := (s.train.find x.ctx p.id g).getD (freshRec x.ctx p.id g range (tget 0 x.bd.deltas g) true)
    let st := x.bd.groupStats g
    let (r, hit) :=
      if skipped then r.settleSkip st
      else if st.drained = 0 then (r, false)
      else r.settleCommit st x.bd.raiseBelow
    let (r, due) := if skipped ∨ st.drained = 0 then (r, false) else r.watch st x.bd.doldrumsRun
    let s := { s with train := s.train.put r }
    let s := if hit then s.bump cTrain 8 1 else s
    let s := if due then
      (s.report { plainReport cDoldrums unitLeaven .value p.id with
        d0 := g
        d1 := r.run
        item := some (x.ctx, x.item.seq)
        ctx := some x.ctx }).bump cTrain 7 1 else s
    -- the newest record of a group replaces the one before in the space reserved for it
    ((s.journalReclaim fun q => q.isScaleOf x.ctx p.id g).journalAppend x.ctx x.item.seq (.scale r), due)

/-- Settle every group; whether any DOLDRUMS was logged. -/
def State.settleAll (s : State) (x : Job) (skipped : Bool) : State × Bool :=
  x.bd.prog.groups.foldl (fun (acc : State × Bool) g =>
    let r := acc.1.settleGroup x skipped g
    (r.1, acc.2 || r.2)) (s, false)

/-- R197: the item drained a flagged entry. -/
def Binding.overflowed (b : Binding) : Bool :=
  (List.range b.prog.ops.length).any fun i => decide (0 < (b.opStats i).flagged)

/-- Groups that overflowed. -/
def Binding.overflowGroups (b : Binding) : Nat :=
  (b.prog.groups.filter fun g => decide (0 < (b.groupStats g).flagged)).length

end Sys2Proof.Machine
end

