-- ==== Sys2Proof/Machine/Bind.lean ====
section
/-!
DEFINITION. The inputs of a bind, what a bind installs and what an unbind keeps (R149,
R153, R175, R183, R207, R215 to R218), and the command BIND.
-/
namespace Sys2Proof.Machine

/-! ## Carried state outside a binding (R207, R215) -/

/-- The carried state that a binding holds: HBM buffers and checkpoints. -/
def State.carriedOf (s : State) (b : Binding) : List Kept :=
  (List.range b.prog.bufs.length).filterMap fun i =>
    let n := b.prog.bufBytes (b.prog.buf i)
    if b.prog.carriedHbm i then
      let a := ((b.places[i]?).map (·.hbm)).getD 0
      let r := s.rawRead a (b.prog.hbmBytes i)
      some ⟨i, a, r.2.1, r.2.2⟩
    else if i ∈ b.saved then
      (b.ckpt.find? fun c => c.1 = i).map fun c =>
        let r := s.rawRead c.2 n
        ⟨i, c.2, r.2.1, r.2.2⟩
    else none

/-- Where the carried state of a buffer lies in a binding. -/
def Binding.carryAddr (b : Binding) (i : Nat) : Option Nat :=
  if b.prog.carriedHbm i then (b.places[i]?).map (·.hbm) else (b.ckpt.find? fun c => c.1 = i).map (·.2)

/-- Copies between an HBM image of a buffer in logical order and its shares, by Leaven's movers. -/
def State.copyShares (s : State) (x : Job) (i addr : Nat) (toShares : Bool) (eo ei : Nat) : Mv :=
  let img : Spot := ⟨.hbm, 0, 0, 8 * addr, 0, x.bd.prog.wholeShare i none⟩
  let spots := x.spots i toShares none
  let ds := spots.flatMap fun sp => if toShares then plainPair img sp eo ei else plainPair sp img eo ei
  let m := 8 * x.bd.hearths.headD 0
  ds.foldl (fun v d => if v.fault.isSome then v else v.rows { d with
    part := x.part
    addr := Config.descriptorAddr (2 ^ 28 * x.part + i) } m crc32c 0) ⟨s, [], [], 0, none⟩

/-- Handle entries of a buffer on all its cores. -/
def State.bufHandles (s : State) (b : Binding) (i : Nat) (live : Bool) : State :=
  match b.places[i]? with
  | none => s
  | some pl => pl.rows.foldl (fun s r =>
      s.writeHandle r.core (b.prog.buf i).handle (if live then handleWord (b.prog.buf i) true r else 0)) s

/-- A copy by Leaven's movers between the image of a buffer at an address and its shares, with the handles of the buffer in
place meanwhile; a fault of the copy stops the item. -/
def State.fillShares (s : State) (x : Job) (i addr eo ei : Nat) : State :=
  let v := (s.bufHandles x.bd i true).copyShares x i addr true eo ei
  let s := v.st.bufHandles x.bd i false
  match v.fault with
  | none => s
  | some (unit, e) => s.jobFault x 0 unit e

/-- The bytes that the image gives a FROM_IMAGE buffer (Table 8-6). -/
def Program.imageBytes (p : Program) (i : Nat) : List Byte := (p.consts.drop (p.buf i).srcOff).take (p.bufBytes (p.buf i))

/-- Load the FROM_IMAGE contents of a buffer (Table 8-6): into its shares, its place in HBM, or the host memory that its
port names; a port that names a Finwell window takes none (log 71). -/
def State.loadConst (s : State) (x : Job) (i : Nat) : State :=
  let p := x.bd.prog
  let br := p.buf i
  if !br.fromImage then s
  else if br.cls = clsScratch then s.fillShares x i (x.bd.image + p.constOff + br.srcOff) (p.dim br.dimOuter) (p.innerCount br)
  else if br.cls = clsHost then
    let a := Args.ioAddr x.item.args br.ioPort
    if ioFinwell a then s else s.send (s.ctx x.ctx).hostPort (.write a (p.imageBytes i))
  else match x.bd.places[i]? with
    | some pl => s.putBytes pl.hbm (p.imageBytes i)
    | none => s

/-- A carried SCRATCH buffer with contents from the image: they are its first checkpoint, to which a skipped or rolled-back
item returns (R197, R217). -/
def State.imageCheckpoints (s : State) (b : Binding) : State × Binding :=
  (b.ckpt.filter fun c => (b.prog.buf c.1).fromImage).foldl (fun (acc : State × Binding) c =>
    (acc.1.putBytes c.2 (b.prog.imageBytes c.1), { acc.2 with saved := acc.2.saved ++ [c.1] })) (s, b)

/-- Restore kept contents into a binding; a restored checkpoint also goes to the shares. -/
def State.restoreKept (s : State) (b : Binding) (ks : List Kept) : State × Binding :=
  ks.foldl (fun (acc : State × Binding) k =>
    match acc.2.carryAddr k.buf with
    | none => acc
    | some a =>
      let s := acc.1.rawWrite a k.data k.poison
      (s, if b.prog.carriedHbm k.buf ∨ k.buf ∈ acc.2.saved then acc.2 else { acc.2 with saved := acc.2.saved ++ [k.buf] })) (s, b)

/-- Copy every checkpoint into the shares of its buffer. -/
def State.restoreShares (s : State) (x : Job) : State :=
  x.bd.saved.foldl (fun s i =>
    let br := x.bd.prog.buf i
    match x.bd.carryAddr i with
    | some a => s.fillShares x i a (x.bd.ext br.dimOuter) (x.innerExt br)
    | none => s) s

/-! ## Stopping and unbinding -/

/-- Release the movers' descriptors of a partition; RUNNING of a channel in use returns to its init value. -/
def State.purgeMovers (s : State) (p : Nat) : State :=
  (List.range 136).foldl (fun s m =>
    let mv := s.mover m
    let gone := mv.active.filter fun a => decide (a.desc.part = p) && a.desc.checks
    let s := gone.foldl (fun s a => s.freeChan (a.desc.chan m)) s
    s.setMover m { mv with
      queue := mv.queue.filter fun d => decide (d.part ≠ p)
      active := mv.active.filter fun a => decide (a.desc.part ≠ p) }) s

/-- The units of a binding stop: cores hold no product, slot or entry, the fold trees nothing of the partition. -/
def State.clearRun (s : State) (p : Nat) (b : Binding) : State :=
  let s := b.cores.foldl (fun s k => s.setCore k { s.core k with
    begun := false
    run := none
    chainWait := none
    slots := []
    acc := []
    sift := []
    sheet := [] }) s
  let s := (List.range 16).foldl (fun s h => s.setFolds h ((s.foldsOf h).filter fun f => decide (f.part ≠ p))) s
  s.purgeMovers p

/-- Pin or unpin the LARDER_RESIDENT buffers of a binding (R149). -/
def State.pinBinding (s : State) (b : Binding) (pin : Bool) : State :=
  (List.range b.prog.bufs.length).foldl (fun s i =>
    match b.places[i]? with
    | some pl =>
      let n := b.prog.hbmBytes i
      if (b.prog.buf i).cls = clsLarder ∧ (!pin ∨ s.pinFits pl.hbm n) then s.setPinned pin pl.hbm n else s
    | none => s) s

/-- Keep a program's carried state with its context. -/
def Context.keep (c : Context) (image : Nat) (ks : List Kept) : Context :=
  { c with kept := (image, ks) :: c.kept.filter fun e => decide (e.1 ≠ image) }

/-- Unbind the resident binding of a partition (R207): its carried state stays with its context. -/
def State.unbind (s : State) (p : Nat) : State :=
  match (s.part p).binding with
  | none => s
  | some b =>
    let ks := s.carriedOf b
    let s := s.clearRun p b
    let s := s.pinBinding b false
    let s := s.setCtx b.ctx ((s.ctx b.ctx).keep b.prog.id ks)
    s.setPart p { s.part p with binding := none }

/-! ## The inputs of a bind (R175, R183) -/

/-- The hearths of a partition's map. -/
def State.mapHearths (s : State) (p : Nat) : List Nat := (List.range 16).filter fun h => (s.part p).map.getLsbD h

/-- The stacks of a partition (R183). -/
def State.stacksOf (s : State) (p : Nat) : List Nat := (s.mapHearths p).filter fun h => h ∉ s.health.stacksFailed

/-- Bytes of a stack that a binding's areas take. -/
def Binding.bytesOn (b : Binding) (st : Nat) : Nat := ((b.areas.filter fun a => stackOf a.1 = st).map (·.2)).sum

/-- Bytes that other partitions' bindings hold in the partner of a stack, where one side is mirrored (R153). -/
def State.reservedIn (s : State) (p st : Nat) (mirror : Bool) : Nat :=
  ((List.range 16).map fun q =>
    match (s.part q).binding with
    | some b => if q ≠ p ∧ (mirror ∨ s.mirrorState q ≠ 0) then b.bytesOn (partner st) else 0
    | none => 0).sum

/-- Cores, banks (16 × core + bank), hearths and stacks that failing health-map words make faulty for a bind (R240). -/
def badCoresOf (bad : List HealthWord) (h : Nat) : List Nat := bad.filterMap fun w => match w with
  | .core c => if c.hearth.val = h then some c.core.val else none
  | _ => none
def badBanksOf (bad : List HealthWord) (h : Nat) : List Nat := bad.filterMap fun w => match w with
  | .bank c b => if c.hearth.val = h then some (16 * c.core.val + b.val) else none
  | _ => none
def badHearth (bad : List HealthWord) (h : Nat) : Bool := bad.any fun w => match w with
  | .hearth g => decide (g.val = h)
  | _ => false
def badStack (bad : List HealthWord) (st : Nat) : Bool := bad.any fun w => match w with
  | .stack t => decide (t.val = st)
  | _ => false

/-- The inputs of a bind; `ideal` takes every hearth as healthy and every health map as empty (R183). -/
def State.bindIn (s : State) (p : Nat) (train : Bool) (bad : List HealthWord) (ideal : Bool) : BindIn :=
  let mirror := decide (s.obj 0x4020 (p + 1) ≠ 0)
  let hs := s.mapHearths p
  let sts := if ideal then hs else (s.stacksOf p).filter fun st => !badStack bad st
  { hearths := if ideal then hs else hs.filter fun h => !(s.hearth h).logicFailed && !badHearth bad h
    faulty := if ideal then [] else hs.map fun h => (h, (s.hearth h).faulty ++ badCoresOf bad h)
    marked := if ideal then [] else hs.map fun h => (h, (s.hearth h).marked ++ badBanksOf bad h)
    stackIds := sts
    mirror := mirror
    training := train
    reserved := sts.map fun st => (st, s.reservedIn p st mirror) }

/-- What a bind comes to. -/
inductive BindOut where
  | bound (b : Binding)
  | reject (f : LoadFail)
  | capacity (off : Nat)
  | broken (e : CFault)

/-- R175, R183, R188: check and bind the program of a descriptor. -/
def State.tryBind (s : State) (p c : Nat) (d : Desc) (train : Bool) (bad : List HealthWord) : BindOut :=
  let a := Desc.image d
  match (s.getBytes a 64).2 with
  | .error e => .broken e
  | .ok hdr =>
    let n := min (numAt hdr 24 4) (stackBytes - offOf a)
    match (s.getBytes a (max n 64)).2 with
    | .error e => .broken e
    | .ok img =>
      match checkProgram img with
      | some f => .reject f
      | none =>
        let prog := readProgram img
        match bindProgram prog (s.bindIn p train bad false) with
        | .ok b => .bound { b with
            ctx := c
            image := a
            generation := s.health.generation }
        | .error f =>
          match bindProgram prog (s.bindIn p train [] true) with
          | .ok _ => .capacity f.off
          | .error g => if g.sub = f.sub then .reject f else .capacity f.off

/-! ## Installing a binding -/

/-- 0x4021 MIRROR_STATE after a bind (R153, R154). -/
def State.bindMirror (s : State) (p : Nat) : State :=
  let on := decide (s.obj 0x4020 (p + 1) ≠ 0)
  let whole := (s.stacksOf p).all fun st => partner st ∉ s.health.stacksFailed
  s.setObj 0x4021 (p + 1) (if !on then 0 else if whole ∧ (s.stacksOf p).length = (s.mapHearths p).length then 1 else 2)

/-- SPARES_FREE and GRID_COLUMNS of the hearths of a binding (Table 11-7). -/
def State.reportGrid (s : State) (b : Binding) : State :=
  b.grids.foldl (fun s g =>
    let hh := s.hearth g.hearth
    let logical := 32 * g.cols.length
    let used := (g.rows.flatMap fun r => g.cols.map fun c => 32 * r + c)
    s.setHearth g.hearth { hh with
      sparesFree := 1088 - logical - (hh.faulty.filter fun c => c ∉ used).length
      gridColumns := g.cols.length }) s

/-- What the running item gives its binding (R166, R210). -/
def Binding.forItem (b : Binding) (i : Item) : Binding :=
  let vars := (b.prog.varDims.filter id).length
  { b with
    extents := extentsFrom b.prog ((List.range vars).map (Args.extent i.args))
    seed := Desc.seed i.desc
    train := i.train
    ioAddr := (List.range b.prog.ioCount).map (Args.ioAddr i.args)
    issued := []
    edges := []
    stats := if i.resumePhase = 0 then [] else b.stats }

/-- R221: the flags of an item once it runs on a binding of a health-map generation. -/
def Item.ranOn (i : Item) (gen : Nat) : Item :=
  match i.firstBound with
  | none => { i with firstBound := some gen }
  | some g => if g = gen then i else { i with flags := i.flags ||| 32 }

/-- The item's units start at its resume phase: carried scratchpad data is restored first. The bound constants carry the
context's present offsets (R192); a training item that replays keeps those it started with (R200), and one that starts
waits for TRAINING_ITEM_START. -/
def State.startRun (s : State) (p c : Nat) (i : Item) (b : Binding) (replay : Bool) : State :=
  let keep := i.train && replay
  let wait := i.train && !replay
  let b := if keep then b.forItem i else { b.forItem i with deltas := s.train.offsets c b.prog }
  let s := if wait then { s with train := s.train.dropPresets c b.prog } else s
  let s := b.hearths.foldl State.wakeHearth s
  let s := s.setPart p { s.part p with binding := some b, current := some c, lastCtx := some c, lastRun := s.now }
  let s := s.restoreShares ⟨p, c, i, b⟩
  let s := s.armUnits p i.resumePhase
  let s := s.mapHead c fun it => { it.ranOn b.generation with state := if wait then .binding else .running, bound := wait }
  if wait then s else s.abortLate p c i

/-- Put a new binding in place: image contents, kept carried state, pins, mirroring, the journal's BIND record. -/
def State.install (s : State) (p c : Nat) (i : Item) (b : Binding) : State × Binding :=
  let s := s.journalAppend c i.seq (.bind b.prog.id p b.generation)
  let s := s.setPart p { s.part p with binding := some b }
  let s := s.bindMirror p
  let s := s.reportGrid b
  let s := s.pinBinding b true
  let x : Job := ⟨p, c, i, b⟩
  let s := (List.range b.prog.bufs.length).foldl (fun s n => (s.loadConst x n).loadSelects x n fun _ => true) s
  let ks := (((s.ctx c).kept.find? fun e => e.1 = b.prog.id).map (·.2)).getD []
  let s := s.setCtx c { s.ctx c with kept := (s.ctx c).kept.filter fun e => decide (e.1 ≠ b.prog.id) }
  let r := s.imageCheckpoints b
  r.1.restoreKept r.2 ks

/-! ## The end of an item -/

/-- DEADLINE_MISSED of an item (R226): logged once. -/
def State.logMissed (s : State) (c : Nat) (i : Item) : State :=
  (s.report { plainReport cDeadlineMissed (unitComparator 0) .value i.deadline with
    d0 := if (s.ctx c).finishPolicy then 1 else 0
    item := some (c, i.seq)
    ctx := some c })

/-- The final record of an item (R221, R226, R227): STATUS, CODE, SUBCODE, OFFSET. -/
def State.finish (s : State) (c : Nat) (i : Item) (status code sub off : Nat) (rec : Bool) : State :=
  let late := decide (i.deadline ≠ 0) && decide (i.deadline < s.now)
  let s := if late && !i.missed then s.logMissed c i else s
  let flags := i.flags ||| (if late && (decide (status = 0) || decide (status = 1)) then 8 else 0)
  let f : Final := ⟨status, code, sub, flags, off, s.now, i.marks, i.replays⟩
  let s := if rec then s.journalAppend c i.seq (.mark i.marks i.resumePhase (some f)) else s
  s.setCtx c { s.ctx c with items := (s.ctx c).items.map fun j =>
    if j.seq = i.seq then { j with
      state := .completed
      flags := flags
      missed := j.missed || late
      final := some f } else j }

/-- The partition has no item in progress. -/
def State.release (s : State) (p : Nat) : State := s.setPart p { s.part p with current := none, fault := none }

/-- Every accepted item of a context that has no final record completes RETURNED, in order (R224, R225). -/
def State.returnItems (s : State) (c code unit addr : Nat) (k : AddrKind) : State :=
  let open' := (s.ctx c).items.filter fun i => i.final.isNone
  match open' with
  | [] => s
  | i0 :: _ =>
    let s := s.journalAppend c i0.seq (.ret code i0.seq)
    open'.foldl (fun s i =>
      let s := s.report { plainReport code unit k addr with
        item := some (c, i.seq)
        ctx := some c }
      let s := { s with journal := { s.journal with returned := min (s.journal.returned + 1) (2 ^ 32 - 1) } }
      s.finish c i 3 code 0 0 false) s

/-- A loader failure ends the item (R188, Table 10-8); the binding is discarded. -/
def State.rejectItem (s : State) (p c : Nat) (i : Item) (f : LoadFail) : State :=
  let s := s.report { plainReport f.code unitLoader .program f.off with
    subcode := f.sub
    d0 := f.d0
    item := some (c, i.seq)
    ctx := some c }
  (s.finish c i 4 f.code f.sub f.off true).release p

/-! ## BIND -/

/-- The program's planned steps on one core of each operation, as the estimate of R228 takes them (log 26). -/
def Binding.planSteps (b : Binding) : Nat :=
  ((List.range b.prog.ops.length).map fun i =>
    let r := b.prog.op i
    let t := b.split i
    let per (n k : Nat) : Nat := ceilDiv n (max 1 k)
    let tiles := min (per t.tn t.c * t.unit) (b.prog.tN r)
    if r.kind = kMatmul then per t.tm t.r * tiles * per t.tk t.s * (r.mBlock * fmtBits r.aFmt + 1)
    else if r.hasSplit then per t.tm t.r * tiles * r.mBlock
    else 0).sum

/-- The worst pace of the last 10 ms, in ps: 0x8010.02 (R310). -/
def State.worstPace (s : State) : Nat :=
  ((s.paceHist.filter fun e => decide (s.now ≤ e.1 + 10000000)).map (·.2.1)).foldl max 0

/-- R228: flag an item whose estimate passes its deadline. -/
def State.estimate (s : State) (c : Nat) (i : Item) (b : Binding) (transferNs : Nat) : State :=
  let t := s.now + b.planSteps * s.worstPace / 1000 + transferNs
  if i.deadline ≠ 0 ∧ i.deadline < t ∧ i.flags / 16 % 2 = 0 then
    let s := s.mapHead c fun it => { it with flags := it.flags ||| 16 }
    s.setCtx c { s.ctx c with atRisk := min ((s.ctx c).atRisk + 1) (2 ^ 32 - 1) }
  else s

/-- The resident binding serves an item (R207, R217). -/
def Binding.serves (b : Binding) (c : Nat) (i : Item) : Bool :=
  decide (b.ctx = c) && decide (b.image = Desc.image i.desc) && decide (b.prog.id = Desc.program i.desc)
    && (b.training || !i.train)

/-- The image of an item cannot be read at its bind: one log entry, and the item is replayed or fails under the first row of
Table 10-8. -/
def State.imageFault (s : State) (p c : Nat) (i : Item) (e : CFault) : State :=
  let s := s.report { plainReport e.code (unitStack (stackOf e.address)) e.kind e.address with
    item := some (c, i.seq)
    ctx := some c }
  s.setPart p { s.part p with fault := some ⟨e.code, 0, false, true, false⟩ }

/-- Bind an item's program afresh. -/
def State.bindFresh (s : State) (p c : Nat) (i : Item) (bad : List HealthWord) (transferNs : Nat) : State :=
  let s := s.unbind p
  match s.tryBind p c i.desc i.train bad with
  | .broken e => s.imageFault p c i e
  | .reject f => s.rejectItem p c i f
  | .capacity off => (s.returnItems c cCapacity unitLoader off .program).release p
  | .bound b =>
    let s := s.estimate c i b transferNs
    let r := s.install p c i b
    r.1.startRun p c i r.2 false

/-- The health-map object in which a word lies (Tables 11-7 and 11-8). -/
def healthObject : HealthWord → Nat
  | .core c => objAddress (0x3060 + 0x100 * c.hearth.val) 2
  | .bank c _ => objAddress (0x3060 + 0x100 * c.hearth.val) 4
  | .hearth h => objAddress (0x3060 + 0x100 * h.val) 1
  | .stack _ => objAddress 0x4030 3

/-- Health-map words whose complement fails make their units faulty for the bind and are logged; they live in the journal,
which Leaven keeps (R242, Table 11-6 row 10; log 112). -/
def State.badHealth (s : State) (bad : List HealthWord) : State :=
  bad.foldl (fun s w => s.report { plainReport cComplement unitJournal .object (healthObject w) with d0 := 10 }) s

/-- R204: a partition whose map pair fails runs nothing; the use is logged. -/
def State.mapFault (s : State) (p : Nat) : State :=
  s.report { plainReport cComplement unitLeaven .object (objAddress 0x4000 (p + 1)) with d0 := 8 }

/-- BIND (R175, R188, R207, R217, R228): the resident binding is used again, or the program is verified and bound. -/
def execBind (p : PartNo) (badHealth : List HealthWord) (transferNs : Nat) (s : State) : Result :=
  match s.running p.val with
  | none => s.stay "R214"
  | some (c, i) =>
    if !s.leavenUp ∨ i.state ≠ .binding ∨ i.bound ∨ (s.part p.val).fault.isSome then s.stay "R214"
    else if !s.mapOk p.val then .next (s.mapFault p.val)
    else
      let s := s.badHealth badHealth
      match (s.part p.val).binding with
      | some b =>
        if b.serves c i then
          .next ((s.estimate c i b transferNs).startRun p.val c i b false)
        else .next (s.bindFresh p.val c i badHealth transferNs)
      | none => .next (s.bindFresh p.val c i badHealth transferNs)

end Sys2Proof.Machine
end

