-- ==== Sys2Proof/Machine/CoreOps.lean ====
section
/-!
DEFINITION. The operations of a core beside the array product: CONVERT and POOL_MAX through the glaze path (R59,
R168, R333), HALO (R185), ACC_READ, ACC_SPILL, ACC_FILL (R84 to R86, R334), CHAIN_ISSUE (R74) and MARK.
-/
namespace Sys2Proof.Machine

/-! ## Rows of the glaze-path kinds -/

/-- Rows of a part within the extent of DIM_M. -/
def Binding.partRows (b : Binding) (i k : Nat) : List Nat :=
  let r := b.prog.op i
  let t := b.split i
  let (pi, _, _) := b.partAt i k
  (rangeList (partRange pi t.r t.tm)).flatMap (b.blockVecs r)

/-- N-tiles of 64 elements of a part within the extent of DIM_N (R179). -/
def Binding.partTiles (b : Binding) (i k : Nat) : List Nat :=
  let r := b.prog.op i
  let t := b.split i
  let (_, pj, _) := b.partAt i k
  (rangeList (b.prog.nRange r t pj)).filter fun nt => decide (nt * 64 < b.eN r)

/-- Read the elements of a row from column n0 to n1 − 1, with the exponent bytes of their blocks. -/
def Acc.readRow (a : Acc) (x : Job) (k i outer n0 n1 : Nat) : Acc × List Nat × List Nat :=
  let r := x.bd.prog.op i
  let c := fmtBits r.aFmt
  match x.share i r.aBuf k with
  | none => (a, [], [])
  | some sh =>
    let (a, v) := a.read k r.aBuf (opOrigin i) (sh.bitOf outer n0) (c * (n1 - n0))
    let (a, e) := match x.share i r.aXbuf k with
      | none => (a, 0)
      | some xs => a.read k r.aXbuf (opOrigin i) (xs.bitOf outer (n0 / 32)) (8 * (ceilDiv n1 32 - n0 / 32))
    (a, (List.range (n1 - n0)).map fun d => bitsAt v (c * d) c,
      (List.range (ceilDiv n1 32 - n0 / 32)).map fun d => bitsAt e (8 * d) 8)

/-- Write a converted row of a tile; blocks none of whose positions is written keep their exponent (R78). -/
def Acc.writeConverted (a : Acc) (x : Job) (k i m n0 : Nat) (bs : List (Nat × List Nat × ConvStat)) (live : Nat) : Acc :=
  let r := x.bd.prog.op i
  let codes := ((bs.flatMap (·.2.1)).zip (List.range 64)).map fun (c, d) => if d < live then some c else none
  let exps := if fmtBlocked r.outFmt then
    (bs.zip (List.range bs.length)).map fun (b, d) => if 32 * d < live then some b.1 else none else []
  let st := (bs.map (·.2.2)).foldl ConvStat.add ConvStat.zero
  let a := a.map fun s => (s.countConv k st).stat x.part i fun o => { o with underflow := o.underflow + st.under }
  a.putRow x k i m n0 codes exps

/-! ## CONVERT (R59) -/

/-- One tile of a row: its blocks of 32, positions at or beyond E_N unwritten. -/
def Acc.convertTile (a : Acc) (x : Job) (k i m nt : Nat) : Acc :=
  let b := x.bd
  let r := b.prog.op i
  let n0 := 64 * nt
  let n1 := min (n0 + 64) (b.prog.pN r)
  let ne := min n1 (b.eN r)
  let (a, codes, exps) := a.readRow x k i m n0 ne
  let cells := (List.range (n1 - n0)).map fun d =>
    (codes.getD d 0, decide (n0 + d < ne), b.noise r m (n0 + d))
  -- a block wholly at or beyond E_N is neither read nor written, so it converts nothing (R187)
  let bs := (chunks32 3 cells).zip (List.range 2) |>.map fun (c, d) =>
    if n0 + 32 * d < ne then convertBlock r.aFmt r.outFmt (exps.getD d 0) c r.mode else (0, c.map fun _ => 0, ConvStat.zero)
  a.writeConverted x k i m n0 bs (ne - n0)

/-- Close an operation that a core runs in one command. -/
def Acc.finish (a : Acc) (x : Job) (k i : Nat) : State :=
  let s := (a.st.countStretched k a.stretched).issued k i
  match a.fault with
  | none => s
  | some e => s.opFault x k i e

/-- The rows of a part through the glaze path, a tile of 64 columns a step (R76, R179); sheets past the running tiles get
their NONE codes (R116). -/
def State.glazeTiles (s : State) (x : Job) (k i : Nat) (env : StepEnv) (f : Acc → Nat → Nat → Acc) : State :=
  let rows := x.bd.partRows i k
  let a := (Acc.ofState (s.upsets env.upsets)).emptySheets x k i rows
  let tiles := rows.flatMap fun m => (x.bd.partTiles i k).map fun nt => (m, nt)
  (({ a with stretched := 0 } : Acc).eachStep env 0 tiles fun a t => f a t.1 t.2).finish x k i

def State.convert (s : State) (x : Job) (k i : Nat) (env : StepEnv) : State :=
  s.glazeTiles x k i env fun a m nt => a.convertTile x k i m nt

/-- CONVERT (R59, R168). -/
def execConvert (c : CoreId) (env : StepEnv) (s : State) : Result :=
  match s.issue (idKey c) kConvert with
  | none => s.stay "R168"
  | some (x, i) => .next (s.convert x (idKey c) i env)

/-! ## POOL_MAX (R168, R169, R186) -/

def Dy.max (a b : Dy) : Dy := if a.lt b then b else a

/-- The exact value of a padding element of a POOL_MAX (Table 8-7). -/
def poolPad (r : OpRec) : Dy :=
  match r.aPadKind with
  | 1 => ⟨r.aPad, 0⟩
  | 2 => if fmtKind r.aFmt = kBf then (bfDy 0xFF7F).1 else ⟨(intRange r.aFmt).1, 0⟩
  | _ => Dy.zero

/-- The exact values of a row's elements, and what reading them counts. -/
def rowValues (f : Nat) (codes exps : List Nat) : List (Dy × ConvStat) :=
  (codes.zip (List.range codes.length)).map fun (c, d) =>
    if fmtKind f = kBf then bfDy (c % 65536)
    else (⟨elemValue f c, if fmtKind f = kBI then signed (exps.getD (d / 32) 0) 8 else 0⟩, ConvStat.zero)

/-- One tile of an output row: the maximum over the window, then the conversion. -/
def Acc.poolTile (a : Acc) (x : Job) (k i m nt : Nat) : Acc :=
  let b := x.bd
  let r := b.prog.op i
  let n0 := 64 * nt
  let n1 := min (n0 + 64) (b.prog.pN r)
  let ne := min n1 (b.eN r)
  let (a, best, rst) := (List.range r.aux0).foldl (fun (acc : Acc × List Dy × ConvStat) w =>
    let v := m * r.aux0 + w
    let (a, row, st) : Acc × List Dy × ConvStat :=
      if v < b.eK r then
        let (a, codes, exps) := acc.1.readRow x k i v n0 ne
        let vs := rowValues r.aFmt codes exps
        (a, vs.map (·.1), (vs.map (·.2)).foldl ConvStat.add ConvStat.zero)
      else (acc.1, (List.range (ne - n0)).map fun _ => poolPad r, ConvStat.zero)
    (a, if w = 0 then row else acc.2.1.zipWith Dy.max row, acc.2.2.add st)) (a, [], ConvStat.zero)
  let cells := (List.range (n1 - n0)).map fun d => (best.getD d Dy.zero, decide (n0 + d < ne), b.noise r m (n0 + d))
  let bs := (chunks32 3 cells).map fun c =>
    if fmtKind r.outFmt = kBI then
      let (e, codes, st) := convBlock r.outFmt c r.mode
      (codeOf 8 e, codes, st)
    else
      let outs := c.map fun v => if v.2.1 then convElem r.outFmt v.1 r.mode v.2.2 else (0, ConvStat.zero)
      (0, outs.map (·.1), (outs.map (·.2)).foldl ConvStat.add ConvStat.zero)
  (a.map fun s => s.countConv k rst).writeConverted x k i m n0 bs (ne - n0)

def State.poolMax (s : State) (x : Job) (k i : Nat) (env : StepEnv) : State :=
  s.glazeTiles x k i env fun a m nt => a.poolTile x k i m nt

/-- POOL_MAX (R168, R333). -/
def execPoolMax (c : CoreId) (env : StepEnv) (s : State) : Result :=
  match s.issue (idKey c) kPool with
  | none => s.stay "R168"
  | some (x, i) => .next (s.poolMax x (idKey c) i env)

/-! ## HALO (R185) -/

/-- A piece of a ghost row: the row, its first element and their number, and where they come from. -/
structure GhostPiece where
  row : Nat
  e0 : Nat
  n : Nat
  src : Option (Nat × Share × Nat)
  deriving DecidableEq, Repr

/-- A ghost row in the pieces of 64 bytes that the halo lane carries in a step. -/
def ghostPieces (sh : Share) (inner row : Nat) (src : Option (Nat × Share × Nat)) : List GhostPiece :=
  let w := 512 / max 1 sh.bits
  let n := min sh.i1 inner - sh.i0
  (List.range (ceilDiv n w)).map fun d => ⟨row, sh.i0 + d * w, min w (n - d * w), src⟩

/-- Fill one piece of a ghost row of a share: from the neighbour's row, or with the padding value. -/
def Acc.ghostFill (a : Acc) (x : Job) (k i : Nat) (sh : Share) (g : GhostPiece) : Acc :=
  let r := x.bd.prog.op i
  let (a, v) := match g.src with
    | some (kn, sn, rn) => a.read kn r.outBuf (opOrigin i) (sn.rowBit rn g.e0) (sh.bits * g.n)
    | none =>
      let f := match x.bd.prog.resolve r.outBuf r.phase with
        | some b => (x.bd.prog.buf b).fmt
        | none => 0
      let c := (convElem f ⟨if r.aPadKind = 0 then 0 else r.aPad, 0⟩ .rhe 0).1 % 2 ^ sh.bits
      (a, ((List.range g.n).map fun d => c * 2 ^ (sh.bits * d)).sum)
  a.andThen fun s => writeBuf s k r.outBuf (opOrigin i) (sh.rowBit g.row g.e0) (sh.bits * g.n) v

/-- The neighbour part's share, at row rn counted with its ghosts, when there is one and the vector lies within E_M. -/
def Job.haloSource (x : Job) (i op : Nat) (pi' : Option Nat) (j v em : Nat) : Option (Nat × Share × Nat) :=
  pi'.bind fun p => (x.bd.partCore op p j 0).bind fun kn => (x.share i (x.bd.prog.op i).outBuf kn).bind fun sn =>
    if v < em ∧ sn.o0 ≤ v ∧ v < sn.o1 then some (kn, sn, v - sn.o0 + sn.ghost) else none

/-- The upper ghosts of a part and its lower ones, as pieces. Those above part 0 and below the last part have no neighbour
and are padded, each of them, whatever the direction of the exchange; elsewhere the h vectors next to the part come from the
neighbour when AUX1 includes the direction they are sent in. -/
def Job.ghosts (x : Job) (k i : Nat) (br : BufRec) (sh : Share) : List GhostPiece × List GhostPiece :=
  let r := x.bd.prog.op i
  let h := r.aux0
  let em := x.bd.ext br.dimOuter
  let inner := if br.expRegion then ceilDiv (x.bd.ext br.dimInner) 32 else x.bd.ext br.dimInner
  let (pi, j, _) := x.bd.partAt i k
  let below := sh.ghost + (sh.o1 - sh.o0)
  let upper :=
    if pi = 0 then (List.range sh.ghost).flatMap fun d => ghostPieces sh inner d none
    else if 2 ≤ r.aux1 then (List.range h).flatMap fun d =>
      ghostPieces sh inner (sh.ghost - h + d) (x.haloSource i br.owner (some (pi - 1)) j (sh.o0 - h + d) em)
    else []
  let lower :=
    if pi + 1 = (x.bd.split i).r then (List.range sh.ghost).flatMap fun d => ghostPieces sh inner (below + d) none
    else if r.aux1 % 2 = 1 then (List.range h).flatMap fun d =>
      ghostPieces sh inner (below + d) (x.haloSource i br.owner (some (pi + 1)) j (sh.o1 + d) em)
    else []
  (upper, lower)

/-- R185: a step fills one piece in each direction. -/
def State.halo (s : State) (x : Job) (k i : Nat) (env : StepEnv) : State :=
  let p := x.bd.prog
  let r := p.op i
  let a := Acc.ofState (s.upsets env.upsets)
  let a := match p.resolve r.outBuf r.phase, x.share i r.outBuf k with
    | some b, some sh =>
      let g := x.ghosts k i (p.buf b) sh
      a.eachStep env 0 (List.range (max g.1.length g.2.length)) fun a d =>
        a.each ((g.1[d]?).toList ++ (g.2[d]?).toList) fun a q => a.ghostFill x k i sh q
    | _, _ => a
  a.finish x k i

/-- HALO (R185): the core's own ghost vectors are filled from its neighbours' edges, or padded. -/
def execHalo (c : CoreId) (env : StepEnv) (s : State) : Result :=
  match s.issue (idKey c) kHalo with
  | none => s.stay "R168"
  | some (x, i) => .next (s.halo x (idKey c) i env)

/-! ## Accumulator visibility (R84 to R86) -/

/-- The slot as an ACC operation's record names it. -/
def OpRec.accSlot (r : OpRec) : Slot := { Slot.reset with base := r.slotBase, size := r.slotSize, acc16 := r.acc16 }

/-- R85: the runs that step g writes for 32 entries: values as 32 bits each, and their overflow bits in the region behind. -/
def accRuns (c : Core) (r : OpRec) (g : Nat) : List (Nat × Nat × Nat) :=
  let n := r.slotEntries
  let at' (e : Nat) : Entry := c.entry (r.accSlot.key e)
  [(1024 * g, 1024, ((List.range 32).map fun d => codeOf 32 (at' (32 * g + d)).val * 2 ^ (32 * d)).sum),
   (32 * n + 32 * g, 32, ((List.range 32).map fun d => countIf (at' (32 * g + d)).ovf * 2 ^ d).sum)]

/-- Copy a slot's entries and overflow bits into the core's region of OUT_BUF, as they stood at the start. -/
def Acc.copyOut (a : Acc) (x : Job) (k i : Nat) : Acc :=
  let r := x.bd.prog.op i
  let c := a.st.core k
  a.eachStep {} 0 (List.range (r.slotEntries / 32)) fun a g =>
    a.andThen fun s => writeRuns s k r.outBuf (opOrigin i) (accRuns c r g)

/-- The slot of an ACC operation is busy (R74): OWNED or DRAINING. -/
def Core.accBusy (c : Core) (r : OpRec) : Bool := decide ((c.slot r.slot).phase ≠ .free)

/-- R84: the copy, or ACCESS_DENIED while debug is off. -/
def State.accRead (s : State) (x : Job) (k i : Nat) : State :=
  if s.obj 0x2010 1 = 1 then ((Acc.ofState s).copyOut x k i).finish x k i
  else (s.issued k i).opFault x k i ⟨cDenied, .operation, i, 0, 0, 0⟩

/-- R85: the slot, claimed by the spill, is written and then released. -/
def State.accSpill (s : State) (x : Job) (k i : Nat) : State :=
  let r := x.bd.prog.op i
  let a := (Acc.ofState s).copyOut x k i
  ((a.map fun s => (s.freeSlot k r.slot).bumpH 0x3030 (k / 1088) 6 r.slotEntries).finish x k i)

/-- R86: one restored entry. -/
def fillEntry (acc16 : Bool) (v : Nat) (ovf : Bool) : Entry :=
  let x := signed v 32
  ⟨entrySat acc16 x, ovf || !entryFits acc16 x, false⟩

/-- R86: a spilled tile is restored into a claimed slot, held for the operation that takes it with KEEP. -/
def State.accFill (s : State) (x : Job) (k i : Nat) (env : StepEnv) : State :=
  let r := x.bd.prog.op i
  let n := r.slotEntries
  let a := Acc.ofState (s.upsets env.upsets)
  let a := a.eachStep env 0 (List.range (n / 32)) fun a g =>
    let (a, v) := a.read k r.aBuf (opOrigin i) (1024 * g) 1024
    let (a, o) := a.read k r.aBuf (opOrigin i) (32 * n + 32 * g) 32
    a.map fun s => s.setCore k ((List.range 32).foldl (fun c d =>
      c.setEntry (r.accSlot.key (32 * g + d)) (fillEntry r.acc16 (bitsAt v (32 * d) 32) (decide (bitsAt o d 1 = 1)))) (s.core k))
  let a := a.map fun s =>
    (s.setCore k ((s.core k).setSlot r.slot ⟨.owned, r.slotBase, r.slotSize, r.acc16, i, 0, 0, true, false, 0⟩)).bumpH
      0x3030 (k / 1088) 6 n
  a.finish x k i

/-- ACC_READ (R74, R84, R334). The slot is judged before DEBUG_ENABLE (DESIGN CHOICE, log 52). -/
def execAccRead (c : CoreId) (s : State) : Result :=
  let k := idKey c
  match s.issue k kAccRead with
  | none => s.stay "R168"
  | some (x, i) =>
    if (s.core k).accBusy (x.bd.prog.op i) then .next (s.busyOrWait x k i) else .next (s.accRead x k i)

/-- ACC_SPILL (R74, R85, R334). -/
def execAccSpill (c : CoreId) (s : State) : Result :=
  let k := idKey c
  match s.issue k kAccSpill with
  | none => s.stay "R168"
  | some (x, i) =>
    if (s.core k).accBusy (x.bd.prog.op i) then .next (s.busyOrWait x k i) else .next (s.accSpill x k i)

/-- ACC_FILL (R74, R86, R334). -/
def execAccFill (c : CoreId) (env : StepEnv) (s : State) : Result :=
  let k := idKey c
  match s.issue k kAccFill with
  | none => s.stay "R168"
  | some (x, i) =>
    if ((s.core k).slot (x.bd.prog.op i).slot).phase = .free then .next (s.accFill x k i env)
    else .next (s.busyOrWait x k i)

/-! ## CHAIN_ISSUE (R74) -/

/-- The issue of a waiting operation once its slots are free. -/
def State.chainStart (s : State) (x : Job) (k i : Nat) : State :=
  let s := s.setCore k { s.core k with chainWait := none }
  let kd := (x.bd.prog.op i).kind
  if kd = kAccRead then s.accRead x k i
  else if kd = kAccSpill then s.accSpill x k i
  else if kd = kAccFill then s.accFill x k i {}
  else s.startProduct x k i

/-- CHAIN_ISSUE (R74): in the step after the owner's release. -/
def execChainIssue (c : CoreId) (s : State) : Result :=
  let k := idKey c
  match s.coreJob k with
  | none => s.stay "R74"
  | some x => match (s.core k).chainWait with
    | none => s.stay "R74"
    | some i =>
      if (s.core k).slotsReady (x.bd.prog.op i) then .next (s.chainStart x k i) else s.stay "R74"

/-! ## MARK -/

/-- MARK (Table 8-4): no work. It has been carried out when the marks before its phase are recorded. -/
def execMark (p : PartNo) (op : Nat) (s : State) : Result :=
  match s.job p.val with
  | none => s.stay "R168"
  | some x =>
    let r := x.bd.prog.op op
    if r.kind = kMark ∧ op < x.bd.prog.ops.length ∧ op ∉ x.bd.issued ∧ x.item.resumePhase ≤ r.phase ∧ x.marksDone r.phase then
      .next (s.setBinding p.val fun b => { b with issued := b.issued ++ [op] })
    else s.stay "R168"

end Sys2Proof.Machine
end

