-- ==== Sys2Proof/Machine/Nodes.lean ====
section
/-!
DEFINITION. Nodes of an installation (R286 to R290, R299 to R301): the management lane's framing (R298), HELLO and
NODE_MAP, reports of DEVICE_STATE, the time parent, and what a device state change sends.
-/
namespace Sys2Proof.Machine

/-! ## Fragments (R290, R298) -/

/-- Payloads of a message: FRAG, LAST, up to 222 bytes. -/
def fragments : Nat → Nat → List Byte → List (List Byte)
  | 0, _, _ => []
  | fuel + 1, n, bs =>
    let last := decide (bs.length ≤ 222)
    (toBytes 1 n ++ toBytes 1 (if last then 1 else 0) ++ bs.take 222) ::
      (if last then [] else fragments fuel (n + 1) (bs.drop 222))

def fragmentsOf (bs : List Byte) : List (List Byte) := fragments (bs.length / 222 + 1) 0 bs

/-- Send a message in fragments towards a node. -/
def State.sendFragments (s : State) (ty cls dst tag : Nat) (bs : List Byte) : State :=
  (fragmentsOf bs).foldl (fun s p => s.sendTo (flitOf ty cls dst s.net.node 0 tag p)) s

/-! ## Messages of the lane: bytes 5 onward of Table 12-7 -/

def laneBytes (m : MctpMsg) : List Byte :=
  toBytes 1 m.command ++ toBytes 1 m.tag ++ toBytes 2 m.node ++ toBytes 2 m.index ++ toBytes 1 m.sub ++ toBytes 4 m.offset
    ++ toBytes 2 m.length ++ toBytes 1 m.code ++ m.data

def laneMsg (bs : List Byte) : Option MctpMsg :=
  if bs.length < 14 then none
  else some ⟨numAt bs 0 1, numAt bs 1 1, numAt bs 2 2, numAt bs 4 2, numAt bs 6 1, numAt bs 7 4, numAt bs 11 2, numAt bs 13 1,
    bs.drop 14⟩

def cmdRead : Nat := 1
def cmdWrite : Nat := 2
def cmdReport : Nat := 0x10
def laneOp (m : MctpMsg) : Nat := bitsAt m.command 0 6
def lanePriv (m : MctpMsg) : Bool := decide (bitsAt m.command 6 1 = 1)
def laneIsResponse (m : MctpMsg) : Bool := decide (bitsAt m.command 7 1 = 1)

/-- The response to a request: the response bit, the code, the data. -/
def laneReply (m : MctpMsg) (code : Nat) (data : List Byte) : MctpMsg :=
  { m with
    command := laneOp m + 0x80
    length := data.length
    code := code
    data := data }

/-- Send a message on the lane to a node. -/
def State.sendLane (s : State) (dst : Nat) (m : MctpMsg) : State := s.sendFragments tMgmt clMgmt dst m.tag (laneBytes m)

/-! ## NODE_MAP and HELLO (R288, R290). The layout of the map's bytes is the model's (log 27). -/

def Net.mapFor (n : Net) (node : Nat) : List Byte :=
  toBytes 2 node ++ toBytes 2 n.nodes.length ++ n.nodes.flatMap (toBytes 2) ++
    n.uplinks.flatMap fun u => toBytes 2 u.1 ++ toBytes 1 u.2.1 ++ toBytes 2 u.2.2.1 ++ toBytes 1 u.2.2.2

/-- The manager's map: the devices that it has mapped behind its ports, and the uplinks among them (R290). -/
def State.remap (s : State) : State :=
  let me := s.net.node
  let far := (List.range 16).filter fun p => decide ((s.link p).mapped ≠ 0xFFFF)
  { s with net := { s.net with
    nodes := (me :: far.map fun p => (s.link p).mapped).eraseDups
    uplinks := (far.filter s.isUplink).map fun p => (me, p, (s.link p).mapped, (s.link p).peerPort) } }

/-- The manager sends every other device its map. -/
def State.sendMaps (s : State) : State :=
  if !s.boot.manager then s
  else
    let s := s.remap
    (s.net.nodes.filter (· ≠ s.net.node)).foldl (fun s n =>
    s.sendFragments tNodeMap clControl n 0 (s.net.mapFor n)) s

/-- A worker takes its node number and the installation from a whole map. -/
def Net.takeMap (n : Net) (bs : List Byte) : Net :=
  let k := numAt bs 2 2
  let rest := bs.drop (4 + 2 * k)
  { n with
    node := numAt bs 0 2
    nodes := (List.range k).map fun i => numAt bs (4 + 2 * i) 2
    uplinks := (List.range (rest.length / 6)).map fun i =>
      (numAt rest (6 * i) 2, numAt rest (6 * i + 2) 1, numAt rest (6 * i + 3) 2, numAt rest (6 * i + 5) 1)
    hasMap := true }

/-- The HELLO of a port (Table 14-2). -/
def State.sendHello (s : State) (p : Nat) : State :=
  s.sendOn p (flitOf tHello clControl 0xFFFF s.net.node 0 0
    (toBytes 1 (if s.boot.manager then 1 else 0) ++ toBytes 1 s.boot.nodeStrap ++ toBytes 2 s.net.node
      ++ (Config.serial ++ List.replicate 32 0).take 32 ++ toBytes 1 p))

/-- The node number that the manager gives the device behind a port: on its own board the strap, over an uplink the
strap on the next free board, unless the device is known. -/
def State.nodeFor (s : State) (p strap : Nat) (serial : List Byte) : Nat :=
  match s.net.claims.find? fun c => c.2 = serial with
  | some c => c.1
  | none => if s.isUplink p then 16 * (((s.net.claims.map (·.1 / 16)).foldl max 0) + 1) + strap else strap

/-- The manager maps the device that said HELLO on a port, or refuses its NODE_ID. -/
def State.mapDevice (s : State) (p strap : Nat) (serial : List Byte) : State :=
  let n := s.nodeFor p strap serial
  if n = s.net.node ∨ (s.net.claims.any fun c => decide (c.1 = n) && decide (c.2 ≠ serial)) then s.deny (unitFinwell p) .value p
  else
    let net := s.net
    let s := { s with net := { net with
      claims := if net.claims.any (fun c => decide (c.1 = n)) then net.claims else net.claims ++ [(n, serial)] } }
    (s.setLink p { s.link p with mapped := n }).sendMaps

/-- A received HELLO. -/
def State.hear (s : State) (p : Nat) (f : Flit) : State :=
  let b := f.payload
  let role := numAt b 0 1
  let strap := numAt b 1 1 % 16
  if s.boot.manager ∧ role = 1 then
    (s.setLink p { Link.reset with sent := (s.link p).sent }).deny (unitFinwell p) .value p
  else
    let s := s.setLink p { s.link p with
      peer := numAt b 2 2
      peerStrap := strap
      peerPort := numAt b 36 1 }
    if s.boot.manager ∧ s.boot.nodeStrap = 0 then s.mapDevice p strap ((b.drop 4).take 32) else s

/-! ## Time parent (R300) -/

/-- Steps from a node to the manager over uplinks and the links of each board. -/
def Net.steps (n : Net) : Nat → Nat → Option Nat
  | 0, v => if v = 0 then some 0 else none
  | fuel + 1, v =>
    if v = 0 then some 0
    else if v / 16 = 0 then some 1
    else n.edges.foldl (fun m e =>
      if e.1 / 16 = v / 16 ∧ e.2.2 / 16 < v / 16 then
        optMin m ((n.steps fuel e.2.2).map (· + (if e.1 = v then 1 else 2)))
      else m) none

/-- The time parent: the lowest-numbered neighbour one step nearer the manager. -/
def State.timeParent (s : State) : Option Nat :=
  let fuel := s.net.uplinks.length + 1
  match s.net.steps fuel s.net.node with
  | none => none
  | some d =>
    let ns := ((List.range 16).map s.peerNode).filter fun v => decide (v ≠ 0xFFFF) &&
      decide ((s.net.steps fuel v).map (· + 1) = some d)
    ns.foldl (fun b v => some (match b with | some w => min v w | none => v)) none

/-- A worker without a parent free-runs (R301). -/
def State.recheckParent (s : State) : State :=
  if s.boot.manager ∨ s.time.syncState = 0 ∨ s.timeParent.isSome then s
  else { s with time := { s.time with syncState := 0 } }

/-! ## Reports and device states (R260, R289, R299, R328) -/

/-- A worker that knows its number reports its DEVICE_STATE to the manager. -/
def State.sendReport (s : State) : State :=
  if s.boot.manager ∨ s.net.node = 0xFFFF then s
  else
    let d := s.boot.dev.code
    let t := s.boot.stateTime
    let m : MctpMsg := ⟨cmdReport, s.net.tag % 256, 0, 0, 0, 0, 9, 0, toBytes 1 d ++ toBytes 8 t⟩
    ({ s with net := { s.net with reportOpen := s.net.reportOpen ++ [(⟨s.net.tag, d, t⟩ : OpenReport)], tag := (s.net.tag + 1) % 256 } }).sendLane 0 m

/-- DEVICE_STATE changes: a worker reports it. -/
def State.enter (s : State) (d : DevState) : State := if s.boot.dev = d then s else (s.setDev d).sendReport

/-- Whether start-up ends in READY_DEGRADED (R328). -/
def State.degraded (s : State) : Bool :=
  ((List.range 16).any fun h => (s.hearth h).logicFailed || decide ((s.hearth h).gridColumns < 32)) ||
    !s.health.stacksFailed.isEmpty || !s.health.proofersFailed.isEmpty || !s.health.pcieFailed.isEmpty ||
    !s.health.finwellFailed.isEmpty

def State.readyState (s : State) : DevState := if s.degraded then .readyDegraded else .ready

/-- After reaching READY on an image, the fused minimum rises to its security version (R330). -/
def Boot.raiseFuse (b : Boot) : Boot :=
  match b.verified.find? fun e => e.1 = b.controlProofer with
  | some (_, some v) => { b with fusedMin := max b.fusedMin v }
  | _ => b

/-- The device reports READY or READY_DEGRADED. -/
def State.becomeReady (s : State) : State :=
  let d := s.readyState
  let s := s.enter d
  if d = .ready then { s with boot := s.boot.raiseFuse } else s

/-- R289: a worker leaves AWAIT_MANAGER with a map and locked time. -/
def State.tryReady (s : State) : State :=
  if s.boot.dev = .awaitManager ∧ s.net.hasMap ∧ s.time.locked ∧ s.time.syncState = 2 then s.becomeReady else s

/-! ## Ports going down -/

/-- What follows when a port comes up, fails or is disabled: the manager's maps, a worker's parent. -/
def State.portsChanged (s : State) : State := s.sendMaps.recheckParent

/-- A disabled or lost port. -/
def State.linkDown (s : State) (p : Nat) : State :=
  (s.setLink p { Link.reset with sent := (s.link p).sent }).portsChanged

/-- A write of ENABLE (R281): 0 holds the port down; 1 powers its group and starts training. A FAILED port returns only
through RETEST (R284). -/
def State.enablePort (s : State) (n v : Nat) : State :=
  let s := s.setObj (0x9000 + n) 3 v
  if (s.link n).state = .failed then s
  else if v = 0 then s.linkDown n
  else
    let s := { s with power := { s.power with fwGroup := tset .on s.power.fwGroup (n / 4) .on } }
    if (s.link n).state = .down then s.setLink n { s.link n with state := .training } else s

end Sys2Proof.Machine
end

