-- ==== Sys2Proof/Machine/Work.lean ====
section
/-!
DEFINITION. Contexts and the life of an item (R205 to R229): control of contexts, CONTEXT_RESET_COMPLETE, DOORBELL,
DESCRIPTOR_EXAMINE, EXAMINATION_RESUME, HOST_READ_FAILURE, ITEM_CHOOSE, COMMIT_MARK, ITEM_COMPLETE, DEADLINE_MISSED,
ITEM_REPLAY.
-/
namespace Sys2Proof.Machine

/-! ## Control of contexts (R206) -/

/-- Outcome of a judged write: the state, and the code of a refusal (0 for none). -/
abbrev Judged := State × Nat

/-- 0x5000.01 STATE codes. -/
def CtxMode.code : CtxMode → Nat
  | .stopped => 0
  | .running => 1
  | .draining => 2
  | .resetting => 3
  | .faulted => 4

/-- A context with an accepted item outstanding. -/
def Context.busy (c : Context) : Bool := !c.items.isEmpty

/-- START. -/
def State.ctxStart (s : State) (c : Nat) : Judged :=
  let x := s.ctx c
  if x.mode = .stopped then (s.setCtx c { x with mode := .running, pause := .none }, 0) else (s, cDenied)

/-- STOP. -/
def State.ctxStop (s : State) (c : Nat) : Judged :=
  let x := s.ctx c
  match x.mode with
  | .running => (s.setCtx c { x with mode := if x.busy then .draining else .stopped, pause := .none }, 0)
  | .resetting => (s.setCtx c { x with stopInReset := true }, 0)
  | .faulted => (s.setCtx c { x with mode := .stopped }, 0)
  | _ => (s, 0)

/-- The partition that works on an item of a context now. -/
def State.partRunning (s : State) (c : Nat) : Option Nat := (List.range 16).find? fun p => decide ((s.part p).current = some c)

/-- The item a partition works on is to roll back and to be replayed; one that is still in BINDING has nothing to roll back
and binds again (Table 10-5). -/
def State.rollItem (s : State) (c : Nat) : State := s.mapHead c fun i =>
  if i.final.isSome then i else if i.state = .binding then { i with bound := false } else { i with state := .rollingBack }

/-- The state of an item as Table 10-5 has it: one that a fault or an abort has stopped is rolling back. -/
def State.itemState (s : State) (c : Nat) (i : Item) : ItemState :=
  match (List.range 16).find? fun p => decide ((s.part p).current = some c) && (s.part p).fault.isSome with
  | some _ => if i.state = .running ∧ (s.ctx c).items.head? = some i then .rollingBack else i.state
  | none => i.state

/-- Drop the resident binding of a context without keeping its carried state. -/
def State.discardBinding (s : State) (c : Nat) : State :=
  (List.range 16).foldl (fun s p => match (s.part p).binding with
    | some b => if b.ctx = c then
        let s := (s.clearRun p b).pinBinding b false
        s.setPart p { s.part p with binding := none }
      else s
    | none => s) s

/-- RESET. -/
def State.ctxReset (s : State) (c : Nat) : Judged :=
  let x := s.ctx c
  match x.mode with
  | .stopped => (s, cDenied)
  | .resetting => (s, cDenied)
  | .faulted =>
    let s := s.journalAppend c x.nextSeq.toNat .ctxReset
    let s := s.discardBinding c
    (s.setCtx c { s.ctx c with mode := .resetting, resetFrom := .faulted, kept := [] }, 0)
  | m =>
    let s := s.journalAppend c ((x.items.head?.map (·.seq)).getD x.nextSeq.toNat) .ctxReset
    let s := s.setCtx c { s.ctx c with mode := .resetting, resetFrom := m }
    match s.partRunning c with
    | some p =>
      -- an item in BINDING loses its binding at once; one that runs loses it when it has rolled back
      ((if x.items.head?.any fun i => decide (i.state = .binding) then s.unbind p else s).rollItem c, 0)
    | none =>
      -- no item of the context runs: its resident binding, if any, is unbound
      ((List.range 16).foldl (fun s p => if (s.part p).binding.any (fun b => decide (b.ctx = c)) then s.unbind p else s) s, 0)

/-- The context leaves RESETTING (R206). -/
def Context.endReset (x : Context) : Context :=
  { x with
    mode := match x.resetFrom with
      | .faulted => .stopped
      | .running => if x.stopInReset then (if x.busy then .draining else .stopped) else .running
      | _ => if x.busy then .draining else .stopped
    -- the examination that resumes starts with the read that had failed
    pause := if x.pause = .hostRead then .none else x.pause
    stopInReset := false }

/-- A chosen item of the context has yet to be bound again. -/
def State.resuming (s : State) (c : Nat) : Bool :=
  (s.partRunning c).isSome && (s.ctx c).items.head?.any fun i => decide (i.state = .rollingBack) || decide (i.state = .binding)

/-- CONTEXT_RESET_COMPLETE (R206): the replay has resumed the item, or there was none to resume. -/
def execContextResetComplete (c : CtxNo) (s : State) : Result :=
  let x := s.ctx c.val
  if !s.leavenUp then s.stay "R327"
  else if x.mode ≠ .resetting ∨ s.resuming c.val then s.stay "R206"
  else .next (s.setCtx c.val x.endReset)

/-! ## Submission (R208 to R212, R277) -/

/-- R277: the target after a doorbell write of D. -/
def newTarget (t d : W32) : W32 :=
  let k := (d - t).toNat
  if 1 ≤ k ∧ k < 2 ^ 31 then d else t

/-- A doorbell wakes a partition that lies in LULL (R318). -/
def State.wakePart (s : State) (p : Nat) : State := (s.mapHearths p).foldl State.wakeHearth s

/-- A doorbell write (R277): outside RUNNING it moves T alone; in RUNNING it also restarts an examination that a failed read
paused (R264), and wakes the partition (R318; log 137). -/
def State.doorbell (s : State) (c : Nat) (d : W32) : State :=
  let x := s.ctx c
  let t := { x with target := newTarget x.target d }
  if x.mode ≠ .running then s.setCtx c t
  else (s.setCtx c { t with pause := if x.pause = .hostRead then .none else x.pause }).wakePart x.partition

/-- DOORBELL (R277). -/
def execDoorbell (port : PortNo) (c : CtxNo) (d : W32) (s : State) : Result :=
  .next (if s.portAnswers port.val then s.doorbell c.val d else s)

/-- Entries of a ring. -/
def Context.ringSize (x : Context) : Nat := 2 ^ x.ringOrder

/-- Examination may take the next descriptor (R208, R212, R264, R277). -/
def State.mayExamine (s : State) (c : Nat) : Bool :=
  let x := s.ctx c
  decide (x.mode = .running) && decide (x.pause = .none) && decide (x.nextSeq ≠ x.target + 1)
    && (match x.items with
      | [] => true
      | i :: _ => decide ((x.nextSeq - BitVec.ofNat 32 i.seq).toNat ≤ x.ringSize))
    && s.canSend x.hostPort && !s.health.journalLost && s.isReady

/-- Header facts of an image that R211 needs: variable dimensions' planned extents and the IO count. -/
structure ImageFacts where
  varPlans : List (Nat × Nat)
  ioCount : Nat
  deriving DecidableEq, Repr

/-- The end of a stack's staging area (Table 13-2). -/
def stagingEnd : Nat := 47000000000

/-- R211 check 4 and R267: the image lies within a staging area and carries MAGIC and the program identifier. -/
def State.imageAt (s : State) (p : Nat) (d : Desc) : Option ImageFacts :=
  let a := Desc.image d
  let sts := if s.mapOk p then s.stacksOf p else []
  let here := sts ++ sts.map partner
  if 2 ^ 40 ≤ a ∨ offOf a < stagingBase ∨ a % 64 ≠ 0 ∨ stackOf a ∉ here then none
  else match (s.getBytes a 64).2 with
  | .error _ => none
  | .ok hdr =>
    if numAt hdr 0 4 ≠ 0x504D4C4D ∨ numAt hdr 8 8 ≠ Desc.program d ∨ stagingEnd < offOf a + max 64 (numAt hdr 24 4) then
      none
    else
      let n := min (numAt hdr 42 1) 32
      match (s.getBytes (a + numAt hdr 52 4) (8 * n)).2 with
      | .error _ => none
      | .ok ds =>
        let es := entriesAt ds 0 8 n
        some ⟨((List.range n).zip es).filterMap fun (i, e) => if bitsAt e 32 1 = 1 then some (i, e % 2 ^ 32) else none,
          numAt hdr 43 1⟩

/-- A refusal: code, subcode and details of its log entry. -/
structure Refuse where
  code : Nat
  sub : Nat
  d0 : Nat
  d1 : Nat
  d2 : Nat
  /-- The failing value's place in the descriptor. -/
  place : Nat
  deriving DecidableEq, Repr

/-- R211: the first failing check. -/
def State.judgeDesc (s : State) (c : Nat) (d : Desc) (a : Args) : Option Refuse :=
  let x := s.ctx c
  if !isCompl 32 (Desc.seq d) (Desc.seqC d) then some ⟨cComplement, 0, 1, 0, 0, 0⟩
  else if !isCompl 64 (Desc.program d) (Desc.programC d) then some ⟨cComplement, 0, 1, 0, 0, 8⟩
  else if Desc.seq d ≠ x.nextSeq.toNat then some ⟨cDenied, 0, 0, 0, 0, 0⟩
  else if Desc.rsvd d ≠ 0 ∨ Desc.argsAddr d % 64 ≠ 0 then some ⟨cDenied, 0, 0, 0, 0, 0⟩
  else match s.imageAt x.partition d with
  | none => some ⟨cLoadCheck, 0x0101, 0, 0, 0, 0⟩
  | some f =>
    let v := f.varPlans.length
    let needs := decide (0 < v) || decide (0 < f.ioCount)
    let has := decide (Desc.argsAddr d ≠ 0)
    if has ≠ needs ∨ (has ∧ (Args.rsvd a ≠ 0 ∨ (List.range 8).any (fun i => decide (v ≤ i) && decide (Args.extent a i ≠ 0))
        ∨ (List.range 16).any fun i => decide (f.ioCount ≤ i) && decide (Args.ioAddr a i ≠ 0))) then some ⟨cDenied, 0, 0, 0, 0, 0⟩
    else
      match (f.varPlans.zip (List.range v)).find? fun e => decide (e.1.2 < Args.extent a e.2) with
      | some e => some ⟨cExtent, 0, e.1.1, Args.extent a e.2, e.1.2, 0⟩
      | none => none

/-- The acceptance entry of Table 10-4. -/
def acceptEntry (seq code sub time : Nat) : List Byte :=
  toBytes 32 (seq + 2 ^ 32 * (2 ^ 32 - 1 - seq) + 2 ^ 64 * code + 2 ^ 80 * sub + 2 ^ 128 * time)

def State.writeAccept (s : State) (c seq code sub : Nat) : State :=
  let x := s.ctx c
  s.send x.hostPort (.write (x.acceptBase + 32 * (seq % x.ringSize)) (acceptEntry seq code sub s.now))

/-- The tracking table takes an accepted descriptor in (R56, R191). -/
def State.trackSeed (s : State) (d : Desc) : State :=
  let seed := Desc.seed d
  let prog := Desc.program d
  let s := s.setObj 0x6010 2 seed
  let known := s.seeds.any fun e => decide (e.1 = seed)
  let other := s.seeds.any fun e => decide (e.1 = seed) && decide (e.2 ≠ prog)
  let same := decide ((seed, prog) ∈ s.seeds)
  let s := if known then s else s.bump 0x6010 1 1
  let s := if other then s.bump 0x6010 3 1 else s
  let s := if same && Desc.train d then s.bump cTrain 0x0A 1 else s
  let l := (seed, prog) :: s.seeds.filter (· ≠ (seed, prog))
  if 4096 < l.length then ({ s with seeds := l.take 4096 }).bump 0x6010 4 1 else { s with seeds := l }

/-- An accepted item (R214). -/
def newItem (seq : Nat) (d : Desc) (a : Args) : Item where
  seq := seq
  desc := d
  args := a
  state := .accepted
  resumePhase := 0
  marks := 0
  replays := 0
  counted := 0
  flags := 0
  missed := false
  bound := false
  awaitsPort := false
  firstBound := none
  final := none

/-- ACCEPT (R212). -/
def State.acceptDesc (s : State) (c : Nat) (d : Desc) (a : Args) : State :=
  let seq := (s.ctx c).nextSeq.toNat
  let s := s.journalAppend c seq (.accept d a)
  let x := s.ctx c
  let s := s.setCtx c { x with
    nextSeq := x.nextSeq + 1
    lastAccepted := seq
    items := x.items ++ [newItem seq d a] }
  (s.trackSeed d).writeAccept c seq 0 0

/-- What a refusal logs (R230, Table 11-5). -/
def State.refuseReport (s : State) (c seq : Nat) (r : Refuse) : Report :=
  let x := s.ctx c
  let slot := x.submitBase + 64 * (seq % x.ringSize)
  let base := if r.code = cLoadCheck then plainReport r.code unitLoader .program 0
    else if r.code = cExtent then plainReport r.code unitLoader .value 0
    else plainReport r.code unitLeaven .host (slot + r.place)
  { base with
    subcode := r.sub
    d0 := r.d0
    d1 := r.d1
    d2 := r.d2
    item := some (c, seq)
    ctx := some c }

/-- REFUSE (R211): the descriptor consumes its sequence number. -/
def State.refuseDesc (s : State) (c : Nat) (r : Refuse) : State :=
  let seq := (s.ctx c).nextSeq.toNat
  let s := s.journalAppend c seq (.refuse r.code r.sub)
  let s := s.report (s.refuseReport c seq r)
  let s := s.setCtx c { s.ctx c with nextSeq := (s.ctx c).nextSeq + 1 }
  s.writeAccept c seq r.code r.sub

/-- The reserve of R220: 16 units for each partition. -/
def journalReserve : Nat := 16 * 16

/-- Records whose report the host can see are reclaimed (R220): the port has sent all it held. -/
def State.reclaim (s : State) : State :=
  s.journalReclaim fun r =>
    let x := s.ctx r.ctx
    let visible := s.canSend x.hostPort && (s.port x.hostPort).held.isEmpty
    let live := x.items.any fun i => decide (i.seq = r.seq)
    !r.body.isScale && !live && visible && (decide (r.body ≠ .ctxReset) || decide (x.mode ≠ .resetting))

/-- Judge a descriptor and accept or refuse it, or pause for journal space (R211, R212). -/
def State.examine (s : State) (c : Nat) (d : Desc) (a : Args) : State :=
  let s := s.reclaim
  let s := if s.mapOk (s.ctx c).partition then s else s.mapFault (s.ctx c).partition
  let verdict := s.judgeDesc c d a
  let need := if verdict.isNone then recUnits 256 else recUnits 3
  if s.journal.free < journalReserve + need then s.setCtx c { s.ctx c with pause := .journal d a }
  else match verdict with
  | none => s.acceptDesc c d a
  | some r => s.refuseDesc c r

/-- DESCRIPTOR_EXAMINE (R208, R210 to R212): `desc` and `args` are the bytes that the fetches returned. -/
def execDescriptorExamine (c : CtxNo) (desc : BitVec 512) (args : BitVec 1536) (s : State) : Result :=
  if !s.leavenUp then s.stay "R327"
  else if s.mayExamine c.val then .next (s.examine c.val desc args) else s.stay "R208"

/-- EXAMINATION_RESUME (R212): records have been reclaimed. -/
def execExaminationResume (c : CtxNo) (s : State) : Result :=
  if !s.leavenUp then s.stay "R327"
  else match (s.ctx c.val).pause with
  | .journal d a =>
    let t := s.reclaim
    if t.journal.free < journalReserve + recUnits 256 ∨ (s.ctx c.val).mode ≠ .running ∨ s.health.journalLost then s.stay "R212"
    else .next ((t.setCtx c.val { t.ctx c.val with pause := .none }).examine c.val d a)
  | _ => s.stay "R212"

/-- A mover's descriptor in progress that reads host memory. -/
def Active.readsHost (a : Active) : Bool := decide (a.desc.srcSpace = .host)

/-- HOST_READ_FAILURE (R264): logged; a fetch pauses examination, a transfer faults its descriptor. -/
def execHostReadFailure (k : HostReadKind) (s : State) : Result :=
  if !s.leavenUp then s.stay "R264"
  else match k with
  | .descriptor c =>
    let x := s.ctx c.val
    if !s.mayExamine c.val then s.stay "R264"
    else
      let a := x.submitBase + 64 * (x.nextSeq.toNat % x.ringSize)
      .next ((s.report { plainReport cDenied (unitPcie x.hostPort) .host a with ctx := some c.val }).setCtx c.val
        { x with pause := .hostRead })
  | .arguments c addr =>
    let x := s.ctx c.val
    if !s.mayExamine c.val then s.stay "R264"
    else
      .next ((s.report { plainReport cDenied (unitPcie x.hostPort) .host addr with ctx := some c.val }).setCtx c.val
        { x with pause := .hostRead })
  | .transfer m addr =>
    let q := moverKey m
    match (s.mover q).active.findIdx? Active.readsHost with
    | none => s.stay "R264"
    | some i => match (s.mover q).active[i]? with
      | none => s.stay "R264"
      | some a => .next (s.failActive q i (unitPcie a.desc.hostPort) ⟨cDenied, .host, addr, 0, 0, 0⟩)
  -- the read behind the HOST writes of an interval (R218 step 3); the manual gives its failure no effect but the entry
  | .flush p addr => if s.canSend p.val then .next (s.report (plainReport cDenied (unitPcie p.val) .host addr)) else s.stay "R264"

/-! ## Choosing (R207) -/

/-- A context offers its head item. -/
def State.offers (s : State) (p c : Nat) : Bool :=
  let x := s.ctx c
  decide (x.partition = p) && (decide (x.mode = .running) || decide (x.mode = .draining)) &&
    x.items.head?.any fun i => decide (i.state = .accepted) || decide (i.state = .preempted)

/-- Contexts that are not at their reset value, in ascending number. -/
def State.ctxIds (s : State) : List Nat := s.ctxs.map (·.1)

/-- The context whose item runs next: highest priority, then the first after the one that ran last (R207). -/
def State.chooseCtx (s : State) (p : Nat) : Option Nat :=
  let cs := s.ctxIds.filter (s.offers p)
  let top := (cs.map fun c => (s.ctx c).priority).foldl max 0
  let ts := cs.filter fun c => decide ((s.ctx c).priority = top)
  match (s.part p).lastCtx with
  | none => ts.head?
  | some l => (ts.find? fun c => decide (l < c)).or ts.head?

/-- R227: an accepted item whose deadline has passed under ABORT is not run. -/
def State.tooLate (s : State) (c : Nat) (i : Item) : Bool :=
  decide (i.state = .accepted) && !(s.ctx c).finishPolicy && decide (i.deadline ≠ 0) && decide (i.deadline < s.now)

/-- The chosen item enters BINDING, or completes DEADLINE_ABORTED. -/
def State.choose (s : State) (p c : Nat) : State :=
  match (s.ctx c).items with
  | [] => s
  | i :: _ =>
    if s.tooLate c i then s.finish c i 2 0 0 0 true
    else
      (s.mapHead c fun it => { it with state := .binding, bound := false }).setPart p
        { s.part p with current := some c, lastCtx := some c, fault := none }

/-- ITEM_CHOOSE (R204, R207, R214, R227). -/
def execItemChoose (p : PartNo) (s : State) : Result :=
  if !s.leavenUp ∨ !s.isReady then s.stay "R327"
  else if (s.part p.val).current.isSome then s.stay "R207"
  else match s.chooseCtx p.val with
  | none => s.stay "R207"
  | some c => .next (if s.mapOk p.val then s.choose p.val c else s.mapFault p.val)

/-! ## Rolling back (R216, R217, R225) -/

/-- Write the undo pages back in reverse order of capture. -/
def State.undoPages (s : State) (p : Nat) : State :=
  match (s.part p).binding with
  | none => s
  | some b =>
    let s := b.undo.reverse.foldl (fun s u =>
      let r := s.rawRead (b.undoBase + pageBytes * u.2) pageBytes
      r.1.rawWrite u.1 r.2.1 r.2.2) s
    s.setPart p { s.part p with binding := some { b with undo := [] } }

/-- Stop the units of a partition and restore its carried state to the last mark. -/
def State.rollback (s : State) (p : Nat) : State :=
  match (s.part p).binding with
  | none => s
  | some b => (s.clearRun p b).undoPages p

/-! ## Commit marks (R197, R218) -/

/-- The phase at whose end the next mark of a job stands. -/
def Job.nextMark (x : Job) : Option Nat :=
  (List.range x.bd.prog.phases).find? fun ph => decide (x.item.resumePhase ≤ ph) && x.markPhase ph

/-- Operations between the last mark and the end of a phase. -/
def Job.interval (x : Job) (ph : Nat) : List Nat :=
  (List.range x.bd.prog.ops.length).filter fun i =>
    let q := (x.bd.prog.op i).phase
    decide (x.item.resumePhase ≤ q) && decide (q ≤ ph)

/-- Ports that carried HOST writes in the interval (R218 step 3). -/
def Job.hostWrites (x : Job) (ph : Nat) : Bool :=
  (x.interval ph).any fun i =>
    let r := x.bd.prog.op i
    let b := x.bd.prog.buf r.aux1
    decide (r.kind = kTransfer) && decide (b.cls = clsHost) && !ioFinwell (x.bd.ioAddr.getD b.ioPort 0)

/-- Every unit has passed its token for the phase, every operation has ended, and HOST writes can be flushed. -/
def State.markReady (s : State) (x : Job) (ph : Nat) : Bool :=
  (x.units.all fun u => s.passed x u ph) && ((x.interval ph).all fun i => (x.bd.opStats i).ended) &&
    (!x.hostWrites ph || (let q := (s.ctx x.ctx).hostPort; s.canSend q && (s.port q).held.isEmpty))

/-- Carried SCRATCH buffers written since the last mark. -/
def Job.toCheckpoint (x : Job) (ph : Nat) : List Nat :=
  (x.bd.ckpt.map (·.1)).filter fun b => (x.interval ph).any fun i => decide (b ∈ x.bd.prog.writes (x.bd.prog.op i))

/-- Step 1 of R218: copy carried SCRATCH buffers into the checkpoint area. -/
def State.checkpoint (s : State) (x : Job) (ph : Nat) : State × Option (Nat × CFault) :=
  (x.toCheckpoint ph).foldl (fun acc b =>
    if acc.2.isSome then acc
    else match x.bd.carryAddr b with
    | none => acc
    | some a =>
      let br := x.bd.prog.buf b
      let v := acc.1.copyShares x b a false (x.bd.ext br.dimOuter) (x.innerExt br)
      (v.st, v.fault)) (s, none)

/-- Step 2 of R218: the larders clean the carried buffers, the checkpoint area and the undo area, in both copies of mirrored
data (R153). -/
def State.cleanBinding (s : State) (b : Binding) : State :=
  b.areas.foldl (fun s a =>
    let range := [(offOf a.1, offOf a.1 + a.2)]
    let s := s.cleanRange (stackOf a.1) range
    if s.mirrorAt a.1 = 0 then s else s.cleanRange (partner (stackOf a.1)) range) s

/-- Steps 4 and 5 of R218. -/
def State.recordMark (s : State) (x : Job) (ph : Nat) (ck : List Nat) : State :=
  let s := s.setPart x.part { s.part x.part with binding := (s.part x.part).binding.map fun b => { b with
    undo := []
    saved := b.saved ++ ck.filter (· ∉ b.saved) } }
  let s := s.mapHead x.ctx fun it => { it with
    marks := it.marks + 1
    resumePhase := ph + 1
    counted := 0 }
  -- older MARK records of the item are reclaimed once this one is durable (R220)
  s.journalReclaim fun r => decide (r.ctx = x.ctx) && decide (r.seq = x.item.seq) &&
    match r.body with
    | .mark n _ none => decide (n ≤ x.item.marks)
    | _ => false

/-- A context of higher priority has an accepted item (R207). -/
def State.preemptor (s : State) (p c : Nat) : Bool :=
  s.ctxIds.any fun d => decide (d ≠ c) && s.offers p d && decide ((s.ctx c).priority < (s.ctx d).priority)

/-- PREEMPT (R207). -/
def State.preempt (s : State) (p c : Nat) : State :=
  ((s.unbind p).mapHead c fun it => { it with state := .preempted }).release p

/-- The head item of a context after updates. -/
def State.headItem (s : State) (c : Nat) (d : Item) : Item := (s.ctx c).items.headD d

/-- STEP_SKIPPED_OVERFLOW (R197). -/
def State.skipStep (s : State) (x : Job) : State :=
  let s := ((s.report { plainReport cStepSkipped unitLeaven .value x.bd.prog.id with
    d0 := x.bd.overflowGroups
    item := some (x.ctx, x.item.seq)
    ctx := some x.ctx }).bump cTrain 6 1).rollback x.part
  let s := (s.settleAll x true).1
  let s := s.mapHead x.ctx fun it => { it with marks := it.marks + 1 }
  let s := s.finish x.ctx (s.headItem x.ctx x.item) 1 0 0 0 true
  s.release x.part

/-- The mark of a phase, and what follows it: the final record, a preemption, or the next interval. -/
def State.commit (s : State) (x : Job) (ph : Nat) : State :=
  let r := s.checkpoint x ph
  match r.2 with
  -- a fault before step 4 leaves the previous mark as it stands: its checkpoint is what the replay restores
  | some (unit, e) => s.jobFault x 0 unit e
  | none =>
    let s := r.1.cleanBinding x.bd
    let final := decide (ph + 1 = x.bd.prog.phases)
    let (s, doldrums) := if x.bd.train ∧ final then (s.bump cTrain 5 1).settleAll x false else (s, false)
    let s := if doldrums then s.mapHead x.ctx fun it => { it with flags := it.flags ||| 64 } else s
    let s := if final then s else s.journalAppend x.ctx x.item.seq (.mark (x.item.marks + 1) ph none)
    let s := s.recordMark x ph (x.toCheckpoint ph)
    if final then (s.finish x.ctx (s.headItem x.ctx x.item) 0 0 0 0 true).release x.part
    else if s.preemptor x.part x.ctx then s.preempt x.part x.ctx
    else s

/-- COMMIT_MARK (R174, R197, R207, R218). -/
def execCommitMark (p : PartNo) (s : State) : Result :=
  match s.job p.val with
  | none => s.stay "R218"
  | some x => match x.nextMark with
    | none => s.stay "R218"
    | some ph =>
      if !s.leavenUp ∨ !s.markReady x ph then s.stay "R218"
      else .next (if x.bd.train && x.bd.overflowed then s.skipStep x else s.commit x ph).reclaim

/-! ## Completion (R221) -/

/-- The completion entry of Table 10-7. -/
def completeEntry (seq : Nat) (f : Final) : List Byte :=
  toBytes 32 (seq + 2 ^ 32 * (2 ^ 32 - 1 - seq) + 2 ^ 64 * f.status + 2 ^ 72 * f.code + 2 ^ 80 * f.subcode
    + 2 ^ 96 * f.flags + 2 ^ 112 * min f.replays 65535 + 2 ^ 128 * f.offset + 2 ^ 160 * f.time + 2 ^ 224 * f.marks)

/-- Write the completion entry, advance LAST_COMPLETED, raise the vector, end a drained context. -/
def State.completeItem (s : State) (c : Nat) (i : Item) (f : Final) : State :=
  let x := s.ctx c
  let s := s.send x.hostPort (.write (x.completeBase + 32 * (i.seq % x.ringSize)) (completeEntry i.seq f))
  let s := if Desc.noIrq i.desc then s else s.raise x.hostPort x.msixVector
  let rest := x.items.drop 1
  let s := s.setCtx c { x with
    items := rest
    lastCompleted := i.seq
    mode := if x.mode = .draining ∧ rest.isEmpty then .stopped else x.mode }
  s.reclaim

/-- ITEM_COMPLETE (R214, R221): completions are written in sequence order. -/
def execItemComplete (c : CtxNo) (s : State) : Result :=
  if !s.leavenUp then s.stay "R327"
  else match (s.ctx c.val).items with
  | [] => s.stay "R221"
  | i :: _ => match i.final with
    | none => s.stay "R221"
    | some f => .next (s.completeItem c.val i f)

/-! ## Deadlines (R226, R227) -/

/-- Accepted items with a deadline, no final record and no logged miss: deadline, context, sequence number. -/
def State.deadlines (s : State) : List (Nat × Nat × Nat) :=
  s.ctxs.flatMap fun (c, x) => x.items.filterMap fun i =>
    if i.final.isNone ∧ !i.missed ∧ i.deadline ≠ 0 then some (i.deadline, c, i.seq) else none

/-- The earliest of them. -/
def earliest : List (Nat × Nat × Nat) → Option (Nat × Nat × Nat)
  | [] => none
  | e :: es => match earliest es with
    | none => some e
    | some f => if f.1 < e.1 then some f else some e

/-- The miss is noted on the item; one that runs under ABORT stops. One that is still bound stops once it runs. -/
def State.missItem (s : State) (c seq : Nat) : State :=
  let x := s.ctx c
  let s := s.setCtx c { x with items := x.items.map fun i =>
    if i.seq = seq then { i with missed := true, flags := if x.finishPolicy then i.flags ||| 8 else i.flags } else i }
  match s.partRunning c, x.items.head? with
  | some p, some i =>
    if i.seq = seq ∧ !x.finishPolicy ∧ (i.state = .running ∨ i.state = .rollingBack) then s.setPart p { s.part p with fault := some ⟨0, 0, false, false, true⟩ } else s
  | _, _ => s

/-- DEADLINE_MISSED (R226, R227): a firing while Leaven is down is latched and logged later (R320). -/
def execDeadlineMissed (s : State) : Result :=
  match earliest s.deadlines with
  | none => s.stay "R226"
  | some (d, c, seq) =>
    if !s.power.vaux33 ∨ s.now ≤ d then s.stay "R226"
    else if s.leavenUp then
      match (s.ctx c).items.find? fun i => i.seq = seq with
      | some i => .next ((s.logMissed c i).missItem c seq)
      | none => s.stay "R226"
    else if s.power.latched.any (fun e => decide (e.1 = 0)) then .next s
    else .next { s with power := { s.power with latched := s.power.latched ++ [(0, s.now)] } }

/-! ## Replay (R225, Table 10-8) -/

/-- Two bindings place the program alike. -/
def Binding.same (a b : Binding) : Bool :=
  decide (a.prog = b.prog) && decide (a.grids = b.grids) && decide (a.splits = b.splits) && decide (a.places = b.places)
    && decide (a.training = b.training)

/-- Count a replay (R225). -/
def State.countReplay (s : State) (c : Nat) (counts : Bool) : State :=
  let s := { s with journal := { s.journal with replays := min (s.journal.replays + 1) (2 ^ 32 - 1) } }
  s.mapHead c fun it => { it with
    replays := it.replays + 1
    counted := if counts then it.counted + 1 else it.counted }

/-- Resume an item on a new binding from its last mark. -/
def State.resume (s : State) (p c : Nat) (i : Item) (old b : Binding) (counts : Bool) : State :=
  let s := s.unbind p
  let s := s.countReplay c counts
  let s := s.setPart p { s.part p with fault := none }
  let i := s.headItem c i
  let r := s.install p c i b
  -- a training item keeps the offsets and samples it started with (R200)
  let b := if i.train then { r.2 with
    deltas := old.deltas
    raiseBelow := old.raiseBelow
    doldrumsRun := old.doldrumsRun
    stats := old.stats } else { r.2 with stats := old.stats }
  r.1.startRun p c i b true

/-- The item completes FAILED with the code and operation of a fault. -/
def State.failItem (s : State) (p c : Nat) (i : Item) (f : RunFault) : State :=
  (s.finish c i 4 f.code 0 f.op true).release p

/-- The replays that count toward REPLAY_LIMIT are used up (R225). -/
def State.replaysUsed (s : State) (c : Nat) (i : Item) : Bool := decide ((s.ctx c).replayLimit ≤ i.counted)

/-- Replay the item of a partition whose carried state is at its last mark. -/
def State.replayItem (s : State) (p c : Nat) (i : Item) (f : Option RunFault) (r : ReplayStart) : State :=
  match (s.part p).binding with
  | none =>
    -- no binding was in place, because the image could not be read: the item binds again
    let g := f.getD ⟨0, 0, false, false, false⟩
    if g.counts ∧ s.replaysUsed c i then s.failItem p c i g
    else ((s.countReplay c g.counts).mapHead c fun it => { it with state := .binding, bound := false }).setPart p
      { s.part p with fault := none }
  | some old =>
    let s := s.badHealth r.badHealth
    match s.tryBind p c i.desc old.training r.badHealth with
    | .broken e =>
      if s.replaysUsed c i then (s.imageFault p c i e).failItem p c i ⟨e.code, 0, false, true, false⟩
      else (s.countReplay c true).imageFault p c i e
    | .reject g => ((s.unbind p).rejectItem p c i g)
    | .capacity off => ((s.unbind p).returnItems c cCapacity unitLoader off .program).release p
    | .bound b =>
      let counts := (f.any (·.counts)) && old.same b
      if counts ∧ s.replaysUsed c i then s.failItem p c i (f.getD ⟨0, 0, false, false, false⟩)
      else (s.estimate c i b r.transferNs).resume p c i old b counts

/-- The ACCEPT record of an item. -/
def JRec.isAcceptOf (r : JRec) (c seq : Nat) : Bool := decide (r.ctx = c) && decide (r.seq = seq) && decide (r.body.kind = 1)

/-- The replay reads the item's ACCEPT record; one that fails in both copies is the loss of the journal (R219, R244). -/
def State.readAccept (s : State) (c : Nat) (i : Item) (bad : List Stack) : State × Bool :=
  match s.journal.recs.find? fun r => r.isAcceptOf c i.seq with
  | none => (s, false)
  | some r => s.readRecord r bad

/-- The journal is lost: one UNIT_FAILED, and no further descriptor is accepted (R244). -/
def State.loseJournal (s : State) : State :=
  if s.health.journalLost then s
  else
    let s := { s with health := { s.health with
      journalLost := true
      generation := min (s.health.generation + 1) (2 ^ 32 - 1) } }
    s.report { plainReport cUnitFailed unitJournal .value s.health.generation with d0 := 6 }

/-- ITEM_REPLAY (R219, R225, R227): roll back, then abort, fail or replay. -/
def execItemReplay (r : ReplayStart) (s : State) : Result :=
  let p := r.part.val
  match s.running p with
  | none => s.stay "R225"
  | some (c, i) =>
    let f := (s.part p).fault
    if !s.leavenUp ∨ (f.isNone ∧ i.state ≠ .rollingBack) ∨ i.final.isSome ∨ i.awaitsPort then s.stay "R225"
    else if !s.mapOk p then .next (s.mapFault p)
    else
      let s := s.rollback p
      .next (match f with
        | some g =>
          if g.deadline then (s.finish c i 2 0 0 0 true).release p
          else if g.permanent then s.failItem p c i g
          else
            let a := s.readAccept c i r.badCopies
            if a.2 then a.1.loseJournal else a.1.replayItem p c i f r
        | none =>
          let a := s.readAccept c i r.badCopies
          if a.2 then a.1.loseJournal else a.1.replayItem p c i none r)

end Sys2Proof.Machine
end

