-- ==== Sys2Proof/Machine/ErrorLog.lean ====
section
/-!
DEFINITION. The error log (R231 to R237): ERROR_LOG_ENTRY, acknowledgement by 0x7000.02 ACK and by the registers of
Table 13-5 (ELOG_ACK_HI, ELOG_HEAD_LO), and NOW_LO.
-/
namespace Sys2Proof.Machine

/-! ## Entries (Table 11-2) -/

def AddrKind.code : AddrKind → Nat
  | .value => 0
  | .hbm => 1
  | .bank => 2
  | .program => 3
  | .bar0 => 4
  | .object => 5
  | .host => 6
  | .operation => 7

/-- A slot never written: every field 0 but ENTRY_SEQ (R231). -/
def blankReport : Report := ⟨0, 0, 0, .value, 0, 0, 0, 0, 0, none, none⟩
def blankSlot : Nat × Report := (2 ^ 64 - 2, blankReport)

def logSize : Nat := 1024

/-- The ring slot of an entry number. -/
def Log.slot (l : Log) (n : Nat) : Nat × Report := tget blankSlot l.slots (n % logSize)

/-- The 64 bytes of an entry. -/
def entryBytes (n : Nat) (r : Report) : List Byte :=
  toBytes 64 (r.code % 256
    + (if isEvent r.code then 2 ^ 8 else 0)
    + (if r.ctx.isSome then 2 ^ 9 else 0)
    + 2 ^ 10 * r.addrKind.code
    + (if r.item.isSome then 2 ^ 13 else 0)
    + 2 ^ 16 * (r.subcode % 2 ^ 16)
    + 2 ^ 32 * (r.unit % 2 ^ 16)
    + 2 ^ 48 * (r.ctx.getD 0 % 4096)
    + 2 ^ 64 * (n % 2 ^ 64)
    + 2 ^ 128 * (r.address % 2 ^ 64)
    + 2 ^ 192 * (r.time % 2 ^ 64)
    + 2 ^ 256 * (r.d0 % 2 ^ 32)
    + 2 ^ 288 * (r.d1 % 2 ^ 32)
    + 2 ^ 320 * (r.d2 % 2 ^ 32)
    + 2 ^ 352 * ((r.item.map (·.2)).getD 0 % 2 ^ 32))

/-- Entry n, while the ring holds it (0x7000.07). -/
def Log.entry (l : Log) (n : Nat) : Option Report :=
  if (l.slot n).1 = n ∧ n < l.head then some (l.slot n).2 else none

/-! ## Writing entries (R231, R233, R234, R236, R237) -/

/-- Put a report at HEAD. -/
def Log.put (l : Log) (r : Report) : Log :=
  { l with
    slots := tset blankSlot l.slots (l.head % logSize) (l.head, r)
    head := l.head + 1 }

/-- The entry that the next one overwrites stands at or above ACK. -/
def Log.overwrites (l : Log) : Bool :=
  let old := (l.slot l.head).1
  decide (logSize ≤ l.head) && decide (old = l.head - logSize) && decide (l.ack ≤ old)

/-- R234: a report may be logged next. -/
def Log.admits (l : Log) (k : Nat) (r : Report) : Bool :=
  let others := l.waiting.eraseIdx k
  others.all fun o =>
    !decide (o.time + 100000 < r.time) && !(decide (o.time = r.time) && decide (o.unit < r.unit)) &&
      -- reports of one unit in one nanosecond keep their order of detection
      !(decide (o.time = r.time) && decide (o.unit = r.unit) && (l.waiting.take k).any fun q => decide (q = o))

/-- A RETIRE is done once its UNIT_FAILED is logged (R246). -/
def Health.retireLogged (h : Health) (r : Report) : Health :=
  if r.code = cUnitFailed ∧ h.repair = some (.retire r.unit) then { h with repair := none, repairResult := 2 } else h

/-- Write an entry: OVERWRITTEN, the count of its code, the error vector. -/
def State.logEntry (s : State) (r : Report) : State :=
  let s := { s with health := s.health.retireLogged r }
  let s := if s.log.overwrites then s.bump 0x7000 3 1 else s
  let s := { s with log := s.log.put r }
  let s := s.bump 0x7010 r.code 1
  if !isEvent r.code ∨ s.obj 0x7000 5 = 1 then s.raiseBoth 2047 else s

/-- ERROR_LOG_ENTRY (R233, R234): Leaven logs report k of those that wait. -/
def execErrorLogEntry (k : Nat) (s : State) : Result :=
  if !s.leavenUp then s.stay "R234"
  else match s.log.waiting[k]? with
  | none => s.stay "R234"
  | some r =>
    if s.log.admits k r then
      .next ({ s with log := { s.log with waiting := s.log.waiting.eraseIdx k } }.logEntry r)
    else s.stay "R234"

/-! ## Acknowledgement (R236) -/

/-- A new ACK: none where it is refused. -/
def Log.acknowledge (l : Log) (v : Nat) : Option Log :=
  if l.head < v ∨ v < l.ack then none else some { l with ack := v }

/-- A judged write of ACK. -/
def State.writeAck (s : State) (v : Nat) : Judged :=
  match s.log.acknowledge v with
  | some l => ({ s with log := l }, 0)
  | none => (s, cDenied)

/-! ## The registers of Table 13-5 and NOW -/

/-- Data that a read on a port returns. -/
def State.answerRead (s : State) (p : Nat) (data : List Byte) : State :=
  s.setPort p { s.port p with readData := (s.port p).readData ++ [data] }

/-- A BAR0 access that the device refuses: unit and offset. -/
def State.denyBar0 (s : State) (unit off : Nat) : State := s.deny unit .bar0 off

def offElogAckHi : Nat := 0x2000C

/-- A write of ELOG_ACK_HI applies the ACK formed with the held ACK_LO. -/
def State.elogAckHi (s : State) (p : Nat) (v : W32) : State :=
  let r := s.writeAck (2 ^ 32 * v.toNat + (s.port p).ackLo.toNat)
  if r.2 = 0 then r.1 else s.denyBar0 (unitPcie p) offElogAckHi

/-- ELOG_ACK_HI (R236, Table 13-5). -/
def execElogAckHi (port : PortNo) (v : W32) (s : State) : Result :=
  .next (if s.portAnswers port.val then s.elogAckHi port.val v else s)

/-- A read of ELOG_HEAD_LO latches the upper bits for its function. -/
def State.readHeadLo (s : State) (p : Nat) : State :=
  let h := s.log.head
  (s.setPort p { s.port p with headHi := BitVec.ofNat 32 (h / 2 ^ 32) }).answerRead p (toBytes 4 h)

/-- ELOG_HEAD_LO (Table 13-5). -/
def execElogHeadLo (port : PortNo) (s : State) : Result :=
  .next (if s.portAnswers port.val then s.readHeadLo port.val else s)

/-- A read of NOW_LO latches the upper bits for its function. -/
def State.readNowLo (s : State) (p : Nat) : State :=
  let h := s.now
  (s.setPort p { s.port p with nowHi := BitVec.ofNat 32 (h / 2 ^ 32) }).answerRead p (toBytes 4 h)

/-- NOW_LO (Table 13-4). -/
def execNowLo (port : PortNo) (s : State) : Result :=
  .next (if s.portAnswers port.val then s.readNowLo port.val else s)

end Sys2Proof.Machine
end

