-- ==== Sys2Proof/Machine/Failures.lean ====
section
/-!
DEFINITION. Failures of units (R219, R223 to R225, R241 to R244, R263): the health maps, what each failure does to
work, and the commands CORE_FAILURE, HEARTH_FAILURE, HBM_STACK_FAILURE, JOURNAL_RELOCATION,
JOURNAL_RELOCATION_COMPLETE, PROOFER_FAILURE, PCIE_PORT_FAILURE.
-/
namespace Sys2Proof.Machine

/-! ## Health of a unit (R240 to R242). Units are named by their codes of Table 11-3. -/

/-- The class field of a unit code; 16 for a core. -/
def unitClass (u : Nat) : Nat := if 0x8000 ≤ u then 16 else u / 2048
/-- The number of a unit within its class. -/
def unitIndex (u : Nat) : Nat := u % 2048
/-- The hearth field of a core's code. -/
def unitHearthOf (u : Nat) : Nat := u / 2048 % 16
/-- The core key of a core's code. -/
def unitCoreKey (u : Nat) : Nat := coreKey (unitHearthOf u) (unitIndex u)

/-- A unit is marked faulty. -/
def State.unitFaulty (s : State) (u : Nat) : Bool :=
  let n := unitIndex u
  match unitClass u with
  | 16 => decide (n ∈ (s.hearth (unitHearthOf u)).faulty)
  | 1 => (s.hearth n).logicFailed
  | 3 => decide (n ∈ s.health.stacksFailed)
  | 5 => decide (n ∈ s.health.proofersFailed)
  | 8 => decide (n ∈ s.health.pcieFailed)
  | 9 => decide (n ∈ s.health.finwellFailed)
  | 13 => s.health.journalLost
  | _ => false

/-- A set of numbers with one of them put in or taken out. -/
def setMember (l : List Nat) (n : Nat) (v : Bool) : List Nat :=
  let rest := l.filter (· ≠ n)
  if v then n :: rest else rest

/-- Mark or clear a unit. -/
def State.setFaulty (s : State) (u : Nat) (v : Bool) : State :=
  let n := unitIndex u
  let h := s.health
  match unitClass u with
  | 16 => s.setHearth (unitHearthOf u) { s.hearth (unitHearthOf u) with
      faulty := setMember (s.hearth (unitHearthOf u)).faulty n v }
  | 1 => s.setHearth n { s.hearth n with logicFailed := v }
  | 3 => { s with health := { h with stacksFailed := setMember h.stacksFailed n v } }
  | 5 => { s with health := { h with proofersFailed := setMember h.proofersFailed n v } }
  | 8 => { s with health := { h with pcieFailed := setMember h.pcieFailed n v } }
  | 9 => { s with health := { h with finwellFailed := setMember h.finwellFailed n v } }
  | 13 => { s with health := { h with journalLost := v } }
  | _ => s

/-- GENERATION after one more change (R241). -/
def State.nextGeneration (s : State) : State :=
  { s with health := { s.health with generation := min (s.health.generation + 1) (2 ^ 32 - 1) } }

/-- CAUSE and FAILED_TIME of a hearth (Table 11-7): a core or the hearth itself sets both; a failed larder or router,
which counts as the failure of the stack, sets CAUSE. -/
def State.noteCause (s : State) (u cause : Nat) : State :=
  match unitClass u with
  | 16 => s.setHearth (unitHearthOf u) { s.hearth (unitHearthOf u) with cause := cause, failedTime := s.now }
  | 1 => s.setHearth (unitIndex u) { s.hearth (unitIndex u) with cause := cause, failedTime := s.now }
  | 3 => if cause = 5 then s.setHearth (unitIndex u) { s.hearth (unitIndex u) with cause := 5 } else s
  | _ => s

/-- The persistent record takes in every failure whose cause is not 3; only FORGET takes a unit out (R242, R246). -/
def State.persist (s : State) (u cause : Nat) : State :=
  if cause = 3 then s
  else
    let rest := s.boot.persistent.filter fun e => decide (e.1 ≠ u)
    { s with boot := { s.boot with persistent := (u, cause) :: rest } }

/-- A detection in the same moment as a RETIRE of the unit: the one entry carries the detected cause (R241). -/
def State.amendCause (s : State) (u cause : Nat) : State :=
  let hit (r : Report) : Bool := decide (r.code = cUnitFailed) && decide (r.unit = u) && decide (r.d0 = 4) && decide (r.time = s.now)
  if cause ≠ 4 ∧ s.log.waiting.any hit then
    ({ s with log := { s.log with waiting := s.log.waiting.map fun r => if hit r then { r with d0 := cause } else r } }.noteCause
      u cause).persist u cause
  else s

/-- A unit is marked faulty: GENERATION, the persistent record, one UNIT_FAILED (R241, R242). -/
def State.markFaulty (s : State) (u cause : Nat) : State :=
  let s := (((s.setFaulty u true).noteCause u cause).persist u cause).nextGeneration
  s.report { plainReport cUnitFailed u .value s.health.generation with d0 := cause }

/-- SPARES_FREE follows the health of the cores outside the grids. -/
def State.recountSpares (s : State) : State :=
  (List.range 16).foldl (fun s p => match (s.part p).binding with
    | some b => s.reportGrid b
    | none => s) s

/-- A unit is cleared: GENERATION and one UNIT_RESTORED (R241, R246); a core outside a grid counts as spare again (R240). -/
def State.clearFaulty (s : State) (u : Nat) : State :=
  let s := (s.setFaulty u false).nextGeneration.recountSpares
  s.report (plainReport cUnitRestored u .value s.health.generation)

/-! ## What a failure does to work (Table 10-8) -/

/-- The resident binding of a partition lost a unit: its running item rolls back and replays on a new binding, or, where
no item works on it, the program is unbound and binds afresh for the next item. -/
def State.loseBinding (s : State) (p : Nat) : State :=
  match s.running p with
  | some (c, i) => if i.final.isSome ∨ i.state = .binding then (s.unbind p).rollItem c else s.rollItem c
  | none => s.unbind p

/-- Every running item replays. -/
def State.rollAll (s : State) : State :=
  (List.range 16).foldl (fun s p => match s.running p with
    | some (c, _) => s.rollItem c
    | none => s) s

def State.loseWhere (s : State) (f : Binding → Bool) : State :=
  (List.range 16).foldl (fun s p => if (s.part p).binding.any f then s.loseBinding p else s) s

/-- A core fails. -/
def State.coreFails (s : State) (u cause : Nat) : State :=
  ((s.markFaulty u cause).loseWhere fun b => (b.index (unitCoreKey u)).isSome).recountSpares

/-- A hearth's logic die fails. -/
def State.logicFails (s : State) (u cause : Nat) : State :=
  (s.markFaulty u cause).loseWhere fun b => decide (unitIndex u ∈ b.hearths)

/-! ## Failure of a stack (R154, R219, R224, R244) -/

/-- The lowest stack for which it and its partner are healthy (R219). -/
def State.journalPair (s : State) : Option Nat :=
  (List.range 16).find? fun j => decide (j ∉ s.health.stacksFailed) && decide (partner j ∉ s.health.stacksFailed)

/-- What the failure of a stack does to the journal. -/
def State.journalStackFails (s : State) (st cause : Nat) : State :=
  let j := s.journal
  if j.state = 0 then
    if st = j.first ∨ st = j.second then
      { s with journal := { j with
          state := 1
          survivor := some (if st = j.first then j.second else j.first)
          target := s.journalPair } }
    else s
  else if j.survivor = some st then
    -- both copies are lost (R244)
    if s.health.journalLost then s else s.markFaulty unitJournal cause
  else if j.target.any fun t => decide (st = t) || decide (st = partner t) then
    { s with journal := { j with state := 1, target := s.journalPair } }
  else s

/-- The stacks whose data a partition loses with stack st: the stack itself, and, while it serves for its failed partner,
that one (R154). None while the pair is whole. -/
def State.dataLost (s : State) (p st : Nat) : List Nat :=
  match s.mirrorState p with
  | 0 => [st]
  | 1 => []
  | _ => if partner st ∈ s.health.stacksFailed then [st, partner st] else [st]

/-- A binding holds carried state, checkpoint or undo pages on one of the stacks. -/
def Binding.carriesOn (b : Binding) (sts : List Nat) : Bool :=
  ((List.range b.prog.bufs.length).any fun i => b.prog.carriedHbm i &&
    match b.places[i]? with
    | some pl => decide (stackOf pl.hbm ∈ sts)
    | none => false) ||
  (b.ckpt.any fun c => decide (stackOf c.2 ∈ sts)) ||
  (decide (0 < b.undoPages) && decide (stackOf b.undoBase ∈ sts))

/-- A context holds carried state outside a binding on one of the stacks (R207, R218, R224). -/
def Context.keptOn (x : Context) (sts : List Nat) : Bool := x.kept.any fun e => e.2.any fun k => decide (stackOf k.addr ∈ sts)

/-- An item reads a window in the staging area of a stack: a source of one of its program's TRANSFER records. -/
def State.readsWindow (s : State) (i : Item) (st : Nat) : Bool :=
  let a := Desc.image i.desc
  match (s.getBytes a 64).2 with
  | .error _ => false
  | .ok hdr => match (s.getBytes a (max 64 (min (numAt hdr 24 4) (stackBytes - offOf a)))).2 with
    | .error _ => false
    | .ok img =>
      let p := readProgram img
      (List.range p.ops.length).any fun k =>
        let r := p.op k
        let br := p.buf r.aux0
        let io := Args.ioAddr i.args br.ioPort
        decide (r.kind = kTransfer) && decide (br.cls = clsHost) && ioFinwell io && decide (stackOf (ioAddress io) = st)

/-- An accepted item not yet completed stands on the staging area of a stack. -/
def State.staged (s : State) (i : Item) (st : Nat) : Bool :=
  i.final.isNone && (decide (stackOf (Desc.image i.desc) = st) || s.readsWindow i st)

/-- The contexts that R224 returns when a stack fails. -/
def State.lostContexts (s : State) (st : Nat) : List Nat :=
  let bound := (List.range 16).filterMap fun p => match (s.part p).binding with
    | some b => if b.carriesOn (s.dataLost p st) then some b.ctx else none
    | none => none
  bound ++ (s.ctxIds.filter fun c => c ∉ bound && ((s.ctx c).keptOn (s.dataLost (s.ctx c).partition st)
    || (s.ctx c).items.any fun i => s.staged i st))

/-- R224: the items of a context are returned, and it is FAULTED; what it carried on the lost stacks is gone. -/
def State.returnLost (s : State) (c st : Nat) (lost : List Nat) : State :=
  let s := (List.range 16).foldl (fun s p => if (s.part p).current = some c then s.release p else s) (s.discardBinding c)
  let s := s.returnItems c cInputLost (unitStack st) 0 .value
  s.setCtx c { s.ctx c with
    mode := .faulted
    pause := .none
    stopInReset := false
    kept := (s.ctx c).kept.filter fun e => e.2.all fun k => decide (stackOf k.addr ∉ lost) }

/-- A pair of a mirrored partition is no longer whole (R154). -/
def State.degradeMirrors (s : State) (st : Nat) : State :=
  (List.range 16).foldl (fun s p =>
    let own := s.mapHearths p
    if s.mirrorState p = 1 ∧ (st ∈ own ∨ partner st ∈ own) then s.setObj 0x4021 (p + 1) 2 else s) s

/-- A stack fails, or its larder or router (Table 10-8). -/
def State.stackFails (s : State) (st cause : Nat) : State :=
  let lost := (s.lostContexts st).map fun c => (c, s.dataLost (s.ctx c).partition st)
  let gone (b : Binding) (sts : List Nat) : Bool := b.areas.any fun a => decide (stackOf a.1 ∈ sts)
  let hit := (List.range 16).filter fun p => (s.part p).binding.any fun b =>
    decide (b.ctx ∉ lost.map (·.1)) && gone b (s.dataLost p st)
  let s := s.markFaulty (unitStack st) cause
  let s := s.journalStackFails st cause
  let s := s.dropLarder st
  let s := s.degradeMirrors st
  let s := lost.foldl (fun s e => s.returnLost e.1 st e.2) s
  hit.foldl State.loseBinding s

/-! ## Proofers and ports -/

/-- End a dictionary session: its privilege, its challenge and its session-held subindices (R251, R255). -/
def SessionState.ended (x : SessionState) : SessionState :=
  { SessionState.reset with
    failRun := x.failRun
    lockoutEnd := x.lockoutEnd }

def State.endSession (s : State) (x : Session) : State := s.setSession x (s.session x).ended

/-- The I3C target loses its dynamic address, and with it the MCTP session (R255). -/
def State.loseI3c (s : State) : State := { s with net := { s.net with i3c := 0, mctpQueue := [] } }.endSession .mctp

/-- MAILBOX_TIMEOUT: the timeout in ns and the receiver (R273, R276). -/
def State.logMboxTimeout (s : State) (m ns receiver : Nat) : State :=
  (s.report { plainReport cMailboxTimeout (unitMailbox m) .value ns with d0 := receiver }).bump (0x1040 + m) 2 1

/-- A transfer of the window ends: DONE or ERROR with CODE, and vector 2,046 (R256). -/
def State.endWindow (s : State) (p code : Nat) : State :=
  let f := s.port p
  let s := if (s.mbox f.segMbox).seg = some p then s.setMbox f.segMbox { s.mbox f.segMbox with seg := none } else s
  let s := s.setPort p { s.port p with
    busy := false
    xfer := none
    code := code
    done := f.done || decide (code = 0)
    err := f.err || decide (code ≠ 0) }
  s.raise p 2046

/-- A port's window has a segmented transfer in progress: it holds its mailbox (R257). -/
def State.segmented (s : State) (p : Nat) : Bool := (s.port p).busy && decide ((s.mbox (s.port p).segMbox).seg = some p)

/-- The segmented transfers abort, as one whose segments stay away (R257, Table 13-7; log 139). -/
def State.abortSegments (s : State) : State :=
  [0, 1].foldl (fun s p =>
    if s.segmented p then (s.logMboxTimeout (s.port p).segMbox 100000000 unitLeaven).endWindow p cMailboxTimeout else s) s

/-- Messages in flight end by their timeouts (R271, Table 13-7). -/
def State.loseMessages (s : State) : State :=
  { s with mboxes := s.mboxes.map fun e => (e.1, { e.2 with
      hostLost := e.2.hostLost || e.2.go
      devLost := e.2.devLost || e.2.dready }) }

/-- The links of a proofer are gone with it. -/
def State.dropLinks (s : State) (p : Nat) : State :=
  (List.range 8).foldl (fun s k => s.setLink (8 * p + k) Link.reset) s

/-! ## Leaven comes up (R320, R327, R330) -/

/-- A supply firing that outlived the cold reset, as the first entries of the new log. -/
def State.logSupply (s : State) (n t : Nat) : State :=
  s.logEntry { plainReport cUnitFailed (unitComparator n) .value s.health.generation with
    d0 := 3
    time := t }

/-- A deadline that passed while Leaven was down, with the time of its detection. -/
def State.logLatched (s : State) (t : Nat) : State :=
  match earliest s.deadlines with
  | none => s
  | some (d, c, seq) => match (s.ctx c).items.find? fun i => i.seq = seq with
    | none => s
    | some i =>
      if t ≤ d then s
      else
        let n := s.log.waiting.length
        let u := (s.logMissed c i).missItem c seq
        { u with log := { u.log with waiting := u.log.waiting.take n ++ (u.log.waiting.drop n).map fun r => { r with time := t } } }

/-- The latches of the comparators are logged and cleared. -/
def State.logLatches (s : State) : State :=
  let latched := s.power.latched
  let cell := s.boot.supplyCell
  let s := { s with
    power := { s.power with latched := [] }
    boot := { s.boot with supplyCell := none } }
  let s := (latched.filter fun e => decide (e.1 = 4)).foldl (fun s e => s.logSupply 4 e.2) s
  let s := match cell with
    | some t => s.logSupply 5 t
    | none => s
  (latched.filter fun e => decide (e.1 = 0)).foldl (fun s e => s.logLatched e.2) s

/-- The enabled Finwell ports of the proofers begin to train at a cold start (Table 15-10). -/
def State.trainPorts (s : State) : State :=
  (List.range 16).foldl (fun s n =>
    if (s.link n).state = .down ∧ s.obj (0x9000 + n) 3 = 1 ∧ n / 8 ∉ s.health.proofersFailed then
      s.setLink n { s.link n with state := .training }
    else s) s

/-- Leaven runs on a proofer. -/
def State.leavenStarts (s : State) (p : Nat) : State :=
  let s := { s with boot := { s.boot with leavenRuns := true, controlProofer := p } }
  let s := (s.logLatches).enter .leavenUp
  if s.power.rst = .startCold then s.trainPorts else s

/-- What a proofer's boot ROM has come to: nothing yet, or whether a slot was accepted; a failed proofer accepts none. -/
def State.bootResult (s : State) (p : Nat) : Option Bool :=
  if p ∈ s.health.proofersFailed then some false else (s.boot.verified.find? fun e => e.1 = p).map (·.2.isSome)

/-- R330: Leaven runs on proofer A, on proofer B where A has accepted nothing, or on neither. -/
def State.bootDecide (s : State) : State :=
  if s.boot.dev ≠ .bootRom ∨ (s.power.rst ≠ .startCold ∧ s.power.rst ≠ .startWarm) then s
  else match s.bootResult 0, s.bootResult 1 with
  | some true, _ => s.leavenStarts 0
  | some false, some true => s.leavenStarts 1
  | some false, some false => s.setDev .bootFailed
  | _, _ => s

/-- The other proofer runs Leaven, if it is there and its boot ROM accepted an image (R320, R330). -/
def State.takeOver (s : State) (p : Nat) : State :=
  if s.boot.controlProofer ≠ p then s
  else if 1 - p ∉ s.health.proofersFailed ∧ s.boot.verified.any (fun e => decide (e.1 = 1 - p) && e.2.isSome) then
    { s with boot := { s.boot with controlProofer := 1 - p } }
  else { s with boot := { s.boot with leavenRuns := false } }

/-- A proofer fails (Table 10-8, Table 11-9). -/
def State.prooferFails (s : State) (p cause : Nat) : State :=
  let control := decide (s.boot.controlProofer = p)
  let s := (s.markFaulty (unitProofer p) cause).takeOver p
  let s := if control then s.abortSegments.loseMessages else s
  let s := s.endSession (portSession p)
  let s := if p = 0 then s.loseI3c else s
  let s := { s with boot := { s.boot with keyPending := s.boot.keyPending.filter fun k => decide (k.1 ≠ p) } }
  ((s.dropLinks p).portsChanged.rollAll).bootDecide

/-- A PCIe port fails: what it carries is held, and the running items of its contexts replay. -/
def State.pcieFails (s : State) (p cause : Nat) : State :=
  let s := s.markFaulty (unitPcie p) cause
  let s := s.setPort p { s.port p with linkUp := false }
  (List.range 16).foldl (fun s q => match s.running q with
    | some (c, _) => if (s.ctx c).hostPort = p then s.rollItem c else s
    | none => s) s

/-- The partitions of which a transfer in progress goes over a Finwell port. -/
def State.partsOnPort (s : State) (n : Nat) : List Nat :=
  (List.range 136).flatMap fun m => ((s.mover m).active.filter fun a => decide (a.desc.dstSpace = .finwell) && decide (a.port = n)).map
    fun a => a.desc.part

/-- A Finwell port fails: its flits are abandoned (R284), and the items whose transfers it carried replay on the routes that
are left (Table 10-8). -/
def State.finwellFails (s : State) (n cause : Nat) : State :=
  let hit := s.partsOnPort n
  let s := ((s.markFaulty (unitFinwell n) cause).setLink n { Link.reset with
    state := .failed
    sent := (s.link n).sent }).portsChanged
  (List.range 16).foldl (fun s p => match s.running p with
    | some (c, _) => if p ∈ hit then s.rollItem c else s
    | none => s) s

/-- The failure of any unit, handled under Table 10-8. -/
def State.unitFails (s : State) (u cause : Nat) : State :=
  if s.unitFaulty u then s.amendCause u cause
  else match unitClass u with
  | 16 => s.coreFails u cause
  | 1 => s.logicFails u cause
  | 3 => s.stackFails (unitIndex u) cause
  | 5 => s.prooferFails (unitIndex u) cause
  | 8 => s.pcieFails (unitIndex u) cause
  | 9 => s.finwellFails (unitIndex u) cause
  | 13 => s.markFaulty u cause
  | _ => s

/-! ## Commands -/

/-- CORE_FAILURE (R225, R241, R243). -/
def execCoreFailure (c : CoreId) (cause : Nat) (s : State) : Result :=
  if s.leavenUp then .next (s.unitFails (unitCore (idKey c)) cause) else s.stay "R241"

/-- HEARTH_FAILURE (R225, R243): the logic die, or the larder or router, which is the failure of the stack. -/
def execHearthFailure (h : Hearth) (logicDie : Bool) (cause : Nat) (s : State) : Result :=
  if !s.leavenUp then s.stay "R241"
  else if logicDie then .next (s.unitFails (unitHearth h.val) cause)
  else .next (s.unitFails (unitStack h.val) cause)

/-- HBM_STACK_FAILURE (R154, R224, R243). -/
def execHbmStackFailure (st : Stack) (cause : Nat) (s : State) : Result :=
  if s.leavenUp then .next (s.unitFails (unitStack st.val) cause) else s.stay "R241"

/-- JOURNAL_RELOCATION (R219): Leaven begins to copy the journal to the pair chosen when the copy was lost. -/
def execJournalRelocation (s : State) : Result :=
  if !s.leavenUp then s.stay "R219"
  else if s.journal.state ≠ 1 ∨ s.journal.target.isNone ∨ s.health.journalLost then s.stay "R219"
  else .next { s with journal := { s.journal with state := 2 } }

/-- The copy is complete: the journal lies on the new pair. -/
def Journal.relocated (j : Journal) (t : Nat) : Journal :=
  { j with
    state := 0
    first := t
    second := partner t
    target := none
    survivor := none }

/-- JOURNAL_RELOCATION_COMPLETE (R219). -/
def execJournalRelocationComplete (s : State) : Result :=
  if !s.leavenUp then s.stay "R219"
  else match s.journal.target with
  | some t => if s.journal.state = 2 ∧ !s.health.journalLost then .next { s with journal := s.journal.relocated t } else s.stay "R219"
  | none => s.stay "R219"

/-- PROOFER_FAILURE (R225, R320). -/
def execProoferFailure (p : PortNo) (cause : Nat) (s : State) : Result :=
  if s.alive then .next (s.unitFails (unitProofer p.val) cause) else s.stay "R320"

/-- PCIE_PORT_FAILURE (R225, R263). -/
def execPciePortFailure (p : PortNo) (cause : Nat) (s : State) : Result :=
  if s.leavenUp then .next (s.unitFails (unitPcie p.val) cause) else s.stay "R263"

end Sys2Proof.Machine
end

