-- ==== Sys2Proof/Machine/Dictionary.lean ====
section
/-!
DEFINITION. The object dictionary (R247 to R255, R261, R335): what an object reads as in a session, how a write is judged
and what it does, and the commands that are writes of objects with a behaviour of their own.
-/
namespace Sys2Proof.Machine

/-! ## Reading (Tables 7-8, 9-4, 10-1, 10-2, 10-11, 11-5a, 11-7, 11-8, 12-4, 12-9, 12-11, 12-12) -/

/-- Bits for a list of unit numbers. -/
def maskOf (l : List Nat) : Nat := ((l.eraseDups).map (2 ^ ·)).sum

/-- "HS-MP5616-A0" (0x1000.01). -/
def orderCode : List Byte := [0x48, 0x53, 0x2D, 0x4D, 0x50, 0x35, 0x36, 0x31, 0x36, 0x2D, 0x41, 0x30]

def BankPower.code : BankPower → Nat
  | .awake => 0
  | .closingLull => 1
  | .closingOff => 1
  | .lull => 2
  | .off => 3

def LinkState.code : LinkState → Nat
  | .down => 0
  | .training => 1
  | .up => 2
  | .failed => 3

def boolNat (b : Bool) : Nat := if b then 1 else 0

/-- 0x1000 to 0x1020, 0x1040. -/
def State.numLow (s : State) (x : Session) (i sub : Nat) : Nat :=
  let se := s.session x
  match i, sub with
  | 0x1000, 5 => Config.bootRomVersion.toNat
  | 0x1001, 1 => s.boot.dev.code
  | 0x1001, 2 => s.boot.stateTime
  | 0x1001, 3 => boolNat s.boot.manager
  | 0x1001, 4 => s.boot.nodeStrap
  | 0x1001, 5 => s.boot.controlProofer
  | 0x1001, 6 => if s.boot.leavenRuns then Config.leavenVersion.toNat else 0
  | 0x1002, 4 => Config.mctpEnterprise.toNat
  | 0x1002, 5 => s.net.i3c
  | 0x1010, 3 => boolNat se.privileged
  | 0x1010, 8 => boolNat s.boot.key.isSome
  | 0x1020, 1 => if s.boot.manager then (s.net.nodes.filter (· ≠ s.net.node)).length else 0
  | 0x1020, 2 => se.nodeSelect
  | 0x1020, 3 => (tget (0, 0) s.net.reports se.nodeSelect).1
  | 0x1020, 4 => (tget (0, 0) s.net.reports se.nodeSelect).2
  | _, _ => if objFamily i = 0x1040 ∧ sub = 3 then boolNat (s.mbox (i - 0x1040)).seg.isSome else s.obj i sub

/-- The bank that 0x3049.01 SELECT names: core key and bank. -/
def bankSelected (h sel : Nat) : Nat × Nat := (coreKey h (sel % 2048), sel / 4096 % 16)

/-- 0x3000 to 0x3FFF. -/
def State.numHearth (s : State) (x : Session) (i sub : Nat) : Nat :=
  let h := i / 256 % 16
  let hh := s.hearth h
  let sel := tget 0 (s.session x).bankSelect h
  let c := s.core (bankSelected h sel).1
  let b := c.bank (bankSelected h sel).2
  match objFamily i, sub with
  | 0x3049, 1 => sel
  | 0x3049, 2 => b.ceCount
  | 0x3049, 3 => b.power.code
  | 0x3049, 4 => c.epoch
  | 0x3060, 1 => if hh.retesting then 3 else if hh.logicFailed then 2 else if hh.faulty.isEmpty ∧ hh.marked.isEmpty then 0 else 1
  | 0x3060, 3 => hh.faulty.length
  | 0x3060, 5 => hh.sparesFree
  | 0x3060, 6 => if hh.logicFailed then 0 else hh.gridColumns
  | 0x3060, 7 => hh.cause
  | 0x3060, 8 => hh.failedTime
  | _, _ => s.obj i sub

/-- A context's objects (Table 10-2). -/
def Context.num (x : Context) (sub : Nat) : Nat :=
  match sub with
  | 1 => x.mode.code
  | 2 => x.partition
  | 3 => x.submitBase
  | 4 => x.acceptBase
  | 5 => x.completeBase
  | 6 => x.ringOrder
  | 7 => x.nextSeq.toNat
  | 8 => x.hostPort
  | 9 => boolNat x.finishPolicy
  | 0x0B => x.lastAccepted
  | 0x0C => x.lastCompleted
  | 0x0D => x.priority
  | 0x0E => x.replayLimit
  | 0x0F => x.atRisk
  | 0x10 => x.msixVector
  | _ => 0

/-- The journal's objects (Table 10-11). -/
def Journal.num (j : Journal) (sub : Nat) : Nat :=
  match sub with
  | 1 => j.first
  | 2 => j.second
  | 3 => j.state
  | 4 => j.written
  | 5 => j.replays
  | 6 => j.returned
  | _ => j.free

/-- 0x4000 to 0x5FFF. -/
def State.numWork (s : State) (i sub : Nat) : Nat :=
  let h := s.health
  match i, sub with
  | 0x4000, _ => (s.part (sub - 1)).map.toNat + 2 ^ 32 * (s.part (sub - 1)).mapC.toNat
  | 0x4010, _ => s.journal.num sub
  | 0x4030, 1 => h.generation
  | 0x4030, 2 => maskOf ((List.range 16).filter fun k => (s.hearth k).logicFailed)
  | 0x4030, 3 => maskOf h.stacksFailed
  | 0x4030, 4 => maskOf h.proofersFailed
  | 0x4030, 5 => maskOf h.pcieFailed
  | 0x4030, 6 => maskOf h.finwellFailed
  | 0x4031, 1 => h.repairTarget
  | 0x4031, 2 => 0
  | 0x4031, 3 => h.repairResult
  | _, _ => if 0x5000 ≤ i then (s.ctx (i - 0x5000)).num sub else s.obj i sub

/-- The context and group of 0x6041.01 SELECT. -/
def scaleSelected (sel : Nat) : Nat × Nat := (sel % 4096, sel / 4096 % 65536)

/-- The group's record: of the program whose record is the newest (log 28). -/
def State.selectedRec (s : State) (sel : Nat) : Option ScaleRec :=
  s.train.recs.find? fun r => decide (r.ctx = (scaleSelected sel).1) && decide (r.group = (scaleSelected sel).2)

def State.selectedPreset (s : State) (sel : Nat) : Option Int :=
  (s.train.presets.find? fun e => decide (e.1 = (scaleSelected sel).1) && decide (e.2.1 = (scaleSelected sel).2)).map (·.2.2)

def ScaleRec.num (r : ScaleRec) (sub : Nat) : Nat :=
  match sub with
  | 2 => codeOf 32 r.delta
  | 3 => codeOf 32 r.dmin
  | 4 => codeOf 32 r.dmax
  | 5 => r.peakLast
  | 6 => r.hist.length
  | 7 => r.skips
  | 8 => r.run
  | _ => boolNat r.atLimit + 2 * boolNat r.restarted + 4 * boolNat r.inDoldrums

/-- δ of a group as DELTA reads it: a written value that waits for the next training item stands (R203; log 28). -/
def State.writtenDelta (s : State) (r : ScaleRec) : Int :=
  ((s.train.pendingDelta.find? fun e => decide (e.1 = r.ctx) && decide (e.2.1 = r.program) && decide (e.2.2.1 = r.group)).map
    (·.2.2.2)).getD r.delta

/-- 0x6041 (R203): `none` answers OD_NO_OBJECT. -/
def State.numScale (s : State) (x : Session) (sub : Nat) : Option Nat :=
  let sel := (s.session x).scaleSelect
  match sub, s.selectedRec sel with
  | 1, _ => some sel
  | 2, some r => some (codeOf 32 (s.writtenDelta r))
  | _, some r => some (r.num sub)
  | 2, none => (s.selectedPreset sel).map (codeOf 32)
  | _, none => none

/-- 0x7000 to 0x9FFF. -/
def State.numHigh (s : State) (x : Session) (i sub : Nat) : Nat :=
  match i, sub with
  | 0x7000, 1 => s.log.head
  | 0x7000, 2 => s.log.ack
  | 0x7000, 4 => s.log.unacked
  | 0x7000, 6 => (s.session x).logSelect
  | 0x8030, 1 => s.now
  | 0x8030, 2 => s.time.syncState
  | 0x8030, 3 => codeOf 32 s.time.offsetNs
  | _, _ =>
    if objFamily i = 0x9000 ∧ sub = 1 then (s.link (i - 0x9000)).state.code
    else if objFamily i = 0x9000 ∧ sub = 2 then s.peerNode (i - 0x9000)
    else if 0x9100 ≤ i ∧ sub = 2 then s.readRunning (i - 0x9100)
    else s.obj i sub

/-- A number object's value; `none` where the object answers OD_NO_OBJECT. -/
def State.objNum (s : State) (x : Session) (i sub : Nat) : Option Nat :=
  if i < 0x2000 then some (s.numLow x i sub)
  else if i < 0x3000 then some (s.obj i sub)
  else if i < 0x4000 then some (s.numHearth x i sub)
  else if i < 0x6000 then some (s.numWork i sub)
  else if i = 0x6041 then s.numScale x sub
  else if i < 0x7000 then some (s.obj i sub)
  else some (s.numHigh x i sub)

/-- A STR or DOMAIN object's bytes. -/
def State.objDomain (s : State) (x : Session) (i sub : Nat) : Option (List Byte) :=
  let hh := s.hearth (i / 256 % 16)
  match objFamily i, sub with
  | 0x1000, 1 => some orderCode
  | 0x1000, 4 => some Config.serial
  | 0x3060, 2 => some (toBytes 136 (maskOf hh.faulty))
  | 0x3060, 4 => some (toBytes 2176 (maskOf hh.marked))
  | 0x7000, 7 => (s.log.entry (s.session x).logSelect).map (entryBytes (s.session x).logSelect)
  | _, _ => none

/-- A type that a segmented transfer carries. -/
def OType.isDomain (t : OType) : Bool := !t.expedited

/-- Read an object in a session: the code, or the bytes. Reading CHALLENGE draws a fresh one (R254). -/
def State.objRead (s : State) (x : Session) (i sub : Nat) : State × Except Nat (List Byte) :=
  match objInfo i sub with
  | none => (s, .error cNoObject)
  | some o =>
    if sub = 0 then (s, .ok (toBytes o.ty.len o.dflt))
    else if i = 0x1010 ∧ sub = 1 then
      let r := s.draw Config.freeByte 32
      (r.2.setSession x { r.2.session x with challenge := some r.1 }, .ok r.1)
    else if o.acc = .wo then (s, .ok (List.replicate o.ty.len 0))
    else if o.ty.isDomain then
      (match s.objDomain x i sub with
      | some b => (s, .ok b)
      | none => (s, .error cNoObject))
    else
      match s.objNum x i sub with
      | some v => (s, .ok (toBytes o.ty.len v))
      | none => (s, .error cNoObject)

/-! ## Objects whose writes have a behaviour of their own -/

/-- An admitted write that only stores. -/
def State.store (s : State) (i sub v : Nat) : Judged := (s.setObj i sub v, 0)

/-- Refuse with ACCESS_DENIED unless a condition holds. -/
def admitIf (c : Bool) (s t : State) : Judged := if c then (t, 0) else (s, cDenied)

/-- The written response is the one that the session's challenge and the key give (R254). -/
def State.responseMatches (s : State) (x : Session) (data : List Byte) : Bool :=
  let node := if x = .lane then 0 else 0xFFFF
  match (s.session x).challenge, s.boot.key with
  | some c, some k => decide (hmacSha384 k (c ++ toBytes 1 (sessCode x) ++ toBytes 2 node) = data)
  | _, _ => false

/-- A refused RESPONSE (R254): it counts toward the run unless a lockout or a key write stands in the way. -/
def State.failResponse (s : State) (x : Session) (counts : Bool) : State :=
  let e := s.session x
  let s := s.bump 0x1010 5 1
  let e := { e with challenge := none }
  if !counts then s.setSession x e
  else if e.failRun + 1 = 8 then s.setSession x { e with
    failRun := 0
    lockoutEnd := some (s.now + 60000000000) }
  else s.setSession x { e with failRun := e.failRun + 1 }

/-- R254: RESPONSE. -/
def State.writeResponse (s : State) (x : Session) (data : List Byte) : Judged :=
  if (s.session x).lockoutEnd.any (fun t => decide (s.now < t)) ∨ s.boot.keyPending.isSome then (s.failResponse x false, cDenied)
  else if s.responseMatches x data then
    (s.setSession x { s.session x with
      challenge := none
      privileged := true
      failRun := 0
      lastPriv := s.now }, 0)
  else (s.failResponse x true, cDenied)

/-- End the privilege of a session (R255). -/
def State.endPrivilege (s : State) (x : Session) : State := s.setSession x { s.session x with privileged := false }

def allSessions : List Session := [.bar0A, .bar0B, .mctp, .lane]

/-- R255: KEY. -/
def State.writeKey (s : State) (x : Session) (data : List Byte) : Judged :=
  if s.boot.keyPending.isSome ∨ (s.boot.key.isSome ∧ !(s.session x).privileged) then (s, cDenied)
  else (allSessions.foldl State.endPrivilege
    { s with boot := { s.boot with keyPending := some (s.boot.controlProofer, data) } }, 0)

/-- A hearth leaves its partition (R318). -/
def State.leaves (s : State) (h : Nat) : State :=
  { s with power := { s.power with leftAt := tset 0 s.power.leftAt h s.now } }

/-- A hearth logic domain that is OFF comes on when a partition takes the hearth: every core returns (R133, R146). -/
def State.hearthOn (s : State) (h : Nat) : State :=
  if s.logicOf h = .off then (s.mapHearthCores h Core.returned).setLogic h .on else s

/-- R204: a partition's map. -/
def State.writeMap (s : State) (p : Nat) (v : W32) : Judged :=
  let clash := (List.range 16).any fun q => decide (q ≠ p) && decide ((s.part q).map &&& v ≠ 0)
  let idle := s.ctxIds.all fun c => decide ((s.ctx c).partition ≠ p) ||
    (decide ((s.ctx c).mode = .stopped) && (s.ctx c).items.isEmpty)
  if 2 ^ 16 ≤ v.toNat ∨ clash ∨ !idle then (s, cDenied)
  else
    let s := s.unbind p
    let old := (s.part p).map
    let s := (List.range 16).foldl (fun s h =>
      if old.getLsbD h ∧ !v.getLsbD h then s.leaves h else if v.getLsbD h then s.hearthOn h else s) s
    (s.setPart p { s.part p with map := v, mapC := ~~~v }, 0)

/-- R277: NEXT_SEQ sets the doorbell target as well. -/
def Context.setNext (x : Context) (v : W32) : Context := { x with nextSeq := v, target := v - 1 }

/-- R205: a context's objects; `none` where the value is not admitted. -/
def Context.configure (x : Context) (sub v : Nat) : Option Context :=
  let aligned := decide (v % 4096 = 0)
  match sub with
  | 2 => some { x with partition := v }
  | 3 => if aligned then some { x with submitBase := v } else none
  | 4 => if aligned then some { x with acceptBase := v } else none
  | 5 => if aligned then some { x with completeBase := v } else none
  | 6 => some { x with ringOrder := v }
  | 7 => some (x.setNext (BitVec.ofNat 32 v))
  | 8 => some { x with hostPort := v }
  | 9 => some { x with finishPolicy := decide (v = 1) }
  | 0x0D => some { x with priority := v }
  | 0x0E => some { x with replayLimit := v }
  | 0x10 => some { x with msixVector := v }
  | _ => none

/-- The subindices that are written only while the context is STOPPED (R205). -/
def stoppedOnly (sub : Nat) : Bool := (decide (2 ≤ sub) && decide (sub ≤ 9)) || decide (sub = 0x0E)

/-- A message is a write of the context's acceptance or completion ring (R212, R221). -/
def Context.ringWrite (x : Context) (m : HostMsg) : Bool :=
  let within (base a : Nat) : Bool := decide (base ≤ a) && decide (a < base + 32 * x.ringSize)
  match m with
  | .write a _ => within x.acceptBase a || within x.completeBase a
  | .msix _ => false

/-- The ring writes that a context's lost port holds go out on the port to which the context has moved, and its vector after
them (R225, Table 10-8). -/
def State.moveRings (s : State) (c old : Nat) : State :=
  let x := s.ctx c
  let held := (s.port old).held
  let moved := held.filter x.ringWrite
  if x.hostPort = old ∨ !s.portFailed old ∨ moved.isEmpty then s
  else
    let s := s.setPort old { s.port old with held := held.filter fun m => !x.ringWrite m }
    (moved.foldl (fun s m => s.send x.hostPort m) s).raise x.hostPort x.msixVector

def State.writeContext (s : State) (c sub v : Nat) : Judged :=
  if sub = 0x0A then
    match v with
    | 1 => s.ctxStart c
    | 2 => s.ctxStop c
    | 3 => s.ctxReset c
    | _ => (s, cDenied)
  else if stoppedOnly sub ∧ (s.ctx c).mode ≠ .stopped then (s, cDenied)
  else
    -- a context that leaves a partition takes its carried state along
    let s' := if sub = 2 then (List.range 16).foldl (fun s p =>
      if p ≠ v ∧ (s.part p).binding.any (fun b => decide (b.ctx = c)) then s.unbind p else s) s else s
    match (s'.ctx c).configure sub v with
    | some x => ((s'.setCtx c x).moveRings c (s.ctx c).hostPort, 0)
    | none => (s, cDenied)

/-- R56: ADVANCE starts a new seed epoch. -/
def State.advanceEpoch (s : State) : State :=
  (((({ s with seeds := [] }).setObj 0x6010 1 0).setObj 0x6010 3 0).setObj 0x6010 4 0).bump 0x6010 6 1

/-- R203: DELTA. With a record, the write waits for the context's next training item; without one, it stores a preset. -/
def State.writeDelta (s : State) (x : Session) (v : Nat) : Judged :=
  let sel := (s.session x).scaleSelect
  let c := (scaleSelected sel).1
  let g := (scaleSelected sel).2
  let d := signed v 32
  match s.selectedRec sel with
  | some r =>
    if d < r.dmin ∨ r.dmax < d then (s, cDenied)
    else
      let rest := s.train.pendingDelta.filter fun e => !(decide (e.1 = c) && decide (e.2.1 = r.program) && decide (e.2.2.1 = g))
      ({ s with train := { s.train with pendingDelta := (c, r.program, g, d) :: rest } }, 0)
  | none =>
    if d < -512 ∨ 511 < d then (s, cDenied)
    else
      let rest := s.train.presets.filter fun e => !(decide (e.1 = c) && decide (e.2.1 = g))
      ({ s with train := { s.train with presets := (c, g, d) :: rest } }, 0)

/-- R245: a unit that 0x4031 may act on. -/
def repairable (u : Nat) : Bool :=
  match unitClass u with
  | 16 => decide (u < 0x10000) && decide (unitIndex u < 1088)
  | 1 => decide (unitIndex u < 16)
  | 3 => decide (unitIndex u < 16)
  | 8 => decide (unitIndex u < 2)
  | 9 => decide (unitIndex u < 16)
  | _ => false

/-- A resident binding uses the unit. -/
def State.unitInUse (s : State) (u : Nat) : Bool :=
  (List.range 16).any fun p => (s.part p).binding.any fun b =>
    match unitClass u with
    | 16 => (b.index (unitCoreKey u)).isSome
    | 1 => decide (unitIndex u ∈ b.hearths)
    | 3 => b.areas.any fun a => decide (stackOf a.1 = unitIndex u)
    | _ => false

def State.setRepair (s : State) (a : Option RepairAction) (result : Nat) : State :=
  { s with health := { s.health with repair := a, repairResult := result } }

/-- R245, R246: ACTION. -/
def State.writeAction (s : State) (v : Nat) : Judged :=
  let u := s.health.repairTarget
  if !repairable u ∨ s.health.repair.isSome ∨ (v = 1 ∧ (!s.unitFaulty u ∨ s.unitInUse u)) then
    ({ s with health := { s.health with repairResult := 4 } }, cDenied)
  else match v with
  | 1 =>
    let s := if unitClass u = 1 then s.setHearth (unitIndex u) { s.hearth (unitIndex u) with retesting := true } else s
    (s.setRepair (some (.retest u)) 1, 0)
  | 2 => (if s.unitFaulty u then s.setRepair none 2 else (s.setRepair (some (.retire u)) 1).unitFails u 4, 0)
  | _ => (s.setRepair (some (.forget u)) 1, 0)

/-- R302, R303: a channel's value or parameter, refused while a descriptor uses the channel. -/
def State.writeChannel (s : State) (i sub v : Nat) : Judged :=
  let ch := i - 0x9100
  if sub ≠ 3 ∧ ch ∈ s.chanUse then (s, cDenied)
  else if sub = 2 then (s.setRunning ch v, 0)
  else s.store i sub v

/-- The order that 0x2140 keeps: floor, target, ceiling (Table 12-10). -/
def State.supplyOrder (s : State) : Bool := decide (s.obj 0x2140 2 ≤ s.obj 0x2140 3) && decide (s.obj 0x2140 3 ≤ s.obj 0x2140 4)

/-- The effect of a write whose access, length and range have been admitted (R335 step 4 where the object's own rule
judges the value). -/
def State.objEffect (s : State) (x : Session) (i sub : Nat) (data : List Byte) : Judged :=
  let v := fromBytes data
  let e := s.session x
  match objFamily i, sub with
  | 0x1010, 2 => s.writeResponse x data
  | 0x1010, 4 => (if v = 1 then s.endPrivilege x else s, 0)
  | 0x1010, 7 => s.writeKey x data
  | 0x1020, 2 => (s.setSession x { e with nodeSelect := v }, 0)
  | 0x2030, 3 => admitIf (decide (v = 0) || decide (100 ≤ v)) s
      ((if s.obj i sub = 0 ∧ v ≠ 0 then s.freshScrub else s).setObj i sub v)
  | 0x2140, _ => admitIf (s.setObj i sub v).supplyOrder s (s.setObj i sub v)
  | 0x3049, 1 => admitIf (decide (v < 2 ^ 16) && decide (v / 2048 % 2 = 0) && decide (v % 2048 < 1088)) s
      (s.setSession x { e with bankSelect := tset 0 e.bankSelect (i / 256 % 16) v })
  | 0x4000, _ => s.writeMap (sub - 1) (BitVec.ofNat 32 v)
  | 0x4031, 1 => ({ s with health := { s.health with repairTarget := v } }, 0)
  | 0x4031, 2 => s.writeAction v
  | 0x5000, _ => s.writeContext (i - 0x5000) sub v
  | 0x6010, 5 => admitIf (decide (v = 1)) s s.advanceEpoch
  | 0x6041, 1 => (s.setSession x { e with scaleSelect := v }, 0)
  | 0x6041, 2 => s.writeDelta x v
  | 0x7000, 2 => s.writeAck v
  | 0x7000, 6 => (s.setSession x { e with logSelect := v }, 0)
  | 0x9000, 3 => (s.enablePort (i - 0x9000) v, 0)
  | 0x9100, _ => s.writeChannel i sub v
  | 0x911C, _ => s.writeChannel i sub v
  | _, _ => s.store i sub v

/-! ## Judging a write (R249, R250, R335) -/

/-- Steps 2 to 4 of R335 as far as the object's row decides them. -/
def ObjInfo.judge (o : ObjInfo) (privileged : Bool) (data : List Byte) : Nat :=
  let v := fromBytes data
  if o.acc = .ro ∨ o.acc = .const ∨ (o.acc = .rwp ∧ !privileged) then cDenied
  else if data.length ≠ o.ty.len then cTypeMismatch
  else if o.ty = .cu32 ∧ !isCompl 32 (v % 2 ^ 32) (v / 2 ^ 32) then cComplement
  else if (o.ty = .bool ∧ 1 < v) ∨ (o.counter ∧ v ≠ 0) then cDenied
  else if !o.ty.isDomain ∧ o.acc ≠ .wo ∧ (v < o.lo ∨ o.hi < v) then cDenied
  else 0

/-- An object of the list whose own rule answers OD_NO_OBJECT now: 0x6041.03 to .09 without a record (R203), 0x7000.07 without
an entry (R235). -/
def State.objMissing (s : State) (x : Session) (i sub : Nat) : Bool :=
  (decide (i = 0x6041) && decide (3 ≤ sub) && (s.selectedRec (s.session x).scaleSelect).isNone) ||
    (decide (i = 0x7000) && decide (sub = 7) && (s.log.entry (s.session x).logSelect).isNone)

/-- What refuses a write before its effect: steps 1 to 4 of R335; 0 where nothing does. -/
def State.writeRefused (s : State) (x : Session) (i sub : Nat) (data : List Byte) : Nat :=
  match objInfo i sub with
  | none => cNoObject
  | some o => if s.objMissing x i sub then cNoObject else o.judge (s.session x).privileged data

/-- Judge a write and carry it out. -/
def State.objWrite (s : State) (x : Session) (i sub : Nat) (data : List Byte) : Judged :=
  let code := s.writeRefused x i sub data
  if code ≠ 0 then (s, code) else s.objEffect x i sub data

/-- A privileged write keeps the session from its idle lock (R255). -/
def State.touchPrivilege (s : State) (x : Session) : State :=
  if (s.session x).privileged then s.setSession x { s.session x with lastPriv := s.now } else s

/-- The log entry of a refused access: a mismatch of length names both lengths, one of a pair its row of Table 11-6. -/
def refusedAccess (x : Session) (i sub code got : Nat) : Report :=
  { plainReport code (sessUnit x) .object (objAddress i sub) with
    d0 := if code = cTypeMismatch then got else if code = cComplement then 9 else 0
    d1 := if code = cTypeMismatch then ((objInfo i sub).map (·.ty.len)).getD 0 else 0 }

/-- A dictionary write in a session: carried out, or refused and logged. -/
def State.odWrite (s : State) (x : Session) (i sub : Nat) (data : List Byte) : Judged :=
  let r := s.objWrite x i sub data
  if r.2 = 0 then (r.1.touchPrivilege x, 0) else (r.1.report (refusedAccess x i sub r.2 data.length), r.2)

/-- A dictionary read in a session. -/
def State.odRead (s : State) (x : Session) (i sub : Nat) : State × Except Nat (List Byte) :=
  match s.objRead x i sub with
  | (s, .ok b) => (s, .ok b)
  | (s, .error c) => (s.report (refusedAccess x i sub c 0), .error c)

/-! ## Commands that write objects -/

/-- Leaven serves the dictionary (R261): it runs and the device has left BOOT_ROM. -/
def State.served (s : State) : Bool := s.leavenUp && decide (s.boot.dev ≠ .bootRom) && decide (s.boot.dev ≠ .bootFailed)

/-- What a proofer's boot ROM answers: the windows of BAR0, and no other path (R261). -/
def State.bootAnswers (s : State) (x : Session) : Bool :=
  s.alive && (decide (s.boot.dev = .bootRom) || decide (s.boot.dev = .bootFailed)) && (decide (x = .bar0A) || decide (x = .bar0B))

/-- An access of a session: served by Leaven, or aborted with OD_NO_OBJECT by the boot ROM (R261). -/
def State.access (s : State) (x : Session) (i sub : Nat) (served : State) : Result :=
  if s.served then .next served
  else if s.bootAnswers x then .next (s.report (refusedAccess x i sub cNoObject 0))
  else s.stay "R261"

/-- DICTIONARY_WRITE (R250, R335). -/
def execDictionaryWrite (x : Session) (index : BitVec 16) (sub : Byte) (data : List Byte) (s : State) : Result :=
  s.access x index.toNat sub.toNat (s.odWrite x index.toNat sub.toNat data).1

/-- START (R206): CONTROL 1. -/
def execStart (x : Session) (c : CtxNo) (s : State) : Result :=
  s.access x (0x5000 + c.val) 0x0A (s.odWrite x (0x5000 + c.val) 0x0A [1]).1

/-- STOP (R206): CONTROL 2. -/
def execStop (x : Session) (c : CtxNo) (s : State) : Result :=
  s.access x (0x5000 + c.val) 0x0A (s.odWrite x (0x5000 + c.val) 0x0A [2]).1

/-- RESET (R206): CONTROL 3. -/
def execReset (x : Session) (c : CtxNo) (s : State) : Result :=
  s.access x (0x5000 + c.val) 0x0A (s.odWrite x (0x5000 + c.val) 0x0A [3]).1

/-- ACK (R236). -/
def execAck (x : Session) (v : W64) (s : State) : Result :=
  s.access x 0x7000 2 (s.odWrite x 0x7000 2 (toBytes 8 v.toNat)).1

/-- CHALLENGE (R254). -/
def execChallenge (x : Session) (s : State) : Result :=
  s.access x 0x1010 1 (s.odRead x 0x1010 1).1

/-- RESPONSE (R254). -/
def execResponse (x : Session) (data : List Byte) (s : State) : Result :=
  s.access x 0x1010 2 (s.odWrite x 0x1010 2 data).1

/-- LOCK (R255). -/
def execLock (x : Session) (v : Byte) (s : State) : Result :=
  s.access x 0x1010 4 (s.odWrite x 0x1010 4 [v]).1

/-- KEY (R255). -/
def execKey (x : Session) (data : List Byte) (s : State) : Result :=
  s.access x 0x1010 7 (s.odWrite x 0x1010 7 data).1

/-- RETEST (R246): ACTION 1. -/
def execRetest (x : Session) (s : State) : Result :=
  s.access x 0x4031 2 (s.odWrite x 0x4031 2 [1]).1

/-- RETIRE (R246): ACTION 2. -/
def execRetire (x : Session) (s : State) : Result :=
  s.access x 0x4031 2 (s.odWrite x 0x4031 2 [2]).1

/-- FORGET (R246): ACTION 3. -/
def execForget (x : Session) (s : State) : Result :=
  s.access x 0x4031 2 (s.odWrite x 0x4031 2 [3]).1

/-- ADVANCE (R56). -/
def execAdvance (x : Session) (v : Byte) (s : State) : Result :=
  s.access x 0x6010 5 (s.odWrite x 0x6010 5 [v]).1

/-- PARTITION_MAP_WRITE (R204). -/
def execPartitionMapWrite (x : Session) (p : PartNo) (value comp : W32) (s : State) : Result :=
  s.access x 0x4000 (p.val + 1) (s.odWrite x 0x4000 (p.val + 1) (toBytes 4 value.toNat ++ toBytes 4 comp.toNat)).1

/-- NEXT_SEQ_WRITE (R205, R277). -/
def execNextSeqWrite (x : Session) (c : CtxNo) (v : W32) (s : State) : Result :=
  s.access x (0x5000 + c.val) 7 (s.odWrite x (0x5000 + c.val) 7 (toBytes 4 v.toNat)).1

/-- DELTA (R203). -/
def execDelta (x : Session) (v : W32) (s : State) : Result :=
  s.access x 0x6041 2 (s.odWrite x 0x6041 2 (toBytes 4 v.toNat)).1

/-- RUNNING (R303). -/
def execRunning (x : Session) (ch : ChanNo) (v : W64) (s : State) : Result :=
  s.access x (0x9100 + ch.val) 2 (s.odWrite x (0x9100 + ch.val) 2 (toBytes 8 v.toNat)).1

/-- ENABLE (R281). -/
def execEnable (x : Session) (port : FwNo) (v : Byte) (s : State) : Result :=
  s.access x (0x9000 + port.val) 3 (s.odWrite x (0x9000 + port.val) 3 [v]).1

/-! ## What ends later: lockout, idle lock, key, repair -/

/-- LOCKOUT_EXPIRY (R254): 60 s after it began. -/
def execLockoutExpiry (x : Session) (s : State) : Result :=
  match (s.session x).lockoutEnd with
  | none => s.stay "R254"
  | some t => if s.power.vaux33 then .next ((s.reach t).setSession x { s.session x with lockoutEnd := none }) else s.stay "R254"

/-- IDLE_LOCK (R255): IDLE_LOCK_S after the last privileged write. -/
def execIdleLock (x : Session) (s : State) : Result :=
  let e := s.session x
  if !s.leavenUp then s.stay "R255"
  else if !e.privileged then s.stay "R255"
  else .next ((s.reach (e.lastPriv + 1000000000 * s.obj 0x1010 6)).endPrivilege x)

/-- KEY_FLASH_COMPLETE (R255). -/
def execKeyFlashComplete (s : State) : Result :=
  match s.boot.keyPending with
  | none => s.stay "R255"
  | some (_, k) =>
    if s.leavenUp then .next { s with boot := { s.boot with key := some k, keyPending := none } } else s.stay "R255"

/-- What a unit does when it passes its test and returns (R133, R246). -/
def State.unitReturns (s : State) (u : Nat) : State :=
  let n := unitIndex u
  match unitClass u with
  | 16 => s.bankReturn (unitCoreKey u) allBanks true
  | 1 => (List.range 1088).foldl (fun s c => s.bankReturn (coreKey n c) allBanks true) s
  | 3 => { s with
      hbm := s.hbm.filter fun c => decide (stackOf c.1 ≠ n)
      hbmPoison := s.hbmPoison.filter fun a => decide (stackOf a ≠ n) }.setLarder n Larder.reset
  | 8 => s.setPort n { s.port n with linkTries := 0 }
  | 9 => s.setLink n { Link.reset with
      state := if s.obj (0x9000 + n) 3 = 1 then .training else .down
      sent := (s.link n).sent }
  | _ => s

/-- RETEST_DONE (R246). -/
def execRetestDone (passed : Bool) (s : State) : Result :=
  match s.health.repair with
  | some (.retest u) =>
    if !s.leavenUp then s.stay "R246"
    else
      let s := if unitClass u = 1 then s.setHearth (unitIndex u) { s.hearth (unitIndex u) with retesting := false } else s
      let s := s.setRepair none (if passed then 2 else 3)
      .next (if passed then (s.clearFaulty u).unitReturns u else s)
  | _ => s.stay "R246"

/-- FORGET_DONE (R246). -/
def execForgetDone (s : State) : Result :=
  match s.health.repair with
  | some (.forget u) =>
    if !s.leavenUp then s.stay "R246"
    else
      let s := { s with boot := { s.boot with persistent := s.boot.persistent.filter fun e => decide (e.1 ≠ u) } }
      .next (s.setRepair none 2)
  | _ => s.stay "R246"

end Sys2Proof.Machine
end

