-- ==== Sys2Proof/Machine/Mailboxes.lean ====
section
/-!
DEFINITION. Mailboxes (R271 to R276), the dictionary window of a port with its segmented transfers (R256, R257), requests
for other nodes (R259), and MCTP over I3C (R258): READ, WRITE, SEG_READ, SEG_WRITE, ABORT, SEGMENT_GAP_TIMEOUT, GO, TAKEN,
ECHO, MAILBOX_TIMEOUT, DEVICE_MESSAGE_POST, DTAKE, DLOST, MCTP_READ, MCTP_WRITE, REMOTE_TIMEOUT.
-/
namespace Sys2Proof.Machine

/-! ## A mailbox (Table 13-6) -/

def offMailbox (m : Nat) : Nat := 0x80000 + 0x100 * m
def offCtrl (m : Nat) : Nat := offMailbox m + 0x80

/-- CTRL as it reads. -/
def Mbox.ctrl (b : Mbox) : Nat :=
  boolNat b.go + 2 * boolNat b.taken + 4 * boolNat b.timeout + 8 * boolNat b.irqEmpty + 0x10 * boolNat b.dready
    + 0x40 * boolNat b.dlost + 0x80 * boolNat b.irqRx + 0x100 * b.len + 0x10000 * (if b.dready then b.dlen else 0)
    + 0x1000000 * b.err

/-- TIMEOUT_US of a mailbox. -/
def State.mboxUs (s : State) (m : Nat) : Nat := s.obj (0x1040 + m) 1

def State.denyMbox (s : State) (m off : Nat) : State := s.denyBar0 (unitMailbox m) off

/-- GO clears: IRQ_EMPTY raises the mailbox vector (R273). -/
def State.mboxEmptied (s : State) (m : Nat) : State := if (s.mbox m).irqEmpty then s.raiseMbox m else s

/-- Post a device message (R276). -/
def State.postDevice (s : State) (m : Nat) (words : List W32) : State :=
  let b := s.mbox m
  let s := s.setMbox m { b with
    rx := words
    dlen := words.length
    dready := true
    devUs := s.mboxUs m
    devPost := s.now
    devLost := false }
  if b.irqRx then s.raiseMbox m else s

/-- Leaven may post on a mailbox. -/
def Mbox.free (b : Mbox) : Bool := !b.dready && !b.dlost

/-! ## The dictionary window (Table 12-5) -/

def unitWindow : Nat := unitMgmt 0
def offWindow : Nat := 0x10000

/-- The bytes of the two data registers. -/
def PortState.data (f : PortState) : List Byte := toBytes 4 f.dataLo.toNat ++ toBytes 4 f.dataHi.toNat

/-- A READ ends with its value: bytes beyond the length are 0. -/
def State.endRead (s : State) (p : Nat) (data : List Byte) : State :=
  let v := fromBytes data
  (s.setPort p { s.port p with
    dataLo := BitVec.ofNat 32 v
    dataHi := BitVec.ofNat 32 (v / 2 ^ 32)
    length := data.length }).endWindow p 0

/-- A transfer aborts and is logged with the object and the node. -/
def State.abortWindow (s : State) (p code got : Nat) : State :=
  let f := s.port p
  let r := refusedAccess (portSession p) f.odIndex f.odSub code got
  (s.report { r with address := f.odSub + 2 ^ 8 * f.odIndex + 2 ^ 24 * f.odNode }).endWindow p code

/-- A node number that names this device. -/
def State.isSelf (s : State) (node : Nat) : Bool := decide (node = 0xFFFF) || decide (node = s.net.node)

/-- A STR or DOMAIN object. -/
def isDomainObj (i sub : Nat) : Bool := (objInfo i sub).any fun o => o.ty.isDomain

/-- What the boot ROM serves: expedited reads of 0x1000 and 0x1001 (R261). -/
def State.bootServes (s : State) (i : Nat) : Bool :=
  (decide (s.boot.dev = .bootRom) || decide (s.boot.dev = .bootFailed)) && (decide (i = 0x1000) || decide (i = 0x1001))

/-- A request of the window as a message. -/
def State.windowReq (s : State) (p op off len : Nat) (data : List Byte) : MctpMsg :=
  let f := s.port p
  ⟨op, 0, f.odNode, f.odIndex, f.odSub, off, len, 0, data⟩

/-- R259: the manager forwards a request over the lane, with PRIV for a privileged session. -/
def State.forward (s : State) (x : Session) (req : MctpMsg) : State :=
  let t := s.net.tag
  let m := { req with
    command := laneOp req + (if (s.session x).privileged then 0x40 else 0)
    tag := t }
  let s := { s with net := { s.net with
    tag := (t + 1) % 256
    forwards := s.net.forwards ++ [(⟨t, x, s.now, req, (s.route s.net.node req.node).getD 16⟩ : Forward)] } }
  s.sendLane req.node m

/-- Start a forwarded transfer of the window, or refuse it where this device is no manager. -/
def State.windowRemote (s : State) (p : Nat) (x : Transfer) (req : MctpMsg) : State :=
  if s.boot.manager then (s.setPort p { s.port p with xfer := some x }).forward (portSession p) req
  else s.abortWindow p cDenied 0

/-- An expedited READ (R256, R259, R261). -/
def State.windowRead (s : State) (p : Nat) : State :=
  let f := s.port p
  if !s.served ∧ !(s.bootServes f.odIndex && s.isSelf f.odNode) then s.abortWindow p cNoObject 0
  else if !s.isSelf f.odNode then s.windowRemote p (.remote s.net.tag true) (s.windowReq p cmdRead 0 8 [])
  else match s.objRead (portSession p) f.odIndex f.odSub with
    | (t, .ok b) => if isDomainObj f.odIndex f.odSub then s.abortWindow p cTypeMismatch f.odLen else t.endRead p b
    | (t, .error c) => t.abortWindow p c 0

/-- The bytes that an expedited WRITE supplies: LEN of them, of which the data registers hold eight (R249, R256). -/
def PortState.supplied (f : PortState) : List Byte := (f.data ++ List.replicate 8 0).take f.odLen

/-- An expedited WRITE (R256). -/
def State.windowWrite (s : State) (p : Nat) : State :=
  let f := s.port p
  let data := f.supplied
  let x := portSession p
  if !s.served then s.abortWindow p cNoObject 0
  else if !s.isSelf f.odNode then s.windowRemote p (.remote s.net.tag false) (s.windowReq p cmdWrite 0 data.length data)
  else
    let r := s.objWrite x f.odIndex f.odSub data
    if r.2 = 0 then (r.1.touchPrivilege x).endWindow p 0 else r.1.abortWindow p r.2 data.length

/-! ## Segmented transfers (R257) -/

/-- The words of segment n of an object's bytes. -/
def segmentWords (data : List Byte) (n : Nat) : List W32 :=
  let here := (data.drop (60 * n)).take 60
  let last := decide (data.length ≤ 60 * n + 60)
  BitVec.ofNat 32 (n + 2 ^ 16 * here.length + (if last then 2 ^ 24 else 0)) ::
    (List.range ((here.length + 3) / 4)).map fun i => BitVec.ofNat 32 (numAt here (4 * i) 4)

/-- Post the next segment once the mailbox is free (R276). -/
def State.postSegment (s : State) (p : Nat) : State :=
  let f := s.port p
  match f.xfer with
  | some (.segRead data n false) =>
    if (s.mbox f.segMbox).free then
      (s.setPort p { f with xfer := some (.segRead data n true) }).postDevice f.segMbox (segmentWords data n)
    else s
  | _ => s

/-- The bytes of a SEG_READ are known: TOTAL, and the first segment. -/
def State.startSegments (s : State) (p : Nat) (data : List Byte) : State :=
  let s := s.setPort p { s.port p with
    segTotal := data.length
    xfer := some (.segRead data 0 false) }
  if data.isEmpty then s.endWindow p 0 else s.postSegment p

/-- The window's transfer takes its mailbox. -/
def State.holdMbox (s : State) (p : Nat) : State :=
  let m := (s.port p).segMbox
  s.setMbox m { s.mbox m with seg := some p }

/-- SEG_READ. -/
def State.windowSegRead (s : State) (p : Nat) : State :=
  let f := s.port p
  if !s.served then s.abortWindow p cNoObject 0
  else if (s.mbox f.segMbox).seg.isSome then s.abortWindow p cDenied 0
  else if s.isSelf f.odNode then
    match s.objRead (portSession p) f.odIndex f.odSub with
    | (t, .ok b) => (t.holdMbox p).startSegments p b
    | (t, .error c) => t.abortWindow p c 0
  else (s.holdMbox p).windowRemote p (.remoteSeg s.net.tag []) (s.windowReq p cmdRead 0 1024 [])

/-- SEG_WRITE: the segments are collected first. -/
def State.windowSegWrite (s : State) (p : Nat) : State :=
  let f := s.port p
  if !s.served then s.abortWindow p cNoObject 0
  else if (s.mbox f.segMbox).seg.isSome ∨ (!s.isSelf f.odNode ∧ !s.boot.manager) then s.abortWindow p cDenied 0
  else (s.holdMbox p).setPort p { f with xfer := some (.segWrite [] 0 s.now) }

/-- All bytes of a SEG_WRITE are here. -/
def State.segWriteWhole (s : State) (p : Nat) (data : List Byte) : State × Nat :=
  let f := s.port p
  let x := portSession p
  if data.length ≠ f.segTotal then (s.abortWindow p cTypeMismatch data.length, cTypeMismatch)
  else if s.isSelf f.odNode then
    let r := s.objWrite x f.odIndex f.odSub data
    if r.2 = 0 then ((r.1.touchPrivilege x).endWindow p 0, 0) else (r.1.abortWindow p r.2 data.length, r.2)
  else if 1024 < data.length then (s.abortWindow p cTypeMismatch data.length, cTypeMismatch)
  else (s.windowRemote p (.remote s.net.tag false) (s.windowReq p cmdWrite 0 data.length data), 0)

/-- Leaven takes a segment of a SEG_WRITE: the state and the ERR of the message. -/
def State.takeSegment (s : State) (p : Nat) (got : List Byte) (n : Nat) (words : List W32) : State × Nat :=
  let h := (words.headD 0).toNat
  let count := bitsAt h 16 8
  let bytes := (words.drop 1).flatMap fun w => toBytes 4 w.toNat
  if bitsAt h 0 16 ≠ n ∨ count = 0 ∨ 60 < count then (s.abortWindow p cTypeMismatch count, cTypeMismatch)
  else
    let data := got ++ bytes.take count
    if bitsAt h 24 1 = 1 then s.segWriteWhole p data
    else (s.setPort p { s.port p with xfer := some (.segWrite data (n + 1) s.now) }, 0)

/-! ## Commands of the window -/

/-- GO of ABORT (R257): the transfer ends with neither DONE nor ERROR. -/
def State.windowAbort (s : State) (p : Nat) : State :=
  let f := s.port p
  let s := if (s.mbox f.segMbox).seg = some p then s.setMbox f.segMbox { s.mbox f.segMbox with seg := none } else s
  s.setPort p { s.port p with
    busy := false
    xfer := none }

/-- What a GO starts. -/
def State.windowOp (s : State) (p op : Nat) : State :=
  let begin (s : State) : State := s.setPort p { s.port p with busy := true, length := 0 }
  match op with
  | 1 => (begin s).windowRead p
  | 2 => (begin s).windowWrite p
  | 3 => (begin s).windowSegRead p
  | 4 => (begin s).windowSegWrite p
  | _ => s

/-- The fields of OD_CMD are written. -/
def State.setCmd (s : State) (p index sub op len : Nat) : State :=
  s.setPort p { s.port p with
    odIndex := index
    odSub := sub
    odOp := op
    odLen := len }

/-- A write of OD_CMD with GO. -/
def State.windowGo (s : State) (p index sub op len : Nat) : State :=
  if (s.port p).busy then (if op = 5 then s.windowAbort p else s.denyBar0 unitWindow offWindow)
  else (s.setCmd p index sub op len).windowOp p op

/-- READ (R256). -/
def execRead (port : PortNo) (index : BitVec 16) (sub : Byte) (s : State) : Result :=
  .next (if s.portAnswers port.val then s.windowGo port.val index.toNat sub.toNat 1 0 else s)

/-- WRITE (R256). -/
def execWrite (port : PortNo) (index : BitVec 16) (sub : Byte) (len : BitVec 4) (s : State) : Result :=
  .next (if s.portAnswers port.val then s.windowGo port.val index.toNat sub.toNat 2 len.toNat else s)

/-- SEG_READ (R257). -/
def execSegRead (port : PortNo) (index : BitVec 16) (sub : Byte) (s : State) : Result :=
  .next (if s.portAnswers port.val then s.windowGo port.val index.toNat sub.toNat 3 0 else s)

/-- SEG_WRITE (R257). -/
def execSegWrite (port : PortNo) (index : BitVec 16) (sub : Byte) (s : State) : Result :=
  .next (if s.portAnswers port.val then s.windowGo port.val index.toNat sub.toNat 4 0 else s)

/-- ABORT (R257). The other fields of OD_CMD are written as 0. -/
def execAbort (port : PortNo) (s : State) : Result :=
  .next (if s.portAnswers port.val then s.windowGo port.val 0 0 5 0 else s)

/-- SEGMENT_GAP_TIMEOUT (R257): 100 ms after the last segment. -/
def execSegmentGapTimeout (port : PortNo) (s : State) : Result :=
  let p := port.val
  match (s.port p).xfer with
  | some (.segWrite _ _ last) =>
    if !s.leavenUp then s.stay "R257"
    else
      let s := s.reach (last + 100000000)
      .next ((s.logMboxTimeout (s.port p).segMbox 100000000 unitLeaven).endWindow p cMailboxTimeout)
  | _ => s.stay "R257"

/-! ## Host messages (R272 to R275) -/

/-- The host posts a message: the receiver's power domain wakes (R272, R275). -/
def State.postHost (s : State) (m : Nat) : State :=
  let b := s.mbox m
  if b.len = 0 ∨ 16 < b.len then (s.setMbox m { b with err := cDenied }).denyMbox m (offCtrl m)
  else
    { s.setMbox m { b with
        go := true
        taken := false
        timeout := false
        err := 0
        hostUs := s.mboxUs m
        hostPost := s.now
        hostLost := false } with power := { s.power with bakerLull := false } }

/-- The host takes the device message (R276); under SEG_READ the next segment follows, or DONE. -/
def State.takeDevice (s : State) (m : Nat) : State :=
  let b := s.mbox m
  if !b.dready ∨ b.devLost then s
  else
    let s := s.setMbox m { b with dready := false, dlen := 0 }
    match b.seg with
    | none => s
    | some p => match (s.port p).xfer with
      | some (.segRead data n true) =>
        if data.length ≤ 60 * n + 60 then s.endWindow p 0
        else (s.setPort p { s.port p with xfer := some (.segRead data (n + 1) false) }).postSegment p
      -- a message from before the transfer stood in the way of its first segment
      | some (.segRead _ _ false) => s.postSegment p
      | _ => s

/-- A segment that waited for the mailbox is posted. -/
def State.retrySegment (s : State) (m : Nat) : State :=
  match (s.mbox m).seg with
  | some p => s.postSegment p
  | none => s

/-- The fields of a CTRL write other than GO and LEN: IRQ_EMPTY, IRQ_RX, DTAKE, DLOST. -/
def State.ctrlFlags (s : State) (m : Nat) (v : W32) : State :=
  let s := s.setMbox m { s.mbox m with irqEmpty := v.getLsbD 3, irqRx := v.getLsbD 7 }
  let s := if v.getLsbD 5 then s.takeDevice m else s
  if v.getLsbD 6 then (s.setMbox m { s.mbox m with dlost := false }).retrySegment m else s

/-- A write of CTRL (R272, Table 13-6). -/
def State.ctrlWrite (s : State) (m : Nat) (v : W32) : State :=
  let s := s.ctrlFlags m v
  let b := s.mbox m
  if b.go then (if v.getLsbD 0 then s.denyMbox m (offCtrl m) else s)
  else
    let s := s.setMbox m { b with len := bitsAt v.toNat 8 5 }
    if v.getLsbD 0 then s.postHost m else s

/-- GO (R272): a write of CTRL with the given value and GO set. -/
def execGo (port : PortNo) (m : MboxNo) (ctrl : W32) (s : State) : Result :=
  .next (if s.portAnswers port.val then s.ctrlWrite m.val (ctrl ||| 1) else s)

/-- The words of a host message. -/
def Mbox.message (b : Mbox) : List W32 := (List.range b.len).map fun i => tget 0 b.tx i

/-- The operation of a host message (R274). -/
def Mbox.isEcho (b : Mbox) : Bool := b.seg.isNone && decide (bitsAt (tget (0 : W32) b.tx 0).toNat 0 8 = 1)

/-- Leaven can take the message: it runs, and the message has neither expired nor been lost (R271, R273, R275). -/
def State.canTake (s : State) (m : Nat) : Bool :=
  let b := s.mbox m
  s.served && b.go && !b.hostLost && decide (s.now ≤ b.hostPost + 1000 * b.hostUs)

/-- The take: TAKEN, ERR, GO (R273). A refusal with ACCESS_DENIED is logged (R230). -/
def State.taken (s : State) (m err : Nat) : State :=
  let s := if err = cDenied then s.denyMbox m (offMailbox m) else s
  (s.setMbox m { s.mbox m with
    go := false
    taken := true
    err := err }).mboxEmptied m

/-- Leaven takes a message that is no ECHO: a segment, or an operation it does not know (R257, R274). -/
def State.takeMessage (s : State) (m : Nat) : State :=
  let b := s.mbox m
  match b.seg with
  | none => s.taken m cDenied
  | some p => match (s.port p).xfer with
    | some (.segWrite got n _) =>
      let r := s.takeSegment p got n b.message
      -- the abort of the transfer is its log entry
      (r.1.setMbox m { r.1.mbox m with
        go := false
        taken := true
        err := r.2 }).mboxEmptied m
    | _ => s.taken m cDenied

/-- TAKEN (R273, R274). -/
def execTaken (m : MboxNo) (s : State) : Result :=
  if !s.canTake m.val ∨ (s.mbox m.val).isEcho then s.stay "R273" else .next (s.takeMessage m.val)

/-- ECHO is taken, and its words are posted back where the mailbox is free (R274). -/
def State.echo (s : State) (m : Nat) : State :=
  let b := s.mbox m
  if b.free then (s.taken m 0).postDevice m b.message else s.taken m cDenied

/-- ECHO (R274). -/
def execEcho (m : MboxNo) (s : State) : Result :=
  if !s.canTake m.val ∨ !(s.mbox m.val).isEcho then s.stay "R274" else .next (s.echo m.val)

/-- A host message expires (R273). -/
def State.expireHost (s : State) (m : Nat) : State :=
  let b := s.mbox m
  let s := s.reach (b.hostPost + 1000 * b.hostUs)
  let s := s.setMbox m { b with
    go := false
    timeout := true
    err := cMailboxTimeout
    hostLost := false }
  (s.logMboxTimeout m (1000 * b.hostUs) unitLeaven).mboxEmptied m

/-- MAILBOX_TIMEOUT (R273). -/
def execMailboxTimeout (m : MboxNo) (s : State) : Result :=
  if !s.alive then s.stay "R273"
  else if (s.mbox m.val).go then .next (s.expireHost m.val) else s.stay "R273"

/-! ## Device messages (R276) -/

/-- DEVICE_MESSAGE_POST (R276): Leaven posts a message of its own; a mailbox held by a segmented transfer carries segments
alone. -/
def execDeviceMessagePost (m : MboxNo) (words : List W32) (s : State) : Result :=
  let b := s.mbox m.val
  if !s.served then s.stay "R276"
  else if !b.free ∨ b.seg.isSome ∨ words.isEmpty ∨ 16 < words.length then s.stay "R276"
  else .next (s.postDevice m.val words)

/-- DTAKE (R276). -/
def execDtake (m : MboxNo) (s : State) : Result := .next (if s.alive then s.takeDevice m.val else s)

/-- A device message expires (R276); a read segment so lost aborts its transfer (R257). -/
def State.expireDevice (s : State) (m : Nat) : State :=
  let b := s.mbox m
  let s := s.reach (b.devPost + 1000 * b.devUs)
  let s := s.setMbox m { b with
    dready := false
    dlen := 0
    dlost := true
    devLost := false }
  let s := s.logMboxTimeout m (1000 * b.devUs) (unitPcie (m / 32))
  match b.seg with
  | none => s
  | some p => match (s.port p).xfer with
    | some (.segRead _ _ true) => s.endWindow p cMailboxTimeout
    | _ => s

/-- DLOST (R276). -/
def execDlost (m : MboxNo) (s : State) : Result :=
  if !s.alive then s.stay "R276"
  else if (s.mbox m.val).dready then .next (s.expireDevice m.val) else s.stay "R276"

/-! ## Serving messages (R258, R259) -/

/-- A message that is no READ or WRITE, or of a malformed length. -/
def malformed (m : MctpMsg) : Bool :=
  (decide (laneOp m ≠ cmdRead) && decide (laneOp m ≠ cmdWrite)) || decide (1024 < m.length) ||
    (decide (laneOp m = cmdRead) && !m.data.isEmpty) || (decide (laneOp m = cmdWrite) && decide (m.data.length ≠ m.length))

/-- Serve a well-formed request on an object of this device: the code and the data. -/
def State.serveObject (s : State) (x : Session) (m : MctpMsg) : State × Nat × List Byte :=
  if laneOp m = cmdRead then
    match s.odRead x m.index m.sub with
    | (t, .ok b) => (t, 0, (b.drop m.offset).take m.length)
    | (t, .error c) => (t, c, [])
  else if m.offset ≠ 0 then
    -- a piece is no write of the whole object: step 3 of R335, after existence and access
    let code := s.writeRefused x m.index m.sub []
    (s.report (refusedAccess x m.index m.sub code m.length), code, [])
  else
    let r := s.odWrite x m.index m.sub m.data
    (r.1, r.2, [])

/-- Refuse a message and log it. -/
def State.refuseMsg (s : State) (x : Session) (m : MctpMsg) : State :=
  s.report { plainReport cDenied (sessUnit x) .object 0 with address := m.sub + 2 ^ 8 * m.index + 2 ^ 24 * m.node }

/-- The responses that are ready go out, up to the first request that has none yet (R258). -/
def State.flushMctp (s : State) : State :=
  { s with net := { s.net with
    mctpOut := s.net.mctpOut ++ (s.net.mctpQueue.takeWhile fun e => e.reply.isSome).filterMap (·.reply)
    mctpQueue := s.net.mctpQueue.dropWhile fun e => e.reply.isSome } }

/-- A response in the frame of Table 12-7. -/
def mctpReply (m : MctpMsg) (code : Nat) (data : List Byte) : MctpFrame :=
  ⟨0x7F, Config.mctpEnterprise.toNat, laneReply m code data⟩

/-- A request takes its turn. -/
def State.queueMctp (s : State) (e : MctpTurn) : State :=
  { s with net := { s.net with mctpQueue := s.net.mctpQueue ++ [e] } }.flushMctp

/-- A request is answered in its turn. -/
def State.answerMctp (s : State) (m : MctpMsg) (code : Nat) (data : List Byte) : State :=
  s.queueMctp ⟨none, some (mctpReply m code data)⟩

/-- The response to a forwarded request has come: it goes out in its turn. -/
def State.fillMctp (s : State) (t : Nat) (f : MctpFrame) : State :=
  let fill (e : MctpTurn) : MctpTurn := if e.fwd = some t ∧ e.reply.isNone then ⟨e.fwd, some f⟩ else e
  { s with net := { s.net with mctpQueue := s.net.mctpQueue.map fill } }.flushMctp

/-- A message of the dictionary's type and enterprise number (R258). -/
def isOurs (f : MctpFrame) : Bool :=
  decide (f.mtype = 0x7F) && decide (f.enterprise = Config.mctpEnterprise.toNat)

/-- An MCTP dictionary message arrives. -/
def State.mctp (s : State) (f : MctpFrame) : State :=
  let m := f.body
  if !s.served ∨ 0 ∈ s.health.proofersFailed ∨ s.net.i3c = 0 ∨ !isOurs f then s
  else if malformed m then (s.refuseMsg .mctp m).answerMctp m cDenied []
  else if s.isSelf m.node then
    let r := s.serveObject .mctp m
    r.1.answerMctp m r.2.1 r.2.2
  else if s.boot.manager then (s.forward .mctp m).queueMctp ⟨some s.net.tag, none⟩
  else (s.refuseMsg .mctp m).answerMctp m cDenied []

/-- MCTP_READ (R258). -/
def execMctpRead (m : MctpFrame) (s : State) : Result := .next (s.mctp m)

/-- MCTP_WRITE (R258). -/
def execMctpWrite (m : MctpFrame) (s : State) : Result := .next (s.mctp m)

/-! ## Answers to forwarded requests (R259) -/

/-- The next piece of a forwarded segmented read, or its segments once the last piece is here. -/
def State.gatherPiece (s : State) (p : Nat) (got data : List Byte) : State :=
  let all := got ++ data
  if data.length < 1024 then s.startSegments p all
  else
    (s.setPort p { s.port p with xfer := some (.remoteSeg s.net.tag all) }).forward (portSession p)
      (s.windowReq p cmdRead all.length 1024 [])

/-- A forwarded request ends with a code and data. -/
def State.endForward (s : State) (w : Forward) (code : Nat) (data : List Byte) : State :=
  let s := { s with net := { s.net with forwards := s.net.forwards.filter fun o => decide (o ≠ w) } }
  match w.sess with
  | .mctp => s.fillMctp w.tag (mctpReply w.req code data)
  | .lane => s
  | x =>
    let p := sessCode x
    match (s.port p).xfer with
    | some (.remote t isRead) =>
      if t ≠ w.tag then s
      else if code ≠ 0 then s.endWindow p code
      else if !isRead then s.endWindow p 0
      else if isDomainObj (s.port p).odIndex (s.port p).odSub then s.abortWindow p cTypeMismatch (s.port p).odLen
      else s.endRead p data
    | some (.remoteSeg t got) => if t ≠ w.tag then s else if code ≠ 0 then s.endWindow p code else s.gatherPiece p got data
    | _ => s

def remoteTimeoutNs : Nat := 2000000

/-- REMOTE_TIMEOUT (R259): REMOTE_TIMEOUT_US after it was sent. -/
def execRemoteTimeout (tag : Nat) (s : State) : Result :=
  if !s.leavenUp then s.stay "R259"
  else match s.net.forwards.find? fun w => w.tag = tag with
  | none => s.stay "R259"
  | some w =>
    let s := s.reach (w.sentAt + remoteTimeoutNs)
    -- the port it left by, and the sequence number that this port expects next
    let unit := if w.port < 16 then unitFinwell w.port else unitMgmt 2
    .next ((s.report { plainReport cLinkAckTimeout unit .value 0 with d0 := (s.link w.port).expected }).endForward w cLinkAckTimeout [])

end Sys2Proof.Machine
end

