-- ==== Sys2Proof/Machine/Finwell.lean ====
section
/-!
DEFINITION. Finwell between devices (R281 to R301, R306): window writes and their END, the management lane, nodes, links,
time: FINWELL_GROUP_OFF, REPORT, REPORT_RESEND, WRITE_FLIT, END, END_ACK, END_ACK_TIMEOUT, MGMT, MGMT_FRAGMENT_TIMEOUT,
HELLO, NODE_MAP, LINK_UP, LINK_ACK_TIMEOUT, RETRAIN_END, TIME, PPS_IN, PPS_LOSS, I3C_DYNAMIC_ADDRESS.
-/
namespace Sys2Proof.Machine

/-! ## Writes of other devices (R293) -/

/-- Bytes that lie within the staging area of one stack (Table 13-2). -/
def inStaging (addr n : Nat) : Bool :=
  decide (addr < 2 ^ 40) && decide (stagingBase ≤ offOf addr) && decide (offOf addr + n ≤ stagingEnd)

/-- Discard a flit's bytes and log their address. -/
def State.refuseFlit (s : State) (p : Nat) (f : Flit) : State := s.deny (unitFinwell p) .hbm (Flit.address f)

/-- A WRITE for this device. -/
def State.acceptWrite (s : State) (p : Nat) (f : Flit) : State :=
  if inStaging (Flit.address f) (Flit.len f) then s.putBytes (Flit.address f) (Flit.data f)
  else
    let key := (Flit.src f, Flit.tag f)
    let s := s.refuseFlit p f
    { s with net := { s.net with refused := if key ∈ s.net.refused then s.net.refused else s.net.refused ++ [key] } }

/-- The END_ACK of a transfer. -/
def State.ackEnd (s : State) (f : Flit) (code : Nat) : State :=
  s.sendTo (flitOf tEndAck clResp (Flit.src f) s.net.node (Flit.address f) (Flit.tag f) (toBytes 1 code))

/-- An END for this device: its record is committed and then answered, unless bytes of the transfer were refused. -/
def State.acceptEnd (s : State) (p : Nat) (f : Flit) : State :=
  let key := (Flit.src f, Flit.tag f)
  let t := { s with net := { s.net with refused := s.net.refused.filter (· ≠ key) } }
  if !inStaging (Flit.address f) 64 then (t.refuseFlit p f).ackEnd f cDenied
  else if key ∈ s.net.refused then t.ackEnd f cDenied
  else (s.putBytes (Flit.address f) ((Flit.payload f).take 64)).ackEnd f 0

/-- WRITE_FLIT (R293). -/
def execWriteFlit (port : FwNo) (f : BitVec 2048) (s : State) : Result :=
  s.receive port.val tWrite true f fun s => s.acceptWrite port.val f

/-- END (R293, R294). -/
def execEndFlit (port : FwNo) (f : BitVec 2048) (s : State) : Result :=
  s.receive port.val tEnd true f fun s => s.acceptEnd port.val f

/-- The descriptor whose END awaits an answer with a TAG: mover and place. -/
def State.awaitingEnd (s : State) (tag : Nat) : Option (Nat × Nat) :=
  (List.range 8).findSome? fun q =>
    ((s.mover (128 + q)).active.findIdx? fun a => a.endSent.isSome && decide (a.desc.tag = tag)).map fun i => (128 + q, i)

/-- An END_ACK: 0x00 completes the descriptor, 0x0F faults it. -/
def State.endAcked (s : State) (f : Flit) : State :=
  match s.awaitingEnd (Flit.tag f) with
  | none => s
  | some (m, i) => match (s.mover m).active[i]? with
    | none => s
    | some a =>
      let code := numAt (Flit.payload f) 0 1
      if code = 0 then s.doneDesc m i 0
      else if code = cDenied then s.failActive m i (unitMover m) ⟨cDenied, .hbm, a.desc.addr, 0, 0, 0⟩
      else s

/-- END_ACK (R293). -/
def execEndAck (port : FwNo) (f : BitVec 2048) (s : State) : Result :=
  s.receive port.val tEndAck true f fun s => s.endAcked f

/-- A transfer into a window that can time out: its END is out, or its port is gone. -/
def State.canTimeOut (s : State) (a : Active) : Bool :=
  decide (a.desc.dstSpace = .finwell) && !a.waits && (a.endSent.isSome || (decide (0 < a.unacked) && s.portGone a.port))

/-- END_ACK_TIMEOUT (R293): REMOTE_TIMEOUT_US after the END. The SEQ awaited is the next that the port expects. -/
def execEndAckTimeout (m : MoverId) (s : State) : Result :=
  let q := moverKey m
  if !s.moverRuns q then s.stay "R155"
  else match (s.mover q).active.findIdx? s.canTimeOut with
  | none => s.stay "R293"
  | some i => match (s.mover q).active[i]? with
    | none => s.stay "R293"
    | some a =>
      let s := match a.endSent with
        | some t => s.reach (t + remoteTimeoutNs)
        | none => s
      .next (s.failActive q i (unitFinwell a.port) ⟨cLinkAckTimeout, .value, 0, (s.link a.port).expected, 0, 0⟩)

/-! ## The management lane (R259, R298, R299) -/

/-- Record a worker's report and answer it. -/
def State.takeReport (s : State) (node st : Nat) (m : MctpMsg) : State :=
  { s with net := { s.net with reports := tset (0, 0) s.net.reports node (st, s.now) } }.sendLane node (laneReply m 0 [])

/-- Refuse a lane message. -/
def State.refuseLane (s : State) (src : Nat) (m : MctpMsg) : State :=
  (s.refuseMsg .lane m).sendLane src (laneReply m cDenied [])

/-- Serve the manager's request: PRIV lends the lane's session its privilege for the request. -/
def State.serveLane (s : State) (src : Nat) (m : MctpMsg) : State :=
  let had := (s.session .lane).privileged
  let s := s.setSession .lane { s.session .lane with privileged := had || lanePriv m }
  let r := s.serveObject .lane m
  let e := r.1.session .lane
  -- a privilege that was lent stays only where this request is the RESPONSE that matched (R254)
  let won := decide (laneOp m = cmdWrite) && decide (m.index = 0x1010) && decide (m.sub = 2) && decide (r.2.1 = 0)
  let keep := if lanePriv m && !had then won else e.privileged
  (r.1.setSession .lane { e with privileged := keep }).sendLane src (laneReply m r.2.1 r.2.2)

/-- A whole message has arrived from a node. -/
def State.laneMessage (s : State) (src : Nat) (m : MctpMsg) : State :=
  if laneIsResponse m then
    if laneOp m = cmdReport then { s with net := { s.net with reportOpen := s.net.reportOpen.filter fun o => decide (o.tag ≠ m.tag) } }
    else match s.net.forwards.find? fun w => w.tag = m.tag ∧ w.req.node = src with
    | some w => s.endForward w m.code m.data
    | none => s
  else if m.node ≠ s.net.node then s.refuseLane src m
  else if laneOp m = cmdReport ∧ s.boot.manager then s.takeReport src (numAt m.data 0 1) m
  else if s.boot.manager ∨ src ≠ 0 ∨ malformed m then s.refuseLane src m
  else s.serveLane src m

/-- A fragment joins its sender's message; one out of order, or late, discards it. -/
def State.takeFragment (s : State) (f : Flit) : State :=
  let src := Flit.src f
  let b := Flit.data f
  let n := numAt b 0 1
  let rest := s.net.lanes.filter fun l => decide (l.node ≠ src)
  let old := s.net.lanes.find? fun l => l.node = src
  let cur := if n = 0 then some (⟨src, 0, s.now, []⟩ : Lane)
    else old.filter fun l => decide (l.next = n) && decide (s.now ≤ l.firstAt + 100000)
  match cur with
  | none => { s with net := { s.net with lanes := rest } }
  | some l =>
    let bytes := l.bytes ++ b.drop 2
    if numAt b 1 1 % 2 = 1 then
      let s := { s with net := { s.net with lanes := rest } }
      match laneMsg bytes with
      | some m => s.laneMessage src m
      | none => s
    else { s with net := { s.net with lanes := rest ++ [{ l with next := n + 1, bytes := bytes }] } }

/-- MGMT (R259, R298). -/
def execMgmt (port : FwNo) (f : BitVec 2048) (s : State) : Result :=
  s.receive port.val tMgmt true f fun s => if s.served then s.takeFragment f else s

/-- MGMT_FRAGMENT_TIMEOUT (R298). -/
def execMgmtFragmentTimeout (node : BitVec 16) (s : State) : Result :=
  match s.net.lanes.find? fun l => l.node = node.toNat with
  | none => s.stay "R298"
  | some l =>
    if !s.leavenUp then s.stay "R298"
    else
      let s := s.reach (l.firstAt + 100000)
      .next { s with net := { s.net with lanes := s.net.lanes.filter fun o => decide (o.node ≠ node.toNat) } }

/-- The request that a REPORT is. -/
def reportMsg (st time : Nat) : MctpMsg := ⟨cmdReport, 0, 0, 0, 0, 0, 9, 0, toBytes 1 st ++ toBytes 8 time⟩

/-- REPORT (R260, R299): recorded and answered by the manager, refused by any other device. -/
def execReport (node : BitVec 16) (state : Byte) (time : W64) (s : State) : Result :=
  let m := reportMsg state.toNat time.toNat
  if !s.served then s.stay "R299"
  else if s.boot.manager then .next (s.takeReport node.toNat state.toNat m)
  else .next (s.refuseLane node.toNat m)

/-- REPORT_RESEND (R299). -/
def execReportResend (s : State) : Result :=
  if s.net.reportOpen.isEmpty ∨ !s.served then s.stay "R299"
  else .next (s.net.reportOpen.foldl (fun s o => s.sendLane 0 { reportMsg o.dev o.time with tag := o.tag }) s)

/-! ## HELLO and NODE_MAP (R288 to R290) -/

/-- HELLO (R288). -/
def execHello (port : FwNo) (f : BitVec 2048) (s : State) : Result :=
  s.receive port.val tHello false f fun s => s.hear port.val f

/-- A fragment of the manager's map; the last one puts it in force. -/
def State.takeMapFragment (s : State) (f : Flit) : State :=
  let b := Flit.data f
  let n := numAt b 0 1
  if s.boot.manager ∨ (n ≠ 0 ∧ n ≠ s.net.mapFrag) then s
  else
    let bytes := (if n = 0 then [] else s.net.mapBytes) ++ b.drop 2
    if numAt b 1 1 % 2 = 1 then
      { s with net := { (s.net.takeMap bytes) with mapFrag := 0, mapBytes := [] } }.recheckParent.tryReady
    else { s with net := { s.net with mapFrag := n + 1, mapBytes := bytes } }

/-- NODE_MAP (R289, R290). -/
def execNodeMap (port : FwNo) (f : BitVec 2048) (s : State) : Result :=
  s.receive port.val tNodeMap true f fun s => s.takeMapFragment f

/-! ## Links (R281, R284, R285) -/

/-- The credits that each end grants at link-up: DATA, RESP, MGMT, CONTROL. -/
def linkCredits : List Nat := [1024, 64, 16, 8]

/-- A link comes up: credits, HELLO, what waits. -/
def State.bringUp (s : State) (p : Nat) : State :=
  let l := s.link p
  let s := s.setLink p { Link.reset with
    state := .up
    credits := linkCredits
    sent := l.sent
    waiting := l.waiting }
  let s := (s.sendHello p).portsChanged
  s.setLink p (s.link p).pump

/-- LINK_UP (R281, R285). -/
def execLinkUp (port : FwNo) (s : State) : Result :=
  let p := port.val
  if !s.alive ∨ tget .on s.power.fwGroup (p / 4) = .off ∨ p / 8 ∈ s.health.proofersFailed then s.stay "R281"
  else if (s.link p).state ≠ .training ∨ (s.link p).retraining then s.stay "R285"
  else .next (s.bringUp p)

/-- A retrain begins; the sixteenth within 1 s fails the port (R284). -/
def State.beginRetrain (s : State) (p : Nat) : State :=
  let s := s.bump (0x9000 + p) 4 1
  let l := s.link p
  let times := s.now :: l.retrainTimes.filter fun t => decide (s.now < t + 1000000000)
  if 16 ≤ times.length then s.unitFails (unitFinwell p) (Config.linkFailureCause (unitFinwell p))
  else s.setLink p { l with
    state := .training
    retraining := true
    retrainTimes := times }

/-- LINK_ACK_TIMEOUT (R284). -/
def State.ackTimeout (s : State) (p seq : Nat) : State :=
  let s := s.report { plainReport cLinkAckTimeout (unitFinwell p) .value 0 with d0 := seq }
  (s.bump (0x9000 + p) 5 1).beginRetrain p

def execLinkAckTimeout (port : FwNo) (s : State) : Result :=
  let p := port.val
  if !s.alive then s.stay "R284"
  else if (s.link p).state ≠ .up then s.stay "R284"
  else match (s.link p).replay with
  | [] => s.stay "R284"
  | e :: _ => .next (s.ackTimeout p e.1)

/-- A retrain that succeeds: every unacknowledged flit is resent. -/
def State.retrained (s : State) (p : Nat) : State :=
  let l := { s.link p with
    state := .up
    retraining := false
    retrainsRow := 0 }
  s.setLink p l.resend.pump

/-- A retrain that fails: the third in a row fails the port. -/
def State.retrainFailed (s : State) (p : Nat) : State :=
  let l := s.link p
  if 3 ≤ l.retrainsRow + 1 then s.unitFails (unitFinwell p) (Config.linkFailureCause (unitFinwell p))
  else (s.setLink p { l with retrainsRow := l.retrainsRow + 1 }).beginRetrain p

/-- RETRAIN_END (R284). -/
def execRetrainEnd (port : FwNo) (ok : Bool) (s : State) : Result :=
  let p := port.val
  if !s.alive then s.stay "R284"
  else if (s.link p).state ≠ .training ∨ !(s.link p).retraining then s.stay "R284"
  else .next (if ok then s.retrained p else s.retrainFailed p)

/-- FINWELL_GROUP_OFF (R281): the four ports of the group are disabled. -/
def execFinwellGroupOff (g : Fin 4) (s : State) : Result :=
  if !s.leavenUp then s.stay "R281"
  else if (List.range 4).any fun k => decide (s.obj (0x9000 + 4 * g.val + k) 3 ≠ 0) then s.stay "R281"
  else .next { s with power := { s.power with fwGroup := tset .on s.power.fwGroup g.val .off } }

/-! ## Time (R300, R301) -/

/-- The offset of R300; the half of an odd difference is rounded as Config leaves open. -/
def timeOffset (t1 t2 t3 t4 : Int) : Int :=
  let n := (t2 - t1) - (t4 - t3)
  (n + (if n % 2 = 1 ∧ Config.halfUp n then 1 else 0)) / 2

/-- A worker learns its offset from its parent; at first lock it steps, forward only (R301, R319). -/
def TimeBase.lock (t : TimeBase) (off : Int) : TimeBase :=
  { t with
    now := if t.locked then t.now else max t.now ((t.now : Int) + off).toNat
    syncState := 2
    offsetNs := off
    locked := true }

/-- A TIME flit: from the parent it carries the reply; from any other neighbour it asks for one. -/
def State.takeTime (s : State) (p : Nat) (f : Flit) (t4 : Nat) : State :=
  let b := Flit.payload f
  if !s.boot.manager ∧ s.timeParent = some (s.peerNode p) then
    { s with time := s.time.lock (timeOffset (numAt b 0 8) (numAt b 8 8) (numAt b 16 8) t4) }.tryReady
  else
    s.sendOn p (flitOf tTime clControl (Flit.src f) s.net.node 0 (Flit.tag f) (toBytes 8 (numAt b 0 8) ++ toBytes 8 t4 ++ toBytes 8 s.now))

/-- TIME (R300, R301). -/
def execTime (port : FwNo) (f : BitVec 2048) (t4 : W64) (s : State) : Result :=
  s.receive port.val tTime false f fun s => s.takeTime port.val f t4.toNat

/-- Edges 1 s ± 1 µs apart. -/
def ppsGood (last t : Nat) : Bool := decide (last + 1000000000 ≤ t + 1000) && decide (t ≤ last + 1000001000)

/-- An edge of PPS_IN at the manager. -/
def TimeBase.pps (b : TimeBase) (t : Nat) : TimeBase :=
  { b with
    syncState := if b.lastPps.any fun l => ppsGood l t then 1 else 0
    lastPps := some t }

/-- PPS_IN (R300): workers ignore it. -/
def execPpsIn (t : Nat) (s : State) : Result :=
  if !s.power.vaux33 then s.stay "R300"
  else if s.boot.manager then
    let s := s.reach t
    .next { s with time := s.time.pps t }
  else .next s

/-- PPS_LOSS (R320): 1.1 s after the last edge. -/
def execPpsLoss (s : State) : Result :=
  match s.time.lastPps with
  | none => s.stay "R320"
  | some t =>
    if !s.power.vaux33 ∨ !s.boot.manager then s.stay "R320"
    else
      let s := s.reach (t + 1100000000)
      .next { s with time := { s.time with syncState := 0, lastPps := none } }

/-! ## I3C (R255, R258) -/

/-- I3C_DYNAMIC_ADDRESS (R255, R258). -/
def execI3cDynamicAddress (addr : Option Byte) (s : State) : Result :=
  if 0 ∈ s.health.proofersFailed then s.stay "R258"
  else match addr with
  | some a => .next { s with net := { s.net with i3c := a.toNat } }
  | none => .next s.loseI3c

end Sys2Proof.Machine
end

