-- ==== Sys2Proof/Machine/Host.lean ====
section
/-!
DEFINITION. The host's side (R263 to R270, R278): the BAR0 map, the staging window BAR2, function resets and power states of
a port: REGISTER_WRITE, UNASSIGNED_ACCESS, BAR2_READ, BAR2_WRITE, FUNCTION_LEVEL_RESET, HOT_RESET, D3HOT, BUS_MASTER_ENABLE,
PERST_N, PCIE_LINK_SETTLE, POISONED_COMPLETION.
-/
namespace Sys2Proof.Machine

/-! ## The PCIe function (Table 13-1) -/

/-- What the function's configuration space says of it (R263). -/
structure PcieFunction where
  deviceId : Nat
  revision : Nat
  classCode : Nat
  bar0Bytes : Nat
  bar2Bytes : Nat
  interruptPin : Nat
  msixVectors : Nat
  maxPayload : Nat
  maxReadRequest : Nat
  tagBits : Nat
  outstandingReads : Nat
  completionTimeoutNs : Nat
  deriving DecidableEq, Repr

/-- R263, Table 13-1; the vendor identifier is the part's. No command reads configuration space (log 140). -/
def pcieFunction : PcieFunction where
  deviceId := 0x5616
  revision := 0x00
  classCode := 0x120000
  bar0Bytes := 2 ^ 24
  bar2Bytes := 2 ^ 36
  interruptPin := 0
  msixVectors := 2048
  maxPayload := 512
  maxReadRequest := 4096
  tagBits := 14
  outstandingReads := 1024
  completionTimeoutNs := 10000000

/-! ## The regions of BAR0 (Table 13-3) -/

/-- Where a BAR0 address falls: the region and the offset within it. -/
inductive Bar0 where
  | device (rel : Nat)
  | window (rel : Nat)
  | elog (rel : Nat)
  | slot (rel : Nat)
  | mailbox (m rel : Nat)
  | doorbell (c : Nat)
  | msix (v word : Nat)
  | pba (word : Nat)
  | unassigned
  deriving DecidableEq, Repr

/-- The place of a 32-bit access. Registers are those of Tables 12-5, 13-4, 13-5 and 13-6; what those do not list obeys R6. -/
def bar0At (off : Nat) : Bar0 :=
  if off % 4 ≠ 0 then .unassigned
  else if off < 0x14 then .device off
  else if offWindow ≤ off ∧ off < offWindow + 0x1C then .window (off - offWindow)
  else if 0x20000 ≤ off ∧ off < 0x20014 then .elog (off - 0x20000)
  else if 0x40000 ≤ off ∧ off < 0x50000 then .slot (off - 0x40000)
  else if 0x80000 ≤ off ∧ off < 0x84000 then
    (if off % 256 ≤ 0x80 then .mailbox ((off - 0x80000) / 256) (off % 256) else .unassigned)
  else if 0x100000 ≤ off ∧ off < 0x104000 then .doorbell ((off - 0x100000) / 4)
  else if 0x200000 ≤ off ∧ off < 0x200000 + 16 * pcieFunction.msixVectors then .msix ((off - 0x200000) / 16) (off % 16 / 4)
  else if 0x208000 ≤ off ∧ off < 0x208100 then .pba ((off - 0x208000) / 4)
  else .unassigned

/-! ## What BAR0 reads as -/

/-- The other port's link is up in D0 (STATUS.PEER_UP). -/
def State.peerUp (s : State) (p : Nat) : Bool :=
  let f := s.port (1 - p)
  f.d0 && f.perst && f.linkUp && !s.portFailed (1 - p)

/-- Table 13-4. -/
def State.deviceReg (s : State) (p rel : Nat) : Nat :=
  let f := s.port p
  match rel with
  | 0x00 => pcieFunction.deviceId + 2 ^ 16 * pcieFunction.revision + 2 ^ 24
  | 0x04 => s.boot.dev.code + 2 ^ 8 * p + 2 ^ 9 * s.boot.controlProofer + 2 ^ 10 * boolNat (s.peerUp p)
  | 0x08 => s.now % 2 ^ 32
  | 0x0C => f.nowHi.toNat
  | _ => f.bar2Stack

/-- Table 12-5. -/
def PortState.windowReg (f : PortState) (rel : Nat) : Nat :=
  match rel with
  | 0x00 => f.odIndex + 2 ^ 16 * f.odSub + 2 ^ 24 * f.odOp + 2 ^ 27 * f.odLen
  | 0x04 => boolNat f.busy + 2 * boolNat f.done + 4 * boolNat f.err + 2 ^ 8 * f.code + 2 ^ 16 * f.length
  | 0x08 => f.dataLo.toNat
  | 0x0C => f.dataHi.toNat
  | 0x10 => f.segMbox
  | 0x14 => f.segTotal
  | _ => f.odNode

/-- Table 13-5. -/
def State.elogReg (s : State) (p rel : Nat) : Nat :=
  match rel with
  | 0x00 => s.log.head % 2 ^ 32
  | 0x04 => (s.port p).headHi.toNat
  | 0x08 => s.log.ack % 2 ^ 32
  | 0x0C => s.log.ack / 2 ^ 32
  | _ => s.log.unacked

/-- Table 13-6. -/
def Mbox.reg (b : Mbox) (rel : Nat) : Nat :=
  if rel < 0x40 then (tget (0 : W32) b.tx (rel / 4)).toNat
  else if rel < 0x80 then (if b.dready then (b.rx.getD ((rel - 0x40) / 4) 0).toNat else 0)
  else b.ctrl

/-- A word of an MSI-X table entry. -/
def vectorWord (e : Nat × Nat × Bool) (word : Nat) : Nat :=
  match word with
  | 0 => e.1 % 2 ^ 32
  | 1 => e.1 / 2 ^ 32
  | 2 => e.2.1
  | _ => boolNat e.2.2

/-- The value that a 32-bit read of BAR0 returns (R4, R6, R269, R270). -/
def State.bar0Read (s : State) (p off : Nat) : Nat :=
  let f := s.port p
  match bar0At off with
  | .device rel => s.deviceReg p rel
  | .window rel => f.windowReg rel
  | .elog rel => s.elogReg p rel
  | .slot rel =>
    let e := tget blankSlot s.log.slots (rel / 64)
    numAt (entryBytes e.1 e.2) (rel % 64) 4
  | .mailbox m rel => (s.mbox m).reg rel
  | .doorbell _ => 0
  | .msix v word => vectorWord (tget vectorReset f.vectors v) word
  | .pba w => ((List.range 32).filter fun i => 32 * w + i ∈ f.msixPending).map (2 ^ ·) |>.sum
  | .unassigned => 0

/-! ## Writes of BAR0 (R4, R6, R256, R270, R272, R278) -/

/-- A write of a window register (Table 12-5, R256). -/
def State.windowWriteReg (s : State) (p rel : Nat) (v : W32) : State :=
  let f := s.port p
  let n := v.toNat
  let go := v.getLsbD 31
  match rel with
  | 0x04 => s.setPort p { f with done := f.done && !v.getLsbD 1, err := f.err && !v.getLsbD 2 }
  | 0x00 =>
    if go then s.windowGo p (bitsAt n 0 16) (bitsAt n 16 8) (bitsAt n 24 3) (bitsAt n 27 4)
    else if f.busy then s.denyBar0 unitWindow offWindow
    else s.setCmd p (bitsAt n 0 16) (bitsAt n 16 8) (bitsAt n 24 3) (bitsAt n 27 4)
  | _ =>
    if f.busy then s.denyBar0 unitWindow (offWindow + rel)
    else s.setPort p (match rel with
      | 0x08 => { f with dataLo := v }
      | 0x0C => { f with dataHi := v }
      | 0x10 => { f with segMbox := n % 64 }
      | 0x14 => { f with segTotal := n }
      | _ => { f with odNode := n % 2 ^ 16 })

/-- A write of a mailbox register (Table 13-6, R272). -/
def State.mboxWriteReg (s : State) (m rel : Nat) (v : W32) : State :=
  let b := s.mbox m
  if rel < 0x40 then
    (if b.go then s.denyMbox m (offMailbox m + rel) else s.setMbox m { b with tx := tset 0 b.tx (rel / 4) v })
  else if rel < 0x80 then s
  else s.ctrlWrite m v

/-- An MSI-X table entry after a write of one of its words. -/
def vectorWrite (e : Nat × Nat × Bool) (word : Nat) (v : W32) : Nat × Nat × Bool :=
  match word with
  | 0 => (2 ^ 32 * (e.1 / 2 ^ 32) + 4 * (v.toNat / 4), e.2.1, e.2.2)
  | 1 => (e.1 % 2 ^ 32 + 2 ^ 32 * v.toNat, e.2.1, e.2.2)
  | 2 => (e.1, v.toNat, e.2.2)
  | _ => (e.1, e.2.1, v.getLsbD 0)

/-- A write of the MSI-X table: a pending vector that is unmasked is sent (R278). -/
def State.msixWriteReg (s : State) (p v word : Nat) (w : W32) : State :=
  let f := s.port p
  let e := vectorWrite (tget vectorReset f.vectors v) word w
  let s := s.setPort p { f with vectors := tset vectorReset f.vectors v e }
  if v ∈ f.msixPending ∧ !e.2.2 then
    (s.setPort p { s.port p with msixPending := f.msixPending.filter (· ≠ v) }).raise p v
  else s

/-- A write of an error log register (Table 13-5). -/
def State.elogWriteReg (s : State) (p rel : Nat) (v : W32) : State :=
  match rel with
  | 0x08 => s.setPort p { s.port p with ackLo := v }
  | 0x0C => s.elogAckHi p v
  | _ => s

/-- A 32-bit write of BAR0 (R4, R6, R270). -/
def State.bar0Write (s : State) (p off : Nat) (v : W32) : State :=
  match bar0At off with
  | .device 0x10 => s.setPort p { s.port p with bar2Stack := v.toNat % 16 }
  | .device _ => s
  | .window rel => s.windowWriteReg p rel v
  | .elog rel => s.elogWriteReg p rel v
  | .slot _ => s.denyBar0 (unitPcie p) off
  | .mailbox m rel => s.mboxWriteReg m rel v
  | .doorbell c => s.doorbell c v
  | .msix e word => s.msixWriteReg p e word v
  | .pba _ => s
  | .unassigned => s.denyBar0 (unitPcie p) off

/-- REGISTER_WRITE (R4). -/
def execRegisterWrite (port : PortNo) (off : Nat) (v : W32) (s : State) : Result :=
  .next (if s.portAnswers port.val then s.bar0Write port.val off v else s)

/-- UNASSIGNED_ACCESS (R6, R270): a write to an unassigned address, or one of another size or alignment. -/
def execUnassignedAccess (port : PortNo) (off : Nat) (s : State) : Result :=
  .next (if s.portAnswers port.val then s.denyBar0 (unitPcie port.val) off else s)

/-! ## BAR2 (R266, R268, Table 13-2) -/

/-- Draw n free bytes of data. -/
def State.drawData (s : State) (n : Nat) : List Byte × State := s.draw Config.freeData n

/-- The data of a BAR2 read within the stack, the records of the journal in its area (R220); where a word is poisoned or cannot be read, the manual states no data. -/
def State.stackRead (s : State) (a n : Nat) : List Byte × State :=
  match s.getBytes a n with
  | (t, .ok b) => ((b.zip (List.range b.length)).map fun (x, i) => (t.journalByte (a + i)).getD x, t)
  | (t, .error e) => (t.report (plainReport e.code (unitStack (stackOf a)) e.kind e.address)).drawData n

/-- A BAR2 read: 0 at and beyond the end of the stack. -/
def State.bar2Read (s : State) (p off len : Nat) : State :=
  let n := min len (stackBytes - off)
  let r := if n = 0 then ([], s) else s.stackRead (hbmAddr (s.port p).bar2Stack off) n
  r.2.answerRead p (r.1 ++ List.replicate (len - n) 0)

/-- BAR2_READ (R266). -/
def execBar2Read (port : PortNo) (off len : Nat) (s : State) : Result :=
  .next (if s.portAnswers port.val then s.bar2Read port.val off len else s)

/-- Write bytes to one stack through its larder, with no copy in its partner. -/
def State.stackWrite (s : State) (a : Nat) (bs : List Byte) : State :=
  ((spansOf a bs.length).foldl (fun (acc : State × List Byte) sp =>
    (acc.1.putSpan sp.1 sp.2.1 sp.2.2.1 (acc.2.take sp.2.2.2), acc.2.drop sp.2.2.2)) (s, bs)).1

/-- The words of a line that a range touches become poisoned: their data is 0 (R137). -/
def Line.poisonRange (x : Line) (off n : Nat) : Line :=
  { x with
    data := (List.range 128).map fun b => if touchesWord off n (b / 8) then 0 else x.data.getD b 0
    dirty := true
    poison := (List.range 16).map fun w => x.poison.getD w false || touchesWord off n w }

/-- R268: every 64-bit word that a range touches is written as poisoned. -/
def State.stackPoison (s : State) (a n : Nat) : State :=
  (spansOf a n).foldl (fun s sp =>
    let (t, x, _) := s.fetchLine sp.1 sp.2.1
    t.setLarder sp.1 ((t.larder sp.1).update (x.poisonRange sp.2.2.1 sp.2.2.2))) s

/-- The part of a BAR2 write that falls in the staging area: its first offset and its bytes. -/
def stagedPart (off : Nat) (data : List Byte) : Nat × List Byte :=
  let lo := max off stagingBase
  let hi := min (off + data.length) stagingEnd
  (lo, (data.drop (lo - off)).take (hi - lo))

/-- The first offset of a BAR2 write that the device discards. -/
def discardedAt (off n : Nat) : Option Nat :=
  if off < stagingBase then some off
  else if stagingEnd < off + n then some (max off stagingEnd)
  else none

/-- A BAR2 write (R266, R268). -/
def State.bar2Write (s : State) (p off : Nat) (data : List Byte) (poisoned : Bool) : State :=
  let st := (s.port p).bar2Stack
  let w := stagedPart off data
  let s := if st ∈ s.health.stacksFailed then s
    else if poisoned then s.stackPoison (hbmAddr st w.1) w.2.length
    else s.stackWrite (hbmAddr st w.1) w.2
  match discardedAt off data.length with
  | some x => s.deny (unitStack st) .hbm (hbmAddr st x)
  | none => s

/-- BAR2_WRITE (R266, R268). -/
def execBar2Write (port : PortNo) (off : Nat) (data : List Byte) (poisoned : Bool) (s : State) : Result :=
  .next (if s.portAnswers port.val then s.bar2Write port.val off data poisoned else s)

/-! ## Function resets and power states of a port (R265, R321) -/

/-- What a function reset does to the port itself: its window and BAR2_STACK at their reset values, every vector masked, bus
mastering off. Latches, held messages and pending vectors stay. -/
def PortState.functionReset (f : PortState) : PortState :=
  { PortState.reset with
    nowHi := f.nowHi
    headHi := f.headHi
    ackLo := f.ackLo
    busMaster := false
    perst := f.perst
    linkUp := f.linkUp
    linkTries := f.linkTries
    msixPending := f.msixPending
    held := f.held
    sent := f.sent
    readData := f.readData }

/-- Items of a port's contexts, changed. -/
def State.mapPortItems (s : State) (p : Nat) (f : Item → Item) : State :=
  { s with ctxs := s.ctxs.map fun e =>
      (e.1, if e.2.hostPort = p then { e.2 with items := e.2.items.map f } else e.2) }

/-- The running items of the port's contexts roll back, and replay once the function returns (R265, Table 10-8). -/
def State.rollPort (s : State) (p : Nat) : State :=
  let s := (List.range 16).foldl (fun s q => match s.running q with
    | some (c, _) => if (s.ctx c).hostPort = p then s.rollItem c else s
    | none => s) s
  s.mapPortItems p fun i => if i.state = .rollingBack then { i with awaitsPort := true } else i

/-- A PCIe function reset of a port (R265, Table 15-8). -/
def State.functionReset (s : State) (p : Nat) : State :=
  let f := s.port p
  let s := if (s.mbox f.segMbox).seg = some p then s.setMbox f.segMbox { s.mbox f.segMbox with seg := none } else s
  ((s.setPort p f.functionReset).endSession (portSession p)).rollPort p

/-- The port's link may train: the port is neither off nor failed. -/
def State.trains (s : State) (p : Nat) : Bool := s.alive && (s.port p).perst && !s.portFailed p

/-- The function is reachable for configuration requests: its link is up besides. -/
def State.configures (s : State) (p : Nat) : Bool := s.trains p && (s.port p).linkUp

/-- FUNCTION_LEVEL_RESET (R265). -/
def execFunctionLevelReset (port : PortNo) (s : State) : Result :=
  if s.configures port.val then .next (s.functionReset port.val) else s.stay "R265"

/-- HOT_RESET (R321): a function reset that takes the link down as well, as PCIe has it (Table 15-8; log 140). -/
def execHotReset (port : PortNo) (s : State) : Result :=
  if s.configures port.val then
    let s := s.functionReset port.val
    .next (s.setPort port.val { s.port port.val with linkUp := false })
  else s.stay "R265"

/-- D3HOT (R265). -/
def execD3hot (port : PortNo) (s : State) : Result :=
  if s.configures port.val then .next (s.setPort port.val { s.port port.val with d0 := false }) else s.stay "R265"

/-- What was held goes out in order; a message whose vector is masked by now stays pending (R265, R278). -/
def State.releaseHeld (s : State) (p : Nat) : State :=
  let held := (s.port p).held
  held.foldl (fun s m => match m with
    | .msix v => s.raise p v
    | m => s.send p m) (s.setPort p { s.port p with held := [] })

/-- The function returns to D0 with bus mastering. -/
def State.portReturns (s : State) (p : Nat) : State :=
  ((s.setPort p { s.port p with d0 := true, busMaster := true }).mapPortItems p fun i => { i with awaitsPort := false }).releaseHeld p

/-- BUS_MASTER_ENABLE (R265). -/
def execBusMasterEnable (port : PortNo) (s : State) : Result :=
  if s.configures port.val then .next (s.portReturns port.val) else s.stay "R265"

/-- PERST_N of a port (R321): low resets the function and switches the port off (Table 15-5). -/
def State.perstLevel (s : State) (p : Nat) (level : Bool) : State :=
  let t := if level then s else s.functionReset p
  t.setPort p { t.port p with perst := level, linkUp := (t.port p).linkUp && level }

/-- PERST_N (R321). -/
def execPerstN (port : PortNo) (level : Bool) (s : State) : Result := .next (s.perstLevel port.val level)

/-- A link settles (R263): at x16, 64 GT/s in flit mode the port is up, and what it held goes out where its function may send;
any other link returns to Detect, and the third such attempt makes the port failed. -/
def State.linkSettles (s : State) (p : Nat) (good : Bool) : State :=
  let f := s.port p
  if good then (s.setPort p { f with linkTries := 0, linkUp := true }).releaseHeld p
  else
    let s := s.setPort p { f with linkTries := f.linkTries + 1, linkUp := false }
    if 3 ≤ f.linkTries + 1 then s.unitFails (unitPcie p) (Config.linkFailureCause (unitPcie p)) else s

/-- PCIE_LINK_SETTLE (R263). -/
def execPcieLinkSettle (port : PortNo) (width gts : Nat) (flitMode : Bool) (s : State) : Result :=
  if s.trains port.val then .next (s.linkSettles port.val (decide (width = 16) && decide (gts = 64) && flitMode))
  else s.stay "R263"

/-- POISONED_COMPLETION (R264): a poisoned completion to a HOST read of a mover. -/
def execPoisonedCompletion (m : MoverId) (addr : Nat) (s : State) : Result :=
  let q := moverKey m
  if !s.moverRuns q then s.stay "R264"
  else match (s.mover q).active.findIdx? Active.readsHost with
  | none => s.stay "R264"
  | some i => match (s.mover q).active[i]? with
    | none => s.stay "R264"
    | some a => .next (s.failActive q i (unitPcie a.desc.hostPort) ⟨cPoisonRead, .host, addr, 0, 0, 0⟩)

end Sys2Proof.Machine
end

