-- ==== Sys2Proof/Machine/Power.lean ====
section
/-!
DEFINITION. Power, resets and start-up (R307 to R330): CONTROL_INTERVAL, THROTTLE, THERM_TRIP_N, VIN48_EXCURSION,
VAUX33_EXCURSION, WARM_RESET, SYS_RST_N_RELEASE, COLD_RESET, BOOT_IMAGE_VERIFY, READINESS, HEARTH_LULL, HEARTH_OFF, REF100.
-/
namespace Sys2Proof.Machine

/-! ## Pace, voltage and temperature (R310 to R313, Tables 12-10 and 12-11) -/

def State.fixedSupply (s : State) : Bool := decide (s.obj 0x2140 1 = 1)
def State.vddFloor (s : State) : Nat := s.obj 0x2140 2
def State.vddTarget (s : State) : Nat := s.obj 0x2140 3
def State.vddCeiling (s : State) : Nat := s.obj 0x2140 4

/-- VDD_H of a hearth in mV; the default floor until a control interval has set it. -/
def State.vddOf (s : State) (h : Nat) : Nat := tget 650 s.power.vdd h
def State.setVdd (s : State) (h v : Nat) : State := { s with power := { s.power with vdd := tset 650 s.power.vdd h v } }

/-- Junction temperature of a hearth in 0.1 °C. -/
def State.junctionOf (s : State) (h : Nat) : Int := tget 0 s.power.junction h
def State.setJunction (s : State) (h : Nat) (t : Int) : State :=
  { s with power := { s.power with junction := tset 0 s.power.junction h t } }

/-- A hearth has a running item. -/
def State.hearthBusy (s : State) (h : Nat) : Bool := (s.partOf h).any fun p => (s.running p).isSome

/-- A hearth's junction has reached THROTTLE_C (R313). -/
def State.throttled (s : State) (h : Nat) : Bool := decide (10 * (s.obj 0x8020 3 : Int) ≤ s.junctionOf h)

/-- The readings of an interval: junctions, and the hottest of them (0x8020.01 and .02). -/
def State.takeJunctions (s : State) (js : List Int) : State :=
  (List.range 16).foldl (fun s h => s.setJunction h (js.getD h (s.junctionOf h))) s

def State.hottest (s : State) : Nat :=
  (List.range 16).foldl (fun b h => if s.junctionOf b < s.junctionOf h then h else b) 0

def State.reportJunctions (s : State) : State :=
  (s.setObj 0x8020 1 (codeOf 32 (s.junctionOf s.hottest))).setObj 0x8020 2 s.hottest

/-- The interval's paces: of each hearth, the mean, and the largest and smallest of the last 10 ms (R310). -/
def State.takePaces (s : State) (ps : List Nat) : State :=
  let p (h : Nat) : Nat := ps.getD h 0
  let all := (List.range 16).map p
  let s := (List.range 16).foldl (fun s h => s.setObj (0x3020 + 0x100 * h) 7 (p h)) s
  let hist := ((s.now, all.foldl max 0, all.foldl min (p 0)) :: s.paceHist).take 10
  let s := { s with paceHist := hist }
  ((s.setObj 0x8010 1 (all.sum / 16)).setObj 0x8010 2 ((hist.map fun e => e.2.1).foldl max 0)).setObj 0x8010 3
    ((hist.map fun e => e.2.2).foldl min (all.foldl min (p 0)))

/-- VDD_H that an interval sets (R311 to R313): FIXED takes the target; ADAPTIVE the floor without a running item, else what
Leaven predicts within floor and ceiling, and no rise above the limit or THROTTLE_C. -/
def State.vddNext (s : State) (above : Bool) (h predicted : Nat) : Nat :=
  if s.fixedSupply then s.vddTarget
  else if !s.hearthBusy h then s.vddFloor
  else
    let v := max s.vddFloor (min s.vddCeiling (5 * (predicted / 5)))
    if above || s.throttled h then max s.vddFloor (min v (s.vddOf h)) else v

/-- Hearths whose step Leaven holds: every one with a running item above the power limit, and those at THROTTLE_C. -/
def State.holds (s : State) (above : Bool) : List Nat :=
  (List.range 16).filter fun h => (above && s.hearthBusy h) || s.throttled h

/-- What Leaven does at a control interval (R310 to R313). -/
def State.control (s : State) (r : PowerReading) : State :=
  let above := decide (s.obj 0x8000 1 < r.inputW)
  let s := ((s.takeJunctions r.junctions).reportJunctions).takePaces r.paces
  let s := (s.setObj 0x8000 2 r.inputW).setObj 0x8000 3 (boolNat above)
  let s := (List.range 16).foldl (fun t h => t.setVdd h (s.vddNext above h (r.predicted.getD h 0))) s
  { s with power := { s.power with stepHold := s.holds above } }

/-- CONTROL_INTERVAL (R310 to R313); without Leaven, the always-on domain reads the junctions alone (R314). -/
def execControlInterval (r : PowerReading) (s : State) : Result :=
  if s.leavenUp then .next (s.control r)
  else if s.power.vaux33 then .next (s.takeJunctions r.junctions)
  else s.stay "R317"

/-- A lower VDD_H than the present one, no lower than the floor; the manual states no amount. -/
def State.lowerVdd (s : State) (h : Nat) : State :=
  let v := s.vddOf h
  let steps := (v - s.vddFloor) / 5
  if steps = 0 then s
  else
    { s with freeCtr := s.freeCtr + 1 }.setVdd h (v - 5 * (1 + Config.throttleStep s.freeCtr % steps))

/-- THROTTLE (R313). -/
def execThrottle (h : Hearth) (tj : Int) (s : State) : Result :=
  if !s.leavenUp then s.stay "R313"
  else if tj < 10 * (s.obj 0x8020 3 : Int) then s.stay "R313"
  else
    let s := (s.setJunction h.val tj).reportJunctions
    let s := if s.fixedSupply then s else s.lowerVdd h.val
    .next { s with power := { s.power with stepHold := if h.val ∈ s.power.stepHold then s.power.stepHold else s.power.stepHold ++ [h.val] } }

/-! ## Loss of power (R307, R308, R314, R320) -/

def allOff (n : Nat) : Table Domain := (List.range n).map fun i => (i, .off)

/-- Every domain but the always-on and management domains loses its power: all they hold is lost. -/
def State.dark (s : State) : State :=
  { s with
    boot := { s.boot with leavenRuns := false }
    power := { s.power with
      logic := allOff 16
      memory := allOff 16
      quadrant := allOff 4
      fwGroup := allOff 4 }
    cores := []
    scratch := []
    hbm := []
    hbmPoison := []
    hbmEcc := []
    larders := []
    movers := []
    folds := []
    chanUse := []
    links := s.links.map fun e => (e.1, { Link.reset with sent := e.2.sent }) }

def tripTenths : Int := 1050
def safeTenths : Int := 950

/-- THERM_TRIP_N (R314). -/
def execThermTripN (h : Hearth) (tj : Int) (s : State) : Result :=
  if !s.power.vaux33 then s.stay "R314"
  else if tj < tripTenths then s.stay "R314"
  else .next (let s := (s.setJunction h.val tj).dark; { s with power := { s.power with tripped := true } })

/-- The device holds itself in reset for a supply. -/
def State.supplyHold (s : State) : State := let s := s.dark; { s with power := { s.power with rst := .supplyHeld } }

/-- VIN48 leaves its range for more than 100 µs. -/
def State.loseVin (s : State) : State :=
  let latch := decide (s.power.vaux33) && !s.power.latched.any fun e => decide (e.1 = 4)
  let s := s.supplyHold
  { s with power := { s.power with
      vin48 := false
      latched := if latch then s.power.latched ++ [(4, s.now)] else s.power.latched } }

/-- VIN48_EXCURSION (R307, R320). -/
def execVin48Excursion (s : State) : Result := .next (if s.power.vin48 then s.loseVin else s)

/-- VAUX33 leaves its range: its firing goes to the supply-fault cell while VIN48 powers a proofer; what the always-on and
management domains hold is lost (R254, R319, R320). -/
def State.loseVaux (s : State) : State :=
  let cell := if s.power.vin48 ∧ !s.power.tripped ∧ s.boot.supplyCell.isNone then some s.now else s.boot.supplyCell
  let s := s.supplyHold
  { s with
    boot := { s.boot with supplyCell := cell }
    power := { s.power with
      vaux33 := false
      latched := []
      junction := [] }
    sessions := []
    net := { s.net with i3c := 0, mctpQueue := [] } }

/-- VAUX33_EXCURSION (R319, R320). -/
def execVaux33Excursion (s : State) : Result := .next (if s.power.vaux33 then s.loseVaux else s)

/-! ## Warm reset (R322, R323, R325) -/

/-- A larder writes its dirty lines back and holds nothing (R323). -/
def State.flushLarder (s : State) (h : Nat) : State :=
  (((s.larder h).lines.flatMap (·.2)).foldl (fun s x => s.writeBack h x) s).dropLarder h

/-- Sessions end; what R254 keeps is kept. -/
def State.endSessions (s : State) : State := allSessions.foldl State.endSession s

/-- The proofers, the hearths and Leaven are reset: every bank is poisoned, every core's epoch rises (R133, Table 15-8). -/
def State.resetUnits (s : State) : State :=
  let s := (List.range 16).foldl (fun s h => if s.logicOf h = .off then s else s.mapHearthCores h Core.returned) s
  -- a RETEST of a hearth that was running ends without a result
  let s := (List.range 16).foldl (fun s h => s.setHearth h { s.hearth h with retesting := false }) s
  { s with
    scratch := []
    folds := []
    movers := []
    chanUse := []
    power := { s.power with
      stepHold := []
      bakerLull := false }
    boot := { s.boot with
      leavenRuns := false
      keyPending := none
      verified := [] }
    health := { s.health with
      repair := none
      repairResult := if s.health.repair.isSome then 0 else s.health.repairResult } }

/-- A warm reset begins, in the order of R323. -/
def State.warm (s : State) : State :=
  let s := (List.range 16).foldl State.flushLarder s
  let s := (List.range 16).foldl State.loseBinding s
  let s := (s.endSessions).resetUnits
  ({ s with power := { s.power with rst := .warmHeld } }).setDev .bootRom

/-- A cold start that has not come to READY. -/
def State.coldStarting (s : State) : Bool := decide (s.power.rst = .startCold) || decide (s.boot.dev = .awaitManager)

/-- WARM_RESET (R321, R323, R325): SYS_RST_N falls for at least 10 µs. -/
def execWarmReset (s : State) : Result :=
  .next (if !s.alive then s else if s.coldStarting then s.supplyHold else s.warm)

/-- Messages held during the reset go out. -/
def State.releasePorts (s : State) : State := (s.releaseHeld 0).releaseHeld 1

/-- SYS_RST_N rises (R321, R323): below 10 µs it was filtered; after 1 s a cold reset follows. -/
def execSysRstNRelease (lowNs : Nat) (s : State) : Result :=
  if s.power.tripped ∨ s.power.rst = .supplyHeld then .next s
  else if s.power.rst = .warmHeld then
    (if lowNs < 10000 then s.stay "R321"
    else if lowNs < 1000000000 then
      .next ({ s with power := { s.power with rst := .startWarm } }).releasePorts
    else .next s.supplyHold)
  else if lowNs < 10000 then .next s
  else s.stay "R323"

/-! ## Cold reset (R321, R322, R324) -/

/-- What the boot flash, the fuses and the sampled straps give (R324); STATE_TIME takes its default (Table 12-9). -/
def Boot.cold (b : Boot) (e : ColdEnv) : Boot :=
  { Boot.reset with
    manager := e.mgrSel
    nodeStrap := e.nodeId.val
    fusedMin := b.fusedMin
    key := b.key
    persistent := b.persistent
    supplyCell := b.supplyCell }

/-- The timekeeper keeps counting while VAUX33 holds, and starts at 0 when it returns (R319). -/
def TimeBase.cold (t : TimeBase) (held ref100 : Bool) : TimeBase :=
  { TimeBase.reset with
    now := if held then t.now else 0
    frac := if held then t.frac else 0
    ref100 := ref100 }

/-- The supply latch of comparator 4 and the junction sensors are in the always-on domain (R314, R320). -/
def Power.cold (p : Power) : Power :=
  { Power.reset with
    junction := p.junction
    latched := p.latched.filter fun e => decide (e.1 = 4) }

/-- A port after a cold reset; what it has sent and returned is past. -/
def PortState.cold (f : PortState) (perst : Bool) : PortState :=
  { PortState.reset with
    perst := perst
    sent := f.sent
    readData := f.readData }

def Net.cold (n : Net) (manager : Bool) (strap : Nat) : Net :=
  { Net.reset with
    node := if manager then strap else 0xFFFF
    nodes := if manager then [strap] else []
    mctpOut := n.mctpOut }

/-- The state that a cold reset leaves (Table 15-8). -/
def State.cold (s : State) (e : ColdEnv) : State :=
  let held := s.power.vaux33
  let t := { State.reset with
    pending := s.pending
    time := s.time.cold held e.ref100
    power := s.power.cold
    boot := s.boot.cold e
    sessions := if held then s.sessions else []
    links := s.links.map fun (l : Nat × Link) => (l.1, { Link.reset with sent := l.2.sent })
    net := s.net.cold e.mgrSel e.nodeId.val
    freeCtr := s.freeCtr }
  ((t.endSessions).setPort 0 ((s.port 0).cold e.perstA)).setPort 1 ((s.port 1).cold e.perstB)

/-- A trip still stands in the way: the supplies held through, and a junction reads above 95 °C (R314). -/
def State.tripHolds (s : State) : Bool :=
  s.power.tripped && s.power.vin48 && s.power.vaux33 && (List.range 16).any fun h => decide (safeTenths < s.junctionOf h)

/-- COLD_RESET (R321, R322, R324): both supplies are in range. -/
def execColdReset (env : ColdEnv) (s : State) : Result := if s.tripHolds then s.stay "R314" else .next (s.cold env)

/-! ## Start-up (R327 to R330) -/

/-- R330: a slot is accepted. -/
def BootSlot.accepted (b : BootSlot) (fused : Nat) : Bool := b.keyDigestOk && b.signatureOk && decide (fused ≤ b.security)

/-- The security version of the image that a boot ROM runs: of the higher version, slot 0 on a tie. -/
def bootChoice (fused : Nat) (a b : BootSlot) : Option Nat :=
  match BootSlot.accepted a fused, BootSlot.accepted b fused with
  | true, true => some (if a.version < b.version then b.security else a.security)
  | true, false => some a.security
  | false, true => some b.security
  | false, false => none

/-- BOOT_IMAGE_VERIFY (R327, R330). -/
def execBootImageVerify (p : PortNo) (slot0 slot1 : BootSlot) (s : State) : Result :=
  if !s.alive ∨ p.val ∈ s.health.proofersFailed then s.stay "R330"
  else if (s.power.rst ≠ .startCold ∧ s.power.rst ≠ .startWarm) ∨ s.boot.verified.any (fun e => decide (e.1 = p.val)) then
    s.stay "R330"
  else
    .next { s with boot := { s.boot with
      verified := s.boot.verified ++ [(p.val, bootChoice s.boot.fusedMin slot0 slot1)] } }.bootDecide

/-- A unit that start-up finds faulty: a stack has nothing to lose yet. -/
def State.startFaulty (s : State) (u cause : Nat) : State :=
  if s.unitFaulty u then s
  else if unitClass u = 3 then s.markFaulty u cause
  else s.unitFails u cause

/-- GRID_COLUMNS and SPARES_FREE of a hearth before any binding: its logical grid of R176. -/
def State.startGrid (s : State) (h : Nat) : State :=
  let hh := s.hearth h
  if hh.faulty.isEmpty then s
  else
    let n := (hearthGrid h hh.faulty).cols.length
    s.setHearth h { hh with
      gridColumns := n
      sparesFree := 1088 - hh.faulty.length - 32 * n }

/-- The journal is formatted on the pair of R219. -/
def State.formatJournal (s : State) : State :=
  match s.journalPair with
  | some j => { s with journal := { Journal.reset with first := j, second := partner j } }
  | none => s.markFaulty unitJournal 2

/-- Health at a cold start: the tests' failures with cause 2, then the persistent record (R242). -/
def State.rebuildHealth (s : State) (failed : List Nat) : State :=
  let s := failed.foldl (fun s u => s.startFaulty u 2) s
  let s := s.boot.persistent.foldl (fun s e => s.startFaulty e.1 e.2) s
  ((List.range 16).foldl State.startGrid s).formatJournal

/-- A manager strapped with a NODE_ID other than 0 runs alone and says so once (R288). -/
def State.loneManager (s : State) : State :=
  if s.boot.manager ∧ s.boot.nodeStrap ≠ 0 ∧ !s.boot.loneLogged then
    { s with boot := { s.boot with loneLogged := true } }.deny unitLeaven .value 0
  else s

/-- Start-up ends (R328). -/
def State.startEnds (s : State) : State :=
  let s := { s with power := { s.power with rst := .run } }
  if s.boot.manager then s.loneManager.becomeReady else (s.enter .awaitManager).tryReady

/-- READINESS (R242, R323, R328): the hearth start-up tests are not repeated after a warm reset. -/
def execReadiness (failed : List Nat) (s : State) : Result :=
  if !s.leavenUp ∨ s.boot.dev ≠ .leavenUp then s.stay "R328"
  else match s.power.rst with
  | .startCold => .next (s.rebuildHealth failed).startEnds
  | .startWarm => .next s.startEnds
  | _ => s.stay "R328"

/-! ## Hearth domains (R317, R318) -/

/-- A core in lull keeps its handles and its banks' contents, not its tile or its accumulators (R146). -/
def Core.lulled (c : Core) : Core :=
  if c.power ≠ .on then c
  else allBanks.foldl (fun c b =>
      if (c.bank b).power = .awake then c.setBank b { c.bank b with power := if (c.bank b).queue.isEmpty then .lull else .closingLull }
      else c)
    { c with
      power := .low
      run := none
      chainWait := none
      slots := []
      acc := []
      sample := none }

/-- HEARTH_LULL (R204, R318): the hearth's partition has had no running item for 1 ms, or the hearth belongs to none. -/
def execHearthLull (h : Hearth) (s : State) : Result :=
  if !s.leavenUp ∨ !s.hearthRuns h.val ∨ s.logicOf h.val ≠ .on then s.stay "R318"
  else match s.partOf h.val with
  | none => .next ((s.mapHearthCores h.val Core.lulled).setLogic h.val .low)
  | some p =>
    if (s.part p).current.isSome then s.stay "R318"
    else
      let s := s.reach ((s.part p).lastRun + 1000000)
      .next ((s.mapHearthCores h.val Core.lulled).setLogic h.val .low)

/-- A core that goes off with its hearth's logic domain loses everything but its epoch and handle table (R133, R146). -/
def Core.hearthOff (c : Core) : Core :=
  { c.lose with banks := allBanks.map fun b => (b, { (c.bank b).kept with power := .off }) }

/-- HEARTH_OFF (R318): the hearth has belonged to no partition for 100 ms. -/
def execHearthOff (h : Hearth) (s : State) : Result :=
  if !s.leavenUp ∨ !s.hearthRuns h.val then s.stay "R318"
  else if (s.partOf h.val).isSome then s.stay "R318"
  else
    let s := s.reach (tget 0 s.power.leftAt h.val + 100000000)
    let s := (s.mapHearthCores h.val Core.hearthOff).setLogic h.val .off
    .next { s with
      scratch := s.scratch.filter fun e => decide (e.1 / 458752 / 1088 ≠ h.val)
      folds := tset [] s.folds h.val []
      movers := s.movers.filter fun e => decide (e.1 / 8 ≠ h.val) }

/-- The state of a hearth memory domain: RETENTION while every bank of the hearth is in lull (Table 15-5). -/
def State.memoryState (s : State) (h : Nat) : Domain :=
  if s.memoryOf h = .off then .off
  else if (List.range 1088).all fun i => allBanks.all fun b => decide (((s.core (coreKey h i)).bank b).power = .lull) then .low
  else .on

/-- REF100 (R319). -/
def execRef100 (present : Bool) (s : State) : Result := .next { s with time := { s.time with ref100 := present } }

end Sys2Proof.Machine
end

