-- ==== Sys2Proof/Machine/Dispatch.lean ====
section
/-!
DEFINITION. The effect of a command on everything but the queue: one arm for each constructor of Instr.
-/
namespace Sys2Proof.Machine

def exec (i : Instr) (s : State) : Host.Outcome State Fault Refusal :=
  match i with
  | .arrayStep c env => Sys2Proof.Machine.execArrayStep c env s
  | .swapStep c => Sys2Proof.Machine.execSwapStep c s
  | .shadowCheck c => Sys2Proof.Machine.execShadowCheck c s
  | .matmul c => Sys2Proof.Machine.execMatmul c s
  | .convert c env => Sys2Proof.Machine.execConvert c env s
  | .poolMax c env => Sys2Proof.Machine.execPoolMax c env s
  | .transfer p op => Sys2Proof.Machine.execTransfer p op s
  | .halo c env => Sys2Proof.Machine.execHalo c env s
  | .accRead c => Sys2Proof.Machine.execAccRead c s
  | .accSpill c => Sys2Proof.Machine.execAccSpill c s
  | .accFill c env => Sys2Proof.Machine.execAccFill c env s
  | .mark p op => Sys2Proof.Machine.execMark p op s
  | .chainIssue c => Sys2Proof.Machine.execChainIssue c s
  | .slotDrain c slot env => Sys2Proof.Machine.execSlotDrain c slot env s
  | .topkReferenceComplete c => Sys2Proof.Machine.execTopkReferenceComplete c s
  | .operationEnd p op => Sys2Proof.Machine.execOperationEnd p op s
  | .phaseToken u => Sys2Proof.Machine.execPhaseToken u s
  | .phaseBegin u => Sys2Proof.Machine.execPhaseBegin u s
  | .foldPair h k => Sys2Proof.Machine.execFoldPair h k s
  | .foldClose h fold => Sys2Proof.Machine.execFoldClose h fold s
  | .foldEmit h fold => Sys2Proof.Machine.execFoldEmit h fold s
  | .scrubRead c b row word found rewritten => Sys2Proof.Machine.execScrubRead c b row word found rewritten s
  | .bankRepair c b => Sys2Proof.Machine.execBankRepair c b s
  | .handleWrite c entry value comp => Sys2Proof.Machine.execHandleWrite c entry value comp s
  | .lullRequest c b => Sys2Proof.Machine.execLullRequest c b s
  | .autoLull c b => Sys2Proof.Machine.execAutoLull c b s
  | .offRequest c t => Sys2Proof.Machine.execOffRequest c t s
  | .closingComplete c b => Sys2Proof.Machine.execClosingComplete c b s
  | .lullWake c b => Sys2Proof.Machine.execLullWake c b s
  | .onRequest c t => Sys2Proof.Machine.execOnRequest c t s
  | .bankReturn c t => Sys2Proof.Machine.execBankReturn c t s
  | .moverBankAccess m act env => Sys2Proof.Machine.execMoverBankAccess m act env s
  | .larderRequest st r => Sys2Proof.Machine.execLarderRequest st r s
  | .larderFill st line own partner => Sys2Proof.Machine.execLarderFill st line own partner s
  | .clean st ranges => Sys2Proof.Machine.execClean st ranges s
  | .moverDescriptorStart m => Sys2Proof.Machine.execMoverDescriptorStart m s
  | .moverDescriptorComplete m k env => Sys2Proof.Machine.execMoverDescriptorComplete m k env s
  | .bind p badHealth transferNs => Sys2Proof.Machine.execBind p badHealth transferNs s
  | .trainingItemStart p badRecords => Sys2Proof.Machine.execTrainingItemStart p badRecords s
  | .start x c => Sys2Proof.Machine.execStart x c s
  | .stop x c => Sys2Proof.Machine.execStop x c s
  | .reset x c => Sys2Proof.Machine.execReset x c s
  | .contextResetComplete c => Sys2Proof.Machine.execContextResetComplete c s
  | .doorbell port c d => Sys2Proof.Machine.execDoorbell port c d s
  | .descriptorExamine c desc args => Sys2Proof.Machine.execDescriptorExamine c desc args s
  | .examinationResume c => Sys2Proof.Machine.execExaminationResume c s
  | .hostReadFailure k => Sys2Proof.Machine.execHostReadFailure k s
  | .itemChoose p => Sys2Proof.Machine.execItemChoose p s
  | .commitMark p => Sys2Proof.Machine.execCommitMark p s
  | .itemComplete c => Sys2Proof.Machine.execItemComplete c s
  | .deadlineMissed => Sys2Proof.Machine.execDeadlineMissed s
  | .itemReplay p => Sys2Proof.Machine.execItemReplay p s
  | .coreFailure c cause => Sys2Proof.Machine.execCoreFailure c cause s
  | .hearthFailure h logicDie cause => Sys2Proof.Machine.execHearthFailure h logicDie cause s
  | .hbmStackFailure st cause => Sys2Proof.Machine.execHbmStackFailure st cause s
  | .journalRelocation => Sys2Proof.Machine.execJournalRelocation s
  | .prooferFailure p cause => Sys2Proof.Machine.execProoferFailure p cause s
  | .pciePortFailure p cause => Sys2Proof.Machine.execPciePortFailure p cause s
  | .errorLogEntry k => Sys2Proof.Machine.execErrorLogEntry k s
  | .ack x v => Sys2Proof.Machine.execAck x v s
  | .elogAckHi port v => Sys2Proof.Machine.execElogAckHi port v s
  | .elogHeadLo port => Sys2Proof.Machine.execElogHeadLo port s
  | .nowLo port => Sys2Proof.Machine.execNowLo port s
  | .read port index sub => Sys2Proof.Machine.execRead port index sub s
  | .write port index sub len => Sys2Proof.Machine.execWrite port index sub len s
  | .segRead port index sub => Sys2Proof.Machine.execSegRead port index sub s
  | .segWrite port index sub => Sys2Proof.Machine.execSegWrite port index sub s
  | .abort port => Sys2Proof.Machine.execAbort port s
  | .segmentGapTimeout port => Sys2Proof.Machine.execSegmentGapTimeout port s
  | .dictionaryWrite x index sub data => Sys2Proof.Machine.execDictionaryWrite x index sub data s
  | .challenge x => Sys2Proof.Machine.execChallenge x s
  | .response x data => Sys2Proof.Machine.execResponse x data s
  | .lockoutExpiry x => Sys2Proof.Machine.execLockoutExpiry x s
  | .lock x v => Sys2Proof.Machine.execLock x v s
  | .idleLock x => Sys2Proof.Machine.execIdleLock x s
  | .key x data => Sys2Proof.Machine.execKey x data s
  | .keyFlashComplete => Sys2Proof.Machine.execKeyFlashComplete s
  | .retest x => Sys2Proof.Machine.execRetest x s
  | .retestDone passed => Sys2Proof.Machine.execRetestDone passed s
  | .retire x => Sys2Proof.Machine.execRetire x s
  | .forget x => Sys2Proof.Machine.execForget x s
  | .forgetDone => Sys2Proof.Machine.execForgetDone s
  | .advance x v => Sys2Proof.Machine.execAdvance x v s
  | .partitionMapWrite x p value comp => Sys2Proof.Machine.execPartitionMapWrite x p value comp s
  | .nextSeqWrite x c v => Sys2Proof.Machine.execNextSeqWrite x c v s
  | .delta x v => Sys2Proof.Machine.execDelta x v s
  | .running x ch v => Sys2Proof.Machine.execRunning x ch v s
  | .enable x port v => Sys2Proof.Machine.execEnable x port v s
  | .finwellGroupOff g => Sys2Proof.Machine.execFinwellGroupOff g s
  | .mctpRead m => Sys2Proof.Machine.execMctpRead m s
  | .mctpWrite m => Sys2Proof.Machine.execMctpWrite m s
  | .remoteTimeout tag => Sys2Proof.Machine.execRemoteTimeout tag s
  | .report node state time => Sys2Proof.Machine.execReport node state time s
  | .reportResend => Sys2Proof.Machine.execReportResend s
  | .idle port f => Sys2Proof.Machine.execIdle port f s
  | .writeFlit port f => Sys2Proof.Machine.execWriteFlit port f s
  | .endFlit port f => Sys2Proof.Machine.execEndFlit port f s
  | .endAck port f => Sys2Proof.Machine.execEndAck port f s
  | .endAckTimeout m => Sys2Proof.Machine.execEndAckTimeout m s
  | .mgmt port f => Sys2Proof.Machine.execMgmt port f s
  | .mgmtFragmentTimeout node => Sys2Proof.Machine.execMgmtFragmentTimeout node s
  | .hello port f => Sys2Proof.Machine.execHello port f s
  | .nodeMap port f => Sys2Proof.Machine.execNodeMap port f s
  | .linkUp port => Sys2Proof.Machine.execLinkUp port s
  | .linkAckTimeout port => Sys2Proof.Machine.execLinkAckTimeout port s
  | .retrainEnd port ok => Sys2Proof.Machine.execRetrainEnd port ok s
  | .time port f t4 => Sys2Proof.Machine.execTime port f t4 s
  | .ppsIn t => Sys2Proof.Machine.execPpsIn t s
  | .ppsLoss => Sys2Proof.Machine.execPpsLoss s
  | .windowArrival m => Sys2Proof.Machine.execWindowArrival m s
  | .go port m ctrl => Sys2Proof.Machine.execGo port m ctrl s
  | .taken m => Sys2Proof.Machine.execTaken m s
  | .echo m => Sys2Proof.Machine.execEcho m s
  | .mailboxTimeout m => Sys2Proof.Machine.execMailboxTimeout m s
  | .deviceMessagePost m words => Sys2Proof.Machine.execDeviceMessagePost m words s
  | .dtake m => Sys2Proof.Machine.execDtake m s
  | .dlost m => Sys2Proof.Machine.execDlost m s
  | .registerWrite port off v => Sys2Proof.Machine.execRegisterWrite port off v s
  | .unassignedAccess port off => Sys2Proof.Machine.execUnassignedAccess port off s
  | .bar2Read port off len => Sys2Proof.Machine.execBar2Read port off len s
  | .bar2Write port off data poisoned => Sys2Proof.Machine.execBar2Write port off data poisoned s
  | .functionLevelReset port => Sys2Proof.Machine.execFunctionLevelReset port s
  | .d3hot port => Sys2Proof.Machine.execD3hot port s
  | .busMasterEnable port => Sys2Proof.Machine.execBusMasterEnable port s
  | .perstN port level => Sys2Proof.Machine.execPerstN port level s
  | .pcieLinkSettle port width gts flitMode => Sys2Proof.Machine.execPcieLinkSettle port width gts flitMode s
  | .poisonedCompletion m addr => Sys2Proof.Machine.execPoisonedCompletion m addr s
  | .controlInterval r => Sys2Proof.Machine.execControlInterval r s
  | .throttle h tj => Sys2Proof.Machine.execThrottle h tj s
  | .thermTripN h tj => Sys2Proof.Machine.execThermTripN h tj s
  | .vin48Excursion => Sys2Proof.Machine.execVin48Excursion s
  | .vaux33Excursion => Sys2Proof.Machine.execVaux33Excursion s
  | .warmReset => Sys2Proof.Machine.execWarmReset s
  | .sysRstNRelease lowNs => Sys2Proof.Machine.execSysRstNRelease lowNs s
  | .coldReset env => Sys2Proof.Machine.execColdReset env s
  | .bootImageVerify p slot0 slot1 => Sys2Proof.Machine.execBootImageVerify p slot0 slot1 s
  | .readiness failed => Sys2Proof.Machine.execReadiness failed s
  | .hearthLull h => Sys2Proof.Machine.execHearthLull h s
  | .hearthOff h => Sys2Proof.Machine.execHearthOff h s
  | .journalRelocationComplete => Sys2Proof.Machine.execJournalRelocationComplete s
  | .ref100 present => Sys2Proof.Machine.execRef100 present s
  | .i3cDynamicAddress addr => Sys2Proof.Machine.execI3cDynamicAddress addr s
  | .hotReset port => Sys2Proof.Machine.execHotReset port s

end Sys2Proof.Machine
end

