-- ==== Sys2Proof/Safety.lean ====
section
/-!
DEFINITION. What claims are stated in: the parts of State that a command may change (its frame) and the invariants that every
step keeps.
-/
namespace Sys2Proof.Machine

/-- The parts of State besides the queue. -/
inductive StateField where
  | time
  | power
  | boot
  | ports
  | mboxes
  | sessions
  | dict
  | log
  | health
  | cores
  | scratch
  | hbm
  | hbmPoison
  | hbmEcc
  | larders
  | movers
  | folds
  | parts
  | ctxs
  | journal
  | train
  | seeds
  | chanUse
  | links
  | net
  | paceHist
  | freeCtr
  deriving DecidableEq, Repr

/-- A part holds in s what it holds in a. -/
def StateField.same (f : StateField) (a s : State) : Prop :=
  match f with
  | .time => s.time = a.time
  | .power => s.power = a.power
  | .boot => s.boot = a.boot
  | .ports => s.ports = a.ports
  | .mboxes => s.mboxes = a.mboxes
  | .sessions => s.sessions = a.sessions
  | .dict => s.dict = a.dict
  | .log => s.log = a.log
  | .health => s.health = a.health
  | .cores => s.cores = a.cores
  | .scratch => s.scratch = a.scratch
  | .hbm => s.hbm = a.hbm
  | .hbmPoison => s.hbmPoison = a.hbmPoison
  | .hbmEcc => s.hbmEcc = a.hbmEcc
  | .larders => s.larders = a.larders
  | .movers => s.movers = a.movers
  | .folds => s.folds = a.folds
  | .parts => s.parts = a.parts
  | .ctxs => s.ctxs = a.ctxs
  | .journal => s.journal = a.journal
  | .train => s.train = a.train
  | .seeds => s.seeds = a.seeds
  | .chanUse => s.chanUse = a.chanUse
  | .links => s.links = a.links
  | .net => s.net = a.net
  | .paceHist => s.paceHist = a.paceHist
  | .freeCtr => s.freeCtr = a.freeCtr

/-- The parts of State that a command may change; it leaves every other part as it is. -/
def touches : Instr → List StateField
  | .arrayStep _ _ => [.dict, .log, .health, .cores, .scratch, .folds, .parts]
  | .swapStep _ => [.dict, .log, .health, .cores, .scratch, .folds, .parts]
  | .shadowCheck _ => [.dict, .cores, .parts]
  | .matmul _ => [.dict, .log, .health, .cores, .scratch, .folds, .parts]
  | .convert _ _ => [.dict, .log, .health, .cores, .scratch, .parts]
  | .poolMax _ _ => [.dict, .log, .health, .cores, .scratch, .parts]
  | .transfer _ _ => [.log, .movers, .parts, .net]
  | .halo _ _ => [.dict, .log, .health, .cores, .scratch, .parts]
  | .accRead _ => [.dict, .log, .health, .cores, .scratch, .parts]
  | .accSpill _ => [.dict, .log, .health, .cores, .scratch, .parts]
  | .accFill _ _ => [.dict, .log, .health, .cores, .scratch, .parts]
  | .mark _ _ => [.parts]
  | .chainIssue _ => [.dict, .log, .health, .cores, .scratch, .folds, .parts]
  | .slotDrain _ _ _ => [.dict, .log, .health, .cores, .scratch, .folds, .parts]
  | .topkReferenceComplete _ => [.cores]
  | .operationEnd _ _ => [.dict, .log, .parts, .ctxs]
  | .phaseToken _ => [.cores, .parts]
  | .phaseBegin _ => [.dict, .health, .cores, .scratch, .parts, .freeCtr]
  | .foldPair _ _ => [.dict, .folds]
  | .foldClose _ _ => [.dict, .log, .health, .cores, .scratch, .folds, .parts]
  | .foldEmit _ _ => [.dict, .cores, .folds]
  | .scrubRead _ _ _ _ _ _ => [.dict, .health, .cores, .scratch]
  | .bankRepair _ _ => [.health, .cores, .scratch]
  | .handleWrite _ _ _ _ => [.log, .cores]
  | .lullRequest _ _ => [.cores]
  | .autoLull _ _ => [.time, .cores]
  | .offRequest _ _ => [.cores]
  | .closingComplete _ _ => [.cores]
  | .lullWake _ _ => [.dict, .cores]
  | .onRequest _ _ => [.cores]
  | .bankReturn _ _ => [.cores, .scratch]
  | .moverBankAccess _ _ _ =>
    [.dict, .log, .health, .cores, .scratch, .hbm, .hbmPoison, .hbmEcc, .larders, .movers, .parts, .chanUse]
  | .larderRequest _ _ => [.dict, .log, .hbm, .hbmPoison, .hbmEcc, .larders, .parts]
  | .larderFill _ _ _ _ => [.dict, .log, .hbm, .hbmPoison, .hbmEcc, .larders, .parts]
  | .clean _ _ => [.dict, .hbm, .hbmPoison, .hbmEcc, .larders]
  | .moverDescriptorStart _ =>
    [.ports, .dict, .log, .health, .cores, .scratch, .hbm, .hbmPoison, .hbmEcc, .larders, .movers, .parts,
     .chanUse, .links, .net]
  | .moverDescriptorComplete _ _ _ =>
    [.ports, .dict, .log, .health, .cores, .scratch, .hbm, .hbmPoison, .hbmEcc, .larders, .movers, .parts,
     .chanUse, .links, .net]
  | .bind _ _ _ =>
    [.power, .ports, .dict, .log, .health, .cores, .scratch, .hbm, .hbmPoison, .hbmEcc, .larders, .movers, .folds,
     .parts, .ctxs, .journal, .train, .chanUse]
  | .trainingItemStart _ _ => [.dict, .log, .parts, .ctxs, .journal, .train]
  | .start _ _ =>
    [.time, .power, .boot, .ports, .mboxes, .sessions, .dict, .log, .health, .cores, .hbm, .hbmPoison, .hbmEcc,
     .larders, .movers, .folds, .parts, .ctxs, .journal, .train, .seeds, .chanUse, .links, .net]
  | .stop _ _ =>
    [.time, .power, .boot, .ports, .mboxes, .sessions, .dict, .log, .health, .cores, .hbm, .hbmPoison, .hbmEcc,
     .larders, .movers, .folds, .parts, .ctxs, .journal, .train, .seeds, .chanUse, .links, .net]
  | .reset _ _ =>
    [.time, .power, .boot, .ports, .mboxes, .sessions, .dict, .log, .health, .cores, .hbm, .hbmPoison, .hbmEcc,
     .larders, .movers, .folds, .parts, .ctxs, .journal, .train, .seeds, .chanUse, .links, .net]
  | .contextResetComplete _ => [.ctxs]
  | .doorbell _ _ _ => [.power, .cores, .ctxs]
  | .descriptorExamine _ _ _ => [.ports, .dict, .log, .ctxs, .journal, .seeds]
  | .examinationResume _ => [.ports, .dict, .log, .ctxs, .journal, .seeds]
  | .hostReadFailure _ => [.dict, .log, .movers, .parts, .ctxs, .chanUse]
  | .itemChoose _ => [.log, .parts, .ctxs, .journal]
  | .commitMark _ =>
    [.dict, .log, .health, .cores, .scratch, .hbm, .hbmPoison, .hbmEcc, .larders, .movers, .folds, .parts, .ctxs,
     .journal, .train, .chanUse]
  | .itemComplete _ => [.ports, .ctxs, .journal]
  | .deadlineMissed => [.power, .log, .parts, .ctxs]
  | .itemReplay _ =>
    [.power, .ports, .dict, .log, .health, .cores, .scratch, .hbm, .hbmPoison, .hbmEcc, .larders, .movers, .folds,
     .parts, .ctxs, .journal, .train, .chanUse]
  | .coreFailure _ _ =>
    [.time, .power, .boot, .ports, .mboxes, .sessions, .dict, .log, .health, .cores, .hbm, .hbmPoison, .hbmEcc,
     .larders, .movers, .folds, .parts, .ctxs, .journal, .chanUse, .links, .net]
  | .hearthFailure _ _ _ =>
    [.time, .power, .boot, .ports, .mboxes, .sessions, .dict, .log, .health, .cores, .hbm, .hbmPoison, .hbmEcc,
     .larders, .movers, .folds, .parts, .ctxs, .journal, .chanUse, .links, .net]
  | .hbmStackFailure _ _ =>
    [.time, .power, .boot, .ports, .mboxes, .sessions, .dict, .log, .health, .cores, .hbm, .hbmPoison, .hbmEcc,
     .larders, .movers, .folds, .parts, .ctxs, .journal, .chanUse, .links, .net]
  | .journalRelocation => [.journal]
  | .prooferFailure _ _ =>
    [.time, .power, .boot, .ports, .mboxes, .sessions, .dict, .log, .health, .cores, .hbm, .hbmPoison, .hbmEcc,
     .larders, .movers, .folds, .parts, .ctxs, .journal, .chanUse, .links, .net]
  | .pciePortFailure _ _ =>
    [.time, .power, .boot, .ports, .mboxes, .sessions, .dict, .log, .health, .cores, .hbm, .hbmPoison, .hbmEcc,
     .larders, .movers, .folds, .parts, .ctxs, .journal, .chanUse, .links, .net]
  | .errorLogEntry _ => [.ports, .dict, .log, .health]
  | .ack _ _ =>
    [.time, .power, .boot, .ports, .mboxes, .sessions, .dict, .log, .health, .cores, .hbm, .hbmPoison, .hbmEcc,
     .larders, .movers, .folds, .parts, .ctxs, .journal, .train, .seeds, .chanUse, .links, .net]
  | .elogAckHi _ _ => [.log]
  | .elogHeadLo _ => [.ports]
  | .nowLo _ => [.ports]
  | .read _ _ _ =>
    [.time, .power, .boot, .ports, .mboxes, .sessions, .dict, .log, .health, .cores, .hbm, .hbmPoison, .hbmEcc,
     .larders, .movers, .folds, .parts, .ctxs, .journal, .train, .seeds, .chanUse, .links, .net, .freeCtr]
  | .write _ _ _ _ =>
    [.time, .power, .boot, .ports, .mboxes, .sessions, .dict, .log, .health, .cores, .hbm, .hbmPoison, .hbmEcc,
     .larders, .movers, .folds, .parts, .ctxs, .journal, .train, .seeds, .chanUse, .links, .net, .freeCtr]
  | .segRead _ _ _ =>
    [.time, .power, .boot, .ports, .mboxes, .sessions, .dict, .log, .health, .cores, .hbm, .hbmPoison, .hbmEcc,
     .larders, .movers, .folds, .parts, .ctxs, .journal, .train, .seeds, .chanUse, .links, .net, .freeCtr]
  | .segWrite _ _ _ =>
    [.time, .power, .boot, .ports, .mboxes, .sessions, .dict, .log, .health, .cores, .hbm, .hbmPoison, .hbmEcc,
     .larders, .movers, .folds, .parts, .ctxs, .journal, .train, .seeds, .chanUse, .links, .net, .freeCtr]
  | .abort _ =>
    [.time, .power, .boot, .ports, .mboxes, .sessions, .dict, .log, .health, .cores, .hbm, .hbmPoison, .hbmEcc,
     .larders, .movers, .folds, .parts, .ctxs, .journal, .train, .seeds, .chanUse, .links, .net, .freeCtr]
  | .segmentGapTimeout _ => [.time, .ports, .mboxes, .dict, .log]
  | .dictionaryWrite _ _ _ _ =>
    [.time, .power, .boot, .ports, .mboxes, .sessions, .dict, .log, .health, .cores, .hbm, .hbmPoison, .hbmEcc,
     .larders, .movers, .folds, .parts, .ctxs, .journal, .train, .seeds, .chanUse, .links, .net]
  | .challenge _ => [.sessions, .log, .freeCtr]
  | .response _ _ =>
    [.time, .power, .boot, .ports, .mboxes, .sessions, .dict, .log, .health, .cores, .hbm, .hbmPoison, .hbmEcc,
     .larders, .movers, .folds, .parts, .ctxs, .journal, .train, .seeds, .chanUse, .links, .net]
  | .lockoutExpiry _ => [.time, .sessions]
  | .lock _ _ =>
    [.time, .power, .boot, .ports, .mboxes, .sessions, .dict, .log, .health, .cores, .hbm, .hbmPoison, .hbmEcc,
     .larders, .movers, .folds, .parts, .ctxs, .journal, .train, .seeds, .chanUse, .links, .net]
  | .idleLock _ => [.time, .sessions]
  | .key _ _ =>
    [.time, .power, .boot, .ports, .mboxes, .sessions, .dict, .log, .health, .cores, .hbm, .hbmPoison, .hbmEcc,
     .larders, .movers, .folds, .parts, .ctxs, .journal, .train, .seeds, .chanUse, .links, .net]
  | .keyFlashComplete => [.boot]
  | .retest _ =>
    [.time, .power, .boot, .ports, .mboxes, .sessions, .dict, .log, .health, .cores, .hbm, .hbmPoison, .hbmEcc,
     .larders, .movers, .folds, .parts, .ctxs, .journal, .train, .seeds, .chanUse, .links, .net]
  | .retestDone _ => [.ports, .log, .health, .cores, .scratch, .hbm, .hbmPoison, .larders, .links]
  | .retire _ =>
    [.time, .power, .boot, .ports, .mboxes, .sessions, .dict, .log, .health, .cores, .hbm, .hbmPoison, .hbmEcc,
     .larders, .movers, .folds, .parts, .ctxs, .journal, .train, .seeds, .chanUse, .links, .net]
  | .forget _ =>
    [.time, .power, .boot, .ports, .mboxes, .sessions, .dict, .log, .health, .cores, .hbm, .hbmPoison, .hbmEcc,
     .larders, .movers, .folds, .parts, .ctxs, .journal, .train, .seeds, .chanUse, .links, .net]
  | .forgetDone => [.boot, .health]
  | .advance _ _ =>
    [.time, .power, .boot, .ports, .mboxes, .sessions, .dict, .log, .health, .cores, .hbm, .hbmPoison, .hbmEcc,
     .larders, .movers, .folds, .parts, .ctxs, .journal, .train, .seeds, .chanUse, .links, .net]
  | .partitionMapWrite _ _ _ _ =>
    [.time, .power, .boot, .ports, .mboxes, .sessions, .dict, .log, .health, .cores, .hbm, .hbmPoison, .hbmEcc,
     .larders, .movers, .folds, .parts, .ctxs, .journal, .train, .seeds, .chanUse, .links, .net]
  | .nextSeqWrite _ _ _ =>
    [.time, .power, .boot, .ports, .mboxes, .sessions, .dict, .log, .health, .cores, .hbm, .hbmPoison, .hbmEcc,
     .larders, .movers, .folds, .parts, .ctxs, .journal, .train, .seeds, .chanUse, .links, .net]
  | .delta _ _ =>
    [.time, .power, .boot, .ports, .mboxes, .sessions, .dict, .log, .health, .cores, .hbm, .hbmPoison, .hbmEcc,
     .larders, .movers, .folds, .parts, .ctxs, .journal, .train, .seeds, .chanUse, .links, .net]
  | .running _ _ _ =>
    [.time, .power, .boot, .ports, .mboxes, .sessions, .dict, .log, .health, .cores, .hbm, .hbmPoison, .hbmEcc,
     .larders, .movers, .folds, .parts, .ctxs, .journal, .train, .seeds, .chanUse, .links, .net]
  | .enable _ _ _ =>
    [.time, .power, .boot, .ports, .mboxes, .sessions, .dict, .log, .health, .cores, .hbm, .hbmPoison, .hbmEcc,
     .larders, .movers, .folds, .parts, .ctxs, .journal, .train, .seeds, .chanUse, .links, .net]
  | .finwellGroupOff _ => [.power]
  | .mctpRead _ =>
    [.time, .power, .boot, .ports, .mboxes, .sessions, .dict, .log, .health, .cores, .hbm, .hbmPoison, .hbmEcc,
     .larders, .movers, .folds, .parts, .ctxs, .journal, .train, .seeds, .chanUse, .links, .net, .freeCtr]
  | .mctpWrite _ =>
    [.time, .power, .boot, .ports, .mboxes, .sessions, .dict, .log, .health, .cores, .hbm, .hbmPoison, .hbmEcc,
     .larders, .movers, .folds, .parts, .ctxs, .journal, .train, .seeds, .chanUse, .links, .net, .freeCtr]
  | .remoteTimeout _ => [.time, .ports, .mboxes, .log, .links, .net]
  | .report _ _ _ => [.log, .links, .net]
  | .reportResend => [.links, .net]
  | .idle _ _ => [.dict, .log, .movers, .links, .net]
  | .writeFlit _ _ => [.dict, .log, .hbm, .hbmPoison, .hbmEcc, .larders, .movers, .links, .net]
  | .endFlit _ _ => [.dict, .log, .hbm, .hbmPoison, .hbmEcc, .larders, .movers, .links, .net]
  | .endAck _ _ => [.dict, .log, .movers, .parts, .chanUse, .links, .net]
  | .endAckTimeout _ => [.time, .dict, .log, .movers, .parts, .chanUse]
  | .mgmt _ _ =>
    [.time, .power, .boot, .ports, .mboxes, .sessions, .dict, .log, .health, .cores, .hbm, .hbmPoison, .hbmEcc,
     .larders, .movers, .folds, .parts, .ctxs, .journal, .train, .seeds, .chanUse, .links, .net, .freeCtr]
  | .mgmtFragmentTimeout _ => [.time, .net]
  | .hello _ _ => [.dict, .log, .movers, .links, .net]
  | .nodeMap _ _ => [.time, .boot, .ports, .dict, .log, .movers, .links, .net]
  | .linkUp _ => [.time, .links, .net]
  | .linkAckTimeout _ =>
    [.time, .power, .boot, .ports, .mboxes, .sessions, .dict, .log, .health, .cores, .hbm, .hbmPoison, .hbmEcc,
     .larders, .movers, .folds, .parts, .ctxs, .journal, .chanUse, .links, .net]
  | .retrainEnd _ _ =>
    [.time, .power, .boot, .ports, .mboxes, .sessions, .dict, .log, .health, .cores, .hbm, .hbmPoison, .hbmEcc,
     .larders, .movers, .folds, .parts, .ctxs, .journal, .chanUse, .links, .net]
  | .time _ _ _ => [.time, .boot, .ports, .dict, .log, .movers, .links, .net]
  | .ppsIn _ => [.time]
  | .ppsLoss => [.time]
  | .windowArrival _ =>
    [.ports, .dict, .log, .health, .cores, .scratch, .hbm, .hbmPoison, .hbmEcc, .larders, .movers, .parts,
     .chanUse, .links, .net]
  | .go _ _ _ => [.power, .ports, .mboxes, .log]
  | .taken _ =>
    [.time, .power, .boot, .ports, .mboxes, .sessions, .dict, .log, .health, .cores, .hbm, .hbmPoison, .hbmEcc,
     .larders, .movers, .folds, .parts, .ctxs, .journal, .train, .seeds, .chanUse, .links, .net]
  | .echo _ => [.ports, .mboxes, .log]
  | .mailboxTimeout _ => [.time, .ports, .mboxes, .dict, .log]
  | .deviceMessagePost _ _ => [.ports, .mboxes]
  | .dtake _ => [.ports, .mboxes]
  | .dlost _ => [.time, .ports, .mboxes, .dict, .log]
  | .registerWrite _ _ _ =>
    [.time, .power, .boot, .ports, .mboxes, .sessions, .dict, .log, .health, .cores, .hbm, .hbmPoison, .hbmEcc,
     .larders, .movers, .folds, .parts, .ctxs, .journal, .train, .seeds, .chanUse, .links, .net, .freeCtr]
  | .unassignedAccess _ _ => [.log]
  | .bar2Read _ _ _ => [.ports, .dict, .log, .hbm, .hbmPoison, .hbmEcc, .larders, .freeCtr]
  | .bar2Write _ _ _ _ => [.dict, .log, .hbm, .hbmPoison, .hbmEcc, .larders]
  | .functionLevelReset _ => [.ports, .mboxes, .sessions, .ctxs]
  | .d3hot _ => [.ports]
  | .busMasterEnable _ => [.ports, .ctxs]
  | .perstN _ _ => [.ports, .mboxes, .sessions, .ctxs]
  | .pcieLinkSettle _ _ _ _ =>
    [.time, .power, .boot, .ports, .mboxes, .sessions, .dict, .log, .health, .cores, .hbm, .hbmPoison, .hbmEcc,
     .larders, .movers, .folds, .parts, .ctxs, .journal, .chanUse, .links, .net]
  | .poisonedCompletion _ _ => [.dict, .log, .movers, .parts, .chanUse]
  | .controlInterval _ => [.power, .dict, .paceHist]
  | .throttle _ _ => [.power, .dict, .freeCtr]
  | .thermTripN _ _ =>
    [.power, .boot, .cores, .scratch, .hbm, .hbmPoison, .hbmEcc, .larders, .movers, .folds, .chanUse, .links]
  | .vin48Excursion =>
    [.power, .boot, .cores, .scratch, .hbm, .hbmPoison, .hbmEcc, .larders, .movers, .folds, .chanUse, .links]
  | .vaux33Excursion =>
    [.power, .boot, .sessions, .cores, .scratch, .hbm, .hbmPoison, .hbmEcc, .larders, .movers, .folds, .chanUse,
     .links, .net]
  | .warmReset =>
    [.power, .boot, .ports, .sessions, .dict, .log, .health, .cores, .scratch, .hbm, .hbmPoison, .hbmEcc, .larders,
     .movers, .folds, .parts, .ctxs, .chanUse, .links]
  | .sysRstNRelease _ =>
    [.power, .boot, .ports, .cores, .scratch, .hbm, .hbmPoison, .hbmEcc, .larders, .movers, .folds, .chanUse,
     .links]
  | .coldReset _ =>
    [.time, .power, .boot, .ports, .mboxes, .sessions, .dict, .log, .health, .cores, .scratch, .hbm, .hbmPoison,
     .hbmEcc, .larders, .movers, .folds, .parts, .ctxs, .journal, .train, .seeds, .chanUse, .links, .net,
     .paceHist, .freeCtr]
  | .bootImageVerify _ _ _ => [.power, .boot, .ports, .dict, .log, .health, .parts, .ctxs, .links, .net]
  | .readiness _ =>
    [.time, .power, .boot, .ports, .mboxes, .sessions, .dict, .log, .health, .cores, .hbm, .hbmPoison, .hbmEcc,
     .larders, .movers, .folds, .parts, .ctxs, .journal, .chanUse, .links, .net]
  | .hearthLull _ => [.time, .power, .cores]
  | .hearthOff _ => [.time, .power, .cores, .scratch, .movers, .folds]
  | .journalRelocationComplete => [.journal]
  | .ref100 _ => [.time]
  | .i3cDynamicAddress _ => [.sessions, .net]
  | .hotReset _ => [.ports, .mboxes, .sessions, .ctxs]

/-- The memories are in canonical form: HBM, and the scratchpads with the default that every word is poisoned (R146). -/
def memOk (hbm : List Host.Cell) (scratch : Table SWord) : Prop := Memory.wf hbm = true ∧ twf SWord.poisoned scratch = true

/-- The form of the memories as an invariant of a state. -/
def MemoryForm (s : State) : Prop := memOk s.hbm s.scratch

/-- R236: ACK does not stand above HEAD. -/
def LogWindow (s : State) : Prop := s.log.ack ≤ s.log.head

/-! ## The array's exact sums (R28) -/

/-- The registers of a column after the first j steps of a pass over a vector. -/
def runRegs (b : Binding) (r : OpRec) (t : Tile) (v : FedVec) (col j : Nat) : List Int :=
  (List.range j).foldl (fun regs i => stepRegs b r t v v.len (i + 1) col regs) [0, 0, 0, 0]

/-- The dot product of a row-group's active activations with its enabled weights of a column. -/
def groupDot (b : Binding) (r : OpRec) (t : Tile) (v : FedVec) (col g : Nat) : Int :=
  ((List.range 16).map fun d =>
    let ai := t.actOf r (16 * g + d) col
    match t.weight b r (16 * g + d) col with
    | some w => if v.active.getD ai false then v.values.getD ai 0 * w else 0
    | none => 0).sum

/-- The entry after the partials of a list of K-blocks, as (partial, exponent), are aligned and added in its order. -/
def addBlocks (acc16 : Bool) (anchor : Int) (e : Entry) (bs : List (Int × Int)) : Entry :=
  bs.foldl (fun e x => (accAlign acc16 e x.1 x.2 anchor).1) e

/-- The dictionary write that a command is: session, index, subindex and bytes (R204, R206, R236, R246, R254, R255,
R281, R303). -/
def objectWritten : Instr → Option (Session × Nat × Nat × List Byte)
  | .dictionaryWrite x i sub data => some (x, i.toNat, sub.toNat, data)
  | .start x c => some (x, 0x5000 + c.val, 0x0A, [1])
  | .stop x c => some (x, 0x5000 + c.val, 0x0A, [2])
  | .reset x c => some (x, 0x5000 + c.val, 0x0A, [3])
  | .ack x v => some (x, 0x7000, 2, toBytes 8 v.toNat)
  | .response x data => some (x, 0x1010, 2, data)
  | .lock x v => some (x, 0x1010, 4, [v])
  | .key x data => some (x, 0x1010, 7, data)
  | .retest x => some (x, 0x4031, 2, [1])
  | .retire x => some (x, 0x4031, 2, [2])
  | .forget x => some (x, 0x4031, 2, [3])
  | .advance x v => some (x, 0x6010, 5, [v])
  | .partitionMapWrite x p v c => some (x, 0x4000, p.val + 1, toBytes 4 v.toNat ++ toBytes 4 c.toNat)
  | .nextSeqWrite x c v => some (x, 0x5000 + c.val, 7, toBytes 4 v.toNat)
  | .delta x v => some (x, 0x6041, 2, toBytes 4 v.toNat)
  | .running x ch v => some (x, 0x9100 + ch.val, 2, toBytes 8 v.toNat)
  | .enable x port v => some (x, 0x9000 + port.val, 3, [v])
  | _ => none

/-- The unit that a failure command names, and the cause (R225, R241). -/
def failureOf : Instr → Option (Nat × Nat)
  | .coreFailure c cause => some (unitCore (idKey c), cause)
  | .hearthFailure h logicDie cause => some (if logicDie then unitHearth h.val else unitStack h.val, cause)
  | .hbmStackFailure st cause => some (unitStack st.val, cause)
  | .prooferFailure p cause => some (unitProofer p.val, cause)
  | .pciePortFailure p cause => some (unitPcie p.val, cause)
  | _ => none

/-- The port, the flit and the TYPE of a command that is the arrival of a flit (Table 14-2). -/
def flitCommand : Instr → Option (FwNo × BitVec 2048 × Nat)
  | .idle p f => some (p, f, 0)
  | .writeFlit p f => some (p, f, 1)
  | .endFlit p f => some (p, f, 2)
  | .endAck p f => some (p, f, 3)
  | .mgmt p f => some (p, f, 4)
  | .time p f _ => some (p, f, 5)
  | .hello p f => some (p, f, 6)
  | .nodeMap p f => some (p, f, 7)
  | _ => none

end Sys2Proof.Machine
end

