-- ==== Sys2Proof/Certificates/Slice0/Obligations.lean ====
section
/-!
DEFINITION. The statements for the provers, family by family, in the order of the rules of spec/.
-/
open Sys2Proof Sys2Proof.Machine

/-! ## The queue, the idle step, the parts a command may change, invariants of every step -/

/-- A step takes the command at the front of the queue and runs exec on it with the queue's rest. -/
def Obligations.StepRunsTheFrontCommand : Prop :=
  ∀ (c : Instr) (rest : List Instr) (s : State), s.pending = c :: rest →
    step s = exec c { s with pending := rest }

/-- R319 (the model's tick, log 5, is a design choice): on an empty queue the timekeeper moves on by one unit of its time
base while VAUX33 holds, the idle baker cores lie in lull while Leaven runs, and nothing else changes. -/
def Obligations.EmptyQueueTicksTheTimekeeper : Prop :=
  ∀ s : State, s.pending = [] →
    ∃ t, step s = .next t ∧ t.pending = [] ∧ (∀ f : StateField, f ≠ .time → f ≠ .power → f.same s t) ∧
      t.power = { s.power with bakerLull := s.power.bakerLull || s.leavenUp } ∧
      (s.power.vaux33 = false → t.time = s.time) ∧
      (s.power.vaux33 = true → s.time.ref100 = true → t.time = { s.time with now := (s.time.now + 1) % 2 ^ 64 }) ∧
      (s.power.vaux33 = true → s.time.ref100 = false →
        t.time = { s.time with now := (s.time.now + 30517 + (s.time.frac + 37) / 64) % 2 ^ 64,
                               frac := (s.time.frac + 37) % 64 })

/-- The frame of every command: a part of State outside `touches` holds after it what it held before, and so does the
queue. -/
def Obligations.CommandsChangeOnlyTheirParts : Prop :=
  ∀ (c : Instr) (s t : State), exec c s = .next t →
    t.pending = s.pending ∧ ∀ f : StateField, f ∉ touches c → f.same s t

/-- The state after reset has the memories in canonical form, no entry in the log, and no command waiting. -/
def Obligations.ResetMeetsTheInvariants : Prop :=
  MemoryForm State.reset ∧ LogWindow State.reset ∧ State.reset.log.head = 0 ∧ State.reset.pending = []

/-- Every step keeps the canonical form of HBM and of the scratchpads. -/
def Obligations.EveryStepKeepsTheMemoryForm : Prop :=
  ∀ s t : State, MemoryForm s → step s = .next t → MemoryForm t

/-- R236, R235: every step keeps ACK at or below HEAD; neither falls but by a cold reset that no trip holds off (R314),
which sets both to 0. -/
def Obligations.EveryStepKeepsTheLogWindow : Prop :=
  ∀ s t : State, LogWindow s → step s = .next t →
    LogWindow t ∧
    ((∀ env, s.pending.head? ≠ some (.coldReset env)) → s.log.head ≤ t.log.head ∧ s.log.ack ≤ t.log.ack) ∧
    (∀ env, s.pending.head? = some (.coldReset env) →
      (s.tripHolds = false → t.log.head = 0 ∧ t.log.ack = 0) ∧ (s.tripHolds = true → t.log = s.log))

/-- R324: MGR_SEL and NODE_ID are sampled when a cold reset ends (one that no trip holds off, R314), no other step changes
the sampled values, and 0x1001.03 ROLE and 0x1001.04 NODE_ID report them in every session. -/
def Obligations.StrapsAreSampledByAColdResetAlone : Prop :=
  (∀ s t : State, step s = .next t →
    ((∀ env, s.pending.head? ≠ some (.coldReset env)) →
      t.boot.manager = s.boot.manager ∧ t.boot.nodeStrap = s.boot.nodeStrap) ∧
    (∀ env, s.pending.head? = some (.coldReset env) →
      (s.tripHolds = false → t.boot.manager = env.mgrSel ∧ t.boot.nodeStrap = env.nodeId.val) ∧
      (s.tripHolds = true → t.boot = s.boot))) ∧
  ∀ (s : State) (x : Session),
    s.objRead x 0x1001 3 = (s, .ok [if s.boot.manager then 1 else 0]) ∧
    s.objRead x 0x1001 4 = (s, .ok [BitVec.ofNat 8 s.boot.nodeStrap])

/-- R330: the fused minimum security version never falls.
R308, R319: while VAUX33 stays within its range the timekeeper never moves backward, whatever is commanded; on an empty
queue that is so until the 64-bit value wraps. -/
def Obligations.TheFusedMinimumAndTheTimekeeperNeverFall : Prop :=
  (∀ s t : State, step s = .next t → s.boot.fusedMin ≤ t.boot.fusedMin) ∧
  (∀ s t : State, s.power.vaux33 = true → s.time.now + 30518 < 2 ^ 64 → s.time.frac < 64 → step s = .next t →
     s.time.now ≤ t.time.now)

/-! ## Scratchpads, banks and handles (07) -/

/-- R130: a cold reset leaves every handle entry of every core as a valid pair, value word 0 and complement all ones, with
VALID = 0. -/
def Obligations.AColdResetWritesEveryHandleEntry : Prop :=
  ∀ (env : ColdEnv) (s : State), s.tripHolds = false →
    ∃ t, exec (.coldReset env) s = .next t ∧
      ∀ k e, (t.core k).handle e = ⟨0, BitVec.allOnes 64⟩ ∧
        ((t.core k).handle e).pairOk = true ∧ ((t.core k).handle e).valid = false

/-- R131: a handle write is refused with COMPLEMENT_MISMATCH where the pair does not match, with HANDLE_INVALID where a valid
entry has no bank, reaches beyond row 3,583 or is handle 0; each refusal is logged (Table 11-6 row 3: the address of an entry
is its number; HANDLE_INVALID carries the operation the core is about to issue); otherwise the entry takes the value with the core's epoch and
its complement, and nothing else changes. A refused write changes no entry.
R130, R131: a stamped entry is a matching pair that carries the epoch given, modulo 256, and every other field of the
value word as it was supplied. -/
def Obligations.HandleWritesAreJudgedAndStamped : Prop :=
  (∀ (c : CoreId) (entry : Fin 64) (value comp : W64) (s : State), s.coreRuns (idKey c) = true →
     let h : Handle := ⟨value, comp⟩
     let refusedBy (code : Nat) (kind : AddrKind) (address d0 : Nat) := exec (.handleWrite c entry value comp) s =
       .next (s.report { plainReport code (unitCore (idKey c)) kind address with d0 := d0 })
     let bad := h.valid = true ∧ (h.bankMask = 0 ∨ 3583 < h.rowBase + (h.rowCount - 1) ∨ entry = 0)
     (comp ≠ ~~~value → refusedBy 0x04 .value entry.val 3) ∧
     (comp = ~~~value → bad → refusedBy 0x02 .operation (s.core (idKey c)).next entry.val) ∧
     (comp = ~~~value → ¬ bad →
       exec (.handleWrite c entry value comp) s =
         .next (s.setCore (idKey c) ((s.core (idKey c)).setHandle entry.val (Handle.stamp value (s.core (idKey c)).epoch))))) ∧
  (∀ (value : W64) (epoch : Nat),
     let v : Handle := ⟨value, ~~~value⟩
     let h := Handle.stamp value epoch
     h.pairOk = true ∧ h.epoch = epoch % 256 ∧ h.valid = v.valid ∧ h.we = v.we ∧ h.fmt = v.fmt ∧
       h.bankMask = v.bankMask ∧ h.rowBase = v.rowBase ∧ h.rowCount = v.rowCount)

/-- R132: an access through a handle stops at the first check that fails, in the order of the rule, with that check's
code; it passes when none fails. -/
def Obligations.HandleChecksStopAtTheFirstFailure : Prop :=
  ∀ (c : Core) (hd : Nat) (o : Origin) (isWrite : Bool) (lastByte : Nat), 0 < hd → hd < 64 →
    let h := c.handle hd
    let code := (checkHandle c hd o isWrite lastByte).map (·.code)
    (h.pairOk = false → code = some 0x04) ∧
    (h.pairOk = true → h.valid = false → code = some 0x02) ∧
    (h.pairOk = true → h.valid = true → h.epoch ≠ c.epoch → code = some 0x03) ∧
    (h.pairOk = true → h.valid = true → h.epoch = c.epoch → isWrite = true → h.we = false → code = some 0x0F) ∧
    (h.pairOk = true → h.valid = true → h.epoch = c.epoch → (isWrite = true → h.we = true) → h.bytes ≤ lastByte →
      code = some 0x0F) ∧
    (h.pairOk = true → h.valid = true → h.epoch = c.epoch → (isWrite = true → h.we = true) → lastByte < h.bytes →
      code = none)

/-- R138: a read that finds an uncorrectable word writes it back poisoned, counts it and faults with ECC_UNCORRECTABLE; a read
of a poisoned word faults with POISON_READ at the same address; a whole-word write leaves the word written. The access
wakes a bank in lull and starts its idle time anew (wakeBank), and changes no other word. -/
def Obligations.UncorrectableWordsArePoisonedUntilWritten : Prop :=
  ∀ (s : State) (k b row w : Nat) (data : W64), ((s.core k).bank b).power ≠ .off →
    let key := wordKey k b row w
    let at_ := bankAddress k b row w
    let s1 := (s.wakeBank k b).1
    (s.word key = .bad →
      (readWord s k b row w).st = (s1.setWord key .poisoned).bumpH 0x3048 (k / 1088) 2 1 ∧
      (readWord s k b row w).data = .error ⟨0x05, .bank, at_, 0, 0, 0⟩ ∧
      (readWord s k b row w).st.word key = .poisoned) ∧
    (s.word key = .poisoned → (readWord s k b row w).data = .error ⟨0x18, .bank, at_, 0, 0, 0⟩) ∧
    writeWord s k b row w (BitVec.allOnes 64) data = (s1.setWord key (.clean data), (s.wakeBank k b).2, none) ∧
    (s1.setWord key (.clean data)).word key = .clean data ∧
    (∀ other, other ≠ key → (s1.setWord key (.clean data)).word other = s.word other ∧
      (readWord s k b row w).st.word other = s.word other)

/-- R129, R139: a partial write of a clean word keeps the bits it does not cover; of a poisoned word it writes 0 there and
counts a poison merge; of a word with a single-bit error it corrects and counts it first; of an uncorrectable word it is not
performed. Every other word is untouched. -/
def Obligations.PartialWritesMergeWithTheWord : Prop :=
  ∀ (s : State) (k b row w : Nat) (mask data : W64), ((s.core k).bank b).power ≠ .off → mask ≠ BitVec.allOnes 64 →
    let key := wordKey k b row w
    let r := writeWord s k b row w mask data
    let s1 := (s.wakeBank k b).1
    let woke := (s.wakeBank k b).2
    let merged (v : W64) := SWord.clean ((v &&& ~~~mask) ||| (data &&& mask))
    (∀ v, s.word key = .clean v → r = (s1.setWord key (merged v), woke, none)) ∧
    (∀ v, s.word key = .flipped v → r = ((s1.countCorrected k b row).setWord key (merged v), true, none)) ∧
    (s.word key = .poisoned →
      r = ((s1.setWord key (.clean (data &&& mask))).bumpH 0x3048 (k / 1088) 4 1, woke, none)) ∧
    (s.word key = .bad →
      r = ((s1.setWord key .poisoned).bumpH 0x3048 (k / 1088) 2 1, woke,
        some ⟨0x05, .bank, bankAddress k b row w, 0, 0, 0⟩)) ∧
    (∀ other, other ≠ key → r.1.word other = s.word other)

/-- R136, R140: SCRUB_READ, with the scrubber on and the bank not off, inside a pass; the first word begins one. A single-bit
error is counted and corrected by writing the word back; an uncorrectable word is poisoned and counted; clean and poisoned
words stay; where another access wrote the word first, the write-back is dropped. An error that the read meets now is an
upset of the word before it. With the scrubber off, nothing is read. -/
def Obligations.TheScrubberCorrectsAndPoisons : Prop :=
  ∀ (c : CoreId) (b : BankNo) (row : Fin 3584) (word : Fin 8) (s : State), s.coreRuns (idKey c) = true →
    let k := idKey c
    let bank := (s.core k).bank b.val
    bank.power ≠ .off →
    let key := wordKey k b.val row.val word.val
    let first := row = 0 ∧ word = 0
    let s1 := ((if first then s.beginPass k b.val else s).wakeBank k b.val).1
    let scrub (rewritten : Bool) := exec (.scrubRead c b row word none rewritten) s
    (s.obj 0x2030 3 ≠ 0 → (bank.inPass = true ∨ first) →
      (∀ v, s.word key = .flipped v →
        scrub false = .next ((s1.countCorrected k b.val row.val).setWord key (.clean v)) ∧
        scrub true = .next (s1.countCorrected k b.val row.val)) ∧
      (s.word key = .bad →
        scrub false = .next ((s1.setWord key .poisoned).bumpH 0x3048 (k / 1088) 2 1) ∧
        scrub true = .next (s1.bumpH 0x3048 (k / 1088) 2 1)) ∧
      (∀ v r, s.word key = .clean v → scrub r = .next s1) ∧
      (∀ r, s.word key = .poisoned → scrub r = .next s1) ∧
      (∀ (u : UpsetKind) r, exec (.scrubRead c b row word (some u) r) s =
        exec (.scrubRead c b row word none r) (s.upset ⟨c, b, row.val, word.val, u⟩))) ∧
    (s.obj 0x2030 3 = 0 → ∀ found r, exec (.scrubRead c b row word found r) s = .next s)

/-- R142 to R144: the power commands of a bank, each with the state it leaves the bank in, and nothing else changed but what
is named: LULL_REQUEST closes an AWAKE bank, AUTO_LULL one that has served no access for LULL_IDLE_NS (the timekeeper stands
there or later), OFF_REQUEST closes it towards OFF, CLOSING_COMPLETE ends
the closing once the write queue is empty, LULL_WAKE wakes it, starts its idle time anew and counts the wake, ON_REQUEST marks it returning.
OFF_REQUEST of a core that nothing uses closes all its banks; the core is off once they are.
R133, R146: a bank requested on (BANK_RETURN), or marked and used by no binding (BANK_REPAIR), returns: the core's epoch
rises by one modulo 256, a repaired bank has its failing rows on spare rows, the bank is awake with an empty queue, every word of it is poisoned, and the words of other
banks stay as they were. A core requested on returns so with all its banks. -/
def Obligations.BankPowerCommandsMoveTheBank : Prop :=
  (∀ (c : CoreId) (b : BankNo) (s : State), s.coreRuns (idKey c) = true →
     let k := idKey c
     let bank := (s.core k).bank b.val
     let put (p : BankPower) := s.setCore k ((s.core k).setBank b.val { bank with power := p })
     (bank.power = .awake → exec (.lullRequest c b) s = .next (put .closingLull)) ∧
     (bank.power = .awake → s.obj 0x2030 1 ≠ 0 →
       exec (.autoLull c b) s =
         .next ({ put .closingLull with time := { s.time with now := max s.time.now (bank.lastUse + s.obj 0x2030 2) } })) ∧
     (bank.power ≠ .off → s.bankUsed k b.val = false → exec (.offRequest c (.bank b)) s = .next (put .closingOff)) ∧
     (bank.power = .closingLull → bank.queue = [] → exec (.closingComplete c b) s = .next (put .lull)) ∧
     (bank.power = .closingOff → bank.queue = [] → (s.core k).closing = false →
       exec (.closingComplete c b) s = .next (put .off)) ∧
     (bank.power = .lull → exec (.lullWake c b) s =
       .next ((s.setCore k ((s.core k).setBank b.val { bank with power := .awake, lastUse := s.time.now })).bumpH
         0x3048 (k / 1088) 7 1)) ∧
     (bank.power = .off → (s.core k).power ≠ .off →
       exec (.onRequest c (.bank b)) s =
         .next (s.setCore k ((s.core k).setBank b.val { bank with returning := true }))) ∧
     (s.coreUsed k = false → (∀ e ∈ (s.core k).slots, e.2.phase = .free) →
       ∃ t, exec (.offRequest c .core) s = .next t ∧
         (∀ j : BankNo, ((t.core k).bank j.val).power =
           if ((s.core k).bank j.val).power = .off then .off else .closingOff) ∧
         ((∀ j : BankNo, ((s.core k).bank j.val).power = .off) → (t.core k).power = .off) ∧
         ((∃ j : BankNo, ((s.core k).bank j.val).power ≠ .off) → (t.core k).closing = true ∧ (t.core k).power = (s.core k).power))) ∧
  (∀ (c : CoreId) (b : BankNo) (s : State), s.hearthRuns c.hearth.val = true →
     let k := idKey c
     let returned (r : Result) := ∃ t, r = .next t ∧
       (t.core k).epoch = ((s.core k).epoch + 1) % 256 ∧
       ((t.core k).bank b.val).power = .awake ∧ ((t.core k).bank b.val).queue = [] ∧
       (∀ row w, row < 3584 → w < 8 → t.word (wordKey k b.val row w) = .poisoned) ∧
       (∀ key, key / 28672 ≠ 16 * k + b.val → t.word key = s.word key)
     (((s.core k).bank b.val).returning = true → returned (exec (.bankReturn c (.bank b)) s)) ∧
     (s.coreRuns k = true → 16 * (k % 1088) + b.val ∈ (s.hearth (k / 1088)).marked → s.bankUsed k b.val = false →
       returned (exec (.bankRepair c b) s) ∧
       ∀ t, exec (.bankRepair c b) s = .next t →
         let bank := (s.core k).bank b.val
         ((t.core k).bank b.val).spares = bank.spares ++ (bank.failing.filter (· ∉ bank.spares)).take (32 - bank.spares.length) ∧
         ((t.core k).bank b.val).failing = [] ∧ 16 * (k % 1088) + b.val ∉ (t.hearth (k / 1088)).marked) ∧
     ((s.core k).power = .off → exec (.onRequest c .core) s = .next (s.setCore k { s.core k with returning := true })) ∧
     ((s.core k).returning = true → ∃ t, exec (.bankReturn c .core) s = .next t ∧
       (t.core k).epoch = ((s.core k).epoch + 1) % 256 ∧ (t.core k).power = .on ∧
       ∀ j : BankNo, ((t.core k).bank j.val).power = .awake ∧ ((t.core k).bank j.val).queue = [] ∧
         ∀ row w, row < 3584 → w < 8 → t.word (wordKey k j.val row w) = .poisoned))

/-! ## Formats, rounding and accumulation (02, 03, 04, 05, 06) -/

/-- R28 (with R21 to R24 and R107): whatever the plane counts that the feeder chose, the K-block partials that the registers
hold at the end of a pass are the exact integer dot products of the vector's activations with the tile's weights, in
every format, dense or 2:4. -/
def Obligations.PartialSumsAreExactDotProducts : Prop :=
  ∀ (b : Binding) (r : OpRec) (t : Tile) (m raw : Nat) (exps : List Int) (col : Nat),
    (r.sparse = true → ∀ row, (t.selects.getD row []).getD col 0 < 4) →
    (fmtSigned r.aFmt = true ∨ r.aPadKind = 0 ∨ 0 ≤ r.aPad) →
    let v := feedVec b r m t.kt raw exps
    partialsOf r (runRegs b r t v col v.len) = partialsOf r ((List.range 4).map (groupDot b r t v col))

/-- R91: in BOUND_SAFE (q plays no part), the bounds formed after step j of a pass enclose the entry's value at the end of the
pass. -/
def Obligations.BoundsEncloseTheFinalValue : Prop :=
  ∀ (b : Binding) (r : OpRec) (t : Tile) (m raw : Nat) (exps : List Int) (col j q : Nat) (prev : Entry) (anchor : Int),
    col < r.nPass → (r.sparse = true → ∀ row, (t.selects.getD row []).getD col 0 < 4) →
    (fmtSigned r.aFmt = true ∨ r.aPadKind = 0 ∨ 0 ≤ r.aPad) →
    let v := feedVec b r m t.kt raw exps
    let bounds := entryBounds r (t.sums b r) v v.len j col (runRegs b r t v col j) false q prev anchor
    let final := accSum r.acc16 prev anchor (partialsOf r (runRegs b r t v col v.len)) (partialExps r t v col)
    0 < j → j < v.len → bounds.1 ≤ final.val ∧ final.val ≤ bounds.2

/-- R52: rounding away k bits. An exact value never moves. Half-to-even lies within half a quantum, and a tie goes to the
even neighbour. Stochastic rounding takes the floor or the next value, by the comparison of the noise with the discarded
part, of which at most the top 48 bits count. -/
def Obligations.RoundingFollowsItsMode : Prop :=
  ∀ (p : Int) (k : Nat) (mode : RMode) (noise : Nat),
    let q := roundShift p k mode noise
    let d := (p % 2 ^ k).toNat
    (d = 0 → q * 2 ^ k = p) ∧
    (mode = .rhe → 2 * |q * 2 ^ k - p| ≤ 2 ^ k ∧ (0 < k → 2 * |q * 2 ^ k - p| = 2 ^ k → q % 2 = 0)) ∧
    (mode = .sr →
      (k ≤ 48 → q = if noise % 2 ^ 48 < d * 2 ^ (48 - k) then p / 2 ^ k + 1 else p / 2 ^ k) ∧
      (48 < k → q = if noise % 2 ^ 48 < d / 2 ^ (k - 48) then p / 2 ^ k + 1 else p / 2 ^ k))

/-- R41: the container that is written reads back as its value; its upper bits are copies of bit w − 1 for a signed format
and zeros for an unsigned one; a reader looks at the low w bits alone. -/
def Obligations.ContainersKeepTheirValue : Prop :=
  ∀ (f : Nat), fmtOk f = true → fmtKind f ≤ 4 →
    (∀ x : Int,
      (if fmtIsB1 f then x = 1 ∨ x = -1
       else if fmtKind f = kUn then 0 ≤ x ∧ x < 2 ^ fmtWidth f
       else if fmtKind f = kT2 then -1 ≤ x ∧ x ≤ 1
       else -(2 ^ (fmtWidth f - 1)) ≤ x ∧ x < 2 ^ (fmtWidth f - 1)) →
      elemValue f (elemCode f x) = x ∧ elemCode f x < 2 ^ fmtBits f ∧
      (∀ i, fmtWidth f ≤ i → i < fmtBits f →
        (elemCode f x).testBit i = (fmtSigned f && (elemCode f x).testBit (fmtWidth f - 1)))) ∧
    ∀ code, elemValue f code = elemValue f (code % 2 ^ fmtWidth f)

/-- R43: conversion to In, Un or T2 rounds by the mode, writes the nearer end of the range where the result lies outside, and
counts exactly those saturations. -/
def Obligations.IntegerTargetsRoundThenSaturate : Prop :=
  ∀ (f : Nat) (v : Dy) (mode : RMode) (noise : Nat), fmtOk f = true → fmtKind f = kIn ∨ fmtKind f = kUn ∨ fmtKind f = kT2 →
    let w := fmtWidth f
    let lo : Int := if fmtKind f = kUn then 0 else if fmtKind f = kT2 then -1 else -(2 ^ (w - 1))
    let hi : Int := if fmtKind f = kUn then 2 ^ w - 1 else if fmtKind f = kT2 then 1 else 2 ^ (w - 1) - 1
    let q := v.round 0 mode noise
    let out := convInt f v mode noise
    (hi < q → elemValue f out.1 = hi ∧ out.2.sat = 1) ∧
    (q < lo → elemValue f out.1 = lo ∧ out.2.sat = 1) ∧
    (lo ≤ q → q ≤ hi → elemValue f out.1 = q ∧ out.2.sat = 0)

/-- R66: a partial of magnitude below 2^37 aligned to an anchor: a left shift is exact, a right shift rounds half to even and
gives 0 from 47 bits on, a result outside the entry's range takes the nearer bound and reports overflow; "exact" is
reported just where nothing is discarded, "zeroed" just where a result that is not exact is 0. -/
def Obligations.AlignmentShiftsRoundsAndSaturates : Prop :=
  ∀ (acc16 : Bool) (p e a : Int), |p| < 2 ^ 37 →
    let out := alignTo acc16 p e a
    let s := e - a
    let v := if 0 ≤ s then p * 2 ^ s.toNat else roundShift p (-s).toNat .rhe 0
    (v < entryLo acc16 → out = (entryLo acc16, .overflow)) ∧
    (entryHi acc16 < v → out = (entryHi acc16, .overflow)) ∧
    (entryLo acc16 ≤ v → v ≤ entryHi acc16 →
      out.1 = v ∧
      (p = 0 ∨ 0 ≤ s ∨ p % 2 ^ (-s).toNat = 0 → out.2 = .exact) ∧
      (p ≠ 0 → s < 0 → p % 2 ^ (-s).toNat ≠ 0 → out.2 = if v = 0 then .zeroed else .inexact)) ∧
    (s ≤ -47 → v = 0)

/-- R67, R68, R70: while no overflow bit sets, the value of an entry is the exact sum of its aligned K-block partials, for any
order of accumulation, and any split into parts that are merged by adding their entries gives the same value. An
overflow bit, once set, stays set. -/
def Obligations.ReductionsAreExactForAnyOrderAndSplit : Prop :=
  ∀ (acc16 : Bool) (anchor : Int) (bs : List (Int × Int)) (parts : List (List (Int × Int))), bs.Perm parts.flatten →
    let zero : Entry := Entry.reset
    let whole := addBlocks acc16 anchor zero bs
    let merged := parts.foldl (fun e ps =>
      let q := addBlocks acc16 anchor zero ps
      accAdd acc16 e q.val q.ovf) zero
    (whole.ovf = false → whole.val = (bs.map fun x => (alignTo acc16 x.1 x.2 anchor).1).sum) ∧
    (whole.ovf = false → merged.ovf = false → merged.val = whole.val) ∧
    (∀ e, e.ovf = true → (addBlocks acc16 anchor e bs).ovf = true)

/-- R119, R34: under a sum mode one pair is emitted for each index that occurs, in rising order of index; its value is the exact
total of that index held to the entry's range, its overflow bit is set where an input's was or where the total lies
outside; and none of this depends on the order in which the pairs arrived. Under SCATTER_KEEP pairs with different
indices or sources come out in one order whatever the arrival order. -/
def Obligations.FoldsEmitExactTotalsInAnyArrivalOrder : Prop :=
  ∀ (acc16 : Bool) (ps : List Pair),
    let out := sumFold acc16 ps
    (out.map (·.index)).Pairwise (· < ·) ∧
    (∀ i, i ∈ out.map (·.index) ↔ i ∈ ps.map (·.index)) ∧
    (∀ q ∈ out,
      let same := ps.filter fun p => decide (p.index = q.index)
      q.val = entrySat acc16 (same.map (·.val)).sum ∧
      q.ovf = (same.any (·.ovf) || !entryFits acc16 (same.map (·.val)).sum)) ∧
    (∀ qs, qs.Perm ps →
      (sumFold acc16 qs).map (fun q => (q.index, q.val, q.ovf)) = out.map (fun q => (q.index, q.val, q.ovf)) ∧
      ((ps.map fun p => (p.index, p.source)).Nodup → sortPairs qs = sortPairs ps))

/-- R114: a group of n_e codes of c bits is written in bitmap form just where that is shorter than dense form. In bitmap form
bit i of the 64-bit mask says that element i is not zero and the other elements follow in order; in dense form every
element follows in order. -/
def Obligations.SheetGroupsTakeTheShorterForm : Prop :=
  ∀ (c : Nat) (es : List Nat), 0 < c → es.length ≤ 64 → (∀ e ∈ es, e < 2 ^ c) →
    let out := sheetGroup c es.length false es
    let nz := es.filter (· ≠ 0)
    (64 + nz.length * c < es.length * c →
      out.1 = 1 ∧ out.2.2 = 64 + nz.length * c ∧
      (∀ i, i < 64 → out.2.1.testBit i = decide (es.getD i 0 ≠ 0)) ∧
      (∀ j, j < nz.length → out.2.1 / 2 ^ (64 + j * c) % 2 ^ c = nz.getD j 0)) ∧
    (es.length * c ≤ 64 + nz.length * c →
      out.1 = 0 ∧ out.2.2 = es.length * c ∧ ∀ j, j < es.length → out.2.1 / 2 ^ (j * c) % 2 ^ c = es.getD j 0)

/-! ## Cores at work: steps, issue, phases, folds (02, 04, 05, 06, 08) -/

/-- R19, R30, R94, R100: with a run on the core, an enabled ARRAY_STEP performs one step of it (R35: neither the release of a
slot nor a completed reference is due); a SWAP_STEP with a tile loaded and no release due makes that tile live and empties the shadow latches; a completed ranking ends the wait for the reference; a shadow core
that holds a sample counts it, and counts a deviation just where the group stopped and its exact value proves not. -/
def Obligations.ArrayCommandsServeTheRun : Prop :=
  ∀ (c : CoreId) (env : StepEnv) (s : State) (x : Job) (u : Run),
    let k := idKey c
    (s.coreJob k = some x → (s.core k).run = some u →
      (u.stepEnabled (s.core k) = true → exec (.arrayStep c env) s = .next (s.stepRun x k u env)) ∧
      (∀ t, u.swapReady = some t → (s.core k).releaseDue = false →
        ∃ s' u', exec (.swapStep ⟨c, env⟩) s = .next s' ∧ (s'.core k).run = some u' ∧ u'.live = some t ∧ u'.shadow = none ∧
          u'.vec = 0 ∧ u'.swaps = u.swaps + 1) ∧
      (∀ t, u.live = some t → u.topkWait = true → (s.core k).earlierTiles u.op t.mb t.nt = false →
        exec (.topkReferenceComplete c) s = .next (s.setCore k { s.core k with run := some { u with topkWait := false } }))) ∧
    (∀ sm, s.coreRuns k = true → (s.core k).sample = some sm →
      let dev := if sm.stoppedGroup = true ∧ sm.proven = false then 1 else 0
      exec (.shadowCheck c) s =
        .next ((((s.setCore k { s.core k with sample := none }).bumpH 0x3038 (k / 1088) 8 1).bumpH 0x3038 (k / 1088) 9 dev).stat
          sm.part sm.op fun o => { o with taken := o.taken + 1, deviated := o.deviated + dev }))

/-- R74: issue of the operations that take a slot. With the slots free (or held by a fill for this KEEP) each starts; with one
busy, an operation without CHAIN faults ACC_TILE_BUSY and stops its item for good, and one with CHAIN waits; CHAIN_ISSUE
starts a waiting operation when its slots are free; until then the core's step counts GLAZE_WAIT_STEPS, drains on, and
counts as stretched where back-pressure or a bank conflict of the drains lengthens it. -/
def Obligations.SlotOperationsStartFaultOrWait : Prop :=
  ∀ (c : CoreId) (env : StepEnv) (s : State) (x : Job) (i : Nat),
    let k := idKey c
    let r := x.bd.prog.op i
    let busy (res : Result) := ∃ t, res = .next t ∧ (t.core k).next = i + 1 ∧
      (r.chain = true → (t.core k).chainWait = some i ∧ t.log = s.log) ∧
      (r.chain = false → (s.part x.part).fault = none →
        (t.part x.part).fault = some ⟨0x08, i, true, false, false⟩ ∧
        ∃ rep, t.log.waiting = s.log.waiting ++ [rep] ∧ rep.code = 0x08 ∧ rep.address = i ∧ rep.addrKind = .operation)
    (s.issue k kMatmul = some (x, i) →
      ((x.bd.pairs i k = [] ∨ (s.core k).slotsReady r = true) → exec (.matmul c) s = .next (s.startProduct x k i)) ∧
      (x.bd.pairs i k ≠ [] → (s.core k).slotsReady r = false → busy (exec (.matmul c) s))) ∧
    (s.issue k kAccRead = some (x, i) →
      ((s.core k).accBusy r = false → exec (.accRead c) s = .next (s.accRead x k i)) ∧
      ((s.core k).accBusy r = true → busy (exec (.accRead c) s))) ∧
    (s.issue k kAccSpill = some (x, i) →
      ((s.core k).accBusy r = false → exec (.accSpill c) s = .next (s.accSpill x k i)) ∧
      ((s.core k).accBusy r = true → busy (exec (.accSpill c) s))) ∧
    (s.issue k kAccFill = some (x, i) →
      (((s.core k).slot r.slot).phase = .free → exec (.accFill c env) s = .next (s.accFill x k i env)) ∧
      (((s.core k).slot r.slot).phase ≠ .free → busy (exec (.accFill c env) s))) ∧
    (s.coreJob k = some x → (s.core k).chainWait = some i →
      ((s.core k).slotsReady r = true → exec (.chainIssue c) s = .next (s.chainStart x k i)) ∧
      ((s.core k).run = none → (s.core k).slotsReady r = false → (s.core k).releaseDue = false →
        exec (.arrayStep c env) s = .next (((((s.upsets env.upsets).mapCore k Core.tickDrain).bumpH
          0x3030 (k / 1088) 4 1).countStretched k (if env.backPressure.isEmpty then 0 else 1)).glazeConflict x k []
            (s.glazeUses x k))))

/-- R59, R73, R168, R172, R185, Table 8-4: the operations that a core or its partition carries out when they are next: CONVERT,
POOL_MAX and HALO act on the core's part, SLOT_DRAIN glazes a slot that may drain, TRANSFER puts the operation's
descriptors behind those of its mover's queue, MARK is recorded as carried out. -/
def Obligations.ScheduledOperationsRun : Prop :=
  ∀ (c : CoreId) (env : StepEnv) (p : PartNo) (slot : Fin 8) (s : State) (x : Job) (i : Nat),
    let k := idKey c
    (s.issue k kConvert = some (x, i) → exec (.convert c env) s = .next (s.convert x k i env)) ∧
    (s.issue k kPool = some (x, i) → exec (.poolMax c env) s = .next (s.poolMax x k i env)) ∧
    (s.issue k kHalo = some (x, i) → exec (.halo c env) s = .next (s.halo x k i env)) ∧
    (s.coreJob k = some x → s.drainReady x k slot.val = true →
      exec (.slotDrain c slot env) s = .next (s.drain x k slot.val env)) ∧
    (s.job p.val = some x →
      let m := x.bd.moverOf (s.ctx x.ctx).hostPort i
      s.canCarry x (moverUnit m) i kTransfer = true → x.ioRefused (x.bd.prog.op i) s.net.node = false →
        ∃ t, exec (.transfer p i) s = .next t ∧
          (t.mover m).queue = (s.mover m).queue ++ x.expand (s.ctx x.ctx).hostPort i ∧ (t.mover m).active = (s.mover m).active ∧
          (t.part p.val).binding = (s.part p.val).binding.map fun b => { b with issued := b.issued ++ [i] }) ∧
    (s.job p.val = some x → (x.bd.prog.op i).kind = kMark → i < x.bd.prog.ops.length → i ∉ x.bd.issued →
      x.item.resumePhase ≤ (x.bd.prog.op i).phase → x.marksDone (x.bd.prog.op i).phase = true →
        exec (.mark p i) s = .next (s.setPart p.val { s.part p.val with
          binding := (s.part p.val).binding.map fun b => { b with issued := b.issued ++ [i] } }))

/-- R32, R173: a core that may pass its token goes on to the next phase, not begun; a core that may begin its phase begins it.
Nothing of another core changes, nor what the core holds of data; the banks of a core that begins a phase are touched only
to form the select regions of SPARSE24 weights whose buffer begins there (R108).
R69, R88, R101: when an operation ends, its flagged entries make one ACC_OVERFLOW event with the operation and their count, its
inexact alignments one PRECISION_LOSS event where they reach the threshold, its deviating samples one SAMPLE_DEVIATION
event; with none of them nothing is logged. The operation is marked ended. -/
def Obligations.PhasesAdvanceAndEndingOperationsAreLogged : Prop :=
  (∀ (c : CoreId) (s : State) (x : Job),
     let k := idKey c
     let data (a b : Core) := a.slots = b.slots ∧ a.acc = b.acc ∧ a.run = b.run ∧ a.next = b.next ∧ a.epoch = b.epoch
     (s.findJob (fun y => s.tokenReady y (.core c)) = some x →
       ∃ t, exec (.phaseToken (.core c)) s = .next t ∧ (t.core k).phase = (s.core k).phase + 1 ∧ (t.core k).begun = false ∧
         data (t.core k) (s.core k) ∧ (t.core k).banks = (s.core k).banks ∧ (t.core k).handles = (s.core k).handles ∧ ∀ j, j ≠ k → t.core j = s.core j) ∧
     (s.findJob (fun y => s.beginReady y (.core c)) = some x →
       ∃ t, exec (.phaseBegin (.core c)) s = .next t ∧ (t.core k).phase = (s.core k).phase ∧ (t.core k).begun = true ∧
         data (t.core k) (s.core k) ∧
         ((∀ y ∈ x.bd.startsOn k (s.core k).phase, x.bd.prog.sparseUser y.1 = none) → (t.core k).banks = (s.core k).banks) ∧
         ∀ j, j ≠ k → t.core j = s.core j)) ∧
  (∀ (p : PartNo) (op : Nat) (s : State) (x : Job), s.job p.val = some x → s.opEnded x op = true → (x.bd.opStats op).ended = false →
     let o := x.bd.opStats op
     let threshold := s.obj 0x6020 1
     let event (code d0 d1 : Nat) (on : Prop) [Decidable on] : List (Nat × Nat × Nat × Nat) :=
       if on then [(code, op, d0, d1)] else []
     ∃ t, exec (.operationEnd p op) s = .next t ∧
       (∃ new, t.log.waiting = s.log.waiting ++ new ∧
         new.map (fun r => (r.code, r.address, r.d0, r.d1)) =
           event 0x12 o.flagged 0 (0 < o.flagged) ++
           event 0x1A (min o.inexact (2 ^ 32 - 1)) 0 (threshold ≠ 0 ∧ threshold ≤ o.inexact) ++
           event 0x19 o.taken o.deviated (0 < o.deviated)) ∧
       (∀ b, (s.part p.val).binding = some b → ∃ b', (t.part p.val).binding = some b' ∧ (b'.opStats op).ended = true))

/-- R118, R121 to R124: FOLD_PAIR takes one pair in flight and counts it in FOLD_PAIRS_IN; a complete fold closes by its mode; a
fold that waits for its destination emits when the destination slot is its own. -/
def Obligations.FoldCommandsServeTheFolds : Prop :=
  ∀ (h : Hearth) (k fold : Nat) (s : State), s.hearthRuns h.val = true →
    (∀ fs, takePair k (s.foldsOf h.val) = some fs →
      ∃ t, exec (.foldPair h k) s = .next t ∧ t.foldsOf h.val = fs ∧
        t.obj (0x3040 + 0x100 * h.val) 6 = min (s.obj (0x3040 + 0x100 * h.val) 6 + 1) (objMax (0x3040 + 0x100 * h.val) 6)) ∧
    (∀ x f, s.foldJob h.val fold = some (x, f) → s.foldComplete x f = true →
      exec (.foldClose h fold) s = .next (s.closeFold x h.val fold f)) ∧
    (∀ x f ps d j st, s.foldJob h.val fold = some (x, f) → f.emitting = some ps →
      x.bd.prog.scatterDest (x.bd.prog.op f.op) = some d → s.emitReady x h.val d f = some (j, st) →
      exec (.foldEmit h fold) s = .next (s.emitScatter x h.val fold d j st ps))

/-! ## Larders, HBM and movers (07) -/

/-- R148, R150, R152, R158: an upset named with a request strikes first. An access beyond the end of the stack is refused with
ACCESS_DENIED, logged, and nothing else happens; a request behind a waiting one of its source and line waits. A read of a
present line counts HITS and is answered with its bytes, or, where a word it needs is uncorrectable and has no partner copy,
with ECC_UNCORRECTABLE, or, where one is poisoned, with POISON_READ, each logged with the word's address; a read of a line
with a miss outstanding joins that miss and counts MERGED; any other read starts a miss and counts MISSES, or waits while
256 are outstanding. Every other request is taken in. -/
def Obligations.LarderRequestsHitMergeMissOrWait : Prop :=
  ∀ (st : Stack) (r : LarderReq) (s : State), s.alive = true → st.val ∉ s.health.stacksFailed →
    let h := st.val
    let u := s.hbmUpsets r.upsets
    let l := u.larder h
    let line := r.off / 128
    let counter (t : State) (sub : Nat) := t.obj (0x3050 + 0x100 * h) sub
    let counted (t : State) (sub : Nat) := counter t sub = min (counter s sub + 1) (objMax (0x3050 + 0x100 * h) sub)
    let denied (t : State) (code addr : Nat) := (t.larder h).replies = l.replies ++ [(r.source, code, [])] ∧
      ∃ rep, t.log.waiting = s.log.waiting ++ [rep] ∧ rep.code = code ∧ rep.addrKind = .hbm ∧ rep.address = addr
    (stackBytes ≤ r.off + r.len - 1 → ∃ t, exec (.larderRequest st r) s = .next t ∧ denied t 0x0F (hbmAddr h r.off) ∧
      t.hbm = s.hbm ∧ (t.larder h).lines = l.lines ∧ (t.larder h).misses = l.misses ∧ (t.larder h).waiting = l.waiting) ∧
    (r.off + r.len - 1 < stackBytes → exec (.larderRequest st r) s = .next (u.larderTake h r)) ∧
    (r.off + r.len - 1 < stackBytes → r.data = none → ∃ t, exec (.larderRequest st r) s = .next t ∧ t.hbm = s.hbm ∧
      ((∃ q ∈ l.waiting, q.source = r.source ∧ q.off / 128 = line) → t.larder h = { l with waiting := l.waiting ++ [r] }) ∧
      ((∀ q ∈ l.waiting, q.source = r.source → q.off / 128 ≠ line) →
        (∀ x, l.find line = some x →
          let bad := (List.range 16).map fun w => decide (x.ecc.getD w none = some .uncorrectable)
          counted t 1 ∧ (t.larder h).misses = l.misses ∧ (t.larder h).waiting = l.waiting ∧
          (eccBad x.ecc = false → (t.larder h).lines = l.lines ∧
            (firstWord (r.off % 128) r.len x.poison = none →
              (t.larder h).replies = l.replies ++ [(r.source, 0, (x.data.drop (r.off % 128)).take r.len)] ∧ t.log = s.log) ∧
            (∀ w, firstWord (r.off % 128) r.len x.poison = some w → denied t 0x18 (hbmAddr h (128 * line + 8 * w)))) ∧
          (eccBad x.ecc = true → u.mirrored (hbmAddr h (128 * line)) = false → ∀ w, firstWord (r.off % 128) r.len bad = some w →
            denied t 0x05 (hbmAddr h (128 * line + 8 * w)))) ∧
        (l.find line = none → (∃ m ∈ l.misses, m.1 = line) →
          counted t 3 ∧ t.larder h = { l with misses := l.misses.map fun m => if m.1 = line then (m.1, m.2 ++ [r]) else m }) ∧
        (l.find line = none → (∀ m ∈ l.misses, m.1 ≠ line) → l.misses.length < 256 →
          counted t 2 ∧ t.larder h = { l with misses := l.misses ++ [(line, [r])] }) ∧
        (l.find line = none → (∀ m ∈ l.misses, m.1 ≠ line) → 256 ≤ l.misses.length →
          t.larder h = { l with waiting := l.waiting ++ [r] })))

/-- R150: the read of a line with an outstanding miss completes: the miss is no longer outstanding, whatever the read gave, and
no other miss is touched while no request waits for an entry.
R151: a CLEAN command leaves no dirty line in the address ranges it names; every line stays where it was, with the bytes it
held, and lines outside the ranges keep their state. Bytes of HBM outside the lines written back are unchanged. -/
def Obligations.FillsEndMissesAndCleanLeavesNoDirtyLine : Prop :=
  (∀ (st : Stack) (line : Nat) (own other : HbmRead) (s : State) (m : Nat × List LarderReq), s.alive = true →
     st.val ∉ s.health.stacksFailed → (s.larder st.val).misses.find? (fun m => m.1 = line) = some m →
     ∃ t, exec (.larderFill st line own other) s = .next t ∧
       ((s.larder st.val).waiting = [] →
         (t.larder st.val).misses = (s.larder st.val).misses.filter (fun x => x.1 ≠ line) ∧ (t.larder st.val).waiting = [])) ∧
  (∀ (st : Stack) (ranges : List (Nat × Nat)) (s : State), s.alive = true → st.val ∉ s.health.stacksFailed →
     let h := st.val
     let dirty (x : Line) := x.dirty = true ∧ x.within ranges = true
     ∃ t, exec (.clean st ranges) s = .next t ∧
       (t.larder h).lines = (s.larder h).lines.map (fun e =>
         (e.1, e.2.map fun x => if x.within ranges then { x with dirty := false } else x)) ∧
       (∀ e ∈ (t.larder h).lines, ∀ x ∈ e.2, ¬ dirty x) ∧
       (∀ a, (∀ e ∈ (s.larder h).lines, ∀ x ∈ e.2, dirty x →
           a < hbmAddr h (128 * x.line) ∨ hbmAddr h (128 * x.line) + 128 ≤ a) →
         memRead t.hbm a = memRead s.hbm a))

/-- R155, R156: a mover begins the descriptor at the head of its queue, at once or, where it is ORDERED, when no other is in
progress. One that R156 forbids moves no byte: it completes with ACCESS_DENIED, logged with its address, and so does every
ORDERED descriptor behind it, whose partition's work stops with that fault. -/
def Obligations.MoversBeginTheHeadOfTheirQueue : Prop :=
  ∀ (m : MoverId) (s : State) (d : MoverDesc) (rest : List MoverDesc),
    let k := moverKey m
    let mv := s.mover k
    s.moverRuns k = true → mv.queue = d :: rest → (d.ordered = true → mv.active = []) →
    (d.invalid k = false → exec (.moverDescriptorStart m) s = .next ((s.beginDesc k d rest).launch k mv.active.length)) ∧
    (d.invalid k = true → ∃ t, exec (.moverDescriptorStart m) s = .next t ∧
      t.hbm = s.hbm ∧ t.scratch = s.scratch ∧ t.ports = s.ports ∧
      (t.mover k).active = mv.active ∧ (t.mover k).queue = rest.filter (fun d => !d.ordered) ∧
      (t.mover k).done = mv.done ++ (d.token, 0x0F) :: (rest.filter (·.ordered)).map (fun d => (d.token, 0x0F)) ∧
      (∀ e ∈ rest, e.ordered = true → (s.job e.part).isSome = true → ((t.part e.part).fault).isSome = true) ∧
      ∃ rep, t.log.waiting = s.log.waiting ++ [rep] ∧ rep.code = 0x0F ∧ rep.address = d.addr ∧ rep.unit = unitMover k)

/-- R135, R144, R155, R295: a descriptor in progress moves a row by bank access, completes with all that is left, or, once the
arrival records it waited for are there, is judged and completes; while a bank it writes returns from off, it waits. A waiting
bank write is committed; a fault of it stops the descriptor whose write it is. -/
def Obligations.DescriptorsMoveRowsAndComplete : Prop :=
  ∀ (m : MoverId) (env : XferEnv) (s : State) (i : Nat) (a : Active),
    let k := moverKey m
    let moved := s.xferEnv a.desc.coreOf env
    (s.moverRuns k = true → (s.mover k).active[i]? = some a →
      ((s.mover k).active.findIdx? (·.byAccess) = some i → s.dstReturning a.desc = false →
        exec (.moverBankAccess m .arrive env) s = .next (moved.accessRow k i a)) ∧
      (a.waits = false → ¬ (a.desc.dstSpace = .finwell ∧ (a.desc.srcSpace ≠ .host ∨ a.moved ≠ 0 ∨ a.endSent.isSome = true)) →
        s.dstReturning a.desc = false → s.hostOpen a.desc = true → env.hostData.length = a.hostBytes →
        exec (.moverDescriptorComplete m i env) s = .next (moved.complete k a env.hostData)) ∧
      ((s.mover k).active.findIdx? (fun a => a.waits && a.desc.window.any s.windowReady) = some i →
        (s.dstReturning a.desc = true → exec (.windowArrival m) s = .next s) ∧
        (s.dstReturning a.desc = false →
        let b := { a with waits := false }
        let u := s.setActive k i b
        exec (.windowArrival m) s = .next (if a.desc.window.any u.windowWrong then
            u.failActive k i (unitMover k) ⟨0x0F, .hbm, a.desc.addr, 0, 0, 0⟩
          else u.complete k b [])))) ∧
    (∀ (c : CoreId) (b : BankNo) (w : BankWrite) (rest : List BankWrite), s.coreRuns (idKey c) = true →
      ((s.core (idKey c)).bank b.val).queue = w :: rest →
      let u := s.xferEnv (some (idKey c)) env
      let r := writeWord (u.setCore (idKey c) ((u.core (idKey c)).setBank b.val { (u.core (idKey c)).bank b.val with queue := rest }))
        (idKey c) b.val w.row w.word w.mask w.data
      (r.2.2 = none → exec (.moverBankAccess m (.commit c b) env) s = .next r.1) ∧
      (∀ e j, r.2.2 = some e → (r.1.mover w.mover).active.findIdx? (fun a => a.desc.token = w.token) = some j →
        exec (.moverBankAccess m (.commit c b) env) s = .next (r.1.failActive w.mover j (unitCore (idKey c)) e)))

/-- R156, R264, R293: a fault during a transfer stops its descriptor: END_ACK that does not come (LINK_ACK_TIMEOUT), a poisoned
completion of a host read (POISON_READ), a host read that fails (ACCESS_DENIED). The descriptor leaves the mover with
the fault's code, and so does every ORDERED descriptor that still waits, whose partition's work stops; the fault is reported
once; no byte that was
written is taken back.
R264: a descriptor or argument-block fetch that fails is reported as ACCESS_DENIED with its host address and pauses the
examination of the context; nothing else of the context changes. A failed read behind an interval's HOST writes is reported
so too, and has no other effect (the model's choice, log 140: R218 gives it none). -/
def Obligations.TransferAndFetchFaultsStopTheirCause : Prop :=
  (∀ (m : MoverId) (addr : Nat) (s : State) (i : Nat) (a : Active),
     let k := moverKey m
     let mv := s.mover k
     let stopped (r : Result) (code : Nat) := ∃ t, r = .next t ∧
       t.hbm = s.hbm ∧ t.scratch = s.scratch ∧ t.ports = s.ports ∧
       (t.mover k).active = mv.active.eraseIdx i ∧ (t.mover k).queue = mv.queue.filter (fun d => !d.ordered) ∧
       (t.mover k).done = mv.done ++ (a.desc.token, code) :: (mv.queue.filter (·.ordered)).map (fun d => (d.token, code)) ∧
       (∀ e ∈ mv.queue, e.ordered = true → (s.job e.part).isSome = true → ((t.part e.part).fault).isSome = true) ∧
       ∃ rep, t.log.waiting = s.log.waiting ++ [rep] ∧ rep.code = code
     mv.active[i]? = some a →
     (s.moverRuns k = true → mv.active.findIdx? s.canTimeOut = some i → stopped (exec (.endAckTimeout m) s) 0x0E) ∧
     (s.moverRuns k = true → mv.active.findIdx? Active.readsHost = some i →
       stopped (exec (.poisonedCompletion m addr) s) 0x18) ∧
     (s.leavenUp = true → mv.active.findIdx? Active.readsHost = some i →
       stopped (exec (.hostReadFailure (.transfer m addr)) s) 0x0F)) ∧
  (∀ (c : CtxNo) (addr : Nat) (s : State), s.leavenUp = true → s.mayExamine c.val = true →
     let x := s.ctx c.val
     let paused (r : Result) (a : Nat) := ∃ t rep, r = .next t ∧ t.ctx c.val = { x with pause := .hostRead } ∧
       (∀ j, j ≠ c.val → t.ctx j = s.ctx j) ∧ t.log.waiting = s.log.waiting ++ [rep] ∧
       rep.code = 0x0F ∧ rep.addrKind = .host ∧ rep.address = a ∧ rep.ctx = some c.val
     paused (exec (.hostReadFailure (.descriptor c)) s) (x.submitBase + 64 * (x.nextSeq.toNat % x.ringSize)) ∧
     paused (exec (.hostReadFailure (.arguments c addr)) s) addr ∧
     (∀ p : PortNo, s.canSend p.val = true → ∃ t rep, exec (.hostReadFailure (.flush p addr)) s = .next t ∧
       (∀ f : StateField, f ≠ .log → f.same s t) ∧ t.log.waiting = s.log.waiting ++ [rep] ∧
       rep.code = 0x0F ∧ rep.addrKind = .host ∧ rep.address = addr))

/-! ## The object dictionary, sessions and contexts (10, 12) -/

/-- R249, R250, R335: a write of the dictionary, by DICTIONARY_WRITE or by a command that is a write of one object, is judged in
the order of R335 and answers the first failure alone: no such object (or, by their own rules, a scale object without a record
and 0x7000.07 without an entry), the access right with the session's privilege, the length, the complement of a CU32, the
range; a refusal changes nothing but the log, where it waits with the object's address and, for a length, both lengths. A
write that passes has its object's effect, and a session that is privileged when it is done counts it against its idle lock.
R261: before Leaven serves the dictionary, a write through a window of BAR0 is aborted with OD_NO_OBJECT, and any other has
no effect. -/
def Obligations.DictionaryWritesAreJudgedInOrder : Prop :=
  ∀ (i : Instr) (x : Session) (idx sub : Nat) (data : List Byte) (s : State), objectWritten i = some (x, idx, sub, data) →
    let v := fromBytes data
    let refused (code d0 d1 : Nat) := ∃ rep : Report, exec i s = .next (s.report rep) ∧ rep.code = code ∧ rep.addrKind = .object ∧
      rep.address = objAddress idx sub ∧ (code = 0x11 → rep.d0 = d0 ∧ rep.d1 = d1)
    let missing := objInfo idx sub = none ∨
      (idx = 0x6041 ∧ 3 ≤ sub ∧ s.selectedRec (s.session x).scaleSelect = none) ∨
      (idx = 0x7000 ∧ sub = 7 ∧ s.log.entry (s.session x).logSelect = none)
    (s.served = false →
      (s.bootAnswers x = true → refused 0x10 0 0) ∧ (s.bootAnswers x = false → exec i s = .next s)) ∧
    (s.served = true → missing → refused 0x10 0 0) ∧
    (∀ o, s.served = true → objInfo idx sub = some o → ¬ missing →
      let barred := o.acc = .ro ∨ o.acc = .const ∨ (o.acc = .rwp ∧ (s.session x).privileged = false)
      let pair := o.ty = .cu32 → isCompl 32 (v % 2 ^ 32) (v / 2 ^ 32) = true
      let outside := (o.ty = .bool ∧ 1 < v) ∨ (o.counter = true ∧ v ≠ 0) ∨
        (o.ty.isDomain = false ∧ o.acc ≠ .wo ∧ (v < o.lo ∨ o.hi < v))
      (barred → refused 0x0F 0 0) ∧
      (¬ barred → data.length ≠ o.ty.len → refused 0x11 data.length o.ty.len) ∧
      (¬ barred → data.length = o.ty.len → ¬ pair → refused 0x04 0 0) ∧
      (¬ barred → data.length = o.ty.len → pair → outside → refused 0x0F 0 0) ∧
      (¬ barred → data.length = o.ty.len → pair → ¬ outside →
        let r := s.objEffect x idx sub data
        (r.2 = 0 → exec i s = .next (r.1.touchPrivilege x)) ∧
        (r.2 ≠ 0 → ∃ rep : Report, exec i s = .next (r.1.report rep) ∧ rep.code = r.2 ∧ rep.address = objAddress idx sub)))

/-- R206: CONTROL, and the end of a reset, for a context in each of its modes. START only from STOPPED; STOP drains a context
that holds accepted items and stops one that holds none, is taken without effect in STOPPED and DRAINING, waits in
RESETTING and ends FAULTED; RESET is refused in STOPPED and RESETTING, and never drops an accepted item; where the chosen
item is in BINDING it unbinds the partition. The context leaves RESETTING for the mode that R206 gives, once its chosen item
is bound again, and an examination that a failed read had paused may go on. No other context's mode changes. -/
def Obligations.ContextControlFollowsItsMode : Prop :=
  ∀ (x : Session) (c : CtxNo) (s : State), s.served = true →
    let y := s.ctx c.val
    let others (t : State) := ∀ j, j ≠ c.val → t.ctx j = s.ctx j
    let becomes (i : Instr) (z : Context) := ∃ t, exec i s = .next t ∧ t.ctx c.val = z ∧ others t ∧ t.log = s.log
    let refused (i : Instr) := ∃ rep, exec i s = .next (s.report rep) ∧ rep.code = 0x0F ∧ rep.addrKind = .object
    let resets (t : State) := exec (.reset x c) s = .next t ∧ (t.ctx c.val).mode = .resetting ∧
      (t.ctx c.val).resetFrom = y.mode ∧ (t.ctx c.val).items.map (·.seq) = y.items.map (·.seq) ∧ t.log = s.log ∧
      ∀ j, (t.ctx j).items.map (·.seq) = (s.ctx j).items.map (·.seq) ∧ (j ≠ c.val → (t.ctx j).mode = (s.ctx j).mode)
    let idle := if y.items.isEmpty then CtxMode.stopped else CtxMode.draining
    (y.mode = .stopped → becomes (.start x c) { y with mode := .running, pause := .none }) ∧
    (y.mode ≠ .stopped → refused (.start x c)) ∧
    (y.mode = .stopped ∨ y.mode = .draining → becomes (.stop x c) y) ∧
    (y.mode = .running → becomes (.stop x c) { y with mode := idle, pause := .none }) ∧
    (y.mode = .resetting → becomes (.stop x c) { y with stopInReset := true }) ∧
    (y.mode = .faulted → becomes (.stop x c) { y with mode := .stopped }) ∧
    (y.mode = .stopped ∨ y.mode = .resetting → refused (.reset x c)) ∧
    (y.mode = .running ∨ y.mode = .draining → ∃ t, resets t) ∧
    (y.mode = .running ∨ y.mode = .draining → ∀ p, s.partRunning c.val = some p → (∃ i ∈ y.items.head?, i.state = .binding) →
      ∃ t, resets t ∧ (t.part p).binding = none) ∧
    (y.mode = .faulted → ∃ t, resets t ∧ (t.ctx c.val).kept = []) ∧
    (y.mode = .resetting → (s.partRunning c.val = none ∨ ∀ i ∈ y.items.head?, i.state ≠ .rollingBack ∧ i.state ≠ .binding) →
      exec (.contextResetComplete c) s = .next (s.setCtx c.val { y with
        stopInReset := false
        pause := if y.pause = .hostRead then .none else y.pause
        mode := if y.resetFrom = .faulted then .stopped
          else if y.resetFrom = .running ∧ y.stopInReset = false then .running else idle }))

/-- R253 to R255: CHALLENGE gives the session a challenge of 32 bytes; a RESPONSE consumes it, and makes the session privileged
just where it is the HMAC of the challenge, the session's code and its node under the key; a mismatch counts in
FAILURES and in the run, whose eighth begins a lockout of 60 s; in a lockout, or while a key is being written, a
RESPONSE is refused unexamined and adds nothing to the run. LOCK of 1 and an admitted KEY end privilege, the latter in
every session. The key takes effect at KEY_FLASH_COMPLETE.
R254, R255: a lockout ends at its 60 s, privilege at IDLE_LOCK_S after the last privileged write; the timekeeper has come
to that moment and nothing else of the session changes. -/
def Obligations.SessionsGainLoseAndOutlivePrivilege : Prop :=
  (∀ (x : Session) (data : List Byte) (s : State), s.served = true →
     let e := s.session x
     let held := (∃ t, e.lockoutEnd = some t ∧ s.now < t) ∨ s.boot.keyPending ≠ none
     let matching := ∃ ch k, e.challenge = some ch ∧ s.boot.key = some k ∧
       hmacSha384 k (ch ++ toBytes 1 (sessCode x) ++ toBytes 2 (if x = .lane then 0 else 0xFFFF)) = data
     let failed (z : SessionState) := ∃ t rep, exec (.response x data) s = .next t ∧ t.session x = z ∧
       (∀ y, y ≠ x → t.session y = s.session y) ∧ t.obj 0x1010 5 = min (s.obj 0x1010 5 + 1) (2 ^ 32 - 1) ∧
       t.log.waiting = s.log.waiting ++ [rep] ∧ rep.code = 0x0F
     (∃ t ch, exec (.challenge x) s = .next t ∧ ch.length = 32 ∧ t.session x = { e with challenge := some ch } ∧
       ∀ y, y ≠ x → t.session y = s.session y) ∧
     (data.length = 48 → ¬ held → matching → ∃ t, exec (.response x data) s = .next t ∧ t.log = s.log ∧
       t.session x = { e with challenge := none, privileged := true, failRun := 0, lastPriv := s.now }) ∧
     (data.length = 48 → ¬ held → ¬ matching → failed (if e.failRun + 1 = 8 then
         { e with challenge := none, failRun := 0, lockoutEnd := some (s.now + 60000000000) }
       else { e with challenge := none, failRun := e.failRun + 1 })) ∧
     (data.length = 48 → held → failed { e with challenge := none }) ∧
     (∃ t, exec (.lock x 1) s = .next t ∧ t.session x = { e with privileged := false } ∧ t.log = s.log) ∧
     (data.length = 48 → s.boot.keyPending = none → (s.boot.key = none ∨ e.privileged = true) →
       ∃ t, exec (.key x data) s = .next t ∧ t.boot.key = s.boot.key ∧
         t.boot.keyPending = some (s.boot.controlProofer, data) ∧ ∀ y, (t.session y).privileged = false) ∧
     (data.length = 48 → (s.boot.keyPending ≠ none ∨ (s.boot.key ≠ none ∧ e.privileged = false)) →
       ∃ rep, exec (.key x data) s = .next (s.report rep) ∧ rep.code = 0x0F) ∧
     (∀ q k, s.boot.keyPending = some (q, k) →
       exec .keyFlashComplete s = .next { s with boot := { s.boot with key := some k, keyPending := none } })) ∧
  (∀ (x : Session) (s : State),
     let e := s.session x
     (∀ t, e.lockoutEnd = some t → s.power.vaux33 = true → ∃ s', exec (.lockoutExpiry x) s = .next s' ∧ t ≤ s'.now ∧ s.now ≤ s'.now ∧
       s'.session x = { e with lockoutEnd := none } ∧ ∀ y, y ≠ x → s'.session y = s.session y) ∧
     (s.leavenUp = true → e.privileged = true → ∃ s', exec (.idleLock x) s = .next s' ∧
       e.lastPriv + 1000000000 * s.obj 0x1010 6 ≤ s'.now ∧ s.now ≤ s'.now ∧
       s'.session x = { e with privileged := false } ∧ ∀ y, y ≠ x → s'.session y = s.session y))

/-- R56, R203, R204, R205, R236, R277, R281, R284, R303: what an admitted write of these commands does: ADVANCE clears the tracking
table and counts an epoch; ACK moves ACK within ACK and HEAD; NEXT_SEQ sets the doorbell target behind it; RUNNING
sets a channel that no descriptor uses; ENABLE takes a port down or starts its training; PARTITION_MAP_WRITE stores the
pair of a map that meets no other; DELTA of a group that has a record, within the group's range, waits for the next training
item of that context and program (log 28) in place of an earlier one. -/
def Obligations.ObjectCommandsTakeEffect : Prop :=
  ∀ (x : Session) (s : State), s.served = true →
    let refused (i : Instr) := ∃ rep : Report, exec i s = .next (s.report rep) ∧ rep.code = 0x0F
    (∃ t, exec (.advance x 1) s = .next t ∧ t.seeds = [] ∧ t.obj 0x6010 1 = 0 ∧ t.obj 0x6010 3 = 0 ∧ t.obj 0x6010 4 = 0 ∧
      t.obj 0x6010 6 = min (s.obj 0x6010 6 + 1) (2 ^ 32 - 1)) ∧
    (∀ v, v ≠ 1 → refused (.advance x v)) ∧
    (∀ v : W64, s.log.ack ≤ v.toNat → v.toNat ≤ s.log.head →
      ∃ t, exec (.ack x v) s = .next t ∧ t.log = { s.log with ack := v.toNat }) ∧
    (∀ v : W64, (v.toNat < s.log.ack ∨ s.log.head < v.toNat) → refused (.ack x v)) ∧
    (∀ (c : CtxNo) v, (s.ctx c.val).mode = .stopped → ∃ t, exec (.nextSeqWrite x c v) s = .next t ∧
      t.ctx c.val = { s.ctx c.val with nextSeq := v, target := v - 1 } ∧ ∀ j, j ≠ c.val → t.ctx j = s.ctx j) ∧
    (∀ (c : CtxNo) v, (s.ctx c.val).mode ≠ .stopped → refused (.nextSeqWrite x c v)) ∧
    (∀ (ch : ChanNo) v, ch.val ∉ s.chanUse → ∃ t, exec (.running x ch v) s = .next t ∧ t.chanRunning ch.val = v.toNat) ∧
    (∀ (ch : ChanNo) v, ch.val ∈ s.chanUse → refused (.running x ch v)) ∧
    (∀ p : FwNo, (s.link p.val).state ≠ .failed →
      (∃ t, exec (.enable x p 0) s = .next t ∧ (t.link p.val).state = .down) ∧
      ((s.link p.val).state = .down → ∃ t, exec (.enable x p 1) s = .next t ∧ (t.link p.val).state = .training) ∧
      ((s.link p.val).state ≠ .down → ∃ t, exec (.enable x p 1) s = .next t ∧ (t.link p.val).state = (s.link p.val).state)) ∧
    (∀ p v, (s.link p.val).state = .failed → v.toNat ≤ 1 → ∃ t, exec (.enable x p v) s = .next t ∧ t.link p.val = s.link p.val) ∧
    (∀ (p : PartNo) (v : W32), (s.session x).privileged = true →
      let clash := ∃ q, q < 16 ∧ q ≠ p.val ∧ (s.part q).map &&& v ≠ 0
      let idle := ∀ c ∈ s.ctxIds, (s.ctx c).partition = p.val → (s.ctx c).mode = .stopped ∧ (s.ctx c).items = []
      (v.toNat < 2 ^ 16 → ¬ clash → idle → ∃ t, exec (.partitionMapWrite x p v (~~~v)) s = .next t ∧
        (t.part p.val).map = v ∧ (t.part p.val).mapC = ~~~v ∧ (t.part p.val).binding = none ∧
        ∀ q, q ≠ p.val → t.part q = s.part q) ∧
      ((2 ^ 16 ≤ v.toNat ∨ clash ∨ ¬ idle) → refused (.partitionMapWrite x p v (~~~v)))) ∧
    (∀ (v : W32) r, (s.session x).privileged = true → s.selectedRec (s.session x).scaleSelect = some r →
      let c := (scaleSelected (s.session x).scaleSelect).1
      let g := (scaleSelected (s.session x).scaleSelect).2
      (r.dmin ≤ v.toInt → v.toInt ≤ r.dmax → ∃ t, exec (.delta x v) s = .next t ∧
        t.train = { s.train with pendingDelta := (c, r.program, g, v.toInt) ::
          s.train.pendingDelta.filter fun e => !(decide (e.1 = c) && decide (e.2.1 = r.program) && decide (e.2.2.1 = g)) }) ∧
      ((v.toInt < r.dmin ∨ r.dmax < v.toInt) → refused (.delta x v)))

/-- R245, R246: 0x4031 ACTION on the unit of TARGET. RETEST takes a faulty unit that no binding uses, RETIRE a unit that is not
faulty yet, FORGET any repairable unit; one action at a time; refused otherwise with RESULT 4. RETEST_DONE restores a unit that
passed and leaves one that did not; FORGET_DONE drops the unit's entry of the persistent record. -/
def Obligations.RepairActionsFollowTheirTarget : Prop :=
  ∀ (x : Session) (s : State), s.served = true → (s.session x).privileged = true →
    let u := s.health.repairTarget
    let free := repairable u = true ∧ s.health.repair = none
    let started (i : Instr) (a : RepairAction) := ∃ t, exec i s = .next t ∧ t.health.repair = some a ∧ t.health.repairResult = 1
    let refused (i : Instr) := ∃ t rep, exec i s = .next t ∧ t.health = { s.health with repairResult := 4 } ∧
      t.log.waiting = s.log.waiting ++ [rep] ∧ rep.code = 0x0F
    (free → s.unitFaulty u = true → s.unitInUse u = false → started (.retest x) (.retest u)) ∧
    (¬ (free ∧ s.unitFaulty u = true ∧ s.unitInUse u = false) → refused (.retest x)) ∧
    (free → s.unitFaulty u = true → ∃ t, exec (.retire x) s = .next t ∧ t.health = { s.health with repair := none, repairResult := 2 }) ∧
    (free → s.unitFaulty u = false → exec (.retire x) s =
      .next (((s.setRepair (some (.retire u)) 1).unitFails u 4).touchPrivilege x)) ∧
    (¬ free → refused (.retire x) ∧ refused (.forget x)) ∧
    (free → started (.forget x) (.forget u)) ∧
    (∀ w, s.health.repair = some (.forget w) → ∃ t, exec .forgetDone s = .next t ∧ t.health.repair = none ∧
      t.health.repairResult = 2 ∧ t.boot.persistent = s.boot.persistent.filter fun e => decide (e.1 ≠ w)) ∧
    (∀ w, s.health.repair = some (.retest w) →
      (∃ t, exec (.retestDone false) s = .next t ∧ t.health.repair = none ∧ t.health.repairResult = 3 ∧
        ∀ v, t.unitFaulty v = s.unitFaulty v) ∧
      (repairable w = true → ∃ t rep, exec (.retestDone true) s = .next t ∧ t.unitFaulty w = false ∧
        t.log.waiting = s.log.waiting ++ [rep] ∧ rep.code = 0x1C ∧ rep.unit = w))

/-! ## Work: submission, binding, marks, completion, deadlines, replay (09, 10) -/

/-- R264, R277, R318: a doorbell on a port that answers moves the context's target forward and never back. In RUNNING it also
restarts an examination that a failed read paused, and wakes the hearths of the context's partition (log 137); in every
other mode the target alone changes. On a port that does not answer nothing happens. -/
def Obligations.DoorbellsOnlyAdvanceTheTarget : Prop :=
  ∀ (port : PortNo) (c : CtxNo) (d : W32) (s : State),
    let y := s.ctx c.val
    let ahead := (d - y.target).toNat
    let target := if 1 ≤ ahead ∧ ahead ≤ 2 ^ 31 - 1 then d else y.target
    (s.portAnswers port.val = true → y.mode = .running → ∃ t, exec (.doorbell port c d) s = .next t ∧ t.log = s.log ∧
      t.ctx c.val = { y with target := target, pause := if y.pause = .hostRead then .none else y.pause } ∧
      ∀ j, j ≠ c.val → t.ctx j = s.ctx j) ∧
    (s.portAnswers port.val = true → y.mode ≠ .running →
      exec (.doorbell port c d) s = .next (s.setCtx c.val { y with target := target })) ∧
    (s.portAnswers port.val = false → exec (.doorbell port c d) s = .next s)

/-- R208, R211, R212: where examination may go on, one descriptor is examined: with room in the journal beyond the reserve it
is accepted or refused by the first failing check of R211, and either way NEXT_SEQ advances by one; accepted, it
becomes the newest item and LAST_ACCEPTED its number; refused, it becomes no item and its code is reported. Without room, and
only then, examination pauses and nothing is refused; EXAMINATION_RESUME goes on with the same descriptor while the journal
stands. The use of a partition map whose pair fails is logged before (R204). -/
def Obligations.DescriptorsAreAcceptedOrRefusedOnce : Prop :=
  ∀ (c : CtxNo) (desc : BitVec 512) (args : BitVec 1536) (s : State), s.leavenUp = true →
    let y := s.ctx c.val
    let room (q : State) := journalReserve + (if (q.judgeDesc c.val desc args).isNone then recUnits 256 else recUnits 3) ≤ q.journal.free
    let noted (q : State) := if q.mapOk y.partition then q else q.mapFault y.partition
    let examined (i : Instr) (q : State) := ∃ t, exec i s = .next t ∧ (∀ j, j ≠ c.val → t.ctx j = s.ctx j) ∧
      (q.judgeDesc c.val desc args = none → t.log = q.log ∧ t.ctx c.val = { y with
        pause := .none
        nextSeq := y.nextSeq + 1
        lastAccepted := y.nextSeq.toNat
        items := y.items ++ [newItem y.nextSeq.toNat desc args] }) ∧
      (∀ e, q.judgeDesc c.val desc args = some e → t.ctx c.val = { y with pause := .none, nextSeq := y.nextSeq + 1 } ∧
        ∃ rep, t.log.waiting = q.log.waiting ++ [rep] ∧ rep.code = e.code ∧ rep.subcode = e.sub)
    let now := noted s.reclaim
    (s.mayExamine c.val = true → room now → examined (.descriptorExamine c desc args) now) ∧
    (s.mayExamine c.val = true → ¬ room now → ∃ t, exec (.descriptorExamine c desc args) s = .next t ∧ t.log = now.log ∧
      t.ctx c.val = { y with pause := .journal desc args } ∧ ∀ j, j ≠ c.val → t.ctx j = s.ctx j) ∧
    (y.pause = .journal desc args → y.mode = .running → s.health.journalLost = false →
      journalReserve + recUnits 256 ≤ s.reclaim.journal.free →
      let q := noted (s.reclaim.setCtx c.val { y with pause := .none }).reclaim
      room q → examined (.examinationResume c) q)

/-- R207, R214, R227: a partition with no item in progress takes one of its contexts that offers an item, of the highest
PRIORITY among them, and that context's head item enters BINDING; one whose deadline has passed under ABORT
completes DEADLINE_ABORTED without running. A partition whose map pair fails takes none, and the use is logged (R204). -/
def Obligations.ThePartitionTakesTheHighestPriority : Prop :=
  ∀ (p : PartNo) (c : Nat) (i : Item) (rest : List Item) (s : State), s.leavenUp = true → s.isReady = true →
    (s.part p.val).current = none → s.chooseCtx p.val = some c → (s.ctx c).items = i :: rest →
    (s.mapOk p.val = false → exec (.itemChoose p) s = .next (s.mapFault p.val)) ∧
    s.offers p.val c = true ∧
    (∀ d ∈ s.ctxIds, s.offers p.val d = true → (s.ctx d).priority ≤ (s.ctx c).priority) ∧
    (s.mapOk p.val = true → s.tooLate c i = false → ∃ t, exec (.itemChoose p) s = .next t ∧ (t.part p.val).current = some c ∧
      (t.part p.val).lastCtx = some c ∧ (t.ctx c).items = { i with state := .binding, bound := false } :: rest ∧
      t.log = s.log ∧ ∀ j, j ≠ c → t.ctx j = s.ctx j) ∧
    (s.mapOk p.val = true → s.tooLate c i = true → ∃ t, exec (.itemChoose p) s = .next t ∧ (t.part p.val).current = none ∧
      (∀ j ∈ (t.ctx c).items, j.seq = i.seq → ∃ f, j.final = some f ∧ f.status = 2) ∧ ∀ j, j ≠ c → t.ctx j = s.ctx j)

/-- R175, R188, R207, R217: BIND of the item a partition has chosen. A resident binding that serves the item is used again; otherwise
the program is bound afresh, and ends in a run, in a loader refusal that completes the item, in a return of the
context's items for want of capacity, or in a fault of the attempt that ITEM_REPLAY takes up, reported with the stack whose
word could not be read (R230). A training item waits for its start. The health words whose complement fails are reported. -/
def Obligations.BindStartsOrEndsTheItem : Prop :=
  ∀ (p : PartNo) (bad : List HealthWord) (ns : Nat) (s : State) (c : Nat) (i : Item), s.leavenUp = true → s.mapOk p.val = true →
    s.running p.val = some (c, i) → i.state = .binding → i.bound = false → (s.part p.val).fault = none →
    let s0 := s.badHealth bad
    let u := s0.unbind p.val
    let go (t : State) := exec (.bind p bad ns) s = .next t
    (∀ b, (s0.part p.val).binding = some b → b.serves c i = true →
      go ((s0.estimate c i b ns).startRun p.val c i b false)) ∧
    ((∀ b, (s0.part p.val).binding = some b → b.serves c i = false) →
      (∀ b, u.tryBind p.val c i.desc i.train bad = .bound b →
        go (let r := (u.estimate c i b ns).install p.val c i b; r.1.startRun p.val c i r.2 false)) ∧
      (∀ f, u.tryBind p.val c i.desc i.train bad = .reject f → ∃ t, go t ∧ (t.part p.val).current = none ∧
        (∀ j ∈ (t.ctx c).items, j.seq = i.seq → ∃ z, j.final = some z ∧ z.status = 4 ∧ z.code = f.code ∧ z.subcode = f.sub ∧ z.offset = f.off)) ∧
      (∀ off, u.tryBind p.val c i.desc i.train bad = .capacity off → ∃ t, go t ∧ (t.part p.val).current = none ∧
        go ((u.returnItems c 0x16 unitLoader off .program).release p.val)) ∧
      (∀ e, u.tryBind p.val c i.desc i.train bad = .broken e → ∃ t, go t ∧
        (t.part p.val).fault = some ⟨e.code, 0, false, true, false⟩ ∧ (t.ctx c).items = (s.ctx c).items ∧
        ∃ rep, t.log.waiting = s0.log.waiting ++ [rep] ∧ rep.code = e.code ∧ rep.address = e.address))

/-- R194, R201, R203: a training item whose binding is in place starts: its head item runs, nothing else of a context changes, and
the binding keeps the samples of RAISE_BELOW and DOLDRUMS_RUN for the item's settlement.
R198, R199: the settlement of one group. A skipped group that overflowed moves its offset up by 1, 2, 4, then 8, counts the
skip and empties its history; otherwise it stays. A committed group that drained entries appends its peak to the
last 16; where all 16 stand at or below RAISE_BELOW the offset moves down by one and the history empties. An offset
that lies within its range stays in it. The run count grows by one on a zero step and is 0 after any other, and DOLDRUMS is
due just where the count reaches a multiple of DOLDRUMS_RUN. -/
def Obligations.TrainingItemsStartAndScaleRecordsSettle : Prop :=
  (∀ (p : PartNo) (bad : List (Nat × List Stack)) (s : State) (x : Job), s.leavenUp = true → s.boundJob p.val = some x → x.bd.train = true →
     ∃ t, exec (.trainingItemStart p bad) s = .next t ∧
       (t.ctx x.ctx).items.head? = (s.ctx x.ctx).items.head?.map (fun i => { i with state := .running, bound := false }) ∧
       (∀ j, j ≠ x.ctx → t.ctx j = s.ctx j) ∧
       (∃ b, (t.part p.val).binding = some b ∧ b.raiseBelow = s.obj 0x6040 1 ∧ b.doldrumsRun = s.obj 0x6040 2)) ∧
  (∀ (r : ScaleRec) (g : GroupStats) (below every : Nat), r.dmin ≤ r.dmax → r.run < 2 ^ 32 →
     let clamp (d : Int) := max r.dmin (min r.dmax d)
     let skip := (r.settleSkip g).1
     let done := (r.settleCommit g below).1
     let hist := (r.hist ++ [g.peak]).drop (r.hist.length + 1 - 16)
     let watched := r.watch g every
     (0 < g.flagged → skip.delta = clamp (r.delta + if r.skips = 0 then 1 else if r.skips = 1 then 2 else if r.skips = 2 then 4 else 8) ∧
       skip.skips = r.skips + 1 ∧ skip.hist = [] ∧ skip.run = r.run) ∧
     (g.flagged = 0 → skip = r) ∧
     (hist.length = 16 → (∀ v ∈ hist, v ≤ below) → done.delta = clamp (r.delta - 1) ∧ done.hist = []) ∧
     (¬ (hist.length = 16 ∧ ∀ v ∈ hist, v ≤ below) → done.delta = r.delta ∧ done.hist = hist) ∧
     (done.skips = 0 ∧ done.peakLast = g.peak ∧ done.run = r.run) ∧
     (r.dmin ≤ r.delta → r.delta ≤ r.dmax →
       r.dmin ≤ skip.delta ∧ skip.delta ≤ r.dmax ∧ r.dmin ≤ done.delta ∧ done.delta ≤ r.dmax) ∧
     watched.1.run = (if g.zeroStep then min (r.run + 1) (2 ^ 32 - 1) else 0) ∧
     (watched.2 = true ↔ g.zeroStep = true ∧ r.run < 2 ^ 32 - 1 ∧ (r.run + 1) % every = 0) ∧
     watched.1.delta = r.delta)

/-- R197, R207, R218: a commit mark whose units and operations are all done. A training program that overflowed skips its step;
otherwise the mark is recorded. A mark before the last phase that neither faults nor preempts counts in MARKS, moves the
resume phase behind it and opens a new interval of replays. -/
def Obligations.CommitMarksOpenANewInterval : Prop :=
  ∀ (p : PartNo) (s : State) (x : Job) (ph : Nat), s.leavenUp = true → s.job p.val = some x → x.nextMark = some ph →
    s.markReady x ph = true →
    (x.bd.train = true → x.bd.overflowed = true → exec (.commitMark p) s = .next (s.skipStep x).reclaim) ∧
    (¬ (x.bd.train = true ∧ x.bd.overflowed = true) → exec (.commitMark p) s = .next (s.commit x ph).reclaim) ∧
    (∀ i rest, ¬ (x.bd.train = true ∧ x.bd.overflowed = true) → ph + 1 ≠ x.bd.prog.phases → (s.checkpoint x ph).2 = none →
      s.preemptor x.part x.ctx = false → (s.ctx x.ctx).items = i :: rest →
      ∃ t, exec (.commitMark p) s = .next t ∧
        (t.ctx x.ctx).items = { i with marks := i.marks + 1, resumePhase := ph + 1, counted := 0 } :: rest ∧
        (∀ j, j ≠ x.ctx → t.ctx j = s.ctx j) ∧ t.log = (s.checkpoint x ph).1.log)

/-- R214, R221: the head item of a context that has its final record completes: it leaves the queue, LAST_COMPLETED is its number, a
context that was draining and holds no further item stops, and nothing else of any context changes.
R226, R227, R320: the comparator fires for the earliest deadline that has passed. With Leaven up the miss is logged once with
its context and number, and is noted on the item; with Leaven down it is latched with its time, once. -/
def Obligations.CompletionsAndDeadlinesComeOnce : Prop :=
  (∀ (c : CtxNo) (i : Item) (rest : List Item) (f : Final) (s : State), s.leavenUp = true → (s.ctx c.val).items = i :: rest →
     i.final = some f →
     let y := s.ctx c.val
     ∃ t, exec (.itemComplete c) s = .next t ∧ t.ctx c.val = { y with
         items := rest
         lastCompleted := i.seq
         mode := if y.mode = .draining ∧ rest.isEmpty then .stopped else y.mode } ∧
       (∀ j, j ≠ c.val → t.ctx j = s.ctx j) ∧ t.log = s.log) ∧
  (∀ (s : State) (d c seq : Nat), earliest s.deadlines = some (d, c, seq) → s.power.vaux33 = true → d < s.now →
     (∀ i, s.leavenUp = true → (s.ctx c).items.find? (fun i => i.seq = seq) = some i →
       ∃ t rep, exec .deadlineMissed s = .next t ∧ t.log.waiting = s.log.waiting ++ [rep] ∧ rep.code = 0x0C ∧
         rep.ctx = some c ∧ rep.item = some (c, i.seq) ∧ (∀ j ∈ (t.ctx c).items, j.seq = seq → j.missed = true)) ∧
     (s.leavenUp = false → s.power.latched.any (fun e => decide (e.1 = 0)) = true → exec .deadlineMissed s = .next s) ∧
     (s.leavenUp = false → s.power.latched.any (fun e => decide (e.1 = 0)) = false → ∃ t, exec .deadlineMissed s = .next t ∧
       t.power.latched = s.power.latched ++ [(0, s.now)] ∧ t.log = s.log ∧ t.ctxs = s.ctxs))

/-- R219, R225, R227, R244: the item of a partition that has faulted, or that a failure rolled back, is rolled back to its last
mark; then a missed deadline under ABORT completes it DEADLINE_ABORTED, a permanent fault FAILED with the fault's code and
operation, and any other is replayed from its ACCEPT record. A record that fails in both copies is the loss of the journal. A
fault that counts, of an item whose counted replays have reached REPLAY_LIMIT, completes it FAILED once it would be bound
as before. -/
def Obligations.RolledBackItemsEndOrReplay : Prop :=
  ∀ (r : ReplayStart) (s : State) (c : Nat) (i : Item), s.leavenUp = true → s.mapOk r.part.val = true →
    s.running r.part.val = some (c, i) → i.final = none → i.awaitsPort = false →
    let p := r.part.val
    let ended (status code off : Nat) := ∃ t, exec (.itemReplay r) s = .next t ∧ (t.part p).current = none ∧
      (t.part p).fault = none ∧
      (∀ j ∈ (t.ctx c).items, j.seq = i.seq → ∃ f, j.final = some f ∧ f.status = status ∧ f.code = code ∧ f.offset = off)
    let a := (s.rollback p).readAccept c i r.badCopies
    let replayed := (a.2 = false → exec (.itemReplay r) s = .next (a.1.replayItem p c i (s.part p).fault r)) ∧
      (a.2 = true → exec (.itemReplay r) s = .next a.1.loseJournal)
    (∀ g, (s.part p).fault = some g → g.deadline = true → ended 2 0 0) ∧
    (∀ g, (s.part p).fault = some g → g.deadline = false → g.permanent = true → ended 4 g.code g.op) ∧
    (∀ g, (s.part p).fault = some g → g.deadline = false → g.permanent = false → replayed ∧
      ∀ old b, a.2 = false → (a.1.part p).binding = some old →
        (a.1.badHealth r.badHealth).tryBind p c i.desc old.training r.badHealth = .bound b → old.same b = true →
        g.counts = true → (s.ctx c).replayLimit ≤ i.counted →
        ended 4 g.code g.op) ∧
    ((s.part p).fault = none → i.state = .rollingBack → replayed)

/-! ## Failures of units, the error log (11) -/

/-- R225, R241 to R243: a failure of a core, a logic die, a stack, a proofer or a PCIe port. The unit is marked faulty, once;
the persistent record takes it in unless its cause is 3. For a core, a logic die and a PCIe port: GENERATION rises by one
and one UNIT_FAILED with the cause waits to be logged, with the generation as its address and no other report. A unit
that is faulty already stays as it is and reports nothing, unless a RETIRE of it was reported in the same nanosecond.
R219: the copy of the journal begins while a copy is lost and a pair is chosen, and ends on that pair. -/
def Obligations.AFailureMarksItsUnitOnce : Prop :=
  ∀ (i : Instr) (u cause : Nat) (s : State), s.leavenUp = true → s.alive = true → failureOf i = some (u, cause) →
    let gen := min (s.health.generation + 1) (2 ^ 32 - 1)
    (s.unitFaulty u = true →
      (cause = 4 ∨ ∀ r ∈ s.log.waiting, ¬ (r.code = 0x1B ∧ r.unit = u ∧ r.d0 = 4 ∧ r.time = s.now)) → exec i s = .next s) ∧
    (s.unitFaulty u = false → ∃ t, exec i s = .next t ∧ t.unitFaulty u = true ∧
      (cause ≠ 3 → (u, cause) ∈ t.boot.persistent) ∧
      (unitClass u = 16 ∨ unitClass u = 1 ∨ unitClass u = 8 → t.health.generation = gen ∧
        ∃ rep : Report, t.log = { s.log with waiting := s.log.waiting ++ [rep] } ∧ rep.code = 0x1B ∧ rep.unit = u ∧ rep.d0 = cause ∧
          rep.address = gen ∧ rep.time = s.now)) ∧
    (s.health.journalLost = false → ∀ t, s.journal.target = some t →
      (s.journal.state = 1 → exec .journalRelocation s = .next { s with journal := { s.journal with state := 2 } }) ∧
      (s.journal.state = 2 → exec .journalRelocationComplete s = .next { s with journal := { s.journal with
        state := 0, first := t, second := partner t, target := none, survivor := none } }))

/-- R231, R233, R234, R236: ERROR_LOG_ENTRY writes a waiting report at HEAD and HEAD moves on by one; the entries of the ring that it
does not overwrite stay, and ACK. A report is not logged before one detected more than 100 µs earlier. A write of
ELOG_ACK_HI applies the 64-bit ACK formed with the held ACK_LO, refused with ACCESS_DENIED outside ACK to HEAD; reads of
ELOG_HEAD_LO and NOW_LO return the lower 32 bits and latch the upper ones for their function. -/
def Obligations.TheErrorLogIsWrittenAtHeadAndAcknowledged : Prop :=
  ∀ (s : State) (port : PortNo),
    let p := port.val
    let f := s.port p
    (s.leavenUp = true → ∀ k r, s.log.waiting[k]? = some r → s.log.admits k r = true →
      ∃ t, exec (.errorLogEntry k) s = .next t ∧ t.log.waiting = s.log.waiting.eraseIdx k ∧ t.log.head = s.log.head + 1 ∧
        t.log.ack = s.log.ack ∧ t.log.entry s.log.head = some r ∧
        ∀ n, n < s.log.head → s.log.head < n + 1024 → t.log.entry n = s.log.entry n) ∧
    (s.leavenUp = true → ∀ k r o, s.log.waiting[k]? = some r → o ∈ s.log.waiting.eraseIdx k → o.time + 100000 < r.time →
      exec (.errorLogEntry k) s = .next s) ∧
    (s.portAnswers p = true → ∀ hi : W32,
      let v := 2 ^ 32 * hi.toNat + f.ackLo.toNat
      (s.log.ack ≤ v → v ≤ s.log.head → exec (.elogAckHi port hi) s = .next { s with log := { s.log with ack := v } }) ∧
      (v < s.log.ack ∨ s.log.head < v → ∃ rep : Report, exec (.elogAckHi port hi) s = .next (s.report rep) ∧ rep.code = 0x0F ∧
        rep.addrKind = .bar0 ∧ rep.address = 0x2000C)) ∧
    (s.portAnswers p = true →
      let latched (i : Instr) (f' : PortState) := ∃ t, exec i s = .next t ∧ t.port p = f' ∧ t.log = s.log ∧
        ∀ q, q ≠ p → t.port q = s.port q
      latched (.elogHeadLo port) { f with
        headHi := BitVec.ofNat 32 (s.log.head / 2 ^ 32), readData := f.readData ++ [toBytes 4 s.log.head] } ∧
      latched (.nowLo port) { f with nowHi := BitVec.ofNat 32 (s.now / 2 ^ 32), readData := f.readData ++ [toBytes 4 s.now] }) ∧
    (s.portAnswers p = false →
      exec (.elogHeadLo port) s = .next s ∧ exec (.nowLo port) s = .next s ∧ ∀ hi, exec (.elogAckHi port hi) s = .next s)

/-! ## Mailboxes and the dictionary window (12, 13) -/

/-- R271 to R276: messages on a mailbox. GO with LEN 1 to 16 posts the host's message, with any other LEN it is refused
in ERR, and while GO stands it is refused and changes nothing but the interrupt enables. Leaven takes a message: GO
clears and TAKEN sets; ECHO posts its words back where the mailbox is free, and an operation Leaven does not know
ends with ERR 0x0F. A message not taken in time clears GO and sets TIMEOUT. A device message sets DREADY with its words
and length; DTAKE clears DREADY; one not taken in time sets DLOST. No other mailbox changes. -/
def Obligations.MailboxesCarryMessagesBothWays : Prop :=
  ∀ (port : PortNo) (m : MboxNo) (s : State),
    let b := s.mbox m.val
    let us := s.obj (0x1040 + m.val) 1
    let leaves (i : Instr) (b' : Mbox) := ∃ t, exec i s = .next t ∧ t.mbox m.val = b' ∧ ∀ j, j ≠ m.val → t.mbox j = s.mbox j
    let refused (i : Instr) (b' : Mbox) := ∃ t rep, exec i s = .next t ∧ t.mbox m.val = b' ∧ (∀ j, j ≠ m.val → t.mbox j = s.mbox j) ∧
      t.log.waiting = s.log.waiting ++ [rep] ∧ rep.code = 0x0F
    let late (i : Instr) (b' : Mbox) (at_ ns : Nat) := ∃ t rep, exec i s = .next t ∧ t.mbox m.val = b' ∧ at_ ≤ t.now ∧
      t.log.waiting = s.log.waiting ++ [rep] ∧ rep.code = 0x0D ∧ rep.address = ns
    (∀ v : W32, s.portAnswers port.val = true → v.getLsbD 0 = true → v.getLsbD 5 = false → v.getLsbD 6 = false →
      let len := v.toNat / 256 % 32
      let set := { b with irqEmpty := v.getLsbD 3, irqRx := v.getLsbD 7 }
      (b.go = false → 1 ≤ len → len ≤ 16 → leaves (.go port m v) { set with
        len := len, go := true, taken := false, timeout := false, err := 0, hostUs := us, hostPost := s.now, hostLost := false }) ∧
      (b.go = false → len = 0 ∨ 16 < len → refused (.go port m v) { set with len := len, err := 0x0F }) ∧
      (b.go = true → refused (.go port m v) set)) ∧
    (s.canTake m.val = true → b.isEcho = true → b.free = true → leaves (.echo m) { b with
      go := false, taken := true, err := 0, rx := b.message, dlen := b.message.length, dready := true, devUs := us,
      devPost := s.now, devLost := false }) ∧
    (s.canTake m.val = true → b.isEcho = true → b.free = false → refused (.echo m) { b with go := false, taken := true, err := 0x0F }) ∧
    (s.canTake m.val = true → b.isEcho = false → b.seg = none → refused (.taken m) { b with go := false, taken := true, err := 0x0F }) ∧
    (s.canTake m.val = true → b.isEcho = false → ∃ t, exec (.taken m) s = .next t ∧ (t.mbox m.val).go = false ∧ (t.mbox m.val).taken = true) ∧
    (s.alive = true → b.go = true → late (.mailboxTimeout m) { b with
      go := false, timeout := true, err := 0x0D, hostLost := false } (b.hostPost + 1000 * b.hostUs) (1000 * b.hostUs)) ∧
    (∀ words, s.served = true → b.free = true → b.seg = none → words ≠ [] → words.length ≤ 16 →
      leaves (.deviceMessagePost m words) { b with
        rx := words, dlen := words.length, dready := true, devUs := us, devPost := s.now, devLost := false }) ∧
    (s.alive = true → b.dready = true → b.devLost = false → b.seg = none →
      exec (.dtake m) s = .next (s.setMbox m.val { b with dready := false, dlen := 0 })) ∧
    (s.alive = true → b.dready = false ∨ b.devLost = true → exec (.dtake m) s = .next s) ∧
    (s.alive = true → b.dready = true → b.seg = none → late (.dlost m) { b with
      dready := false, dlen := 0, dlost := true, devLost := false } (b.devPost + 1000 * b.devUs) (1000 * b.devUs))

/-- R256, R257, R335: the window of a port. A GO while a transfer is in progress is refused with ACCESS_DENIED at 0x10000,
except ABORT, which ends it with neither DONE nor ERROR. READ ends with DONE, LENGTH and the value, or with ERROR and
CODE, OD_TYPE_MISMATCH for an object of more than 8 bytes; WRITE with DONE, or with the code of its refusal, its LEN being the
length supplied; READ and WRITE of another node on a worker with ACCESS_DENIED (R259); SEG_READ of a local object posts its first segment and holds
the mailbox; SEG_WRITE waits for its segments and ends with MAILBOX_TIMEOUT 100 ms after the last. A function that does
not answer takes no command. -/
def Obligations.TheWindowRunsOneTransferAtATime : Prop :=
  ∀ (port : PortNo) (index : BitVec 16) (sub : Byte) (len : BitVec 4) (s : State),
    let p := port.val
    let f := s.port p
    let cmds : List Instr := [.read port index sub, .write port index sub len, .segRead port index sub, .segWrite port index sub]
    let cmd (op n : Nat) : PortState := { f with odIndex := index.toNat, odSub := sub.toNat, odOp := op, odLen := n }
    let gone (op n : Nat) := (s.setPort p (cmd op n)).setPort p { cmd op n with busy := true, length := 0 }
    let ended (i : Instr) (code : Nat) (ok : PortState → Prop) := ∃ t, exec i s = .next t ∧ (t.port p).busy = false ∧
      (t.port p).xfer = none ∧ (t.port p).code = code ∧ (code = 0 → (t.port p).done = true) ∧ (code ≠ 0 → (t.port p).err = true) ∧
      ok (t.port p)
    (s.portAnswers p = false → (∀ i ∈ cmds, exec i s = .next s) ∧ exec (.abort port) s = .next s) ∧
    (s.portAnswers p = true → f.busy = true →
      (∀ i ∈ cmds, ∃ rep : Report, exec i s = .next (s.report rep) ∧ rep.code = 0x0F ∧ rep.addrKind = .bar0 ∧ rep.address = 0x10000) ∧
      ∃ t, exec (.abort port) s = .next t ∧ t.port p = { f with busy := false, xfer := none } ∧ t.log = s.log ∧
        (t.mbox f.segMbox).seg ≠ some p) ∧
    (s.portAnswers p = true → f.busy = false →
      exec (.abort port) s = .next (s.setPort p { f with odIndex := 0, odSub := 0, odOp := 5, odLen := 0 })) ∧
    (s.portAnswers p = true → f.busy = false → s.served = true → s.isSelf f.odNode = true →
      let r := (gone 1 0).objRead (portSession p) index.toNat sub.toNat
      (∀ b, r.2 = .ok b → isDomainObj index.toNat sub.toNat = false → ended (.read port index sub) 0 fun g =>
        g.length = b.length ∧ g.dataLo = BitVec.ofNat 32 (fromBytes b) ∧ g.dataHi = BitVec.ofNat 32 (fromBytes b / 2 ^ 32)) ∧
      (∀ b, r.2 = .ok b → isDomainObj index.toNat sub.toNat = true → ended (.read port index sub) 0x11 fun g => g.length = 0) ∧
      (∀ c, c ≠ 0 → r.2 = .error c → ended (.read port index sub) c fun g => g.length = 0) ∧
      (ended (.write port index sub len) ((gone 2 len.toNat).objWrite (portSession p) index.toNat sub.toNat
        ((f.data ++ List.replicate 8 0).take len.toNat)).2 fun _ => True) ∧
      ((s.mbox f.segMbox).seg = none →
        (∀ b, ((gone 3 0).objRead (portSession p) index.toNat sub.toNat).2 = .ok b → b ≠ [] → (s.mbox f.segMbox).free = true →
          ∃ t, exec (.segRead port index sub) s = .next t ∧ (t.port p).busy = true ∧ (t.port p).segTotal = b.length ∧
            (t.mbox f.segMbox).seg = some p ∧ (t.mbox f.segMbox).dready = true ∧ (t.mbox f.segMbox).rx = segmentWords b 0) ∧
        ∃ t, exec (.segWrite port index sub) s = .next t ∧ (t.mbox f.segMbox).seg = some p ∧
          t.port p = { cmd 4 0 with busy := true, length := 0, xfer := some (.segWrite [] 0 s.now) })) ∧
    (s.portAnswers p = true → f.busy = false → s.served = true → s.isSelf f.odNode = false → s.boot.manager = false →
      ended (.read port index sub) 0x0F (fun g => g.length = 0) ∧ ended (.write port index sub len) 0x0F fun _ => True) ∧
    (s.leavenUp = true → ∀ got n last, f.xfer = some (.segWrite got n last) →
      ∃ t rep, exec (.segmentGapTimeout port) s = .next t ∧ (t.port p).busy = false ∧ (t.port p).err = true ∧ (t.port p).code = 0x0D ∧
        last + 100000000 ≤ t.now ∧ t.log.waiting = s.log.waiting ++ [rep] ∧ rep.code = 0x0D)

/-! ## The host's accesses (4, 13) -/

/-- R4, R6, R270, R272: a 32-bit write of BAR0 to an unassigned address or to the error log's slots, and UNASSIGNED_ACCESS,
are refused with ACCESS_DENIED, whose address is the offset, and change nothing else; a write to a read-only register of
Table 13-4 is ignored; BAR2_STACK and a word of a free mailbox's TX take the value, and a word of TX under GO is refused;
the doorbells, the ACK registers and CTRL with GO are the same accesses as DOORBELL, ELOG_ACK_HI and GO. A function that does
not answer takes no access.
R266, R268: BAR2 shows the stack of BAR2_STACK. A read beyond its end returns zeros, and a read whose bytes can be had
returns them, the records of the journal in its area (R220) and zeros beyond the end. A write within the staging area goes to the stack, or poisons every word it touches
where its data came poisoned; a byte outside is discarded and logged; a stack that has failed takes nothing. -/
def Obligations.TheHostsAccessesReachTheirTargets : Prop :=
  (∀ (port : PortNo) (v : W32) (s : State),
     let p := port.val
     let denied (i : Instr) (unit off : Nat) := ∃ rep : Report, exec i s = .next (s.report rep) ∧ rep.code = 0x0F ∧ rep.unit = unit ∧
       rep.addrKind = .bar0 ∧ rep.address = off
     (s.portAnswers p = false → ∀ off, exec (.registerWrite port off v) s = .next s ∧ exec (.unassignedAccess port off) s = .next s) ∧
     (s.portAnswers p = true →
       (∀ off, denied (.unassignedAccess port off) (0x4000 + p) off) ∧
       (∀ off, (bar0At off = .unassigned ∨ ∃ r, bar0At off = .slot r) → denied (.registerWrite port off v) (0x4000 + p) off) ∧
       (∀ off ∈ [0x00, 0x04, 0x08, 0x0C], exec (.registerWrite port off v) s = .next s) ∧
       exec (.registerWrite port 0x10 v) s = .next (s.setPort p { s.port p with bar2Stack := v.toNat % 16 }) ∧
       exec (.registerWrite port 0x20008 v) s = .next (s.setPort p { s.port p with ackLo := v }) ∧
       exec (.registerWrite port 0x2000C v) s = exec (.elogAckHi port v) s ∧
       (∀ c : CtxNo, exec (.registerWrite port (0x100000 + 4 * c.val) v) s = exec (.doorbell port c v) s) ∧
       ∀ (m : MboxNo),
         let b := s.mbox m.val
         (v.getLsbD 0 = true → exec (.registerWrite port (0x80080 + 0x100 * m.val) v) s = exec (.go port m v) s) ∧
         ∀ w, w < 16 →
           let off := 0x80000 + 0x100 * m.val + 4 * w
           (b.go = false → exec (.registerWrite port off v) s = .next (s.setMbox m.val { b with tx := tset 0 b.tx w v })) ∧
           (b.go = true → denied (.registerWrite port off v) (0x5000 + m.val) off))) ∧
  (∀ (port : PortNo) (off : Nat) (s : State), s.portAnswers port.val = true →
     let p := port.val
     let st := (s.port p).bar2Stack
     let answers (n : Nat) (data : List Byte) (t' : State) := exec (.bar2Read port off n) s =
       .next (t'.setPort p { t'.port p with readData := (t'.port p).readData ++ [data] })
     let shown (t : State) (b : List Byte) := (b.zip (List.range b.length)).map fun (x, i) =>
       (t.journalByte (2 ^ 36 * st + off + i)).getD x
     (∀ n, stackBytes ≤ off → answers n (List.replicate n 0) s) ∧
     (∀ n t b, off < stackBytes → 0 < n → s.getBytes (2 ^ 36 * st + off) (min n (stackBytes - off)) = (t, .ok b) →
       answers n (shown t b ++ List.replicate (n - min n (stackBytes - off)) 0) t) ∧
     (∀ data : List Byte, stagingBase ≤ off → off + data.length ≤ stagingEnd → st ∉ s.health.stacksFailed →
       exec (.bar2Write port off data false) s = .next (s.stackWrite (2 ^ 36 * st + off) data) ∧
       exec (.bar2Write port off data true) s = .next (s.stackPoison (2 ^ 36 * st + off) data.length)) ∧
     (∀ (data : List Byte) poisoned, stagingBase ≤ off → off + data.length ≤ stagingEnd → st ∈ s.health.stacksFailed →
       exec (.bar2Write port off data poisoned) s = .next s) ∧
     (∀ (data : List Byte) poisoned, data ≠ [] → (off + data.length ≤ stagingBase ∨ stagingEnd ≤ off) →
       ∃ rep : Report, exec (.bar2Write port off data poisoned) s = .next (s.report rep) ∧ rep.code = 0x0F ∧
         rep.addrKind = .hbm ∧ rep.address = 2 ^ 36 * st + off))

/-- R258 to R260, R298, R299: dictionary messages over I3C are served, refused or, by the manager, forwarded, and answered where
they end, in the order received: behind a request that has no answer yet, an answer waits its turn. A message that is not of
the dictionary's type and enterprise number is not taken, nor is any without a dynamic address, with proofer A failed or
before Leaven serves. A REPORT is recorded by the manager alone, and REPORT_RESEND leaves what waits for its answer as it is.
A forwarded request not answered in 2 ms ends with LINK_ACK_TIMEOUT, whose DETAIL0 is the SEQ that its port expects next, and
is answered in its turn; a message of the lane whose fragments do not come in 100 µs is dropped. Losing the dynamic address
ends the MCTP session. -/
def Obligations.ManagementMessagesAreServedForwardedOrDropped : Prop :=
  ∀ (s : State),
    let reply (m : MctpMsg) (code : Nat) (data : List Byte) : MctpFrame := ⟨0x7F, Config.mctpEnterprise.toNat, laneReply m code data⟩
    let answered (f : MctpFrame) (t' : State) (code : Nat) (data : List Byte) := ∀ i ∈ [Instr.mctpRead f, .mctpWrite f],
      ∃ t, exec i s = .next t ∧ t.log = t'.log ∧
        (t'.net.mctpQueue = [] → t.net.mctpOut = t'.net.mctpOut ++ [reply f.body code data] ∧ t.net.mctpQueue = []) ∧
        (∀ e rest, t'.net.mctpQueue = e :: rest → e.reply = none → t.net.mctpOut = t'.net.mctpOut ∧
          t.net.mctpQueue = t'.net.mctpQueue ++ [⟨none, some (reply f.body code data)⟩])
    let taken (f : MctpFrame) := s.served = true ∧ 0 ∉ s.health.proofersFailed ∧ s.net.i3c ≠ 0 ∧
      f.mtype = 0x7F ∧ f.enterprise = Config.mctpEnterprise.toNat
    (∀ f, ¬ taken f → ∀ i ∈ [Instr.mctpRead f, .mctpWrite f], exec i s = .next s) ∧
    (∀ f, taken f →
      let m := f.body
      (malformed m = true → ∃ rep : Report, rep.code = 0x0F ∧ answered f (s.report rep) 0x0F []) ∧
      (malformed m = false → s.isSelf m.node = true →
        (laneOp m = 1 → ∀ t b, s.odRead .mctp m.index m.sub = (t, .ok b) → answered f t 0 ((b.drop m.offset).take m.length)) ∧
        (laneOp m = 1 → ∀ t c, s.odRead .mctp m.index m.sub = (t, .error c) → answered f t c []) ∧
        (laneOp m = 2 → m.offset = 0 →
          let r := s.odWrite .mctp m.index m.sub m.data
          answered f r.1 r.2 []) ∧
        (laneOp m = 2 → m.offset ≠ 0 → ∃ rep : Report, rep.code = s.writeRefused .mctp m.index m.sub [] ∧
          answered f (s.report rep) rep.code [])) ∧
      (malformed m = false → s.isSelf m.node = false → s.boot.manager = false →
        ∃ rep : Report, rep.code = 0x0F ∧ answered f (s.report rep) 0x0F []) ∧
      (malformed m = false → s.isSelf m.node = false → s.boot.manager = true → (∀ e ∈ s.net.mctpQueue.head?, e.reply = none) →
        ∀ i ∈ [Instr.mctpRead f, .mctpWrite f], ∃ t, exec i s = .next t ∧
          t.net.forwards = s.net.forwards ++ [⟨s.net.tag, .mctp, s.now, m, (s.route s.net.node m.node).getD 16⟩] ∧
          t.net.mctpOut = s.net.mctpOut ∧ t.net.mctpQueue = s.net.mctpQueue ++ [⟨some s.net.tag, none⟩])) ∧
    (s.served = true → ∀ node d time,
      (s.boot.manager = true → ∃ t, exec (.report node d time) s = .next t ∧ tget (0, 0) t.net.reports node.toNat = (d.toNat, s.now) ∧
        (∀ n, n ≠ node.toNat → tget (0, 0) t.net.reports n = tget (0, 0) s.net.reports n) ∧ t.log = s.log) ∧
      (s.boot.manager = false → ∃ t rep, exec (.report node d time) s = .next t ∧ t.net.reports = s.net.reports ∧
        t.log.waiting = s.log.waiting ++ [rep] ∧ rep.code = 0x0F)) ∧
    (s.served = true → s.net.reportOpen ≠ [] → ∃ t', exec .reportResend s = .next t' ∧ t'.net.reportOpen = s.net.reportOpen ∧
      t'.net.reports = s.net.reports ∧ t'.log = s.log) ∧
    (s.leavenUp = true → ∀ (node : BitVec 16) l, (s.net.lanes.find? fun l => l.node = node.toNat) = some l →
      ∃ t, exec (.mgmtFragmentTimeout node) s = .next t ∧ l.firstAt + 100000 ≤ t.now ∧ (∀ x ∈ t.net.lanes, x.node ≠ node.toNat) ∧
        (∀ x, x.node ≠ node.toNat → (x ∈ t.net.lanes ↔ x ∈ s.net.lanes)) ∧ t.log = s.log) ∧
    (s.leavenUp = true → ∀ tag w, (s.net.forwards.find? fun w => w.tag = tag) = some w →
      ∃ t, exec (.remoteTimeout tag) s = .next t ∧ w.sentAt + 2000000 ≤ t.now ∧
        (w.sess = .mctp → w ∉ t.net.forwards ∧
          (∃ rep : Report, t.log.waiting = s.log.waiting ++ [rep] ∧ rep.code = 0x0E ∧ rep.d0 = (s.link w.port).expected ∧
            (w.port < 16 → rep.unit = 0x4800 + w.port)) ∧
          ∀ rest, s.net.mctpQueue = ⟨some w.tag, none⟩ :: rest → (∀ e ∈ rest.head?, e.reply = none ∧ e.fwd ≠ some w.tag) →
            t.net.mctpOut = s.net.mctpOut ++ [reply w.req 0x0E []])) ∧
    (0 ∉ s.health.proofersFailed →
      (∀ a, exec (.i3cDynamicAddress (some a)) s = .next { s with net := { s.net with i3c := a.toNat } }) ∧
      ∃ t, exec (.i3cDynamicAddress none) s = .next t ∧ t.net.i3c = 0 ∧ t.net.mctpQueue = [] ∧ (t.session .mctp).privileged = false ∧
        (t.session .mctp).challenge = none ∧ ∀ x, x ≠ .mctp → t.session x = s.session x)

/-- R263, R265, R270, R278, R321: a function reset, by FUNCTION_LEVEL_RESET or HOT_RESET, puts the port's window and BAR2_STACK
at reset, masks its vectors, stops its bus mastering and ends its dictionary session; HOT_RESET takes the link down besides
(log 140). D3HOT leaves D0 and nothing else; BUS_MASTER_ENABLE returns it to D0, mastering; PERST_N low resets it and switches
it off with its link, high only marks it on. A link that settles at x16, 64 GT/s in flit mode is up; one that settles below
goes down and counts an attempt, and the third makes the port failed. -/
def Obligations.FunctionsResetReturnAndFail : Prop :=
  ∀ (port : PortNo) (s : State),
    let p := port.val
    let f := s.port p
    let wiped (t : State) := t.port p = { f.functionReset with perst := (t.port p).perst, linkUp := (t.port p).linkUp } ∧
      (f.functionReset.busy = false ∧ f.functionReset.xfer = none ∧ f.functionReset.busMaster = false ∧ f.functionReset.bar2Stack = 0 ∧
        ∀ v, f.functionReset.masked v = true) ∧
      (t.session (portSession p)).privileged = false ∧ (t.session (portSession p)).challenge = none ∧
      (∀ q, q ≠ p → t.port q = s.port q) ∧ t.log = s.log ∧ t.hbm = s.hbm
    (s.configures p = true →
      (∃ t, exec (.functionLevelReset port) s = .next t ∧ wiped t ∧ (t.port p).perst = f.perst ∧ (t.port p).linkUp = f.linkUp) ∧
      (∃ t, exec (.hotReset port) s = .next t ∧ wiped t ∧ (t.port p).perst = f.perst ∧ (t.port p).linkUp = false) ∧
      exec (.d3hot port) s = .next (s.setPort p { f with d0 := false }) ∧
      (f.held = [] → ∃ t, exec (.busMasterEnable port) s = .next t ∧ t.port p = { f with d0 := true, busMaster := true } ∧
        (∀ q, q ≠ p → t.port q = s.port q)) ∧
      (∃ t, exec (.busMasterEnable port) s = .next t ∧ (t.port p).d0 = true ∧ (t.port p).busMaster = true)) ∧
    (s.trains p = true →
      (f.held = [] → ∃ t, exec (.pcieLinkSettle port 16 64 true) s = .next t ∧ t.port p = { f with linkTries := 0, linkUp := true } ∧
        ∀ q, q ≠ p → t.port q = s.port q) ∧
      (∃ t, exec (.pcieLinkSettle port 16 64 true) s = .next t ∧ (t.port p).linkTries = 0 ∧ (t.port p).linkUp = true) ∧
      (∀ width gts flit, ¬ (width = 16 ∧ gts = 64 ∧ flit = true) →
        (f.linkTries < 2 → exec (.pcieLinkSettle port width gts flit) s =
          .next (s.setPort p { f with linkTries := f.linkTries + 1, linkUp := false })) ∧
        (2 ≤ f.linkTries → ∃ t, exec (.pcieLinkSettle port width gts flit) s = .next t ∧ t.unitFaulty (0x4000 + p) = true ∧
          (t.port p).linkUp = false))) ∧
    (∃ t, exec (.perstN port false) s = .next t ∧ wiped t ∧ (t.port p).perst = false ∧ (t.port p).linkUp = false) ∧
    exec (.perstN port true) s = .next (s.setPort p { f with perst := true })

/-! ## Finwell (14) -/

/-- R282, R283, R285, R291: a flit on a link that is up. One that is damaged, or not the next in sequence, is discarded: the port asks
once for a resend with a NAK, and later ones change nothing until a flit arrives in order. One in order is taken: the next
is expected and the NAK is forgotten; with a reserved field set it is refused with ACCESS_DENIED; a WRITE, END, END_ACK, MGMT or
NODE_MAP for another node goes on towards it; every taken flit is acknowledged with one credit of its class. An
IDLE brings acknowledgements and credits alone. -/
def Obligations.FlitsAreTakenInOrderAndRelayed : Prop :=
  ∀ (i : Instr) (port : FwNo) (f : BitVec 2048) (ty : Nat) (s : State), flitCommand i = some (port, f, ty) →
    (s.link port.val).state = .up → s.power.rst ≠ .warmHeld →
    let p := port.val
    let l := s.link p
    let fine := Flit.crcOk f = true ∧ Flit.ty f = ty
    let next := s.setLink p { l with expected := (l.expected + 1) % 4096, nakSent := false }
    (Flit.crcOk f = false ∨ (fine ∧ ty ≠ 0 ∧ Flit.seq f ≠ l.expected) →
      (l.nakSent = true → exec i s = .next s) ∧
      (l.nakSent = false → exec i s = .next (s.setLink p ({ l with nakSent := true }.sendIdle true 0 0)))) ∧
    (fine → ty ≠ 0 → Flit.seq f = l.expected → Flit.rsvd f ≠ 0 →
      ∃ t rep, exec i s = .next t ∧ (t.link p).expected = (l.expected + 1) % 4096 ∧ (t.link p).nakSent = false ∧
        t.log.waiting = s.log.waiting ++ [rep] ∧ rep.code = 0x0F ∧ rep.unit = 0x4800 + p) ∧
    (fine → ty ≠ 0 → Flit.seq f = l.expected → Flit.rsvd f = 0 →
      (∃ t, exec i s = .next t) ∧
      (ty ∈ [1, 2, 3, 4, 7] → Flit.dst f ≠ 0xFFFF → s.net.node ≠ 0xFFFF → Flit.dst f ≠ s.net.node →
        exec i s = .next (((next.applyAck p f).sendTo f).ackFlit p f))) ∧
    (fine → ty = 0 → Flit.rsvd f = 0 → exec i s = .next (s.applyAck p f))

/-- R288, R290, R293, R294, R298, R300, R301: what a flit for this node does once it is taken. A WRITE stores its bytes where they lie in a
staging area, and is refused and remembered with its source and TAG where they do not; an END stores its record of 64
bytes and answers END_ACK 0x00, or 0x0F without storing it where a WRITE of its transfer was refused or it lies elsewhere, and
the refusals of its transfer are forgotten; END_ACK 0x00 ends the descriptor that waits for it; the first of several fragments of a
message is held; HELLO gives the peer's number, strap and port to a worker, holds a link between two managers down, and
has the manager of board 0 map the peer under its number, or refuse one that another device has; a TIME flit from the
parent gives a worker its offset and its lock. -/
def Obligations.TakenFlitsActByTheirType : Prop :=
  ∀ (port : FwNo) (f : BitVec 2048) (s : State), (s.link port.val).state = .up → s.power.rst ≠ .warmHeld →
    Flit.crcOk f = true → Flit.seq f = (s.link port.val).expected → Flit.rsvd f = 0 →
    let p := port.val
    let l := s.link p
    let r := (s.setLink p { l with expected := (l.expected + 1) % 4096, nakSent := false }).applyAck p f
    let mine := Flit.dst f = s.net.node ∨ Flit.dst f = 0xFFFF ∨ s.net.node = 0xFFFF
    let key := (Flit.src f, Flit.tag f)
    let a := Flit.address f
    (Flit.ty f = 1 → mine →
      (inStaging a (Flit.len f) = true → exec (.writeFlit port f) s = .next ((r.putBytes a (Flit.data f)).ackFlit p f)) ∧
      (inStaging a (Flit.len f) = false → ∃ t rep, exec (.writeFlit port f) s = .next t ∧ t.hbm = s.hbm ∧ key ∈ t.net.refused ∧
        t.log.waiting = s.log.waiting ++ [rep] ∧ rep.code = 0x0F ∧ rep.addrKind = .hbm ∧ rep.address = a)) ∧
    (Flit.ty f = 2 → mine → inStaging a 64 = true →
      (key ∉ s.net.refused → exec (.endFlit port f) s =
        .next (((r.putBytes a ((Flit.payload f).take 64)).ackEnd f 0).ackFlit p f)) ∧
      (key ∈ s.net.refused → exec (.endFlit port f) s =
        .next (({ r with net := { r.net with refused := s.net.refused.filter (· ≠ key) } }.ackEnd f 0x0F).ackFlit p f))) ∧
    (Flit.ty f = 2 → mine → inStaging a 64 = false → ∃ t rep, exec (.endFlit port f) s = .next t ∧ t.hbm = s.hbm ∧ key ∉ t.net.refused ∧
      t.log.waiting = s.log.waiting ++ [rep] ∧ rep.code = 0x0F ∧ rep.addrKind = .hbm ∧ rep.address = a) ∧
    (Flit.ty f = 3 → mine → numAt (Flit.payload f) 0 1 = 0 → ∀ m k, r.awaitingEnd (Flit.tag f) = some (m, k) →
      exec (.endAck port f) s = .next ((r.doneDesc m k 0).ackFlit p f)) ∧
    (Flit.ty f = 4 → mine → s.served = true → numAt (Flit.data f) 0 1 = 0 → numAt (Flit.data f) 1 1 % 2 = 0 →
      ∃ t, exec (.mgmt port f) s = .next t ∧ (⟨Flit.src f, 1, s.now, (Flit.data f).drop 2⟩ : Lane) ∈ t.net.lanes) ∧
    (Flit.ty f = 6 → s.boot.manager = false → ∃ t, exec (.hello port f) s = .next t ∧
      (t.link p).peer = numAt (Flit.payload f) 2 2 ∧ (t.link p).peerStrap = numAt (Flit.payload f) 1 1 % 16 ∧
      (t.link p).peerPort = numAt (Flit.payload f) 36 1) ∧
    (Flit.ty f = 6 → s.boot.manager = true → numAt (Flit.payload f) 0 1 = 1 → ∃ t rep, exec (.hello port f) s = .next t ∧
      (t.link p).state = .down ∧ t.log.waiting = s.log.waiting ++ [rep] ∧ rep.code = 0x0F ∧ rep.addrKind = .value ∧ rep.address = p) ∧
    (Flit.ty f = 6 → s.boot.manager = true → s.boot.nodeStrap = 0 → numAt (Flit.payload f) 0 1 ≠ 1 →
      let strap := numAt (Flit.payload f) 1 1 % 16
      let serial := ((Flit.payload f).drop 4).take 32
      let u := r.setLink p { r.link p with
        peer := numAt (Flit.payload f) 2 2, peerStrap := strap, peerPort := numAt (Flit.payload f) 36 1 }
      let n := u.nodeFor p strap serial
      let taken := n = s.net.node ∨ ∃ c ∈ s.net.claims, c.1 = n ∧ c.2 ≠ serial
      ∃ t, exec (.hello port f) s = .next t ∧ (¬ taken → (t.link p).mapped = n ∧ n ∈ t.net.claims.map (·.1)) ∧
        (taken → ∃ rep, t.net.claims = s.net.claims ∧ t.log.waiting = s.log.waiting ++ [rep] ∧ rep.code = 0x0F ∧ rep.address = p)) ∧
    (Flit.ty f = 7 → mine → s.boot.manager = false → numAt (Flit.data f) 0 1 = 0 → numAt (Flit.data f) 1 1 % 2 = 1 →
      ∃ t, exec (.nodeMap port f) s = .next t ∧ t.net.node = numAt ((Flit.data f).drop 2) 0 2 ∧ t.net.hasMap = true) ∧
    (Flit.ty f = 5 → s.boot.manager = false → ∀ t4 : W64, r.timeParent = some (r.peerNode p) →
      ∃ t, exec (.time port f t4) s = .next t ∧ t.time.locked = true ∧ t.time.syncState = 2 ∧ s.now ≤ t.now ∧
        t.time.offsetNs = timeOffset (numAt (Flit.payload f) 0 8) (numAt (Flit.payload f) 8 8) (numAt (Flit.payload f) 16 8) t4.toNat)

/-- R281, R284, R285, R300, R319, R320: LINK_UP ends the training of a port that has power; an acknowledgement that does not
come is logged with the oldest unacknowledged SEQ and begins a retrain, the sixteenth of which within 1 s fails the port;
a retrain that succeeds brings the link up and resends every unacknowledged flit in order, the third failure in a row
fails the port; a group whose four ports are disabled goes off. An edge of PPS_IN moves the manager's timekeeper to it
and locks it where the edge before it was 1 s ± 1 µs ago; a worker ignores it; 1.1 s without one, it free-runs. -/
def Obligations.LinksTrainRetrainAndFailAndTimeFollowsPps : Prop :=
  ∀ (s : State),
    (∀ port : FwNo,
      let p := port.val
      let l := s.link p
      let failed (i : Instr) := ∃ t, exec i s = .next t ∧ (t.link p).state = .failed ∧ p ∈ t.health.finwellFailed
      let recent := (l.retrainTimes.filter fun t => decide (s.now < t + 1000000000)).length
      s.alive = true → p ∉ s.health.finwellFailed →
      (l.state = .training → l.retraining = false → tget .on s.power.fwGroup (p / 4) ≠ .off → p / 8 ∉ s.health.proofersFailed →
        ∃ t, exec (.linkUp port) s = .next t ∧ (t.link p).state = .up ∧ (t.link p).retraining = false) ∧
      (∀ e rest, l.state = .up → l.replay = e :: rest →
        (recent < 15 → ∃ t rep, exec (.linkAckTimeout port) s = .next t ∧ (t.link p).state = .training ∧ (t.link p).retraining = true ∧
          (t.link p).replay = l.replay ∧ t.log.waiting = s.log.waiting ++ [rep] ∧ rep.code = 0x0E ∧ rep.unit = 0x4800 + p ∧ rep.d0 = e.1) ∧
        (15 ≤ recent → failed (.linkAckTimeout port))) ∧
      (l.state = .training → l.retraining = true →
        (l.waiting = [] → exec (.retrainEnd port true) s =
          .next (s.setLink p { l with
            state := .up, retraining := false, retrainsRow := 0
            sent := l.sent ++ l.replay.map fun e => Flit.stamp e.2 e.1 l.lastGood false 0 0 })) ∧
        (∃ t, exec (.retrainEnd port true) s = .next t ∧ (t.link p).state = .up) ∧
        (l.retrainsRow < 2 → recent < 15 → ∃ t, exec (.retrainEnd port false) s = .next t ∧ (t.link p).state = .training ∧
          (t.link p).retraining = true ∧ (t.link p).retrainsRow = l.retrainsRow + 1) ∧
        (2 ≤ l.retrainsRow → failed (.retrainEnd port false)))) ∧
    (∀ g : Fin 4, s.leavenUp = true → (∀ k, k < 4 → s.obj (0x9000 + 4 * g.val + k) 3 = 0) →
      ∃ t, exec (.finwellGroupOff g) s = .next t ∧ tget .on t.power.fwGroup g.val = .off ∧
        ∀ j, j ≠ g.val → tget .on t.power.fwGroup j = tget .on s.power.fwGroup j) ∧
    (s.power.vaux33 = true →
      (∀ t, s.boot.manager = true → ∃ u, exec (.ppsIn t) s = .next u ∧ u.now = max s.now t ∧ u.time.lastPps = some t ∧
        u.time.syncState = if s.time.lastPps.any fun l => decide (l + 1000000000 ≤ t + 1000) && decide (t ≤ l + 1000001000) then 1 else 0) ∧
      (∀ t, s.boot.manager = false → exec (.ppsIn t) s = .next s) ∧
      (∀ t, s.boot.manager = true → s.time.lastPps = some t → ∃ u, exec .ppsLoss s = .next u ∧ t + 1100000000 ≤ u.now ∧
        u.time.syncState = 0 ∧ u.time.lastPps = none)) ∧
    ∀ b, exec (.ref100 b) s = .next { s with time := { s.time with ref100 := b } }

/-! ## Power, resets and start-up (15) -/

/-- R310 to R314, R307, R319, R320. A control interval notes the input power, OVER_LIMIT and the junctions, sets VDD_H of every
hearth (FIXED: the target; ADAPTIVE: the floor without a running item, else between floor and ceiling, and no rise above
the limit or at THROTTLE_C), and holds the step of just the hearths that R312 and R313 name. THROTTLE holds the
hearth's step and, under ADAPTIVE, lowers its VDD_H, which never falls below the floor. THERM_TRIP_N at 105 °C and an excursion
of VIN48 or VAUX33 take every hearth's power and all it held; the first firing of a comparator is latched with its
time. No cold reset ends a trip while a junction reads above 95 °C. A supply that is out already changes nothing. -/
def Obligations.SuppliesAndTemperatureAreControlled : Prop :=
  ∀ (s : State),
    let dark (t : State) := t.cores = [] ∧ t.scratch = [] ∧ t.hbm = [] ∧ t.larders = [] ∧ t.boot.leavenRuns = false ∧
      t.hbmPoison = [] ∧ t.movers = [] ∧ t.folds = [] ∧ ∀ h, h < 16 → t.logicOf h = .off ∧ t.memoryOf h = .off
    (s.leavenUp = true → ∀ r : PowerReading, ∃ t, exec (.controlInterval r) s = .next t ∧
      let above := decide (s.obj 0x8000 1 < r.inputW)
      let hot (h : Nat) := decide (10 * (s.obj 0x8020 3 : Int) ≤ t.junctionOf h)
      t.obj 0x8000 2 = r.inputW ∧ t.obj 0x8000 3 = boolNat above ∧
        ∀ h, h < 16 →
          t.junctionOf h = r.junctions.getD h (s.junctionOf h) ∧
          (h ∈ t.power.stepHold ↔ (above = true ∧ s.hearthBusy h = true) ∨ hot h = true) ∧
          (s.fixedSupply = true → t.vddOf h = s.vddTarget) ∧
          (s.fixedSupply = false → s.hearthBusy h = false → t.vddOf h = s.vddFloor) ∧
          (s.fixedSupply = false → s.hearthBusy h = true → s.vddFloor ≤ t.vddOf h ∧ t.vddOf h ≤ max s.vddFloor s.vddCeiling ∧
            (above = true ∨ hot h = true → t.vddOf h ≤ max s.vddFloor (s.vddOf h)))) ∧
    (s.leavenUp = true → ∀ (h : Hearth) (tj : Int), 10 * (s.obj 0x8020 3 : Int) ≤ tj →
      ∃ t, exec (.throttle h tj) s = .next t ∧ h.val ∈ t.power.stepHold ∧ t.junctionOf h.val = tj ∧
        (s.fixedSupply = true → t.power.vdd = s.power.vdd) ∧
        (s.fixedSupply = false → t.vddOf h.val ≤ s.vddOf h.val ∧ (s.vddFloor ≤ s.vddOf h.val → s.vddFloor ≤ t.vddOf h.val) ∧
          (s.vddFloor + 5 ≤ s.vddOf h.val → t.vddOf h.val < s.vddOf h.val)) ∧
        ∀ j, j ≠ h.val → t.vddOf j = s.vddOf j) ∧
    (s.power.vaux33 = true → ∀ (h : Hearth) (tj : Int), 1050 ≤ tj →
      ∃ t, exec (.thermTripN h tj) s = .next t ∧ t.power.tripped = true ∧ t.junctionOf h.val = tj ∧ dark t) ∧
    (s.power.vin48 = true → ∃ t, exec .vin48Excursion s = .next t ∧ t.power.vin48 = false ∧ t.power.rst = .supplyHeld ∧ dark t ∧
      (s.power.vaux33 = true → (∀ e ∈ s.power.latched, e.1 ≠ 4) → (4, s.now) ∈ t.power.latched)) ∧
    (s.power.vaux33 = true → ∃ t, exec .vaux33Excursion s = .next t ∧ t.power.vaux33 = false ∧ t.power.rst = .supplyHeld ∧ dark t ∧
      (∀ x, t.session x = SessionState.reset) ∧
      (s.power.vin48 = true → s.power.tripped = false → s.boot.supplyCell = none → t.boot.supplyCell = some s.now)) ∧
    (∀ env h, h < 16 → s.power.tripped = true → s.power.vin48 = true → s.power.vaux33 = true → 950 < s.junctionOf h →
      exec (.coldReset env) s = .next s) ∧
    (s.power.vin48 = false → exec .vin48Excursion s = .next s) ∧ (s.power.vaux33 = false → exec .vaux33Excursion s = .next s)

/-- R321, R323, R325 to R330: a warm reset holds the proofers, hearths and Leaven, ends every session's privilege, poisons every
scratchpad word and leaves the timekeeper, the log and the journal; during a cold start it becomes a cold reset.
SYS_RST_N below 10 µs is filtered; from 1 s on it is a cold reset. A boot ROM accepts an image whose key and signature check and
whose version is not below the fused minimum, and prefers the higher version, slot 0 on a tie; Leaven runs on proofer A where A
accepted one, else on B. READINESS ends start-up: a manager is READY or READY_DEGRADED, a worker waits for its manager
until it has its map and its time is locked. -/
def Obligations.ResetsHoldAndStartUpEnds : Prop :=
  ∀ (s : State),
    (s.alive = true → s.coldStarting = false → ∃ t, exec .warmReset s = .next t ∧ t.power.rst = .warmHeld ∧ t.boot.leavenRuns = false ∧
      t.boot.dev = .bootRom ∧ (∀ key, t.word key = .poisoned) ∧ (∀ x, (t.session x).privileged = false) ∧
      t.time = s.time ∧ t.log = s.log ∧ t.journal = s.journal ∧ t.net = s.net) ∧
    (s.alive = true → s.coldStarting = true → exec .warmReset s = .next s.supplyHold) ∧
    (s.alive = false → exec .warmReset s = .next s) ∧
    (∀ n, s.power.tripped = false →
      (s.power.rst = .warmHeld → 10000 ≤ n → n < 1000000000 → ∃ t, exec (.sysRstNRelease n) s = .next t ∧ t.power.rst = .startWarm) ∧
      (s.power.rst = .warmHeld → 1000000000 ≤ n → ∃ t, exec (.sysRstNRelease n) s = .next t ∧ t.power.rst = .supplyHeld ∧ t.cores = []) ∧
      (s.power.rst ≠ .warmHeld → n < 10000 → exec (.sysRstNRelease n) s = .next s)) ∧
    (∀ fused (a b : BootSlot),
      let ok (x : BootSlot) := x.keyDigestOk = true ∧ x.signatureOk = true ∧ fused ≤ x.security
      (ok a → (ok b → b.version ≤ a.version) → bootChoice fused a b = some a.security) ∧
      (ok b → (ok a → a.version < b.version) → bootChoice fused a b = some b.security) ∧
      (¬ ok a → ¬ ok b → bootChoice fused a b = none)) ∧
    (∀ (p : PortNo) (a b : BootSlot), s.alive = true → s.health.proofersFailed = [] → (s.power.rst = .startCold ∨ s.power.rst = .startWarm) →
      s.boot.dev = .bootRom → (∀ e ∈ s.boot.verified, e.1 ≠ p.val) →
      let other := (s.boot.verified.find? fun e => e.1 = 1 - p.val).map (·.2)
      let starts (q : Nat) := ∃ t, exec (.bootImageVerify p a b) s = .next t ∧ t.boot.leavenRuns = true ∧ t.boot.controlProofer = q ∧
        t.boot.dev = .leavenUp
      (p.val = 0 → (bootChoice s.boot.fusedMin a b).isSome = true → starts 0) ∧
      (p.val = 1 → (bootChoice s.boot.fusedMin a b).isSome = true → other = some none → starts 1) ∧
      (other = none → (p.val = 1 ∨ bootChoice s.boot.fusedMin a b = none) →
        exec (.bootImageVerify p a b) s = .next { s with boot := { s.boot with
          verified := s.boot.verified ++ [(p.val, bootChoice s.boot.fusedMin a b)] } })) ∧
    (∀ failed, s.leavenUp = true → s.boot.dev = .leavenUp →
      (s.power.rst = .startCold ∨ s.power.rst = .startWarm → ∃ t, exec (.readiness failed) s = .next t ∧ t.power.rst = .run) ∧
      (s.power.rst = .startWarm → ∃ t, exec (.readiness failed) s = .next t ∧
        (s.boot.manager = true → t.boot.dev = s.readyState) ∧
        (s.boot.manager = false → ¬ (s.net.hasMap = true ∧ s.time.locked = true ∧ s.time.syncState = 2) → t.boot.dev = .awaitManager)))

/-- R204, R317, R318, R133, R146: HEARTH_LULL takes a hearth whose partition has run nothing for 1 ms, or that belongs to none, to LULL: its running cores keep their
epochs and handles, and their awake banks close or lull; HEARTH_OFF takes a hearth that has belonged to no partition for 100 ms
off: its cores keep only their epochs and handles, its scratchpads read as poisoned, and no other hearth's do. -/
def Obligations.IdleHearthsLullAndGoOff : Prop :=
  ∀ (h : Hearth) (s : State), s.leavenUp = true → s.hearthRuns h.val = true →
    (∀ p, s.partOf h.val = some p → s.logicOf h.val = .on → (s.part p).current = none →
      ∃ t, exec (.hearthLull h) s = .next t ∧ t.logicOf h.val = .low ∧ (s.part p).lastRun + 1000000 ≤ t.now ∧
        (∀ j, j ≠ h.val → t.logicOf j = s.logicOf j) ∧ t.scratch = s.scratch) ∧
    (s.partOf h.val = none → s.logicOf h.val = .on →
      ∃ t, exec (.hearthLull h) s = .next t ∧ t.logicOf h.val = .low ∧ (∀ j, j ≠ h.val → t.logicOf j = s.logicOf j) ∧ t.scratch = s.scratch) ∧
    (∀ p, s.partOf h.val = some p → (s.part p).current.isSome = true → exec (.hearthLull h) s = .next s) ∧
    (s.partOf h.val = none → ∃ t, exec (.hearthOff h) s = .next t ∧ t.logicOf h.val = .off ∧
      tget 0 s.power.leftAt h.val + 100000000 ≤ t.now ∧ (∀ j, j ≠ h.val → t.logicOf j = s.logicOf j) ∧
      ∀ key, t.word key = if key / 458752 / 1088 = h.val then .poisoned else s.word key) ∧
    ∀ c : Core,
      (c.power = .on → c.lulled.power = .low ∧ c.lulled.epoch = c.epoch ∧ c.lulled.handles = c.handles ∧
        ∀ b : BankNo, (c.lulled.bank b.val).power = if (c.bank b.val).power = .awake then
          (if (c.bank b.val).queue = [] then .lull else .closingLull) else (c.bank b.val).power) ∧
      (c.hearthOff.power = .off ∧ c.hearthOff.epoch = c.epoch ∧ c.hearthOff.handles = c.handles ∧
        ∀ b : BankNo, (c.hearthOff.bank b.val).power = .off)
end

