-- ==== Sys2Proof/Laws/Tables.lean ====
section
/-!
SUPPORT. Sparse maps and memory: a read after a write, and the canonical form under every operation.
-/
namespace Sys2Proof.Machine

theorem tget_tinsert {α : Type} (d : α) (k : Nat) (v : α) : ∀ m : Table α, tget d (tinsert k v m) k = v := by
  intro m
  induction m with
  | nil => simp [tinsert, tget]
  | cons e m ih => simp only [tinsert]; repeat' split
                   all_goals simp_all [tget]

theorem tget_tinsert_ne {α : Type} (d : α) {k j : Nat} (v : α) (h : j ≠ k) :
    ∀ m : Table α, tget d (tinsert k v m) j = tget d m j := by
  intro m
  induction m with
  | nil => simp [tinsert, tget, h]
  | cons e m ih => simp only [tinsert]; repeat' split
                   all_goals simp_all [tget]

theorem tget_remove {α : Type} (d : α) (k : Nat) :
    ∀ m : Table α, tget d (m.filter fun e => decide (e.1 ≠ k)) k = d := by
  intro m
  induction m with
  | nil => rfl
  | cons e m ih =>
    by_cases h : e.1 = k
    · simpa [h] using ih
    · have h' : k ≠ e.1 := fun q => h q.symm
      simpa [h, tget, h'] using ih

theorem tget_remove_ne {α : Type} (d : α) {k j : Nat} (h : j ≠ k) :
    ∀ m : Table α, tget d (m.filter fun e => decide (e.1 ≠ k)) j = tget d m j := by
  intro m
  induction m with
  | nil => rfl
  | cons e m ih =>
    by_cases he : e.1 = k
    · have h' : j ≠ e.1 := fun q => h (q.trans he)
      simpa [he, tget, h, h'] using ih
    · simpa [he, tget] using congrArg (fun x => if j = e.1 then e.2 else x) ih

/-- A read of another key. -/
theorem tget_tset_ne {α : Type} [DecidableEq α] (d : α) {e : α} {k j : Nat} (v : α) (h : j ≠ k) (m : Table α) :
    tget d (tset e m k v) j = tget d m j := by
  unfold tset; split
  · exact tget_remove_ne d h m
  · exact tget_tinsert_ne d v h m

/-- A read after a write of the same key. -/
theorem tget_tset_same {α : Type} [DecidableEq α] (d : α) (k : Nat) (v : α) (m : Table α) :
    tget d (tset d m k v) k = v := by
  unfold tset; split
  · rename_i h; rw [h]; exact tget_remove d k m
  · exact tget_tinsert d k v m

theorem twfFrom_mono {α : Type} [DecidableEq α] (d : α) {lo lo' : Nat} (hl : lo' ≤ lo) :
    ∀ m : Table α, twfFrom d lo m = true → twfFrom d lo' m = true := by
  intro m h
  cases m with
  | nil => rfl
  | cons e m => simp [twfFrom] at h ⊢; exact ⟨⟨by omega, h.1.2⟩, h.2⟩

theorem filter_wfFrom {α : Type} [DecidableEq α] (d : α) (p : Nat × α → Bool) :
    ∀ (m : Table α) (lo : Nat), twfFrom d lo m = true → twfFrom d lo (m.filter p) = true := by
  intro m
  induction m with
  | nil => intro lo _; rfl
  | cons e m ih =>
    intro lo h
    simp only [twfFrom, Bool.and_eq_true, decide_eq_true_eq] at h
    simp only [List.filter_cons]
    split
    · simp only [twfFrom, Bool.and_eq_true, decide_eq_true_eq]; exact ⟨h.1, ih _ h.2⟩
    · exact twfFrom_mono d (by omega) _ (ih _ h.2)

theorem filter_wf {α : Type} [DecidableEq α] (d : α) (p : Nat × α → Bool) (m : Table α) (h : twf d m = true) :
    twf d (m.filter p) = true := filter_wfFrom d p m 0 h

theorem map_wf {α : Type} [DecidableEq α] (d : α) (f : Nat → α → α) (hf : ∀ k v, v ≠ d → f k v ≠ d) :
    ∀ m : Table α, twf d m = true → twf d (m.map fun e => (e.1, f e.1 e.2)) = true := by
  suffices h : ∀ (m : Table α) (lo : Nat), twfFrom d lo m = true → twfFrom d lo (m.map fun e => (e.1, f e.1 e.2)) = true from
    fun m => h m 0
  intro m
  induction m with
  | nil => exact fun _ h => h
  | cons e m ih =>
    intro lo h
    simp only [twfFrom, List.map_cons, Bool.and_eq_true, decide_eq_true_eq] at h ⊢
    exact ⟨⟨h.1.1, hf _ _ h.1.2⟩, ih _ h.2⟩

theorem tinsert_wfFrom {α : Type} [DecidableEq α] (d : α) (k : Nat) (v : α) (hv : v ≠ d) :
    ∀ (m : Table α) (lo : Nat), twfFrom d lo m = true → lo ≤ k → twfFrom d lo (tinsert k v m) = true := by
  intro m
  induction m with
  | nil => intro lo _ hk; simp [tinsert, twfFrom, hk, hv]
  | cons e m ih =>
    intro lo h hk
    obtain ⟨k', v'⟩ := e
    simp only [twfFrom, Bool.and_eq_true, decide_eq_true_eq] at h
    obtain ⟨⟨h1, h2⟩, h3⟩ := h
    simp only [tinsert]
    split
    · simp [twfFrom, hk, hv, h2, h3]; omega
    · split
      · rename_i heq
        subst heq
        simp [twfFrom, h1, hv, h3]
      · simp only [twfFrom, Bool.and_eq_true, decide_eq_true_eq]
        exact ⟨⟨h1, h2⟩, ih _ h3 (by omega)⟩

theorem tset_wf {α : Type} [DecidableEq α] (d : α) (k : Nat) (v : α) (m : Table α) (h : twf d m = true) :
    twf d (tset d m k v) = true := by
  unfold tset; split
  · exact filter_wf d _ m h
  · rename_i hv; exact tinsert_wfFrom d k v hv m 0 h (Nat.zero_le _)

theorem memWriteBytes_wf : ∀ (bs : List Byte) (m : List Host.Cell) (a : Nat), Memory.wf m = true →
    Memory.wf (memWriteBytes m a bs) = true := by
  intro bs
  induction bs with
  | nil => intro m a h; exact h
  | cons b bs ih => intro m a h; exact ih _ _ (tset_wf _ _ _ _ h)


/-- A byte beside a written one is unchanged. -/
theorem memRead_write_ne {m : List Host.Cell} {a k : Nat} (b : Byte) (h : k ≠ a) : memRead (memWrite m a b) k = memRead m k :=
  tget_tset_ne _ _ h m

/-- A byte that was written reads as written. -/
theorem memRead_write (m : List Host.Cell) (a : Nat) (b : Byte) : memRead (memWrite m a b) a = b :=
  tget_tset_same _ _ _ m

/-- Writing bytes leaves every other byte as it was. -/
theorem memRead_writeBytes_ne : ∀ (bs : List Byte) (m : List Host.Cell) (a k : Nat), (k < a ∨ a + bs.length ≤ k) →
    memRead (memWriteBytes m a bs) k = memRead m k := by
  intro bs
  induction bs with
  | nil => intros; rfl
  | cons b bs ih =>
    intro m a k h
    simp only [List.length_cons] at h
    simp only [memWriteBytes]
    rw [ih _ _ _ (by omega), memRead_write_ne _ (by omega)]

end Sys2Proof.Machine
end

