-- ==== Sys2Proof/Laws/State.lean ====
section
/-!
SUPPORT. What each named update of the state leaves as it is, true by rfl, and what reading a unit after it gives.
-/
namespace Sys2Proof.Machine

@[simp] theorem State.setCore_same (s : State) (k : Nat) (v : Core) :
    (s.setCore k v).pending = s.pending ∧ (s.setCore k v).time = s.time ∧ (s.setCore k v).power = s.power ∧
    (s.setCore k v).boot = s.boot ∧ (s.setCore k v).ports = s.ports ∧ (s.setCore k v).mboxes = s.mboxes ∧
    (s.setCore k v).sessions = s.sessions ∧ (s.setCore k v).dict = s.dict ∧ (s.setCore k v).log = s.log ∧
    (s.setCore k v).health = s.health ∧ (s.setCore k v).scratch = s.scratch ∧ (s.setCore k v).hbm = s.hbm ∧
    (s.setCore k v).hbmPoison = s.hbmPoison ∧ (s.setCore k v).hbmEcc = s.hbmEcc ∧ (s.setCore k v).larders = s.larders ∧ (s.setCore k v).movers = s.movers ∧
    (s.setCore k v).folds = s.folds ∧ (s.setCore k v).parts = s.parts ∧ (s.setCore k v).ctxs = s.ctxs ∧
    (s.setCore k v).journal = s.journal ∧ (s.setCore k v).train = s.train ∧ (s.setCore k v).seeds = s.seeds ∧
    (s.setCore k v).chanUse = s.chanUse ∧ (s.setCore k v).links = s.links ∧ (s.setCore k v).net = s.net ∧
    (s.setCore k v).paceHist = s.paceHist ∧ (s.setCore k v).freeCtr = s.freeCtr :=
  ⟨rfl, rfl, rfl, rfl, rfl, rfl, rfl, rfl, rfl, rfl, rfl, rfl, rfl, rfl, rfl, rfl, rfl, rfl, rfl, rfl, rfl, rfl, rfl, rfl, rfl, rfl, rfl⟩

@[simp] theorem State.setPort_same (s : State) (p : Nat) (v : PortState) :
    (s.setPort p v).pending = s.pending ∧ (s.setPort p v).time = s.time ∧ (s.setPort p v).power = s.power ∧
    (s.setPort p v).boot = s.boot ∧ (s.setPort p v).mboxes = s.mboxes ∧ (s.setPort p v).sessions = s.sessions ∧
    (s.setPort p v).dict = s.dict ∧ (s.setPort p v).log = s.log ∧ (s.setPort p v).health = s.health ∧
    (s.setPort p v).cores = s.cores ∧ (s.setPort p v).scratch = s.scratch ∧ (s.setPort p v).hbm = s.hbm ∧
    (s.setPort p v).hbmPoison = s.hbmPoison ∧ (s.setPort p v).hbmEcc = s.hbmEcc ∧ (s.setPort p v).larders = s.larders ∧ (s.setPort p v).movers = s.movers ∧
    (s.setPort p v).folds = s.folds ∧ (s.setPort p v).parts = s.parts ∧ (s.setPort p v).ctxs = s.ctxs ∧
    (s.setPort p v).journal = s.journal ∧ (s.setPort p v).train = s.train ∧ (s.setPort p v).seeds = s.seeds ∧
    (s.setPort p v).chanUse = s.chanUse ∧ (s.setPort p v).links = s.links ∧ (s.setPort p v).net = s.net ∧
    (s.setPort p v).paceHist = s.paceHist ∧ (s.setPort p v).freeCtr = s.freeCtr :=
  ⟨rfl, rfl, rfl, rfl, rfl, rfl, rfl, rfl, rfl, rfl, rfl, rfl, rfl, rfl, rfl, rfl, rfl, rfl, rfl, rfl, rfl, rfl, rfl, rfl, rfl, rfl, rfl⟩

@[simp] theorem State.setMbox_same (s : State) (m : Nat) (v : Mbox) :
    (s.setMbox m v).pending = s.pending ∧ (s.setMbox m v).time = s.time ∧ (s.setMbox m v).power = s.power ∧
    (s.setMbox m v).boot = s.boot ∧ (s.setMbox m v).ports = s.ports ∧ (s.setMbox m v).sessions = s.sessions ∧
    (s.setMbox m v).dict = s.dict ∧ (s.setMbox m v).log = s.log ∧ (s.setMbox m v).health = s.health ∧
    (s.setMbox m v).cores = s.cores ∧ (s.setMbox m v).scratch = s.scratch ∧ (s.setMbox m v).hbm = s.hbm ∧
    (s.setMbox m v).hbmPoison = s.hbmPoison ∧ (s.setMbox m v).hbmEcc = s.hbmEcc ∧ (s.setMbox m v).larders = s.larders ∧ (s.setMbox m v).movers = s.movers ∧
    (s.setMbox m v).folds = s.folds ∧ (s.setMbox m v).parts = s.parts ∧ (s.setMbox m v).ctxs = s.ctxs ∧
    (s.setMbox m v).journal = s.journal ∧ (s.setMbox m v).train = s.train ∧ (s.setMbox m v).seeds = s.seeds ∧
    (s.setMbox m v).chanUse = s.chanUse ∧ (s.setMbox m v).links = s.links ∧ (s.setMbox m v).net = s.net ∧
    (s.setMbox m v).paceHist = s.paceHist ∧ (s.setMbox m v).freeCtr = s.freeCtr :=
  ⟨rfl, rfl, rfl, rfl, rfl, rfl, rfl, rfl, rfl, rfl, rfl, rfl, rfl, rfl, rfl, rfl, rfl, rfl, rfl, rfl, rfl, rfl, rfl, rfl, rfl, rfl, rfl⟩

@[simp] theorem State.setCtx_same (s : State) (c : Nat) (v : Context) :
    (s.setCtx c v).pending = s.pending ∧ (s.setCtx c v).time = s.time ∧ (s.setCtx c v).power = s.power ∧
    (s.setCtx c v).boot = s.boot ∧ (s.setCtx c v).ports = s.ports ∧ (s.setCtx c v).mboxes = s.mboxes ∧
    (s.setCtx c v).sessions = s.sessions ∧ (s.setCtx c v).dict = s.dict ∧ (s.setCtx c v).log = s.log ∧
    (s.setCtx c v).health = s.health ∧ (s.setCtx c v).cores = s.cores ∧ (s.setCtx c v).scratch = s.scratch ∧
    (s.setCtx c v).hbm = s.hbm ∧ (s.setCtx c v).hbmPoison = s.hbmPoison ∧ (s.setCtx c v).hbmEcc = s.hbmEcc ∧ (s.setCtx c v).larders = s.larders ∧
    (s.setCtx c v).movers = s.movers ∧ (s.setCtx c v).folds = s.folds ∧ (s.setCtx c v).parts = s.parts ∧
    (s.setCtx c v).journal = s.journal ∧ (s.setCtx c v).train = s.train ∧ (s.setCtx c v).seeds = s.seeds ∧
    (s.setCtx c v).chanUse = s.chanUse ∧ (s.setCtx c v).links = s.links ∧ (s.setCtx c v).net = s.net ∧
    (s.setCtx c v).paceHist = s.paceHist ∧ (s.setCtx c v).freeCtr = s.freeCtr :=
  ⟨rfl, rfl, rfl, rfl, rfl, rfl, rfl, rfl, rfl, rfl, rfl, rfl, rfl, rfl, rfl, rfl, rfl, rfl, rfl, rfl, rfl, rfl, rfl, rfl, rfl, rfl, rfl⟩

@[simp] theorem State.setPart_same (s : State) (p : Nat) (v : Part) :
    (s.setPart p v).pending = s.pending ∧ (s.setPart p v).time = s.time ∧ (s.setPart p v).power = s.power ∧
    (s.setPart p v).boot = s.boot ∧ (s.setPart p v).ports = s.ports ∧ (s.setPart p v).mboxes = s.mboxes ∧
    (s.setPart p v).sessions = s.sessions ∧ (s.setPart p v).dict = s.dict ∧ (s.setPart p v).log = s.log ∧
    (s.setPart p v).health = s.health ∧ (s.setPart p v).cores = s.cores ∧ (s.setPart p v).scratch = s.scratch ∧
    (s.setPart p v).hbm = s.hbm ∧ (s.setPart p v).hbmPoison = s.hbmPoison ∧ (s.setPart p v).hbmEcc = s.hbmEcc ∧ (s.setPart p v).larders = s.larders ∧
    (s.setPart p v).movers = s.movers ∧ (s.setPart p v).folds = s.folds ∧ (s.setPart p v).ctxs = s.ctxs ∧
    (s.setPart p v).journal = s.journal ∧ (s.setPart p v).train = s.train ∧ (s.setPart p v).seeds = s.seeds ∧
    (s.setPart p v).chanUse = s.chanUse ∧ (s.setPart p v).links = s.links ∧ (s.setPart p v).net = s.net ∧
    (s.setPart p v).paceHist = s.paceHist ∧ (s.setPart p v).freeCtr = s.freeCtr :=
  ⟨rfl, rfl, rfl, rfl, rfl, rfl, rfl, rfl, rfl, rfl, rfl, rfl, rfl, rfl, rfl, rfl, rfl, rfl, rfl, rfl, rfl, rfl, rfl, rfl, rfl, rfl, rfl⟩

@[simp] theorem State.setLarder_same (s : State) (h : Nat) (v : Larder) :
    (s.setLarder h v).pending = s.pending ∧ (s.setLarder h v).time = s.time ∧ (s.setLarder h v).power = s.power ∧
    (s.setLarder h v).boot = s.boot ∧ (s.setLarder h v).ports = s.ports ∧ (s.setLarder h v).mboxes = s.mboxes ∧
    (s.setLarder h v).sessions = s.sessions ∧ (s.setLarder h v).dict = s.dict ∧ (s.setLarder h v).log = s.log ∧
    (s.setLarder h v).health = s.health ∧ (s.setLarder h v).cores = s.cores ∧ (s.setLarder h v).scratch = s.scratch ∧
    (s.setLarder h v).hbm = s.hbm ∧ (s.setLarder h v).hbmPoison = s.hbmPoison ∧ (s.setLarder h v).hbmEcc = s.hbmEcc ∧ (s.setLarder h v).movers = s.movers ∧
    (s.setLarder h v).folds = s.folds ∧ (s.setLarder h v).parts = s.parts ∧ (s.setLarder h v).ctxs = s.ctxs ∧
    (s.setLarder h v).journal = s.journal ∧ (s.setLarder h v).train = s.train ∧ (s.setLarder h v).seeds = s.seeds ∧
    (s.setLarder h v).chanUse = s.chanUse ∧ (s.setLarder h v).links = s.links ∧ (s.setLarder h v).net = s.net ∧
    (s.setLarder h v).paceHist = s.paceHist ∧ (s.setLarder h v).freeCtr = s.freeCtr :=
  ⟨rfl, rfl, rfl, rfl, rfl, rfl, rfl, rfl, rfl, rfl, rfl, rfl, rfl, rfl, rfl, rfl, rfl, rfl, rfl, rfl, rfl, rfl, rfl, rfl, rfl, rfl, rfl⟩

@[simp] theorem State.setMover_same (s : State) (m : Nat) (v : Mover) :
    (s.setMover m v).pending = s.pending ∧ (s.setMover m v).time = s.time ∧ (s.setMover m v).power = s.power ∧
    (s.setMover m v).boot = s.boot ∧ (s.setMover m v).ports = s.ports ∧ (s.setMover m v).mboxes = s.mboxes ∧
    (s.setMover m v).sessions = s.sessions ∧ (s.setMover m v).dict = s.dict ∧ (s.setMover m v).log = s.log ∧
    (s.setMover m v).health = s.health ∧ (s.setMover m v).cores = s.cores ∧ (s.setMover m v).scratch = s.scratch ∧
    (s.setMover m v).hbm = s.hbm ∧ (s.setMover m v).hbmPoison = s.hbmPoison ∧ (s.setMover m v).hbmEcc = s.hbmEcc ∧ (s.setMover m v).larders = s.larders ∧
    (s.setMover m v).folds = s.folds ∧ (s.setMover m v).parts = s.parts ∧ (s.setMover m v).ctxs = s.ctxs ∧
    (s.setMover m v).journal = s.journal ∧ (s.setMover m v).train = s.train ∧ (s.setMover m v).seeds = s.seeds ∧
    (s.setMover m v).chanUse = s.chanUse ∧ (s.setMover m v).links = s.links ∧ (s.setMover m v).net = s.net ∧
    (s.setMover m v).paceHist = s.paceHist ∧ (s.setMover m v).freeCtr = s.freeCtr :=
  ⟨rfl, rfl, rfl, rfl, rfl, rfl, rfl, rfl, rfl, rfl, rfl, rfl, rfl, rfl, rfl, rfl, rfl, rfl, rfl, rfl, rfl, rfl, rfl, rfl, rfl, rfl, rfl⟩

@[simp] theorem State.setLink_same (s : State) (p : Nat) (v : Link) :
    (s.setLink p v).pending = s.pending ∧ (s.setLink p v).time = s.time ∧ (s.setLink p v).power = s.power ∧
    (s.setLink p v).boot = s.boot ∧ (s.setLink p v).ports = s.ports ∧ (s.setLink p v).mboxes = s.mboxes ∧
    (s.setLink p v).sessions = s.sessions ∧ (s.setLink p v).dict = s.dict ∧ (s.setLink p v).log = s.log ∧
    (s.setLink p v).health = s.health ∧ (s.setLink p v).cores = s.cores ∧ (s.setLink p v).scratch = s.scratch ∧
    (s.setLink p v).hbm = s.hbm ∧ (s.setLink p v).hbmPoison = s.hbmPoison ∧ (s.setLink p v).hbmEcc = s.hbmEcc ∧ (s.setLink p v).larders = s.larders ∧
    (s.setLink p v).movers = s.movers ∧ (s.setLink p v).folds = s.folds ∧ (s.setLink p v).parts = s.parts ∧
    (s.setLink p v).ctxs = s.ctxs ∧ (s.setLink p v).journal = s.journal ∧ (s.setLink p v).train = s.train ∧
    (s.setLink p v).seeds = s.seeds ∧ (s.setLink p v).chanUse = s.chanUse ∧ (s.setLink p v).net = s.net ∧
    (s.setLink p v).paceHist = s.paceHist ∧ (s.setLink p v).freeCtr = s.freeCtr :=
  ⟨rfl, rfl, rfl, rfl, rfl, rfl, rfl, rfl, rfl, rfl, rfl, rfl, rfl, rfl, rfl, rfl, rfl, rfl, rfl, rfl, rfl, rfl, rfl, rfl, rfl, rfl, rfl⟩

@[simp] theorem State.setFolds_same (s : State) (h : Nat) (v : List Fold) :
    (s.setFolds h v).pending = s.pending ∧ (s.setFolds h v).time = s.time ∧ (s.setFolds h v).power = s.power ∧
    (s.setFolds h v).boot = s.boot ∧ (s.setFolds h v).ports = s.ports ∧ (s.setFolds h v).mboxes = s.mboxes ∧
    (s.setFolds h v).sessions = s.sessions ∧ (s.setFolds h v).dict = s.dict ∧ (s.setFolds h v).log = s.log ∧
    (s.setFolds h v).health = s.health ∧ (s.setFolds h v).cores = s.cores ∧ (s.setFolds h v).scratch = s.scratch ∧
    (s.setFolds h v).hbm = s.hbm ∧ (s.setFolds h v).hbmPoison = s.hbmPoison ∧ (s.setFolds h v).hbmEcc = s.hbmEcc ∧ (s.setFolds h v).larders = s.larders ∧
    (s.setFolds h v).movers = s.movers ∧ (s.setFolds h v).parts = s.parts ∧ (s.setFolds h v).ctxs = s.ctxs ∧
    (s.setFolds h v).journal = s.journal ∧ (s.setFolds h v).train = s.train ∧ (s.setFolds h v).seeds = s.seeds ∧
    (s.setFolds h v).chanUse = s.chanUse ∧ (s.setFolds h v).links = s.links ∧ (s.setFolds h v).net = s.net ∧
    (s.setFolds h v).paceHist = s.paceHist ∧ (s.setFolds h v).freeCtr = s.freeCtr :=
  ⟨rfl, rfl, rfl, rfl, rfl, rfl, rfl, rfl, rfl, rfl, rfl, rfl, rfl, rfl, rfl, rfl, rfl, rfl, rfl, rfl, rfl, rfl, rfl, rfl, rfl, rfl, rfl⟩

@[simp] theorem State.setSession_same (s : State) (x : Session) (v : SessionState) :
    (s.setSession x v).pending = s.pending ∧ (s.setSession x v).time = s.time ∧ (s.setSession x v).power = s.power ∧
    (s.setSession x v).boot = s.boot ∧ (s.setSession x v).ports = s.ports ∧ (s.setSession x v).mboxes = s.mboxes ∧
    (s.setSession x v).dict = s.dict ∧ (s.setSession x v).log = s.log ∧ (s.setSession x v).health = s.health ∧
    (s.setSession x v).cores = s.cores ∧ (s.setSession x v).scratch = s.scratch ∧ (s.setSession x v).hbm = s.hbm ∧
    (s.setSession x v).hbmPoison = s.hbmPoison ∧ (s.setSession x v).hbmEcc = s.hbmEcc ∧ (s.setSession x v).larders = s.larders ∧ (s.setSession x v).movers = s.movers ∧
    (s.setSession x v).folds = s.folds ∧ (s.setSession x v).parts = s.parts ∧ (s.setSession x v).ctxs = s.ctxs ∧
    (s.setSession x v).journal = s.journal ∧ (s.setSession x v).train = s.train ∧ (s.setSession x v).seeds = s.seeds ∧
    (s.setSession x v).chanUse = s.chanUse ∧ (s.setSession x v).links = s.links ∧ (s.setSession x v).net = s.net ∧
    (s.setSession x v).paceHist = s.paceHist ∧ (s.setSession x v).freeCtr = s.freeCtr :=
  ⟨rfl, rfl, rfl, rfl, rfl, rfl, rfl, rfl, rfl, rfl, rfl, rfl, rfl, rfl, rfl, rfl, rfl, rfl, rfl, rfl, rfl, rfl, rfl, rfl, rfl, rfl, rfl⟩

@[simp] theorem State.setHearth_same (s : State) (h : Nat) (v : HearthHealth) :
    (s.setHearth h v).pending = s.pending ∧ (s.setHearth h v).time = s.time ∧ (s.setHearth h v).power = s.power ∧
    (s.setHearth h v).boot = s.boot ∧ (s.setHearth h v).ports = s.ports ∧ (s.setHearth h v).mboxes = s.mboxes ∧
    (s.setHearth h v).sessions = s.sessions ∧ (s.setHearth h v).dict = s.dict ∧ (s.setHearth h v).log = s.log ∧
    (s.setHearth h v).cores = s.cores ∧ (s.setHearth h v).scratch = s.scratch ∧ (s.setHearth h v).hbm = s.hbm ∧
    (s.setHearth h v).hbmPoison = s.hbmPoison ∧ (s.setHearth h v).hbmEcc = s.hbmEcc ∧ (s.setHearth h v).larders = s.larders ∧ (s.setHearth h v).movers = s.movers ∧
    (s.setHearth h v).folds = s.folds ∧ (s.setHearth h v).parts = s.parts ∧ (s.setHearth h v).ctxs = s.ctxs ∧
    (s.setHearth h v).journal = s.journal ∧ (s.setHearth h v).train = s.train ∧ (s.setHearth h v).seeds = s.seeds ∧
    (s.setHearth h v).chanUse = s.chanUse ∧ (s.setHearth h v).links = s.links ∧ (s.setHearth h v).net = s.net ∧
    (s.setHearth h v).paceHist = s.paceHist ∧ (s.setHearth h v).freeCtr = s.freeCtr :=
  ⟨rfl, rfl, rfl, rfl, rfl, rfl, rfl, rfl, rfl, rfl, rfl, rfl, rfl, rfl, rfl, rfl, rfl, rfl, rfl, rfl, rfl, rfl, rfl, rfl, rfl, rfl, rfl⟩

@[simp] theorem State.setObj_same (s : State) (i sub v : Nat) :
    (s.setObj i sub v).pending = s.pending ∧ (s.setObj i sub v).time = s.time ∧ (s.setObj i sub v).power = s.power ∧
    (s.setObj i sub v).boot = s.boot ∧ (s.setObj i sub v).ports = s.ports ∧ (s.setObj i sub v).mboxes = s.mboxes ∧
    (s.setObj i sub v).sessions = s.sessions ∧ (s.setObj i sub v).log = s.log ∧ (s.setObj i sub v).health = s.health ∧
    (s.setObj i sub v).cores = s.cores ∧ (s.setObj i sub v).scratch = s.scratch ∧ (s.setObj i sub v).hbm = s.hbm ∧
    (s.setObj i sub v).hbmPoison = s.hbmPoison ∧ (s.setObj i sub v).hbmEcc = s.hbmEcc ∧ (s.setObj i sub v).larders = s.larders ∧ (s.setObj i sub v).movers = s.movers ∧
    (s.setObj i sub v).folds = s.folds ∧ (s.setObj i sub v).parts = s.parts ∧ (s.setObj i sub v).ctxs = s.ctxs ∧
    (s.setObj i sub v).journal = s.journal ∧ (s.setObj i sub v).train = s.train ∧ (s.setObj i sub v).seeds = s.seeds ∧
    (s.setObj i sub v).chanUse = s.chanUse ∧ (s.setObj i sub v).links = s.links ∧ (s.setObj i sub v).net = s.net ∧
    (s.setObj i sub v).paceHist = s.paceHist ∧ (s.setObj i sub v).freeCtr = s.freeCtr :=
  ⟨rfl, rfl, rfl, rfl, rfl, rfl, rfl, rfl, rfl, rfl, rfl, rfl, rfl, rfl, rfl, rfl, rfl, rfl, rfl, rfl, rfl, rfl, rfl, rfl, rfl, rfl, rfl⟩

@[simp] theorem State.bump_same (s : State) (i sub n : Nat) :
    (s.bump i sub n).pending = s.pending ∧ (s.bump i sub n).time = s.time ∧ (s.bump i sub n).power = s.power ∧
    (s.bump i sub n).boot = s.boot ∧ (s.bump i sub n).ports = s.ports ∧ (s.bump i sub n).mboxes = s.mboxes ∧
    (s.bump i sub n).sessions = s.sessions ∧ (s.bump i sub n).log = s.log ∧ (s.bump i sub n).health = s.health ∧
    (s.bump i sub n).cores = s.cores ∧ (s.bump i sub n).scratch = s.scratch ∧ (s.bump i sub n).hbm = s.hbm ∧
    (s.bump i sub n).hbmPoison = s.hbmPoison ∧ (s.bump i sub n).hbmEcc = s.hbmEcc ∧ (s.bump i sub n).larders = s.larders ∧ (s.bump i sub n).movers = s.movers ∧
    (s.bump i sub n).folds = s.folds ∧ (s.bump i sub n).parts = s.parts ∧ (s.bump i sub n).ctxs = s.ctxs ∧
    (s.bump i sub n).journal = s.journal ∧ (s.bump i sub n).train = s.train ∧ (s.bump i sub n).seeds = s.seeds ∧
    (s.bump i sub n).chanUse = s.chanUse ∧ (s.bump i sub n).links = s.links ∧ (s.bump i sub n).net = s.net ∧
    (s.bump i sub n).paceHist = s.paceHist ∧ (s.bump i sub n).freeCtr = s.freeCtr :=
  ⟨rfl, rfl, rfl, rfl, rfl, rfl, rfl, rfl, rfl, rfl, rfl, rfl, rfl, rfl, rfl, rfl, rfl, rfl, rfl, rfl, rfl, rfl, rfl, rfl, rfl, rfl, rfl⟩

@[simp] theorem State.bumpH_same (s : State) (i h sub n : Nat) :
    (s.bumpH i h sub n).pending = s.pending ∧ (s.bumpH i h sub n).time = s.time ∧ (s.bumpH i h sub n).power = s.power ∧
    (s.bumpH i h sub n).boot = s.boot ∧ (s.bumpH i h sub n).ports = s.ports ∧ (s.bumpH i h sub n).mboxes = s.mboxes ∧
    (s.bumpH i h sub n).sessions = s.sessions ∧ (s.bumpH i h sub n).log = s.log ∧ (s.bumpH i h sub n).health = s.health ∧
    (s.bumpH i h sub n).cores = s.cores ∧ (s.bumpH i h sub n).scratch = s.scratch ∧ (s.bumpH i h sub n).hbm = s.hbm ∧
    (s.bumpH i h sub n).hbmPoison = s.hbmPoison ∧ (s.bumpH i h sub n).hbmEcc = s.hbmEcc ∧ (s.bumpH i h sub n).larders = s.larders ∧ (s.bumpH i h sub n).movers = s.movers ∧
    (s.bumpH i h sub n).folds = s.folds ∧ (s.bumpH i h sub n).parts = s.parts ∧ (s.bumpH i h sub n).ctxs = s.ctxs ∧
    (s.bumpH i h sub n).journal = s.journal ∧ (s.bumpH i h sub n).train = s.train ∧ (s.bumpH i h sub n).seeds = s.seeds ∧
    (s.bumpH i h sub n).chanUse = s.chanUse ∧ (s.bumpH i h sub n).links = s.links ∧ (s.bumpH i h sub n).net = s.net ∧
    (s.bumpH i h sub n).paceHist = s.paceHist ∧ (s.bumpH i h sub n).freeCtr = s.freeCtr :=
  ⟨rfl, rfl, rfl, rfl, rfl, rfl, rfl, rfl, rfl, rfl, rfl, rfl, rfl, rfl, rfl, rfl, rfl, rfl, rfl, rfl, rfl, rfl, rfl, rfl, rfl, rfl, rfl⟩

@[simp] theorem State.setWord_same (s : State) (key : Nat) (w : SWord) :
    (s.setWord key w).pending = s.pending ∧ (s.setWord key w).time = s.time ∧ (s.setWord key w).power = s.power ∧
    (s.setWord key w).boot = s.boot ∧ (s.setWord key w).ports = s.ports ∧ (s.setWord key w).mboxes = s.mboxes ∧
    (s.setWord key w).sessions = s.sessions ∧ (s.setWord key w).dict = s.dict ∧ (s.setWord key w).log = s.log ∧
    (s.setWord key w).health = s.health ∧ (s.setWord key w).cores = s.cores ∧ (s.setWord key w).hbm = s.hbm ∧
    (s.setWord key w).hbmPoison = s.hbmPoison ∧ (s.setWord key w).hbmEcc = s.hbmEcc ∧ (s.setWord key w).larders = s.larders ∧ (s.setWord key w).movers = s.movers ∧
    (s.setWord key w).folds = s.folds ∧ (s.setWord key w).parts = s.parts ∧ (s.setWord key w).ctxs = s.ctxs ∧
    (s.setWord key w).journal = s.journal ∧ (s.setWord key w).train = s.train ∧ (s.setWord key w).seeds = s.seeds ∧
    (s.setWord key w).chanUse = s.chanUse ∧ (s.setWord key w).links = s.links ∧ (s.setWord key w).net = s.net ∧
    (s.setWord key w).paceHist = s.paceHist ∧ (s.setWord key w).freeCtr = s.freeCtr :=
  ⟨rfl, rfl, rfl, rfl, rfl, rfl, rfl, rfl, rfl, rfl, rfl, rfl, rfl, rfl, rfl, rfl, rfl, rfl, rfl, rfl, rfl, rfl, rfl, rfl, rfl, rfl, rfl⟩

@[simp] theorem State.reach_same (s : State) (t : Nat) :
    (s.reach t).pending = s.pending ∧ (s.reach t).power = s.power ∧ (s.reach t).boot = s.boot ∧
    (s.reach t).ports = s.ports ∧ (s.reach t).mboxes = s.mboxes ∧ (s.reach t).sessions = s.sessions ∧
    (s.reach t).dict = s.dict ∧ (s.reach t).log = s.log ∧ (s.reach t).health = s.health ∧
    (s.reach t).cores = s.cores ∧ (s.reach t).scratch = s.scratch ∧ (s.reach t).hbm = s.hbm ∧
    (s.reach t).hbmPoison = s.hbmPoison ∧ (s.reach t).hbmEcc = s.hbmEcc ∧ (s.reach t).larders = s.larders ∧ (s.reach t).movers = s.movers ∧
    (s.reach t).folds = s.folds ∧ (s.reach t).parts = s.parts ∧ (s.reach t).ctxs = s.ctxs ∧
    (s.reach t).journal = s.journal ∧ (s.reach t).train = s.train ∧ (s.reach t).seeds = s.seeds ∧
    (s.reach t).chanUse = s.chanUse ∧ (s.reach t).links = s.links ∧ (s.reach t).net = s.net ∧
    (s.reach t).paceHist = s.paceHist ∧ (s.reach t).freeCtr = s.freeCtr :=
  ⟨rfl, rfl, rfl, rfl, rfl, rfl, rfl, rfl, rfl, rfl, rfl, rfl, rfl, rfl, rfl, rfl, rfl, rfl, rfl, rfl, rfl, rfl, rfl, rfl, rfl, rfl, rfl⟩

@[simp] theorem State.report_same (s : State) (r : Report) :
    (s.report r).pending = s.pending ∧ (s.report r).time = s.time ∧ (s.report r).power = s.power ∧
    (s.report r).boot = s.boot ∧ (s.report r).ports = s.ports ∧ (s.report r).mboxes = s.mboxes ∧
    (s.report r).sessions = s.sessions ∧ (s.report r).dict = s.dict ∧ (s.report r).health = s.health ∧
    (s.report r).cores = s.cores ∧ (s.report r).scratch = s.scratch ∧ (s.report r).hbm = s.hbm ∧
    (s.report r).hbmPoison = s.hbmPoison ∧ (s.report r).hbmEcc = s.hbmEcc ∧ (s.report r).larders = s.larders ∧ (s.report r).movers = s.movers ∧
    (s.report r).folds = s.folds ∧ (s.report r).parts = s.parts ∧ (s.report r).ctxs = s.ctxs ∧
    (s.report r).journal = s.journal ∧ (s.report r).train = s.train ∧ (s.report r).seeds = s.seeds ∧
    (s.report r).chanUse = s.chanUse ∧ (s.report r).links = s.links ∧ (s.report r).net = s.net ∧
    (s.report r).paceHist = s.paceHist ∧ (s.report r).freeCtr = s.freeCtr :=
  ⟨rfl, rfl, rfl, rfl, rfl, rfl, rfl, rfl, rfl, rfl, rfl, rfl, rfl, rfl, rfl, rfl, rfl, rfl, rfl, rfl, rfl, rfl, rfl, rfl, rfl, rfl, rfl⟩

/-- A unit reads as written. -/
@[simp] theorem State.core_setCore (s : State) (k : Nat) (v : Core) : (s.setCore k v).core k = v :=
  tget_tset_same _ _ _ _

@[simp] theorem State.core_setCore_ne (s : State) {k j : Nat} (v : Core) (h : j ≠ k) : (s.setCore k v).core j = s.core j :=
  tget_tset_ne _ _ h _

/-- A unit reads as written. -/
@[simp] theorem State.port_setPort (s : State) (p : Nat) (v : PortState) : (s.setPort p v).port p = v :=
  tget_tset_same _ _ _ _

@[simp] theorem State.port_setPort_ne (s : State) {p j : Nat} (v : PortState) (h : j ≠ p) : (s.setPort p v).port j = s.port j :=
  tget_tset_ne _ _ h _

/-- A unit reads as written. -/
@[simp] theorem State.mbox_setMbox (s : State) (m : Nat) (v : Mbox) : (s.setMbox m v).mbox m = v :=
  tget_tset_same _ _ _ _

@[simp] theorem State.mbox_setMbox_ne (s : State) {m j : Nat} (v : Mbox) (h : j ≠ m) : (s.setMbox m v).mbox j = s.mbox j :=
  tget_tset_ne _ _ h _

/-- A unit reads as written. -/
@[simp] theorem State.ctx_setCtx (s : State) (c : Nat) (v : Context) : (s.setCtx c v).ctx c = v :=
  tget_tset_same _ _ _ _

@[simp] theorem State.ctx_setCtx_ne (s : State) {c j : Nat} (v : Context) (h : j ≠ c) : (s.setCtx c v).ctx j = s.ctx j :=
  tget_tset_ne _ _ h _

/-- A unit reads as written. -/
@[simp] theorem State.part_setPart (s : State) (p : Nat) (v : Part) : (s.setPart p v).part p = v :=
  tget_tset_same _ _ _ _

@[simp] theorem State.part_setPart_ne (s : State) {p j : Nat} (v : Part) (h : j ≠ p) : (s.setPart p v).part j = s.part j :=
  tget_tset_ne _ _ h _

/-- A unit reads as written. -/
@[simp] theorem State.larder_setLarder (s : State) (n : Nat) (v : Larder) : (s.setLarder n v).larder n = v :=
  tget_tset_same _ _ _ _

@[simp] theorem State.larder_setLarder_ne (s : State) {n j : Nat} (v : Larder) (h : j ≠ n) : (s.setLarder n v).larder j = s.larder j :=
  tget_tset_ne _ _ h _

/-- A unit reads as written. -/
@[simp] theorem State.mover_setMover (s : State) (m : Nat) (v : Mover) : (s.setMover m v).mover m = v :=
  tget_tset_same _ _ _ _

@[simp] theorem State.mover_setMover_ne (s : State) {m j : Nat} (v : Mover) (h : j ≠ m) : (s.setMover m v).mover j = s.mover j :=
  tget_tset_ne _ _ h _

/-- A unit reads as written. -/
@[simp] theorem State.link_setLink (s : State) (p : Nat) (v : Link) : (s.setLink p v).link p = v :=
  tget_tset_same _ _ _ _

@[simp] theorem State.link_setLink_ne (s : State) {p j : Nat} (v : Link) (h : j ≠ p) : (s.setLink p v).link j = s.link j :=
  tget_tset_ne _ _ h _

@[simp] theorem State.word_setWord (s : State) (key : Nat) (w : SWord) : (s.setWord key w).word key = w :=
  tget_tset_same _ _ _ _

@[simp] theorem State.word_setWord_ne (s : State) {key j : Nat} (w : SWord) (h : j ≠ key) : (s.setWord key w).word j = s.word j :=
  tget_tset_ne _ _ h _

@[simp] theorem Core.bank_setBank (c : Core) (b : Nat) (v : Bank) : (c.setBank b v).bank b = v := tget_tset_same _ _ _ _

@[simp] theorem Core.bank_setBank_ne (c : Core) {b j : Nat} (v : Bank) (h : j ≠ b) : (c.setBank b v).bank j = c.bank j :=
  tget_tset_ne _ _ h _

@[simp] theorem Core.handle_setHandle (c : Core) (e : Nat) (v : Handle) : (c.setHandle e v).handle e = v := tget_tset_same _ _ _ _

@[simp] theorem Core.handle_setHandle_ne (c : Core) {e j : Nat} (v : Handle) (h : j ≠ e) : (c.setHandle e v).handle j = c.handle j :=
  tget_tset_ne _ _ h _

@[simp] theorem State.folds_setFolds (s : State) (h : Nat) (v : List Fold) : (s.setFolds h v).foldsOf h = v := tget_tset_same _ _ _ _

@[simp] theorem State.hearth_setHearth (s : State) (h : Nat) (v : HearthHealth) : (s.setHearth h v).hearth h = v := tget_tset_same _ _ _ _

@[simp] theorem State.hearth_setHearth_ne (s : State) {h j : Nat} (v : HearthHealth) (n : j ≠ h) :
    (s.setHearth h v).hearth j = s.hearth j :=
  tget_tset_ne _ _ n _

@[simp] theorem State.session_setSession (s : State) (x : Session) (v : SessionState) : (s.setSession x v).session x = v :=
  tget_tset_same _ _ _ _

@[simp] theorem State.obj_setObj (s : State) (i sub v : Nat) : (s.setObj i sub v).obj i sub = v := tget_tset_same _ _ _ _

theorem State.obj_setObj_ne (s : State) {i sub j sub' : Nat} (v : Nat) (h : objKey j sub' ≠ objKey i sub) :
    (s.setObj i sub v).obj j sub' = s.obj j sub' :=
  tget_tset_ne _ _ h _

theorem SWord.withData_ne {w : SWord} {v : W64} (h : w ≠ .poisoned) : w.withData v ≠ .poisoned := by
  cases w <;> simp_all [SWord.withData]

end Sys2Proof.Machine
end

