-- ==== Sys2Proof/Laws/Keeps.lean ====
section
/-!
SUPPORT. What a change of the state keeps: the parts outside a list T, and of every part the facts that no command but
a cold reset changes; with the rules that carry it through conditionals, folds and the accumulators of a step.
-/
namespace Sys2Proof.Machine

/-- f is one of the parts T. -/
def may (T : List StateField) (f : StateField) : Bool := T.contains f

/-- Every part of T is one of U. -/
def within (T U : List StateField) : Bool := T.all fun f => U.contains f

theorem may_within {T U : List StateField} (h : within T U = true) {f : StateField} (hf : may T f = true) : may U f = true := by
  simp only [within, may, List.all_eq_true, List.contains_iff_mem] at *
  exact h f hf

/-- From a to s: only the parts T changed, and of those the queue, the straps, the fused minimum (it only rises), the
timekeeper and the log's HEAD and ACK (they only rise, HEAD at or above ACK) and the form of the memories keep what every
command but a cold reset keeps. -/
structure Keeps (T : List StateField) (a s : State) : Prop where
  pending : s.pending = a.pending
  time : may T .time = true ∨ s.time = a.time
  power : may T .power = true ∨ s.power = a.power
  boot : may T .boot = true ∨ s.boot = a.boot
  ports : may T .ports = true ∨ s.ports = a.ports
  mboxes : may T .mboxes = true ∨ s.mboxes = a.mboxes
  sessions : may T .sessions = true ∨ s.sessions = a.sessions
  dict : may T .dict = true ∨ s.dict = a.dict
  log : may T .log = true ∨ s.log = a.log
  health : may T .health = true ∨ s.health = a.health
  cores : may T .cores = true ∨ s.cores = a.cores
  scratch : may T .scratch = true ∨ s.scratch = a.scratch
  hbm : may T .hbm = true ∨ s.hbm = a.hbm
  hbmPoison : may T .hbmPoison = true ∨ s.hbmPoison = a.hbmPoison
  hbmEcc : may T .hbmEcc = true ∨ s.hbmEcc = a.hbmEcc
  larders : may T .larders = true ∨ s.larders = a.larders
  movers : may T .movers = true ∨ s.movers = a.movers
  folds : may T .folds = true ∨ s.folds = a.folds
  parts : may T .parts = true ∨ s.parts = a.parts
  ctxs : may T .ctxs = true ∨ s.ctxs = a.ctxs
  journal : may T .journal = true ∨ s.journal = a.journal
  train : may T .train = true ∨ s.train = a.train
  seeds : may T .seeds = true ∨ s.seeds = a.seeds
  chanUse : may T .chanUse = true ∨ s.chanUse = a.chanUse
  links : may T .links = true ∨ s.links = a.links
  net : may T .net = true ∨ s.net = a.net
  paceHist : may T .paceHist = true ∨ s.paceHist = a.paceHist
  freeCtr : may T .freeCtr = true ∨ s.freeCtr = a.freeCtr
  manager : s.boot.manager = a.boot.manager
  strap : s.boot.nodeStrap = a.boot.nodeStrap
  fuse : a.boot.fusedMin ≤ s.boot.fusedMin
  now : a.time.now ≤ s.time.now
  head : a.log.head ≤ s.log.head
  ack : a.log.ack ≤ s.log.ack
  window : a.log.ack ≤ a.log.head → s.log.ack ≤ s.log.head
  mem : memOk a.hbm a.scratch → memOk s.hbm s.scratch

theorem Keeps.refl (T : List StateField) (a : State) : Keeps T a a := by
  constructor <;> first | exact Or.inr rfl | exact Nat.le_refl _ | exact id | rfl

theorem Keeps.trans {T U : List StateField} {a s t : State} (g : Keeps U s t) (hw : within U T = true) (h : Keeps T a s) :
    Keeps T a t := by
  constructor
  case pending => exact g.pending.trans h.pending
  case time => exact g.time.elim (fun m => .inl (may_within hw m)) fun e => h.time.imp id e.trans
  case power => exact g.power.elim (fun m => .inl (may_within hw m)) fun e => h.power.imp id e.trans
  case boot => exact g.boot.elim (fun m => .inl (may_within hw m)) fun e => h.boot.imp id e.trans
  case ports => exact g.ports.elim (fun m => .inl (may_within hw m)) fun e => h.ports.imp id e.trans
  case mboxes => exact g.mboxes.elim (fun m => .inl (may_within hw m)) fun e => h.mboxes.imp id e.trans
  case sessions => exact g.sessions.elim (fun m => .inl (may_within hw m)) fun e => h.sessions.imp id e.trans
  case dict => exact g.dict.elim (fun m => .inl (may_within hw m)) fun e => h.dict.imp id e.trans
  case log => exact g.log.elim (fun m => .inl (may_within hw m)) fun e => h.log.imp id e.trans
  case health => exact g.health.elim (fun m => .inl (may_within hw m)) fun e => h.health.imp id e.trans
  case cores => exact g.cores.elim (fun m => .inl (may_within hw m)) fun e => h.cores.imp id e.trans
  case scratch => exact g.scratch.elim (fun m => .inl (may_within hw m)) fun e => h.scratch.imp id e.trans
  case hbm => exact g.hbm.elim (fun m => .inl (may_within hw m)) fun e => h.hbm.imp id e.trans
  case hbmPoison => exact g.hbmPoison.elim (fun m => .inl (may_within hw m)) fun e => h.hbmPoison.imp id e.trans
  case hbmEcc => exact g.hbmEcc.elim (fun m => .inl (may_within hw m)) fun e => h.hbmEcc.imp id e.trans
  case larders => exact g.larders.elim (fun m => .inl (may_within hw m)) fun e => h.larders.imp id e.trans
  case movers => exact g.movers.elim (fun m => .inl (may_within hw m)) fun e => h.movers.imp id e.trans
  case folds => exact g.folds.elim (fun m => .inl (may_within hw m)) fun e => h.folds.imp id e.trans
  case parts => exact g.parts.elim (fun m => .inl (may_within hw m)) fun e => h.parts.imp id e.trans
  case ctxs => exact g.ctxs.elim (fun m => .inl (may_within hw m)) fun e => h.ctxs.imp id e.trans
  case journal => exact g.journal.elim (fun m => .inl (may_within hw m)) fun e => h.journal.imp id e.trans
  case train => exact g.train.elim (fun m => .inl (may_within hw m)) fun e => h.train.imp id e.trans
  case seeds => exact g.seeds.elim (fun m => .inl (may_within hw m)) fun e => h.seeds.imp id e.trans
  case chanUse => exact g.chanUse.elim (fun m => .inl (may_within hw m)) fun e => h.chanUse.imp id e.trans
  case links => exact g.links.elim (fun m => .inl (may_within hw m)) fun e => h.links.imp id e.trans
  case net => exact g.net.elim (fun m => .inl (may_within hw m)) fun e => h.net.imp id e.trans
  case paceHist => exact g.paceHist.elim (fun m => .inl (may_within hw m)) fun e => h.paceHist.imp id e.trans
  case freeCtr => exact g.freeCtr.elim (fun m => .inl (may_within hw m)) fun e => h.freeCtr.imp id e.trans
  case manager => exact g.manager.trans h.manager
  case strap => exact g.strap.trans h.strap
  case fuse => exact Nat.le_trans h.fuse g.fuse
  case now => exact Nat.le_trans h.now g.now
  case head => exact Nat.le_trans h.head g.head
  case ack => exact Nat.le_trans h.ack g.ack
  case window => exact fun w => g.window (h.window w)
  case mem => exact fun m => g.mem (h.mem m)

/-- A record update that leaves the kept facts as they are. -/
theorem Keeps.lit {T : List StateField} {a s : State} {x_time x_power x_boot x_ports x_mboxes x_sessions x_dict x_log x_health x_cores x_scratch x_hbm x_hbmPoison x_hbmEcc x_larders x_movers x_folds x_parts x_ctxs x_journal x_train x_seeds x_chanUse x_links x_net x_paceHist x_freeCtr}
    (hm : x_boot.manager = s.boot.manager) (hs : x_boot.nodeStrap = s.boot.nodeStrap) (hf : x_boot.fusedMin = s.boot.fusedMin)
    (hn : x_time.now = s.time.now) (hh : x_log.head = s.log.head) (hk : x_log.ack = s.log.ack)
    (hmem : memOk s.hbm s.scratch → memOk x_hbm x_scratch) (h : Keeps T a s)
    (h_time : may T .time = true ∨ x_time = s.time)
    (h_power : may T .power = true ∨ x_power = s.power)
    (h_boot : may T .boot = true ∨ x_boot = s.boot)
    (h_ports : may T .ports = true ∨ x_ports = s.ports)
    (h_mboxes : may T .mboxes = true ∨ x_mboxes = s.mboxes)
    (h_sessions : may T .sessions = true ∨ x_sessions = s.sessions)
    (h_dict : may T .dict = true ∨ x_dict = s.dict)
    (h_log : may T .log = true ∨ x_log = s.log)
    (h_health : may T .health = true ∨ x_health = s.health)
    (h_cores : may T .cores = true ∨ x_cores = s.cores)
    (h_scratch : may T .scratch = true ∨ x_scratch = s.scratch)
    (h_hbm : may T .hbm = true ∨ x_hbm = s.hbm)
    (h_hbmPoison : may T .hbmPoison = true ∨ x_hbmPoison = s.hbmPoison)
    (h_hbmEcc : may T .hbmEcc = true ∨ x_hbmEcc = s.hbmEcc)
    (h_larders : may T .larders = true ∨ x_larders = s.larders)
    (h_movers : may T .movers = true ∨ x_movers = s.movers)
    (h_folds : may T .folds = true ∨ x_folds = s.folds)
    (h_parts : may T .parts = true ∨ x_parts = s.parts)
    (h_ctxs : may T .ctxs = true ∨ x_ctxs = s.ctxs)
    (h_journal : may T .journal = true ∨ x_journal = s.journal)
    (h_train : may T .train = true ∨ x_train = s.train)
    (h_seeds : may T .seeds = true ∨ x_seeds = s.seeds)
    (h_chanUse : may T .chanUse = true ∨ x_chanUse = s.chanUse)
    (h_links : may T .links = true ∨ x_links = s.links)
    (h_net : may T .net = true ∨ x_net = s.net)
    (h_paceHist : may T .paceHist = true ∨ x_paceHist = s.paceHist)
    (h_freeCtr : may T .freeCtr = true ∨ x_freeCtr = s.freeCtr) :
    Keeps T a ⟨s.pending, x_time, x_power, x_boot, x_ports, x_mboxes, x_sessions, x_dict, x_log, x_health, x_cores, x_scratch, x_hbm, x_hbmPoison, x_hbmEcc, x_larders, x_movers, x_folds, x_parts, x_ctxs, x_journal, x_train, x_seeds, x_chanUse, x_links, x_net, x_paceHist, x_freeCtr⟩ := by
  constructor
  case pending => exact h.pending
  case time => exact h_time.elim .inl fun e => h.time.imp id e.trans
  case power => exact h_power.elim .inl fun e => h.power.imp id e.trans
  case boot => exact h_boot.elim .inl fun e => h.boot.imp id e.trans
  case ports => exact h_ports.elim .inl fun e => h.ports.imp id e.trans
  case mboxes => exact h_mboxes.elim .inl fun e => h.mboxes.imp id e.trans
  case sessions => exact h_sessions.elim .inl fun e => h.sessions.imp id e.trans
  case dict => exact h_dict.elim .inl fun e => h.dict.imp id e.trans
  case log => exact h_log.elim .inl fun e => h.log.imp id e.trans
  case health => exact h_health.elim .inl fun e => h.health.imp id e.trans
  case cores => exact h_cores.elim .inl fun e => h.cores.imp id e.trans
  case scratch => exact h_scratch.elim .inl fun e => h.scratch.imp id e.trans
  case hbm => exact h_hbm.elim .inl fun e => h.hbm.imp id e.trans
  case hbmPoison => exact h_hbmPoison.elim .inl fun e => h.hbmPoison.imp id e.trans
  case hbmEcc => exact h_hbmEcc.elim .inl fun e => h.hbmEcc.imp id e.trans
  case larders => exact h_larders.elim .inl fun e => h.larders.imp id e.trans
  case movers => exact h_movers.elim .inl fun e => h.movers.imp id e.trans
  case folds => exact h_folds.elim .inl fun e => h.folds.imp id e.trans
  case parts => exact h_parts.elim .inl fun e => h.parts.imp id e.trans
  case ctxs => exact h_ctxs.elim .inl fun e => h.ctxs.imp id e.trans
  case journal => exact h_journal.elim .inl fun e => h.journal.imp id e.trans
  case train => exact h_train.elim .inl fun e => h.train.imp id e.trans
  case seeds => exact h_seeds.elim .inl fun e => h.seeds.imp id e.trans
  case chanUse => exact h_chanUse.elim .inl fun e => h.chanUse.imp id e.trans
  case links => exact h_links.elim .inl fun e => h.links.imp id e.trans
  case net => exact h_net.elim .inl fun e => h.net.imp id e.trans
  case paceHist => exact h_paceHist.elim .inl fun e => h.paceHist.imp id e.trans
  case freeCtr => exact h_freeCtr.elim .inl fun e => h.freeCtr.imp id e.trans
  case manager => exact hm.trans h.manager
  case strap => exact hs.trans h.strap
  case fuse => exact Nat.le_trans h.fuse (Nat.le_of_eq hf.symm)
  case now => exact Nat.le_trans h.now (Nat.le_of_eq hn.symm)
  case head => exact Nat.le_trans h.head (Nat.le_of_eq hh.symm)
  case ack => exact Nat.le_trans h.ack (Nat.le_of_eq hk.symm)
  case window => exact fun w => hk ▸ hh ▸ h.window w
  case mem => exact fun m => hmem (h.mem m)

theorem Keeps.ite {T : List StateField} {a x y : State} {c : Prop} [Decidable c] (hx : Keeps T a x) (hy : Keeps T a y) : Keeps T a (if c then x else y) := by
  split <;> assumption
theorem Keeps.iteAcc {T : List StateField} {a : State} {x y : Acc} {c : Prop} [Decidable c] (hx : Keeps T a x.st) (hy : Keeps T a y.st) :
    Keeps T a (if c then x else y).st := by split <;> assumption
theorem Keeps.iteMv {T : List StateField} {a : State} {x y : Mv} {c : Prop} [Decidable c] (hx : Keeps T a x.st) (hy : Keeps T a y.st) :
    Keeps T a (if c then x else y).st := by split <;> assumption
theorem Keeps.iteFst {β : Type} {T : List StateField} {a : State} {x y : State × β} {c : Prop} [Decidable c] (hx : Keeps T a x.1) (hy : Keeps T a y.1) :
    Keeps T a (if c then x else y).1 := by split <;> assumption

theorem Keeps.fst {T : List StateField} {a t : State} {β : Type} {f : State × β} {e : β} (h : f = (t, e)) (hk : Keeps T a f.1) : Keeps T a t := by
  subst h; exact hk
theorem Keeps.snd {T : List StateField} {a t : State} {β : Type} {f : β × State} {e : β} (h : f = (e, t)) (hk : Keeps T a f.2) : Keeps T a t := by
  subst h; exact hk
theorem Keeps.fstAcc {T : List StateField} {a : State} {β : Type} {f : Acc × β} {t : Acc} {e : β} (h : f = (t, e)) (hk : Keeps T a f.1.st) :
    Keeps T a t.st := by
  subst h; exact hk
theorem Keeps.fstMv {T : List StateField} {a : State} {β : Type} {f : Mv × β} {t : Mv} {e : β} (h : f = (t, e)) (hk : Keeps T a f.1.st) :
    Keeps T a t.st := by
  subst h; exact hk

theorem foldl_keeps_by {β γ : Type} {T : List StateField} {a : State} (π : γ → State) (f : γ → β → γ)
    (hf : ∀ u x, Keeps T a (π u) → Keeps T a (π (f u x))) : ∀ (l : List β) (u : γ), Keeps T a (π u) → Keeps T a (π (l.foldl f u)) := by
  intro l
  induction l with
  | nil => intro u h; exact h
  | cons x l ih => intro u h; exact ih _ (hf u x h)

theorem foldl_keeps {β : Type} {T : List StateField} {a : State} {f : State → β → State} (hf : ∀ u x, Keeps T a u → Keeps T a (f u x))
    {l : List β} {u : State} (h : Keeps T a u) : Keeps T a (l.foldl f u) := foldl_keeps_by id f hf l u h
theorem foldl_keeps_fst {β γ : Type} {T : List StateField} {a : State} {f : State × γ → β → State × γ}
    (hf : ∀ u x, Keeps T a u.1 → Keeps T a (f u x).1) {l : List β} {u : State × γ} (h : Keeps T a u.1) :
    Keeps T a (l.foldl f u).1 := foldl_keeps_by Prod.fst f hf l u h
theorem foldl_keeps_snd {β γ : Type} {T : List StateField} {a : State} {f : γ × State → β → γ × State}
    (hf : ∀ u x, Keeps T a u.2 → Keeps T a (f u x).2) {l : List β} {u : γ × State} (h : Keeps T a u.2) :
    Keeps T a (l.foldl f u).2 := foldl_keeps_by Prod.snd f hf l u h
theorem foldl_keeps_acc {β : Type} {T : List StateField} {a : State} {f : Acc → β → Acc}
    (hf : ∀ u x, Keeps T a u.st → Keeps T a (f u x).st) {l : List β} {u : Acc} (h : Keeps T a u.st) :
    Keeps T a (l.foldl f u).st := foldl_keeps_by Acc.st f hf l u h
theorem foldl_keeps_accFst {β γ : Type} {T : List StateField} {a : State} {f : Acc × γ → β → Acc × γ}
    (hf : ∀ u x, Keeps T a u.1.st → Keeps T a (f u x).1.st) {l : List β} {u : Acc × γ} (h : Keeps T a u.1.st) :
    Keeps T a (l.foldl f u).1.st := foldl_keeps_by (fun p => p.1.st) f hf l u h
theorem foldl_keeps_mv {β : Type} {T : List StateField} {a : State} {f : Mv → β → Mv}
    (hf : ∀ u x, Keeps T a u.st → Keeps T a (f u x).st) {l : List β} {u : Mv} (h : Keeps T a u.st) :
    Keeps T a (l.foldl f u).st := foldl_keeps_by Mv.st f hf l u h
theorem foldl_keeps_mvFst {β γ : Type} {T : List StateField} {a : State} {f : Mv × γ → β → Mv × γ}
    (hf : ∀ u x, Keeps T a u.1.st → Keeps T a (f u x).1.st) {l : List β} {u : Mv × γ} (h : Keeps T a u.1.st) :
    Keeps T a (l.foldl f u).1.st := foldl_keeps_by (fun p => p.1.st) f hf l u h

theorem Acc.ofState_keeps {T : List StateField} {a : State} : ∀ x0, Keeps T a x0 → Keeps T a (Acc.ofState x0).st := fun _ h => h

theorem Acc.map_keeps {T : List StateField} {a : State} {x : Acc} {f : State → State} (hx : Keeps T a x.st) (hf : ∀ u, Keeps T a u → Keeps T a (f u)) :
    Keeps T a (x.map f).st := by
  unfold Acc.map; split
  · exact hx
  · exact hf _ hx

theorem Acc.andThen_keeps {T : List StateField} {a : State} {x : Acc} {f : State → State × Bool × Option CFault} (hx : Keeps T a x.st)
    (hf : ∀ u, Keeps T a u → Keeps T a (f u).1) : Keeps T a (x.andThen f).st := by
  unfold Acc.andThen; split
  · exact hx
  · exact hf _ hx

theorem Acc.each_keeps {T : List StateField} {a : State} {α : Type} {x : Acc} {l : List α} {f : Acc → α → Acc} (hx : Keeps T a x.st)
    (hf : ∀ u y, Keeps T a u.st → Keeps T a (f u y).st) : Keeps T a (x.each l f).st := by
  unfold Acc.each
  refine foldl_keeps_acc (fun u y h => ?_) hx
  split
  · exact h
  · exact hf u y h

theorem Acc.inStep_keeps {T : List StateField} {a : State} {x : Acc} {env : StepEnv} {n : Nat} {f : Acc → Acc} (hx : Keeps T a x.st)
    (hf : ∀ u, Keeps T a u.st → Keeps T a (f u).st) : Keeps T a (x.inStep env n f).st := by
  unfold Acc.inStep; split
  · exact hx
  · exact hf _ hx

theorem Acc.eachStep_keeps {T : List StateField} {a : State} {α : Type} {x : Acc} {env : StepEnv} {n : Nat} {l : List α} {f : Acc → α → Acc}
    (hx : Keeps T a x.st) (hf : ∀ u y, Keeps T a u.st → Keeps T a (f u y).st) : Keeps T a (x.eachStep env n l f).st := by
  unfold Acc.eachStep
  exact foldl_keeps_acc (fun u y h => Acc.inStep_keeps h fun v hv => hf v _ hv) hx

theorem admitIf_keeps {T : List StateField} {a : State} : ∀ (x0 : Bool) (x1 x2 : State), Keeps T a x1 → Keeps T a x2 → Keeps T a (admitIf x0 x1 x2).1 := by
  intro x0 x1 x2 h1 h2
  unfold admitIf
  split <;> assumption

/-- Every next state that r answers keeps what a holds. -/
structure Ends (T : List StateField) (a : State) (r : Result) : Prop where
  keeps : ∀ t, r = .next t → Keeps T a t

theorem Ends.next {T : List StateField} {a t : State} (h : Keeps T a t) : Ends T a (.next t) :=
  ⟨fun u hu => by cases hu; exact h⟩
theorem Ends.stay {T : List StateField} {a : State} {r : String} : Ends T a (State.stay a r) := Ends.next (Keeps.refl _ _)
theorem Ends.ite {T : List StateField} {a : State} {r q : Result} {c : Prop} [Decidable c] (hr : Ends T a r) (hq : Ends T a q) :
    Ends T a (if c then r else q) := by split <;> assumption

end Sys2Proof.Machine
end

