-- ==== Sys2Proof/Laws/KeepsOps.lean ====
section
/-!
SUPPORT. For each operation over the state, one lemma: the parts of State it may change, and that it keeps what Keeps says.
-/
namespace Sys2Proof.Machine

theorem State.setObj_keeps {T a} :
    ∀ x0 x1 x2 x3, Keeps T a x0 →
      within [.dict] T = true →
      Keeps T a (State.setObj x0 x1 x2 x3) := by
  intro x0 x1 x2 x3 h hw
  refine Keeps.trans ?_ hw h
  unfold State.setObj
  repeat' first
    | with_reducible
        first
        | exact Keeps.refl _ _
    | fail_if_no_progress
      with_reducible
        refine Keeps.lit rfl rfl rfl rfl rfl rfl id ?_ ?_ ?_ ?_ ?_ ?_ ?_ ?_ ?_ ?_ ?_ ?_ ?_ ?_
          ?_ ?_ ?_ ?_ ?_ ?_ ?_ ?_ ?_ ?_ ?_ ?_ ?_ ?_ <;>
        try first | exact Or.inr rfl | exact Or.inl rfl

theorem State.bump_keeps {T a} :
    ∀ x0 x1 x2 x3, Keeps T a x0 →
      within [.dict] T = true →
      Keeps T a (State.bump x0 x1 x2 x3) := by
  intro x0 x1 x2 x3 h hw
  refine Keeps.trans ?_ hw h
  unfold State.bump
  repeat' first
    | with_reducible
        first
        | exact Keeps.refl _ _ | apply State.setObj_keeps
    | exact rfl

theorem State.bumpH_keeps {T a} :
    ∀ x0 x1 x2 x3 x4, Keeps T a x0 →
      within [.dict] T = true →
      Keeps T a (State.bumpH x0 x1 x2 x3 x4) := by
  intro x0 x1 x2 x3 x4 h hw
  refine Keeps.trans ?_ hw h
  unfold State.bumpH
  repeat' first
    | with_reducible
        first
        | exact Keeps.refl _ _ | apply State.bump_keeps
    | exact rfl

theorem State.countPass_keeps {T a} :
    ∀ x0 x1 x2 x3 x4, Keeps T a x0 →
      within [.dict] T = true →
      Keeps T a (State.countPass x0 x1 x2 x3 x4) := by
  intro x0 x1 x2 x3 x4 h hw
  refine Keeps.trans ?_ hw h
  unfold State.countPass
  repeat' first
    | with_reducible
        first
        | exact Keeps.refl _ _ | apply State.bumpH_keeps | refine Keeps.ite ?_ ?_
    | exact rfl

theorem State.setCore_keeps {T a} :
    ∀ x0 x1 x2, Keeps T a x0 →
      within [.cores] T = true →
      Keeps T a (State.setCore x0 x1 x2) := by
  intro x0 x1 x2 h hw
  refine Keeps.trans ?_ hw h
  unfold State.setCore
  repeat' first
    | with_reducible
        first
        | exact Keeps.refl _ _
    | fail_if_no_progress
      with_reducible
        refine Keeps.lit rfl rfl rfl rfl rfl rfl id ?_ ?_ ?_ ?_ ?_ ?_ ?_ ?_ ?_ ?_ ?_ ?_ ?_ ?_
          ?_ ?_ ?_ ?_ ?_ ?_ ?_ ?_ ?_ ?_ ?_ ?_ ?_ ?_ <;>
        try first | exact Or.inr rfl | exact Or.inl rfl

theorem State.forwardSamples_keeps {T a} :
    ∀ x0 x1 x2 x3 x4 x5, Keeps T a x0 →
      within [.dict, .cores] T = true →
      Keeps T a (State.forwardSamples x0 x1 x2 x3 x4 x5) := by
  intro x0 x1 x2 x3 x4 x5 h hw
  refine Keeps.trans ?_ hw h
  unfold State.forwardSamples
  repeat' first
    | with_reducible
        first
        | assumption | exact Keeps.refl _ _ | apply State.bumpH_keeps | apply State.setCore_keeps
        | refine Keeps.ite ?_ ?_ | refine foldl_keeps (fun _ _ _ => ?_) ?_
    | exact rfl | extract_lets | split

theorem Acc.endPass_keeps {T a} :
    ∀ x0 x1 x2 x3 x4 x5, Keeps T a x0.st →
      within [.dict, .cores] T = true →
      Keeps T a (Acc.endPass x0 x1 x2 x3 x4 x5).1.st := by
  intro x0 x1 x2 x3 x4 x5 h hw
  refine Keeps.trans ?_ hw h
  unfold Acc.endPass
  repeat' first
    | with_reducible
        first
        | assumption | exact Keeps.refl _ _ | apply State.countPass_keeps | apply State.forwardSamples_keeps
        | apply Acc.map_keeps | refine Keeps.iteAcc ?_ ?_
    | exact rfl | intro _

theorem Acc.conflict_keeps {T a} :
    ∀ x0 x1 x2 x3, Keeps T a x0.st →
      within [.dict] T = true →
      Keeps T a (Acc.conflict x0 x1 x2 x3).st := by
  intro x0 x1 x2 x3 h hw
  refine Keeps.trans ?_ hw h
  unfold Acc.conflict
  repeat' first
    | with_reducible
        first
        | assumption | exact Keeps.refl _ _ | apply State.bumpH_keeps | apply Acc.map_keeps
    | exact rfl | intro _ | split

theorem State.setHearth_keeps {T a} :
    ∀ x0 x1 x2, Keeps T a x0 →
      within [.health] T = true →
      Keeps T a (State.setHearth x0 x1 x2) := by
  intro x0 x1 x2 h hw
  refine Keeps.trans ?_ hw h
  unfold State.setHearth
  repeat' first
    | with_reducible
        first
        | exact Keeps.refl _ _
    | dsimp only
    | fail_if_no_progress
      with_reducible
        refine Keeps.lit rfl rfl rfl rfl rfl rfl id ?_ ?_ ?_ ?_ ?_ ?_ ?_ ?_ ?_ ?_ ?_ ?_ ?_ ?_
          ?_ ?_ ?_ ?_ ?_ ?_ ?_ ?_ ?_ ?_ ?_ ?_ ?_ ?_ <;>
        try first | exact Or.inr rfl | exact Or.inl rfl

theorem State.markBank_keeps {T a} :
    ∀ x0 x1 x2, Keeps T a x0 →
      within [.health] T = true →
      Keeps T a (State.markBank x0 x1 x2) := by
  intro x0 x1 x2 h hw
  refine Keeps.trans ?_ hw h
  unfold State.markBank
  repeat' first
    | with_reducible
        first
        | exact Keeps.refl _ _ | apply State.setHearth_keeps | refine Keeps.ite ?_ ?_
    | exact rfl

theorem State.countCorrected_keeps {T a} :
    ∀ x0 x1 x2 x3, Keeps T a x0 →
      within [.dict, .health, .cores] T = true →
      Keeps T a (State.countCorrected x0 x1 x2 x3) := by
  intro x0 x1 x2 x3 h hw
  refine Keeps.trans ?_ hw h
  unfold State.countCorrected
  repeat' first
    | with_reducible
        first
        | exact Keeps.refl _ _ | apply State.bumpH_keeps | apply State.markBank_keeps | apply State.setCore_keeps
        | refine Keeps.ite ?_ ?_
    | exact rfl

theorem State.setWord_keeps {T a} :
    ∀ x0 x1 x2, Keeps T a x0 →
      within [.scratch] T = true →
      Keeps T a (State.setWord x0 x1 x2) := by
  intro x0 x1 x2 h hw
  refine Keeps.trans ?_ hw h
  unfold State.setWord
  refine Keeps.lit rfl rfl rfl rfl rfl rfl (fun m => ⟨m.1, tset_wf _ _ _ _ m.2⟩) (Keeps.refl _ _) ?_ ?_ ?_ ?_ ?_ ?_ ?_ ?_ ?_ ?_
      ?_ ?_ ?_ ?_ ?_ ?_ ?_ ?_ ?_ ?_ ?_ ?_ ?_ ?_ ?_ ?_ ?_ <;>
    first | exact Or.inr rfl | exact Or.inl rfl

theorem State.poisonWord_keeps {T a} :
    ∀ x0 x1 x2, Keeps T a x0 →
      within [.dict, .scratch] T = true →
      Keeps T a (State.poisonWord x0 x1 x2) := by
  intro x0 x1 x2 h hw
  refine Keeps.trans ?_ hw h
  unfold State.poisonWord
  repeat' first
    | with_reducible
        first
        | exact Keeps.refl _ _ | apply State.bumpH_keeps | apply State.setWord_keeps
    | exact rfl

theorem State.wakeBank_keeps {T a} :
    ∀ x0 x1 x2, Keeps T a x0 →
      within [.dict, .cores] T = true →
      Keeps T a (State.wakeBank x0 x1 x2).1 := by
  intro x0 x1 x2 h hw
  refine Keeps.trans ?_ hw h
  unfold State.wakeBank
  repeat' first
    | with_reducible
        first
        | exact Keeps.refl _ _ | apply State.bumpH_keeps | apply State.setCore_keeps | refine Keeps.iteFst ?_ ?_
    | exact rfl

theorem readWord_keeps {T a} : ∀ x0 x1 x2 x3 x4, Keeps T a x0 → within [.dict, .health, .cores, .scratch] T = true →
    Keeps T a (readWord x0 x1 x2 x3 x4).st := by
  intro x0 x1 x2 x3 x4 h hw
  refine Keeps.trans ?_ hw h
  unfold readWord
  extract_lets
  split
  · exact State.bumpH_keeps _ _ _ _ _ ((Keeps.refl _ _)) rfl
  · have hk : Keeps [.dict, .health, .cores, .scratch] x0 (x0.wakeBank x1 x2).1 := State.wakeBank_keeps _ _ _ ((Keeps.refl _ _)) rfl
    revert hk
    generalize x0.wakeBank x1 x2 = p
    obtain ⟨t, b⟩ := p
    intro hk
    dsimp only
    split
    · exact hk
    · exact State.countCorrected_keeps _ _ _ _ hk rfl
    · exact State.poisonWord_keeps _ _ _ hk rfl
    · exact State.bumpH_keeps _ _ _ _ _ hk rfl

theorem readWords_keeps {T a} :
    ∀ x0 x1 x2 x3 x4, Keeps T a x0 →
      within [.dict, .health, .cores, .scratch] T = true →
      Keeps T a (readWords x0 x1 x2 x3 x4).1 := by
  intro x0 x1 x2 x3 x4
  induction x4 generalizing x0 x3 with
  | zero => exact fun h _ => h
  | succ n ih =>
    intro h hw
    have hr : Keeps T a (readWord x0 x1 (x2.locate x3).1 (x2.locate x3).2.1 (x2.locate x3).2.2).st := readWord_keeps _ _ _ _ _ h hw
    simp only [readWords]
    split
    · exact hr
    · exact ih _ _ hr hw

theorem readBuf_keeps {T a} :
    ∀ x0 x1 x2 x3 x4 x5, Keeps T a x0 →
      within [.dict, .health, .cores, .scratch] T = true →
      Keeps T a (readBuf x0 x1 x2 x3 x4 x5).1 := by
  intro x0 x1 x2 x3 x4 x5 h hw
  refine Keeps.trans ?_ hw h
  unfold readBuf
  repeat' first
    | with_reducible
        first
        | exact Keeps.refl _ _ | apply State.bumpH_keeps | apply readWords_keeps | refine Keeps.ite ?_ ?_
        | refine Keeps.iteFst ?_ ?_
    | exact rfl | extract_lets | split

theorem Acc.read_keeps {T a} :
    ∀ x0 x1 x2 x3 x4 x5, Keeps T a x0.st →
      within [.dict, .health, .cores, .scratch] T = true →
      Keeps T a (Acc.read x0 x1 x2 x3 x4 x5).1.st := by
  intro x0 x1 x2 x3 x4 x5 h hw
  refine Keeps.trans ?_ hw h
  unfold Acc.read
  repeat' first
    | with_reducible
        first
        | exact Keeps.refl _ _ | apply readBuf_keeps
    | exact rfl | split | dsimp only
    | with_reducible
        first
        | refine Keeps.fst (by assumption) ?_

theorem Acc.feed_keeps {T a} :
    ∀ x0 x1 x2 x3 x4 x5, Keeps T a x0.st →
      within [.dict, .health, .cores, .scratch] T = true →
      Keeps T a (Acc.feed x0 x1 x2 x3 x4 x5).1.st := by
  intro x0 x1 x2 x3 x4 x5 h hw
  refine Keeps.trans ?_ hw h
  unfold Acc.feed
  repeat' first
    | with_reducible
        first
        | exact Keeps.refl _ _ | apply Acc.conflict_keeps | apply Acc.read_keeps
    | exact rfl

theorem Acc.passStep_keeps {T a} :
    ∀ x0 x1 x2 x3 x4 x5, Keeps T a x0.st →
      within [.dict, .health, .cores, .scratch] T = true →
      Keeps T a (Acc.passStep x0 x1 x2 x3 x4 x5).1.st := by
  intro x0 x1 x2 x3 x4 x5 h hw
  refine Keeps.trans ?_ hw h
  unfold Acc.passStep
  repeat' first
    | with_reducible
        first
        | exact Keeps.refl _ _ | apply Acc.endPass_keeps | apply Acc.feed_keeps
    | exact rfl | extract_lets | split | dsimp only
    | with_reducible
        first
        | refine Keeps.fstAcc (by assumption) ?_

theorem Acc.arrayPart_keeps {T a} :
    ∀ x0 x1 x2 x3, Keeps T a x0.st →
      within [.dict, .health, .cores, .scratch] T = true →
      Keeps T a (Acc.arrayPart x0 x1 x2 x3).1.st := by
  intro x0 x1 x2 x3 h hw
  refine Keeps.trans ?_ hw h
  unfold Acc.arrayPart
  repeat' first
    | with_reducible
        first
        | assumption | exact Keeps.refl _ _ | apply Acc.passStep_keeps | apply State.bumpH_keeps
        | apply Acc.map_keeps
    | exact rfl | intro _ | extract_lets | split

theorem Acc.params_keeps {T a} :
    ∀ x0 x1 x2 x3 x4 x5, Keeps T a x0.st →
      within [.dict, .health, .cores, .scratch] T = true →
      Keeps T a (Acc.params x0 x1 x2 x3 x4 x5).1.st := by
  intro x0 x1 x2 x3 x4 x5 h hw
  refine Keeps.trans ?_ hw h
  unfold Acc.params
  repeat' first
    | with_reducible
        first
        | exact Keeps.refl _ _ | apply Acc.read_keeps
    | exact rfl | extract_lets | split | dsimp only
    | with_reducible
        first
        | refine Keeps.fstAcc (by assumption) ?_

theorem Acc.claimHead_keeps {T a} :
    ∀ x0 x1 x2 x3 x4, Keeps T a x0.st →
      within [.dict, .health, .cores, .scratch] T = true →
      Keeps T a (Acc.claimHead x0 x1 x2 x3 x4).1.st := by
  intro x0 x1 x2 x3 x4 h hw
  refine Keeps.trans ?_ hw h
  unfold Acc.claimHead
  repeat' first
    | with_reducible
        first
        | assumption | exact Keeps.refl _ _ | apply Acc.params_keeps | apply State.setCore_keeps
        | apply Acc.map_keeps
    | exact rfl | intro _ | extract_lets | split | dsimp only
    | with_reducible
        first
        | refine Keeps.fstAcc (by assumption) ?_

theorem State.countStretched_keeps {T a} :
    ∀ x0 x1 x2, Keeps T a x0 →
      within [.dict] T = true →
      Keeps T a (State.countStretched x0 x1 x2) := by
  intro x0 x1 x2 h hw
  refine Keeps.trans ?_ hw h
  unfold State.countStretched
  repeat' first
    | with_reducible
        first
        | exact Keeps.refl _ _ | apply State.bumpH_keeps | refine Keeps.ite ?_ ?_
    | exact rfl

theorem State.setPart_keeps {T a} :
    ∀ x0 x1 x2, Keeps T a x0 →
      within [.parts] T = true →
      Keeps T a (State.setPart x0 x1 x2) := by
  intro x0 x1 x2 h hw
  refine Keeps.trans ?_ hw h
  unfold State.setPart
  repeat' first
    | with_reducible
        first
        | exact Keeps.refl _ _
    | fail_if_no_progress
      with_reducible
        refine Keeps.lit rfl rfl rfl rfl rfl rfl id ?_ ?_ ?_ ?_ ?_ ?_ ?_ ?_ ?_ ?_ ?_ ?_ ?_ ?_
          ?_ ?_ ?_ ?_ ?_ ?_ ?_ ?_ ?_ ?_ ?_ ?_ ?_ ?_ <;>
        try first | exact Or.inr rfl | exact Or.inl rfl

theorem State.raiseFault_keeps {T a} :
    ∀ x0 x1 x2, Keeps T a x0 →
      within [.parts] T = true →
      Keeps T a (State.raiseFault x0 x1 x2) := by
  intro x0 x1 x2 h hw
  refine Keeps.trans ?_ hw h
  unfold State.raiseFault
  repeat' first
    | with_reducible
        first
        | exact Keeps.refl _ _ | apply State.setPart_keeps | refine Keeps.ite ?_ ?_
    | exact rfl

theorem State.report_keeps {T a} :
    ∀ x0 x1, Keeps T a x0 →
      within [.log] T = true →
      Keeps T a (State.report x0 x1) := by
  intro x0 x1 h hw
  refine Keeps.trans ?_ hw h
  unfold State.report
  repeat' first
    | with_reducible
        first
        | exact Keeps.refl _ _
    | dsimp only
    | fail_if_no_progress
      with_reducible
        refine Keeps.lit rfl rfl rfl rfl rfl rfl id ?_ ?_ ?_ ?_ ?_ ?_ ?_ ?_ ?_ ?_ ?_ ?_ ?_ ?_
          ?_ ?_ ?_ ?_ ?_ ?_ ?_ ?_ ?_ ?_ ?_ ?_ ?_ ?_ <;>
        try first | exact Or.inr rfl | exact Or.inl rfl

theorem State.jobFault_keeps {T a} :
    ∀ x0 x1 x2 x3 x4, Keeps T a x0 →
      within [.log, .parts] T = true →
      Keeps T a (State.jobFault x0 x1 x2 x3 x4) := by
  intro x0 x1 x2 x3 x4 h hw
  refine Keeps.trans ?_ hw h
  unfold State.jobFault
  repeat' first
    | with_reducible
        first
        | exact Keeps.refl _ _ | apply State.raiseFault_keeps | apply State.report_keeps
    | exact rfl

theorem State.opFault_keeps {T a} :
    ∀ x0 x1 x2 x3 x4, Keeps T a x0 →
      within [.log, .parts] T = true →
      Keeps T a (State.opFault x0 x1 x2 x3 x4) := by
  intro x0 x1 x2 x3 x4 h hw
  refine Keeps.trans ?_ hw h
  unfold State.opFault
  repeat' first
    | with_reducible
        first
        | exact Keeps.refl _ _ | apply State.jobFault_keeps
    | exact rfl

theorem Acc.close_keeps {T a} :
    ∀ x0 x1 x2 x3 x4 x5, Keeps T a x0.st →
      within [.dict, .log, .cores, .parts] T = true →
      Keeps T a (Acc.close x0 x1 x2 x3 x4 x5) := by
  intro x0 x1 x2 x3 x4 x5 h hw
  refine Keeps.trans ?_ hw h
  unfold Acc.close
  repeat' first
    | with_reducible
        first
        | exact Keeps.refl _ _ | apply State.countStretched_keeps | apply State.opFault_keeps
        | apply State.setCore_keeps
    | exact rfl | extract_lets | split

theorem Acc.readRow_keeps {T a} :
    ∀ x0 x1 x2 x3 x4 x5 x6, Keeps T a x0.st →
      within [.dict, .health, .cores, .scratch] T = true →
      Keeps T a (Acc.readRow x0 x1 x2 x3 x4 x5 x6).1.st := by
  intro x0 x1 x2 x3 x4 x5 x6 h hw
  refine Keeps.trans ?_ hw h
  unfold Acc.readRow
  repeat' first
    | with_reducible
        first
        | exact Keeps.refl _ _ | apply Acc.read_keeps
    | exact rfl | extract_lets | split | dsimp only
    | with_reducible
        first
        | refine Keeps.fstAcc (by assumption) ?_

theorem writeWord_keeps {T a} :
    ∀ x0 x1 x2 x3 x4 x5 x6, Keeps T a x0 →
      within [.dict, .health, .cores, .scratch] T = true →
      Keeps T a (writeWord x0 x1 x2 x3 x4 x5 x6).1 := by
  intro x0 x1 x2 x3 x4 x5 x6 h hw
  refine Keeps.trans ?_ hw h
  unfold writeWord
  repeat' first
    | with_reducible
        first
        | exact Keeps.refl _ _ | apply State.bumpH_keeps | apply State.countCorrected_keeps
        | apply State.poisonWord_keeps | apply State.setWord_keeps | apply State.wakeBank_keeps
        | refine Keeps.iteFst ?_ ?_
    | exact rfl | extract_lets | split

theorem writeWords_keeps {T a} :
    ∀ x0 x1 x2 x3 x4 x5 x6 x7, Keeps T a x0 →
      within [.dict, .health, .cores, .scratch] T = true →
      Keeps T a (writeWords x0 x1 x2 x3 x4 x5 x6 x7).1 := by
  intro x0 x1 x2 x3 x4 x5 x6 x7
  induction x7 generalizing x0 x3 x4 x5 x6 with
  | zero => exact fun h _ => h
  | succ n ih =>
    intro h hw
    simp only [writeWords]
    split
    · exact writeWord_keeps _ _ _ _ _ _ _ h hw
    · exact ih _ _ _ _ _ (writeWord_keeps _ _ _ _ _ _ _ h hw) hw

theorem writeBuf_keeps {T a} :
    ∀ x0 x1 x2 x3 x4 x5 x6, Keeps T a x0 →
      within [.dict, .health, .cores, .scratch] T = true →
      Keeps T a (writeBuf x0 x1 x2 x3 x4 x5 x6).1 := by
  intro x0 x1 x2 x3 x4 x5 x6 h hw
  refine Keeps.trans ?_ hw h
  unfold writeBuf
  repeat' first
    | with_reducible
        first
        | exact Keeps.refl _ _ | apply State.bumpH_keeps | apply writeWords_keeps | refine Keeps.ite ?_ ?_
        | refine Keeps.iteFst ?_ ?_
    | exact rfl | extract_lets | split

theorem Acc.flushSheet_keeps {T a} :
    ∀ x0 x1 x2 x3 x4 x5 x6, Keeps T a x0.st →
      within [.dict, .health, .cores, .scratch] T = true →
      Keeps T a (Acc.flushSheet x0 x1 x2 x3 x4 x5 x6).st := by
  intro x0 x1 x2 x3 x4 x5 x6 h hw
  refine Keeps.trans ?_ hw h
  unfold Acc.flushSheet
  repeat' first
    | with_reducible
        first
        | assumption | exact Keeps.refl _ _ | apply State.bumpH_keeps | apply writeBuf_keeps | apply Acc.map_keeps
        | apply Acc.andThen_keeps
    | exact rfl | intro _ | extract_lets | split

theorem Acc.putSheet_keeps {T a} :
    ∀ x0 x1 x2 x3 x4 x5, Keeps T a x0.st →
      within [.dict, .health, .cores, .scratch] T = true →
      Keeps T a (Acc.putSheet x0 x1 x2 x3 x4 x5).st := by
  intro x0 x1 x2 x3 x4 x5 h hw
  refine Keeps.trans ?_ hw h
  unfold Acc.putSheet
  repeat' first
    | with_reducible
        first
        | assumption | exact Keeps.refl _ _ | apply Acc.flushSheet_keeps | apply State.setCore_keeps
        | apply Acc.map_keeps | apply Acc.each_keeps | refine Keeps.iteAcc ?_ ?_
    | exact rfl | intro _

theorem State.setBinding_keeps {T a} :
    ∀ x0 x1 x2, Keeps T a x0 →
      within [.parts] T = true →
      Keeps T a (State.setBinding x0 x1 x2) := by
  intro x0 x1 x2 h hw
  refine Keeps.trans ?_ hw h
  unfold State.setBinding
  repeat' first
    | with_reducible
        first
        | exact Keeps.refl _ _ | apply State.setPart_keeps
    | exact rfl

theorem State.stat_keeps {T a} :
    ∀ x0 x1 x2 x3, Keeps T a x0 →
      within [.parts] T = true →
      Keeps T a (State.stat x0 x1 x2 x3) := by
  intro x0 x1 x2 x3 h hw
  refine Keeps.trans ?_ hw h
  unfold State.stat
  repeat' first
    | with_reducible
        first
        | exact Keeps.refl _ _ | apply State.setBinding_keeps
    | exact rfl

theorem State.wroteNonzero_keeps {T a} :
    ∀ x0 x1 x2 x3, Keeps T a x0 →
      within [.parts] T = true →
      Keeps T a (State.wroteNonzero x0 x1 x2 x3) := by
  intro x0 x1 x2 x3 h hw
  refine Keeps.trans ?_ hw h
  unfold State.wroteNonzero
  repeat' first
    | with_reducible
        first
        | exact Keeps.refl _ _ | apply State.stat_keeps
    | exact rfl

theorem writeRuns_keeps {T a} :
    ∀ x0 x1 x2 x3 x4, Keeps T a x0 →
      within [.dict, .health, .cores, .scratch] T = true →
      Keeps T a (writeRuns x0 x1 x2 x3 x4).1 := by
  intro x0 x1 x2 x3 x4
  induction x4 generalizing x0 with
  | nil => exact fun h _ => h
  | cons e l ih =>
    intro h hw
    have hk := writeBuf_keeps x0 x1 x2 x3 e.1 e.2.1 e.2.2 h hw
    simp only [writeRuns]
    split
    · exact Keeps.fst (by assumption) hk
    · exact ih _ (Keeps.fst (by assumption) hk) hw

theorem Acc.putRow_keeps {T a} :
    ∀ x0 x1 x2 x3 x4 x5 x6 x7, Keeps T a x0.st →
      within [.dict, .health, .cores, .scratch, .parts] T = true →
      Keeps T a (Acc.putRow x0 x1 x2 x3 x4 x5 x6 x7).st := by
  intro x0 x1 x2 x3 x4 x5 x6 x7 h hw
  refine Keeps.trans ?_ hw h
  unfold Acc.putRow
  repeat' first
    | with_reducible
        first
        | assumption | exact Keeps.refl _ _ | apply Acc.putSheet_keeps | apply State.wroteNonzero_keeps
        | apply writeRuns_keeps | apply Acc.map_keeps | apply Acc.andThen_keeps | refine Keeps.iteAcc ?_ ?_
    | exact rfl | intro _ | extract_lets | split

theorem State.countConv_keeps {T a} :
    ∀ x0 x1 x2, Keeps T a x0 →
      within [.dict] T = true →
      Keeps T a (State.countConv x0 x1 x2) := by
  intro x0 x1 x2 h hw
  refine Keeps.trans ?_ hw h
  unfold State.countConv
  repeat' first
    | with_reducible
        first
        | exact Keeps.refl _ _ | apply State.bumpH_keeps
    | exact rfl

theorem Acc.writeConverted_keeps {T a} :
    ∀ x0 x1 x2 x3 x4 x5 x6 x7, Keeps T a x0.st →
      within [.dict, .health, .cores, .scratch, .parts] T = true →
      Keeps T a (Acc.writeConverted x0 x1 x2 x3 x4 x5 x6 x7).st := by
  intro x0 x1 x2 x3 x4 x5 x6 x7 h hw
  refine Keeps.trans ?_ hw h
  unfold Acc.writeConverted
  repeat' first
    | with_reducible
        first
        | assumption | exact Keeps.refl _ _ | apply Acc.putRow_keeps | apply State.countConv_keeps
        | apply State.stat_keeps | apply Acc.map_keeps
    | exact rfl | intro _

theorem Acc.convertTile_keeps {T a} :
    ∀ x0 x1 x2 x3 x4 x5, Keeps T a x0.st →
      within [.dict, .health, .cores, .scratch, .parts] T = true →
      Keeps T a (Acc.convertTile x0 x1 x2 x3 x4 x5).st := by
  intro x0 x1 x2 x3 x4 x5 h hw
  refine Keeps.trans ?_ hw h
  unfold Acc.convertTile
  repeat' first
    | with_reducible
        first
        | exact Keeps.refl _ _ | apply Acc.readRow_keeps | apply Acc.writeConverted_keeps
    | exact rfl

theorem Acc.copyOut_keeps {T a} :
    ∀ x0 x1 x2 x3, Keeps T a x0.st →
      within [.dict, .health, .cores, .scratch] T = true →
      Keeps T a (Acc.copyOut x0 x1 x2 x3).st := by
  intro x0 x1 x2 x3 h hw
  refine Keeps.trans ?_ hw h
  unfold Acc.copyOut
  repeat' first
    | with_reducible
        first
        | assumption | exact Keeps.refl _ _ | apply writeRuns_keeps | apply Acc.andThen_keeps
        | apply Acc.eachStep_keeps
    | exact rfl | intro _

theorem Acc.putBelow_keeps {T a} :
    ∀ x0 x1 x2 x3 x4 x5 x6, Keeps T a x0.st →
      within [.dict, .health, .cores, .scratch, .parts] T = true →
      Keeps T a (Acc.putBelow x0 x1 x2 x3 x4 x5 x6).st := by
  intro x0 x1 x2 x3 x4 x5 x6 h hw
  refine Keeps.trans ?_ hw h
  unfold Acc.putBelow
  repeat' first
    | with_reducible
        first
        | assumption | exact Keeps.refl _ _ | apply State.wroteNonzero_keeps | apply writeRuns_keeps
        | apply Acc.map_keeps | apply Acc.andThen_keeps
    | exact rfl | intro _ | extract_lets | split

theorem Acc.glazeRow_keeps {T a} :
    ∀ x0 x1 x2 x3 x4 x5 x6, Keeps T a x0.st →
      within [.dict, .health, .cores, .scratch, .parts] T = true →
      Keeps T a (Acc.glazeRow x0 x1 x2 x3 x4 x5 x6).st := by
  intro x0 x1 x2 x3 x4 x5 x6 h hw
  refine Keeps.trans ?_ hw h
  unfold Acc.glazeRow
  repeat' first
    | with_reducible
        first
        | assumption | exact Keeps.refl _ _ | apply Acc.putBelow_keeps | apply Acc.putRow_keeps
        | apply State.bumpH_keeps | apply State.countConv_keeps | apply State.setCore_keeps | apply State.stat_keeps
        | apply Acc.map_keeps | refine Keeps.ite ?_ ?_ | refine Keeps.iteAcc ?_ ?_
    | exact rfl | intro _

theorem Acc.putSift_keeps {T a} :
    ∀ x0 x1 x2 x3 x4 x5, Keeps T a x0.st →
      within [.dict, .health, .cores, .scratch, .parts] T = true →
      Keeps T a (Acc.putSift x0 x1 x2 x3 x4 x5).st := by
  intro x0 x1 x2 x3 x4 x5 h hw
  refine Keeps.trans ?_ hw h
  unfold Acc.putSift
  repeat' first
    | with_reducible
        first
        | assumption | exact Keeps.refl _ _ | apply State.wroteNonzero_keeps | apply writeRuns_keeps
        | apply Acc.map_keeps | apply Acc.andThen_keeps
    | exact rfl | intro _ | extract_lets | split

theorem State.setFolds_keeps {T a} :
    ∀ x0 x1 x2, Keeps T a x0 →
      within [.folds] T = true →
      Keeps T a (State.setFolds x0 x1 x2) := by
  intro x0 x1 x2 h hw
  refine Keeps.trans ?_ hw h
  unfold State.setFolds
  repeat' first
    | with_reducible
        first
        | exact Keeps.refl _ _
    | fail_if_no_progress
      with_reducible
        refine Keeps.lit rfl rfl rfl rfl rfl rfl id ?_ ?_ ?_ ?_ ?_ ?_ ?_ ?_ ?_ ?_ ?_ ?_ ?_ ?_
          ?_ ?_ ?_ ?_ ?_ ?_ ?_ ?_ ?_ ?_ ?_ ?_ ?_ ?_ <;>
        try first | exact Or.inr rfl | exact Or.inl rfl

theorem State.withFold_keeps {T a} :
    ∀ x0 x1 x2 x3 x4 x5 x6 x7, Keeps T a x0 →
      within [.folds] T = true →
      Keeps T a (State.withFold x0 x1 x2 x3 x4 x5 x6 x7) := by
  intro x0 x1 x2 x3 x4 x5 x6 x7 h hw
  refine Keeps.trans ?_ hw h
  unfold State.withFold
  repeat' first
    | with_reducible
        first
        | exact Keeps.refl _ _ | apply State.setFolds_keeps | refine Keeps.ite ?_ ?_
    | exact rfl

theorem State.sendCands_keeps {T a} :
    ∀ x0 x1 x2 x3 x4 x5 x6 x7, Keeps T a x0 →
      within [.folds] T = true →
      Keeps T a (State.sendCands x0 x1 x2 x3 x4 x5 x6 x7) := by
  intro x0 x1 x2 x3 x4 x5 x6 x7 h hw
  refine Keeps.trans ?_ hw h
  unfold State.sendCands
  repeat' first
    | with_reducible
        first
        | exact Keeps.refl _ _ | apply State.withFold_keeps
    | exact rfl

theorem Acc.siftDone_keeps {T a} :
    ∀ x0 x1 x2 x3 x4, Keeps T a x0.st →
      within [.dict, .health, .cores, .scratch, .folds, .parts] T = true →
      Keeps T a (Acc.siftDone x0 x1 x2 x3 x4).st := by
  intro x0 x1 x2 x3 x4 h hw
  refine Keeps.trans ?_ hw h
  unfold Acc.siftDone
  repeat' first
    | with_reducible
        first
        | assumption | exact Keeps.refl _ _ | apply Acc.putSift_keeps | apply State.bumpH_keeps
        | apply State.sendCands_keeps | apply State.setCore_keeps | apply Acc.map_keeps | apply Acc.each_keeps
        | refine Keeps.iteAcc ?_ ?_
    | exact rfl | intro _ | extract_lets | split

theorem Acc.dropPair_keeps {T a} :
    ∀ x0 x1 x2 x3 x4 x5, Keeps T a x0.st →
      within [.dict, .health, .cores, .scratch, .folds, .parts] T = true →
      Keeps T a (Acc.dropPair x0 x1 x2 x3 x4 x5).st := by
  intro x0 x1 x2 x3 x4 x5 h hw
  refine Keeps.trans ?_ hw h
  unfold Acc.dropPair
  repeat' first
    | with_reducible
        first
        | assumption | exact Keeps.refl _ _ | apply Acc.glazeRow_keeps | apply Acc.siftDone_keeps
        | apply Acc.each_keeps | refine Keeps.iteAcc ?_ ?_
    | exact rfl | intro _

theorem Acc.emptySheets_keeps {T a} :
    ∀ x0 x1 x2 x3 x4, Keeps T a x0.st →
      within [.dict, .health, .cores, .scratch] T = true →
      Keeps T a (Acc.emptySheets x0 x1 x2 x3 x4).st := by
  intro x0 x1 x2 x3 x4 h hw
  refine Keeps.trans ?_ hw h
  unfold Acc.emptySheets
  repeat' first
    | with_reducible
        first
        | assumption | exact Keeps.refl _ _ | apply Acc.flushSheet_keeps | apply Acc.each_keeps
        | refine Keeps.iteAcc ?_ ?_
    | exact rfl | intro _

theorem State.issued_keeps {T a} :
    ∀ x0 x1 x2, Keeps T a x0 →
      within [.cores] T = true →
      Keeps T a (State.issued x0 x1 x2) := by
  intro x0 x1 x2 h hw
  refine Keeps.trans ?_ hw h
  unfold State.issued
  repeat' first
    | with_reducible
        first
        | exact Keeps.refl _ _ | apply State.setCore_keeps
    | exact rfl

theorem Acc.finish_keeps {T a} :
    ∀ x0 x1 x2 x3, Keeps T a x0.st →
      within [.dict, .log, .cores, .parts] T = true →
      Keeps T a (Acc.finish x0 x1 x2 x3) := by
  intro x0 x1 x2 x3 h hw
  refine Keeps.trans ?_ hw h
  unfold Acc.finish
  repeat' first
    | with_reducible
        first
        | exact Keeps.refl _ _ | apply State.countStretched_keeps | apply State.issued_keeps
        | apply State.opFault_keeps
    | exact rfl | extract_lets | split

theorem Acc.ghostFill_keeps {T a} :
    ∀ x0 x1 x2 x3 x4 x5, Keeps T a x0.st →
      within [.dict, .health, .cores, .scratch] T = true →
      Keeps T a (Acc.ghostFill x0 x1 x2 x3 x4 x5).st := by
  intro x0 x1 x2 x3 x4 x5 h hw
  refine Keeps.trans ?_ hw h
  unfold Acc.ghostFill
  repeat' first
    | with_reducible
        first
        | assumption | exact Keeps.refl _ _ | apply Acc.read_keeps | apply writeBuf_keeps | apply Acc.andThen_keeps
    | exact rfl | intro _ | extract_lets | split

theorem Acc.table_keeps {T a} :
    ∀ x0 x1 x2 x3, Keeps T a x0.st →
      within [.dict, .health, .cores, .scratch] T = true →
      Keeps T a (Acc.table x0 x1 x2 x3).1.st := by
  intro x0 x1 x2 x3 h hw
  refine Keeps.trans ?_ hw h
  unfold Acc.table
  repeat' first
    | with_reducible
        first
        | exact Keeps.refl _ _ | apply Acc.read_keeps
    | exact rfl | extract_lets | split

theorem State.countDrained_keeps {T a} :
    ∀ x0 x1 x2 x3 x4, Keeps T a x0 →
      within [.dict, .parts] T = true →
      Keeps T a (State.countDrained x0 x1 x2 x3 x4) := by
  intro x0 x1 x2 x3 x4 h hw
  refine Keeps.trans ?_ hw h
  unfold State.countDrained
  repeat' first
    | with_reducible
        first
        | exact Keeps.refl _ _ | apply State.bumpH_keeps | apply State.stat_keeps
    | exact rfl

theorem State.freeSlot_keeps {T a} :
    ∀ x0 x1 x2, Keeps T a x0 →
      within [.cores] T = true →
      Keeps T a (State.freeSlot x0 x1 x2) := by
  intro x0 x1 x2 h hw
  refine Keeps.trans ?_ hw h
  unfold State.freeSlot
  repeat' first
    | with_reducible
        first
        | exact Keeps.refl _ _ | apply State.setCore_keeps
    | exact rfl

theorem Acc.glazeSlot_keeps {T a} :
    ∀ x0 x1 x2 x3 x4, Keeps T a x0.st →
      within [.dict, .health, .cores, .scratch, .folds, .parts] T = true →
      Keeps T a (Acc.glazeSlot x0 x1 x2 x3 x4).st := by
  intro x0 x1 x2 x3 x4 h hw
  refine Keeps.trans ?_ hw h
  unfold Acc.glazeSlot
  repeat' first
    | with_reducible
        first
        | assumption | exact Keeps.refl _ _ | apply Acc.glazeRow_keeps | apply Acc.params_keeps
        | apply Acc.siftDone_keeps | apply Acc.table_keeps | apply State.countDrained_keeps
        | apply State.freeSlot_keeps | apply Acc.map_keeps | apply Acc.each_keeps | apply Acc.eachStep_keeps
        | refine Keeps.iteAcc ?_ ?_
    | exact rfl | intro _

theorem Acc.loadStep_keeps {T a} :
    ∀ x0 x1 x2 x3, Keeps T a x0.st →
      within [.dict, .health, .cores, .scratch] T = true →
      Keeps T a (Acc.loadStep x0 x1 x2 x3).1.st := by
  intro x0 x1 x2 x3 h hw
  refine Keeps.trans ?_ hw h
  unfold Acc.loadStep
  repeat' first
    | with_reducible
        first
        | assumption | exact Keeps.refl _ _ | apply Acc.conflict_keeps | apply Acc.read_keeps
        | apply State.bumpH_keeps | apply Acc.map_keeps | refine foldl_keeps_accFst (fun _ _ _ => ?_) ?_
    | exact rfl | intro _ | extract_lets | split | dsimp only
    | with_reducible
        first
        | refine Keeps.fstAcc (by assumption) ?_

theorem Acc.poolTile_keeps {T a} :
    ∀ x0 x1 x2 x3 x4 x5, Keeps T a x0.st →
      within [.dict, .health, .cores, .scratch, .parts] T = true →
      Keeps T a (Acc.poolTile x0 x1 x2 x3 x4 x5).st := by
  intro x0 x1 x2 x3 x4 x5 h hw
  refine Keeps.trans ?_ hw h
  unfold Acc.poolTile
  repeat' first
    | with_reducible
        first
        | assumption | exact Keeps.refl _ _ | apply Acc.readRow_keeps | apply Acc.writeConverted_keeps
        | apply State.countConv_keeps | apply Acc.map_keeps | refine foldl_keeps_accFst (fun _ _ _ => ?_) ?_
    | exact rfl | intro _ | extract_lets | split | dsimp only
    | with_reducible
        first
        | refine Keeps.fstAcc (by assumption) ?_

theorem State.sendPairs_keeps {T a} :
    ∀ x0 x1 x2 x3 x4 x5 x6 x7 x8, Keeps T a x0 →
      within [.folds] T = true →
      Keeps T a (State.sendPairs x0 x1 x2 x3 x4 x5 x6 x7 x8) := by
  intro x0 x1 x2 x3 x4 x5 x6 x7 x8 h hw
  refine Keeps.trans ?_ hw h
  unfold State.sendPairs
  repeat' first
    | with_reducible
        first
        | exact Keeps.refl _ _ | apply State.withFold_keeps
    | exact rfl

theorem Acc.sendScatter_keeps {T a} :
    ∀ x0 x1 x2 x3 x4, Keeps T a x0.st →
      within [.dict, .health, .cores, .scratch, .folds] T = true →
      Keeps T a (Acc.sendScatter x0 x1 x2 x3 x4).st := by
  intro x0 x1 x2 x3 x4 h hw
  refine Keeps.trans ?_ hw h
  unfold Acc.sendScatter
  repeat' first
    | with_reducible
        first
        | assumption | exact Keeps.refl _ _ | apply Acc.read_keeps | apply State.bumpH_keeps
        | apply State.sendPairs_keeps | apply Acc.map_keeps | apply Acc.each_keeps | apply Acc.eachStep_keeps
        | refine Keeps.iteAcc ?_ ?_
    | exact rfl | intro _ | extract_lets | split

theorem State.sendKsplit_keeps {T a} :
    ∀ x0 x1 x2 x3, Keeps T a x0 →
      within [.folds] T = true →
      Keeps T a (State.sendKsplit x0 x1 x2 x3) := by
  intro x0 x1 x2 x3 h hw
  refine Keeps.trans ?_ hw h
  unfold State.sendKsplit
  repeat' first
    | with_reducible
        first
        | exact Keeps.refl _ _ | apply State.sendPairs_keeps
    | exact rfl | extract_lets | split

theorem State.finishSlot_keeps {T a} :
    ∀ x0 x1 x2 x3, Keeps T a x0 →
      within [.cores, .folds] T = true →
      Keeps T a (State.finishSlot x0 x1 x2 x3) := by
  intro x0 x1 x2 x3 h hw
  refine Keeps.trans ?_ hw h
  unfold State.finishSlot
  repeat' first
    | with_reducible
        first
        | exact Keeps.refl _ _ | apply State.sendKsplit_keeps | apply State.setCore_keeps | refine Keeps.ite ?_ ?_
    | exact rfl

theorem Acc.settle_keeps {T a} :
    ∀ x0 x1 x2 x3 x4, Keeps T a x0.st →
      within [.dict, .health, .cores, .scratch, .folds, .parts] T = true →
      Keeps T a (Acc.settle x0 x1 x2 x3 x4).1.st := by
  intro x0 x1 x2 x3 x4 h hw
  refine Keeps.trans ?_ hw h
  clear h hw
  induction x3 generalizing x0 x4 with
  | zero => exact Keeps.refl _ _
  | succ n ih =>
    simp only [Acc.settle]
    split
    · exact Keeps.refl _ _
    · split
      · refine Keeps.trans (ih _ _) rfl ?_
        refine Acc.dropPair_keeps _ _ _ _ _ _ ((Acc.map_keeps (Keeps.refl _ _) fun u hu => ?_)) rfl
        exact State.setCore_keeps _ _ _ hu rfl
      · split
        · exact Keeps.refl _ _
        · split
          · exact Keeps.refl _ _
          · split
            · refine Keeps.trans (ih _ _) rfl (Acc.map_keeps (Acc.claimHead_keeps _ _ _ _ _ ((Keeps.refl _ _)) rfl) fun u hu => ?_)
              exact State.finishSlot_keeps _ _ _ _ (State.setCore_keeps _ _ _ hu rfl) rfl
            · exact Acc.claimHead_keeps _ _ _ _ _ ((Keeps.refl _ _)) rfl

theorem Acc.tickTails_keeps {T a} :
    ∀ x0 x1 x2 x3, Keeps T a x0.st →
      within [.dict, .cores, .folds, .parts] T = true →
      Keeps T a (Acc.tickTails x0 x1 x2 x3).1.st := by
  intro x0 x1 x2 x3 h hw
  refine Keeps.trans ?_ hw h
  unfold Acc.tickTails
  repeat' first
    | with_reducible
        first
        | assumption | exact Keeps.refl _ _ | apply State.bumpH_keeps | apply State.finishSlot_keeps
        | apply State.freeSlot_keeps | apply State.setCore_keeps | apply State.stat_keeps | apply Acc.map_keeps
        | apply Acc.each_keeps | refine Keeps.ite ?_ ?_
    | exact rfl | intro _ | extract_lets | split

theorem Mv.fail_keeps {T a} :
    ∀ x0 x1 x2, Keeps T a x0.st →
      within [] T = true →
      Keeps T a (Mv.fail x0 x1 x2).st := by
  intro x0 x1 x2 h hw
  refine Keeps.trans ?_ hw h
  unfold Mv.fail
  repeat' first
    | with_reducible
        first
        | exact Keeps.refl _ _

theorem State.setLarder_keeps {T a} :
    ∀ x0 x1 x2, Keeps T a x0 →
      within [.larders] T = true →
      Keeps T a (State.setLarder x0 x1 x2) := by
  intro x0 x1 x2 h hw
  refine Keeps.trans ?_ hw h
  unfold State.setLarder
  repeat' first
    | with_reducible
        first
        | exact Keeps.refl _ _
    | fail_if_no_progress
      with_reducible
        refine Keeps.lit rfl rfl rfl rfl rfl rfl id ?_ ?_ ?_ ?_ ?_ ?_ ?_ ?_ ?_ ?_ ?_ ?_ ?_ ?_
          ?_ ?_ ?_ ?_ ?_ ?_ ?_ ?_ ?_ ?_ ?_ ?_ ?_ ?_ <;>
        try first | exact Or.inr rfl | exact Or.inl rfl

theorem State.bumpLarder_keeps {T a} :
    ∀ x0 x1 x2 x3, Keeps T a x0 →
      within [.dict] T = true →
      Keeps T a (State.bumpLarder x0 x1 x2 x3) := by
  intro x0 x1 x2 x3 h hw
  refine Keeps.trans ?_ hw h
  unfold State.bumpLarder
  repeat' first
    | with_reducible
        first
        | exact Keeps.refl _ _ | apply State.bumpH_keeps
    | exact rfl

theorem State.setEcc_keeps {T a} :
    ∀ x0 x1 x2, Keeps T a x0 →
      within [.hbmEcc] T = true →
      Keeps T a (State.setEcc x0 x1 x2) := by
  intro x0 x1 x2 h hw
  refine Keeps.trans ?_ hw h
  unfold State.setEcc
  repeat' first
    | with_reducible
        first
        | exact Keeps.refl _ _
    | fail_if_no_progress
      with_reducible
        refine Keeps.lit rfl rfl rfl rfl rfl rfl id ?_ ?_ ?_ ?_ ?_ ?_ ?_ ?_ ?_ ?_ ?_ ?_ ?_ ?_
          ?_ ?_ ?_ ?_ ?_ ?_ ?_ ?_ ?_ ?_ ?_ ?_ ?_ ?_ <;>
        try first | exact Or.inr rfl | exact Or.inl rfl

theorem State.hbmPutLine_keeps {T a} :
    ∀ x0 x1 x2 x3, Keeps T a x0 →
      within [.hbm, .hbmPoison, .hbmEcc] T = true →
      Keeps T a (State.hbmPutLine x0 x1 x2 x3) := by
  intro x0 x1 x2 x3 h hw
  refine Keeps.trans ?_ hw h
  unfold State.hbmPutLine
  extract_lets words bad
  refine foldl_keeps (fun _ _ hu => State.setEcc_keeps _ _ _ hu rfl) ?_
  refine Keeps.lit rfl rfl rfl rfl rfl rfl (fun m => ⟨memWriteBytes_wf _ _ _ m.1, m.2⟩) (Keeps.refl _ _) ?_ ?_ ?_ ?_ ?_ ?_ ?_ ?_ ?_ ?_
      ?_ ?_ ?_ ?_ ?_ ?_ ?_ ?_ ?_ ?_ ?_ ?_ ?_ ?_ ?_ ?_ ?_ <;>
    first | exact Or.inr rfl | exact Or.inl rfl

theorem State.mend_keeps {T a} :
    ∀ x0 x1 x2 x3 x4 x5, Keeps T a x0 →
      within [.dict] T = true →
      Keeps T a (State.mend x0 x1 x2 x3 x4 x5).st := by
  intro x0 x1 x2 x3 x4 x5 h hw
  refine Keeps.trans ?_ hw h
  unfold State.mend
  repeat' first
    | with_reducible
        first
        | exact Keeps.refl _ _ | apply State.bumpLarder_keeps | refine Keeps.ite ?_ ?_
    | exact rfl

theorem State.writeBack_keeps {T a} :
    ∀ x0 x1 x2, Keeps T a x0 →
      within [.dict, .hbm, .hbmPoison, .hbmEcc] T = true →
      Keeps T a (State.writeBack x0 x1 x2) := by
  intro x0 x1 x2 h hw
  refine Keeps.trans ?_ hw h
  unfold State.writeBack
  repeat' first
    | with_reducible
        first
        | exact Keeps.refl _ _ | apply State.bumpLarder_keeps | apply State.hbmPutLine_keeps
        | apply State.mend_keeps | refine Keeps.ite ?_ ?_
    | exact rfl

theorem State.allocLine_keeps {T a} :
    ∀ x0 x1 x2 x3 x4 x5, Keeps T a x0 →
      within [.dict, .hbm, .hbmPoison, .hbmEcc, .larders] T = true →
      Keeps T a (State.allocLine x0 x1 x2 x3 x4 x5) := by
  intro x0 x1 x2 x3 x4 x5 h hw
  refine Keeps.trans ?_ hw h
  unfold State.allocLine
  repeat' first
    | with_reducible
        first
        | exact Keeps.refl _ _ | apply State.setLarder_keeps | apply State.writeBack_keeps
    | exact rfl | extract_lets | split

theorem State.readHbm_keeps {T a} :
    ∀ x0 x1 x2, Keeps T a x0 →
      within [.dict, .hbm, .hbmPoison, .hbmEcc] T = true →
      Keeps T a (State.readHbm x0 x1 x2).st := by
  intro x0 x1 x2 h hw
  refine Keeps.trans ?_ hw h
  unfold State.readHbm
  repeat' first
    | with_reducible
        first
        | exact Keeps.refl _ _ | apply State.bumpLarder_keeps | apply State.hbmPutLine_keeps
        | apply State.mend_keeps | refine Keeps.ite ?_ ?_
    | exact rfl | extract_lets | split

theorem State.bringLine_keeps {T a} :
    ∀ x0 x1 x2 x3, Keeps T a x0 →
      within [.dict, .hbm, .hbmPoison, .hbmEcc, .larders] T = true →
      Keeps T a (State.bringLine x0 x1 x2 x3).1 := by
  intro x0 x1 x2 x3 h hw
  refine Keeps.trans ?_ hw h
  unfold State.bringLine
  repeat' first
    | with_reducible
        first
        | exact Keeps.refl _ _ | apply State.allocLine_keeps | apply State.bumpLarder_keeps | apply State.mend_keeps
        | apply State.readHbm_keeps | apply State.setLarder_keeps | refine Keeps.ite ?_ ?_
        | refine Keeps.iteFst ?_ ?_
    | exact rfl | extract_lets | split

theorem State.answer_keeps {T a} :
    ∀ x0 x1 x2 x3 x4, Keeps T a x0 →
      within [.larders] T = true →
      Keeps T a (State.answer x0 x1 x2 x3 x4) := by
  intro x0 x1 x2 x3 x4 h hw
  refine Keeps.trans ?_ hw h
  unfold State.answer
  repeat' first
    | with_reducible
        first
        | exact Keeps.refl _ _ | apply State.setLarder_keeps
    | exact rfl

theorem State.putLine_keeps {T a} :
    ∀ x0 x1 x2 x3 x4, Keeps T a x0 →
      within [.dict, .hbm, .hbmPoison, .hbmEcc, .larders] T = true →
      Keeps T a (State.putLine x0 x1 x2 x3 x4) := by
  intro x0 x1 x2 x3 x4 h hw
  refine Keeps.trans ?_ hw h
  unfold State.putLine
  repeat' first
    | with_reducible
        first
        | exact Keeps.refl _ _ | apply State.allocLine_keeps | apply State.bringLine_keeps
        | apply State.setLarder_keeps | refine Keeps.ite ?_ ?_
    | exact rfl

theorem State.putCopy_keeps {T a} :
    ∀ x0 x1 x2 x3 x4, Keeps T a x0 →
      within [.dict, .hbm, .hbmPoison, .hbmEcc, .larders] T = true →
      Keeps T a (State.putCopy x0 x1 x2 x3 x4) := by
  intro x0 x1 x2 x3 x4 h hw
  refine Keeps.trans ?_ hw h
  unfold State.putCopy
  repeat' first
    | with_reducible
        first
        | exact Keeps.refl _ _ | apply State.putLine_keeps | refine Keeps.ite ?_ ?_
    | exact rfl

theorem State.refuseReq_keeps {T a} :
    ∀ x0 x1 x2 x3 x4, Keeps T a x0 →
      within [.log, .larders] T = true →
      Keeps T a (State.refuseReq x0 x1 x2 x3 x4) := by
  intro x0 x1 x2 x3 x4 h hw
  refine Keeps.trans ?_ hw h
  unfold State.refuseReq
  repeat' first
    | with_reducible
        first
        | exact Keeps.refl _ _ | apply State.answer_keeps | apply State.report_keeps
    | exact rfl

theorem State.serve_keeps {T a} :
    ∀ x0 x1 x2 x3, Keeps T a x0 →
      within [.dict, .log, .hbm, .hbmPoison, .hbmEcc, .larders] T = true →
      Keeps T a (State.serve x0 x1 x2 x3) := by
  intro x0 x1 x2 x3 h hw
  refine Keeps.trans ?_ hw h
  unfold State.serve
  repeat' first
    | with_reducible
        first
        | exact Keeps.refl _ _ | apply State.answer_keeps | apply State.putCopy_keeps | apply State.refuseReq_keeps
        | apply State.setLarder_keeps
    | exact rfl | extract_lets | split

theorem State.completeMiss_keeps {T a} :
    ∀ x0 x1 x2 x3 x4, Keeps T a x0 →
      within [.dict, .log, .hbm, .hbmPoison, .hbmEcc, .larders] T = true →
      Keeps T a (State.completeMiss x0 x1 x2 x3 x4).1 := by
  intro x0 x1 x2 x3 x4 h hw
  refine Keeps.trans ?_ hw h
  unfold State.completeMiss
  repeat' first
    | with_reducible
        first
        | assumption | exact Keeps.refl _ _ | apply State.bringLine_keeps | apply State.serve_keeps
        | apply State.setLarder_keeps | refine foldl_keeps (fun _ _ _ => ?_) ?_
    | exact rfl

theorem State.fetchLine_keeps {T a} :
    ∀ x0 x1 x2, Keeps T a x0 →
      within [.dict, .log, .hbm, .hbmPoison, .hbmEcc, .larders] T = true →
      Keeps T a (State.fetchLine x0 x1 x2).1 := by
  intro x0 x1 x2 h hw
  refine Keeps.trans ?_ hw h
  unfold State.fetchLine
  repeat' first
    | with_reducible
        first
        | exact Keeps.refl _ _ | apply State.bringLine_keeps | apply State.completeMiss_keeps
    | exact rfl | split

theorem State.getSpan_keeps {T a} :
    ∀ x0 x1 x2 x3 x4, Keeps T a x0 →
      within [.dict, .log, .hbm, .hbmPoison, .hbmEcc, .larders] T = true →
      Keeps T a (State.getSpan x0 x1 x2 x3 x4).1 := by
  intro x0 x1 x2 x3 x4 h hw
  refine Keeps.trans ?_ hw h
  unfold State.getSpan
  repeat' first
    | with_reducible
        first
        | exact Keeps.refl _ _ | apply State.fetchLine_keeps | refine Keeps.iteFst ?_ ?_
    | exact rfl | extract_lets | split | dsimp only
    | with_reducible
        first
        | refine Keeps.fst (by assumption) ?_

theorem State.getBytes_keeps {T a} :
    ∀ x0 x1 x2, Keeps T a x0 →
      within [.dict, .log, .hbm, .hbmPoison, .hbmEcc, .larders] T = true →
      Keeps T a (State.getBytes x0 x1 x2).1 := by
  intro x0 x1 x2 h hw
  refine Keeps.trans ?_ hw h
  unfold State.getBytes
  repeat' first
    | with_reducible
        first
        | assumption | exact Keeps.refl _ _ | apply State.getSpan_keeps
        | refine foldl_keeps_fst (fun _ _ _ => ?_) ?_
    | exact rfl | extract_lets | split

theorem Mv.read_keeps {T a} :
    ∀ x0 x1 x2 x3 x4, Keeps T a x0.st →
      within [.dict, .log, .health, .cores, .scratch, .hbm, .hbmPoison, .hbmEcc, .larders] T = true →
      Keeps T a (Mv.read x0 x1 x2 x3 x4).1.st := by
  intro x0 x1 x2 x3 x4 h hw
  refine Keeps.trans ?_ hw h
  unfold Mv.read
  repeat' first
    | with_reducible
        first
        | exact Keeps.refl _ _ | apply Mv.fail_keeps | apply State.getBytes_keeps | apply readBuf_keeps
    | exact rfl | extract_lets | split | dsimp only
    | with_reducible
        first
        | refine Keeps.fst (by assumption) ?_

theorem State.rawRead_keeps {T a} :
    ∀ x0 x1 x2, Keeps T a x0 →
      within [.dict, .log, .hbm, .hbmPoison, .hbmEcc, .larders] T = true →
      Keeps T a (State.rawRead x0 x1 x2).1 := by
  intro x0 x1 x2 h hw
  refine Keeps.trans ?_ hw h
  unfold State.rawRead
  repeat' first
    | with_reducible
        first
        | assumption | exact Keeps.refl _ _ | apply State.fetchLine_keeps | refine Keeps.iteFst ?_ ?_
        | refine foldl_keeps_fst (fun _ _ _ => ?_) ?_
    | exact rfl

theorem State.poisonHbm_keeps {T a} :
    ∀ x0 x1, Keeps T a x0 →
      within [.dict, .log, .hbm, .hbmPoison, .hbmEcc, .larders] T = true →
      Keeps T a (State.poisonHbm x0 x1) := by
  intro x0 x1 h hw
  refine Keeps.trans ?_ hw h
  unfold State.poisonHbm
  repeat' first
    | with_reducible
        first
        | exact Keeps.refl _ _ | apply State.fetchLine_keeps | apply State.setLarder_keeps | refine Keeps.ite ?_ ?_
    | exact rfl

theorem State.putSpan_keeps {T a} :
    ∀ x0 x1 x2 x3 x4, Keeps T a x0 →
      within [.dict, .log, .hbm, .hbmPoison, .hbmEcc, .larders] T = true →
      Keeps T a (State.putSpan x0 x1 x2 x3 x4) := by
  intro x0 x1 x2 x3 x4 h hw
  refine Keeps.trans ?_ hw h
  unfold State.putSpan
  repeat' first
    | with_reducible
        first
        | exact Keeps.refl _ _ | apply State.completeMiss_keeps | apply State.putLine_keeps
    | exact rfl | extract_lets | split

theorem State.putBytes_keeps {T a} :
    ∀ x0 x1 x2, Keeps T a x0 →
      within [.dict, .log, .hbm, .hbmPoison, .hbmEcc, .larders] T = true →
      Keeps T a (State.putBytes x0 x1 x2) := by
  intro x0 x1 x2 h hw
  refine Keeps.trans ?_ hw h
  unfold State.putBytes
  repeat' first
    | with_reducible
        first
        | assumption | exact Keeps.refl _ _ | apply State.putCopy_keeps | apply State.putSpan_keeps
        | refine Keeps.ite ?_ ?_ | refine foldl_keeps_fst (fun _ _ _ => ?_) ?_
    | exact rfl

theorem State.rawWrite_keeps {T a} :
    ∀ x0 x1 x2 x3, Keeps T a x0 →
      within [.dict, .log, .hbm, .hbmPoison, .hbmEcc, .larders] T = true →
      Keeps T a (State.rawWrite x0 x1 x2 x3) := by
  intro x0 x1 x2 x3 h hw
  refine Keeps.trans ?_ hw h
  unfold State.rawWrite
  repeat' first
    | with_reducible
        first
        | assumption | exact Keeps.refl _ _ | apply State.poisonHbm_keeps | apply State.putBytes_keeps
        | refine foldl_keeps (fun _ _ _ => ?_) ?_
    | exact rfl

theorem State.capturePage_keeps {T a} :
    ∀ x0 x1, Keeps T a x0 →
      within [.dict, .log, .hbm, .hbmPoison, .hbmEcc, .larders, .parts] T = true →
      Keeps T a (State.capturePage x0 x1) := by
  intro x0 x1 h hw
  refine Keeps.trans ?_ hw h
  unfold State.capturePage
  repeat' first
    | with_reducible
        first
        | exact Keeps.refl _ _ | apply State.rawRead_keeps | apply State.rawWrite_keeps | apply State.setPart_keeps
        | refine Keeps.ite ?_ ?_
    | exact rfl | split

theorem State.endWord_keeps {T a} :
    ∀ x0 x1 x2, Keeps T a x0 →
      within [.dict, .log, .hbm, .hbmPoison, .hbmEcc, .larders] T = true →
      Keeps T a (State.endWord x0 x1 x2).1 := by
  intro x0 x1 x2 h hw
  refine Keeps.trans ?_ hw h
  unfold State.endWord
  repeat' first
    | with_reducible
        first
        | exact Keeps.refl _ _ | apply State.getSpan_keeps | refine Keeps.iteFst ?_ ?_
    | exact rfl | split | dsimp only
    | with_reducible
        first
        | refine Keeps.fst (by assumption) ?_

theorem State.hbmWrite_keeps {T a} :
    ∀ x0 x1 x2, Keeps T a x0 →
      within [.dict, .log, .hbm, .hbmPoison, .hbmEcc, .larders, .parts] T = true →
      Keeps T a (State.hbmWrite x0 x1 x2).1 := by
  intro x0 x1 x2 h hw
  refine Keeps.trans ?_ hw h
  unfold State.hbmWrite
  repeat' first
    | with_reducible
        first
        | assumption | exact Keeps.refl _ _ | apply State.capturePage_keeps | apply State.endWord_keeps
        | apply State.putBytes_keeps | refine Keeps.iteFst ?_ ?_ | refine foldl_keeps (fun _ _ _ => ?_) ?_
    | exact rfl | extract_lets | split | dsimp only
    | with_reducible
        first
        | refine Keeps.fst (by assumption) ?_

theorem State.hbmWriteBits_keeps {T a} :
    ∀ x0 x1 x2 x3, Keeps T a x0 →
      within [.dict, .log, .hbm, .hbmPoison, .hbmEcc, .larders, .parts] T = true →
      Keeps T a (State.hbmWriteBits x0 x1 x2 x3).1 := by
  intro x0 x1 x2 x3 h hw
  refine Keeps.trans ?_ hw h
  unfold State.hbmWriteBits
  repeat' first
    | with_reducible
        first
        | exact Keeps.refl _ _ | apply State.getBytes_keeps | apply State.hbmWrite_keeps | refine Keeps.iteFst ?_ ?_
    | exact rfl | extract_lets | split | dsimp only
    | with_reducible
        first
        | refine Keeps.fst (by assumption) ?_

theorem State.bankOffWrite_keeps {T a} :
    ∀ x0 x1 x2 x3 x4 x5, Keeps T a x0 →
      within [.dict] T = true →
      Keeps T a (State.bankOffWrite x0 x1 x2 x3 x4 x5).1 := by
  intro x0 x1 x2 x3 x4 x5 h hw
  refine Keeps.trans ?_ hw h
  unfold State.bankOffWrite
  repeat' first
    | with_reducible
        first
        | exact Keeps.refl _ _ | apply State.bumpH_keeps
    | exact rfl

theorem State.moverWord_keeps {T a} :
    ∀ x0 x1 x2 x3, Keeps T a x0 →
      within [.dict, .health, .cores, .scratch] T = true →
      Keeps T a (State.moverWord x0 x1 x2 x3).1 := by
  intro x0 x1 x2 x3 h hw
  refine Keeps.trans ?_ hw h
  unfold State.moverWord
  repeat' first
    | with_reducible
        first
        | exact Keeps.refl _ _ | apply State.bankOffWrite_keeps | apply writeWord_keeps | refine Keeps.iteFst ?_ ?_
    | exact rfl

theorem State.moverWords_keeps {T a} :
    ∀ x0 x1 x2 x3 x4 x5, Keeps T a x0 →
      within [.dict] T = true →
      Keeps T a (State.moverWords x0 x1 x2 x3 x4 x5).1 := by
  intro x0 x1 x2 x3 x4 x5 h hw
  refine Keeps.trans ?_ hw h
  unfold State.moverWords
  repeat' first
    | with_reducible
        first
        | exact Keeps.refl _ _ | apply State.bumpH_keeps | refine Keeps.ite ?_ ?_
    | exact rfl | extract_lets | split

theorem Mv.write_keeps {T a} :
    ∀ x0 x1 x2 x3 x4 x5 x6, Keeps T a x0.st →
      within [.dict, .log, .health, .cores, .scratch, .hbm, .hbmPoison, .hbmEcc, .larders, .parts] T = true →
      Keeps T a (Mv.write x0 x1 x2 x3 x4 x5 x6).st := by
  intro x0 x1 x2 x3 x4 x5 x6 h hw
  refine Keeps.trans ?_ hw h
  unfold Mv.write
  repeat' first
    | with_reducible
        first
        | assumption | exact Keeps.refl _ _ | apply Mv.fail_keeps | apply State.hbmWriteBits_keeps
        | apply State.moverWord_keeps | apply State.moverWords_keeps | refine Keeps.iteMv ?_ ?_
        | refine foldl_keeps_mv (fun _ _ _ => ?_) ?_
    | exact rfl | split | dsimp only
    | with_reducible
        first
        | refine Keeps.fst (by assumption) ?_

theorem Mv.check_keeps {T a} :
    ∀ x0 x1 x2 x3, Keeps T a x0.st →
      within [.dict, .log, .health, .cores, .scratch, .hbm, .hbmPoison, .hbmEcc, .larders, .parts] T = true →
      Keeps T a (Mv.check x0 x1 x2 x3).st := by
  intro x0 x1 x2 x3 h hw
  refine Keeps.trans ?_ hw h
  unfold Mv.check
  repeat' first
    | with_reducible
        first
        | exact Keeps.refl _ _ | apply Mv.fail_keeps | apply Mv.read_keeps | apply Mv.write_keeps
        | apply State.bump_keeps | refine Keeps.iteMv ?_ ?_
    | exact rfl

theorem Mv.inlet_keeps {T a} :
    ∀ x0 x1 x2 x3, Keeps T a x0.st →
      within [.dict, .log, .health, .cores, .scratch, .hbm, .hbmPoison, .hbmEcc, .larders, .parts] T = true →
      Keeps T a (Mv.inlet x0 x1 x2 x3).st := by
  intro x0 x1 x2 x3 h hw
  refine Keeps.trans ?_ hw h
  unfold Mv.inlet
  repeat' first
    | with_reducible
        first
        | assumption | exact Keeps.refl _ _ | apply Mv.read_keeps | apply Mv.write_keeps | apply State.bumpH_keeps
        | refine Keeps.iteMv ?_ ?_ | refine foldl_keeps_mvFst (fun _ _ _ => ?_) ?_
    | exact rfl

theorem Mv.row_keeps {T a} :
    ∀ x0 x1 x2 x3 x4, Keeps T a x0.st →
      within [.dict, .log, .health, .cores, .scratch, .hbm, .hbmPoison, .hbmEcc, .larders, .parts] T = true →
      Keeps T a (Mv.row x0 x1 x2 x3 x4).st := by
  intro x0 x1 x2 x3 x4 h hw
  refine Keeps.trans ?_ hw h
  unfold Mv.row
  repeat' first
    | with_reducible
        first
        | exact Keeps.refl _ _ | apply Mv.read_keeps | apply Mv.write_keeps | refine Keeps.iteMv ?_ ?_
    | exact rfl

theorem Mv.sheet_keeps {T a} :
    ∀ x0 x1 x2 x3 x4, Keeps T a x0.st →
      within [.dict, .log, .health, .cores, .scratch, .hbm, .hbmPoison, .hbmEcc, .larders, .parts] T = true →
      Keeps T a (Mv.sheet x0 x1 x2 x3 x4).st := by
  intro x0 x1 x2 x3 x4 h hw
  refine Keeps.trans ?_ hw h
  unfold Mv.sheet
  repeat' first
    | with_reducible
        first
        | assumption | exact Keeps.refl _ _ | apply Mv.read_keeps | apply Mv.write_keeps | refine Keeps.iteMv ?_ ?_
        | refine foldl_keeps_mvFst (fun _ _ _ => ?_) ?_
    | exact rfl | extract_lets | split | dsimp only
    | with_reducible
        first
        | refine Keeps.fstMv (by assumption) ?_

theorem Mv.rows_keeps {T a} :
    ∀ x0 x1 x2 x3 x4, Keeps T a x0.st →
      within [.dict, .log, .health, .cores, .scratch, .hbm, .hbmPoison, .hbmEcc, .larders, .parts] T = true →
      Keeps T a (Mv.rows x0 x1 x2 x3 x4).st := by
  intro x0 x1 x2 x3 x4 h hw
  refine Keeps.trans ?_ hw h
  unfold Mv.rows
  repeat' first
    | with_reducible
        first
        | assumption | exact Keeps.refl _ _ | apply Mv.row_keeps | apply Mv.sheet_keeps | refine Keeps.iteMv ?_ ?_
        | refine foldl_keeps_mv (fun _ _ _ => ?_) ?_
    | exact rfl

theorem State.abortLate_keeps {T a} :
    ∀ x0 x1 x2 x3, Keeps T a x0 →
      within [.parts] T = true →
      Keeps T a (State.abortLate x0 x1 x2 x3) := by
  intro x0 x1 x2 x3 h hw
  refine Keeps.trans ?_ hw h
  unfold State.abortLate
  repeat' first
    | with_reducible
        first
        | exact Keeps.refl _ _ | apply State.setPart_keeps | refine Keeps.ite ?_ ?_
    | exact rfl

theorem State.setPort_keeps {T a} :
    ∀ x0 x1 x2, Keeps T a x0 →
      within [.ports] T = true →
      Keeps T a (State.setPort x0 x1 x2) := by
  intro x0 x1 x2 h hw
  refine Keeps.trans ?_ hw h
  unfold State.setPort
  repeat' first
    | with_reducible
        first
        | exact Keeps.refl _ _
    | fail_if_no_progress
      with_reducible
        refine Keeps.lit rfl rfl rfl rfl rfl rfl id ?_ ?_ ?_ ?_ ?_ ?_ ?_ ?_ ?_ ?_ ?_ ?_ ?_ ?_
          ?_ ?_ ?_ ?_ ?_ ?_ ?_ ?_ ?_ ?_ ?_ ?_ ?_ ?_ <;>
        try first | exact Or.inr rfl | exact Or.inl rfl

theorem State.send_keeps {T a} :
    ∀ x0 x1 x2, Keeps T a x0 →
      within [.ports] T = true →
      Keeps T a (State.send x0 x1 x2) := by
  intro x0 x1 x2 h hw
  refine Keeps.trans ?_ hw h
  unfold State.send
  repeat' first
    | with_reducible
        first
        | exact Keeps.refl _ _ | apply State.setPort_keeps | refine Keeps.ite ?_ ?_
    | exact rfl

theorem State.raise_keeps {T a} :
    ∀ x0 x1 x2, Keeps T a x0 →
      within [.ports] T = true →
      Keeps T a (State.raise x0 x1 x2) := by
  intro x0 x1 x2 h hw
  refine Keeps.trans ?_ hw h
  unfold State.raise
  repeat' first
    | with_reducible
        first
        | exact Keeps.refl _ _ | apply State.send_keeps | apply State.setPort_keeps | refine Keeps.ite ?_ ?_
    | exact rfl

theorem State.setMbox_keeps {T a} :
    ∀ x0 x1 x2, Keeps T a x0 →
      within [.mboxes] T = true →
      Keeps T a (State.setMbox x0 x1 x2) := by
  intro x0 x1 x2 h hw
  refine Keeps.trans ?_ hw h
  unfold State.setMbox
  repeat' first
    | with_reducible
        first
        | exact Keeps.refl _ _
    | fail_if_no_progress
      with_reducible
        refine Keeps.lit rfl rfl rfl rfl rfl rfl id ?_ ?_ ?_ ?_ ?_ ?_ ?_ ?_ ?_ ?_ ?_ ?_ ?_ ?_
          ?_ ?_ ?_ ?_ ?_ ?_ ?_ ?_ ?_ ?_ ?_ ?_ ?_ ?_ <;>
        try first | exact Or.inr rfl | exact Or.inl rfl

theorem State.endWindow_keeps {T a} :
    ∀ x0 x1 x2, Keeps T a x0 →
      within [.ports, .mboxes] T = true →
      Keeps T a (State.endWindow x0 x1 x2) := by
  intro x0 x1 x2 h hw
  refine Keeps.trans ?_ hw h
  unfold State.endWindow
  repeat' first
    | with_reducible
        first
        | exact Keeps.refl _ _ | apply State.raise_keeps | apply State.setMbox_keeps | apply State.setPort_keeps
        | refine Keeps.ite ?_ ?_
    | exact rfl

theorem State.logMboxTimeout_keeps {T a} :
    ∀ x0 x1 x2 x3, Keeps T a x0 →
      within [.dict, .log] T = true →
      Keeps T a (State.logMboxTimeout x0 x1 x2 x3) := by
  intro x0 x1 x2 x3 h hw
  refine Keeps.trans ?_ hw h
  unfold State.logMboxTimeout
  repeat' first
    | with_reducible
        first
        | exact Keeps.refl _ _ | apply State.bump_keeps | apply State.report_keeps
    | exact rfl

theorem State.abortSegments_keeps {T a} :
    ∀ x0, Keeps T a x0 →
      within [.ports, .mboxes, .dict, .log] T = true →
      Keeps T a (State.abortSegments x0) := by
  intro x0 h hw
  refine Keeps.trans ?_ hw h
  unfold State.abortSegments
  repeat' first
    | with_reducible
        first
        | assumption | exact Keeps.refl _ _ | apply State.endWindow_keeps | apply State.logMboxTimeout_keeps
        | refine Keeps.ite ?_ ?_ | refine foldl_keeps (fun _ _ _ => ?_) ?_
    | exact rfl

theorem State.abortWindow_keeps {T a} :
    ∀ x0 x1 x2 x3, Keeps T a x0 →
      within [.ports, .mboxes, .log] T = true →
      Keeps T a (State.abortWindow x0 x1 x2 x3) := by
  intro x0 x1 x2 x3 h hw
  refine Keeps.trans ?_ hw h
  unfold State.abortWindow
  repeat' first
    | with_reducible
        first
        | exact Keeps.refl _ _ | apply State.endWindow_keeps | apply State.report_keeps
    | exact rfl

theorem State.upset_keeps {T a} :
    ∀ x0 x1, Keeps T a x0 →
      within [.scratch] T = true →
      Keeps T a (State.upset x0 x1) := by
  intro x0 x1 h hw
  refine Keeps.trans ?_ hw h
  unfold State.upset
  repeat' first
    | with_reducible
        first
        | exact Keeps.refl _ _ | apply State.setWord_keeps
    | exact rfl

theorem State.upsets_keeps {T a} :
    ∀ x0 x1, Keeps T a x0 →
      within [.scratch] T = true →
      Keeps T a (State.upsets x0 x1) := by
  intro x0 x1 h hw
  refine Keeps.trans ?_ hw h
  unfold State.upsets
  repeat' first
    | with_reducible
        first
        | assumption | exact Keeps.refl _ _ | apply State.upset_keeps | refine foldl_keeps (fun _ _ _ => ?_) ?_
    | exact rfl

theorem State.accFill_keeps {T a} :
    ∀ x0 x1 x2 x3 x4, Keeps T a x0 →
      within [.dict, .log, .health, .cores, .scratch, .parts] T = true →
      Keeps T a (State.accFill x0 x1 x2 x3 x4) := by
  intro x0 x1 x2 x3 x4 h hw
  refine Keeps.trans ?_ hw h
  unfold State.accFill
  repeat' first
    | with_reducible
        first
        | assumption | exact Keeps.refl _ _ | apply Acc.finish_keeps | apply Acc.read_keeps
        | apply State.bumpH_keeps | apply State.setCore_keeps | apply State.upsets_keeps | apply Acc.ofState_keeps
        | apply Acc.map_keeps | apply Acc.eachStep_keeps
    | exact rfl | intro _

theorem State.accRead_keeps {T a} :
    ∀ x0 x1 x2 x3, Keeps T a x0 →
      within [.dict, .log, .health, .cores, .scratch, .parts] T = true →
      Keeps T a (State.accRead x0 x1 x2 x3) := by
  intro x0 x1 x2 x3 h hw
  refine Keeps.trans ?_ hw h
  unfold State.accRead
  repeat' first
    | with_reducible
        first
        | exact Keeps.refl _ _ | apply Acc.copyOut_keeps | apply Acc.finish_keeps | apply State.issued_keeps
        | apply State.opFault_keeps | apply Acc.ofState_keeps | refine Keeps.ite ?_ ?_
    | exact rfl

theorem State.accSpill_keeps {T a} :
    ∀ x0 x1 x2 x3, Keeps T a x0 →
      within [.dict, .log, .health, .cores, .scratch, .parts] T = true →
      Keeps T a (State.accSpill x0 x1 x2 x3) := by
  intro x0 x1 x2 x3 h hw
  refine Keeps.trans ?_ hw h
  unfold State.accSpill
  repeat' first
    | with_reducible
        first
        | assumption | exact Keeps.refl _ _ | apply Acc.copyOut_keeps | apply Acc.finish_keeps
        | apply State.bumpH_keeps | apply State.freeSlot_keeps | apply Acc.ofState_keeps | apply Acc.map_keeps
    | exact rfl | intro _

theorem State.journalAppend_keeps {T a} :
    ∀ x0 x1 x2 x3, Keeps T a x0 →
      within [.journal] T = true →
      Keeps T a (State.journalAppend x0 x1 x2 x3) := by
  intro x0 x1 x2 x3 h hw
  refine Keeps.trans ?_ hw h
  unfold State.journalAppend
  repeat' first
    | with_reducible
        first
        | exact Keeps.refl _ _
    | extract_lets | split | dsimp +zetaDelta only
    | fail_if_no_progress
      with_reducible
        refine Keeps.lit rfl rfl rfl rfl rfl rfl id ?_ ?_ ?_ ?_ ?_ ?_ ?_ ?_ ?_ ?_ ?_ ?_ ?_ ?_
          ?_ ?_ ?_ ?_ ?_ ?_ ?_ ?_ ?_ ?_ ?_ ?_ ?_ ?_ <;>
        try first | exact Or.inr rfl | exact Or.inl rfl

theorem State.setCtx_keeps {T a} :
    ∀ x0 x1 x2, Keeps T a x0 →
      within [.ctxs] T = true →
      Keeps T a (State.setCtx x0 x1 x2) := by
  intro x0 x1 x2 h hw
  refine Keeps.trans ?_ hw h
  unfold State.setCtx
  repeat' first
    | with_reducible
        first
        | exact Keeps.refl _ _
    | fail_if_no_progress
      with_reducible
        refine Keeps.lit rfl rfl rfl rfl rfl rfl id ?_ ?_ ?_ ?_ ?_ ?_ ?_ ?_ ?_ ?_ ?_ ?_ ?_ ?_
          ?_ ?_ ?_ ?_ ?_ ?_ ?_ ?_ ?_ ?_ ?_ ?_ ?_ ?_ <;>
        try first | exact Or.inr rfl | exact Or.inl rfl

theorem State.trackSeed_keeps {T a} :
    ∀ x0 x1, Keeps T a x0 →
      within [.dict, .seeds] T = true →
      Keeps T a (State.trackSeed x0 x1) := by
  intro x0 x1 h hw
  refine Keeps.trans ?_ hw h
  unfold State.trackSeed
  repeat' first
    | with_reducible
        first
        | exact Keeps.refl _ _ | apply State.bump_keeps | apply State.setObj_keeps | refine Keeps.ite ?_ ?_
    | exact rfl | extract_lets | split
    | fail_if_no_progress
      with_reducible
        refine Keeps.lit rfl rfl rfl rfl rfl rfl id ?_ ?_ ?_ ?_ ?_ ?_ ?_ ?_ ?_ ?_ ?_ ?_ ?_ ?_
          ?_ ?_ ?_ ?_ ?_ ?_ ?_ ?_ ?_ ?_ ?_ ?_ ?_ ?_ <;>
        try first | exact Or.inr rfl | exact Or.inl rfl

theorem State.writeAccept_keeps {T a} :
    ∀ x0 x1 x2 x3 x4, Keeps T a x0 →
      within [.ports] T = true →
      Keeps T a (State.writeAccept x0 x1 x2 x3 x4) := by
  intro x0 x1 x2 x3 x4 h hw
  refine Keeps.trans ?_ hw h
  unfold State.writeAccept
  repeat' first
    | with_reducible
        first
        | exact Keeps.refl _ _ | apply State.send_keeps
    | exact rfl

theorem State.acceptDesc_keeps {T a} :
    ∀ x0 x1 x2 x3, Keeps T a x0 →
      within [.ports, .dict, .ctxs, .journal, .seeds] T = true →
      Keeps T a (State.acceptDesc x0 x1 x2 x3) := by
  intro x0 x1 x2 x3 h hw
  refine Keeps.trans ?_ hw h
  unfold State.acceptDesc
  repeat' first
    | with_reducible
        first
        | exact Keeps.refl _ _ | apply State.journalAppend_keeps | apply State.setCtx_keeps
        | apply State.trackSeed_keeps | apply State.writeAccept_keeps
    | exact rfl

theorem State.dropFlow_keeps {T a} :
    ∀ x0 x1 x2 x3 x4, Keeps T a x0 →
      within [.net] T = true →
      Keeps T a (State.dropFlow x0 x1 x2 x3 x4) := by
  intro x0 x1 x2 x3 x4 h hw
  refine Keeps.trans ?_ hw h
  unfold State.dropFlow
  repeat' first
    | with_reducible
        first
        | exact Keeps.refl _ _
    | dsimp only
    | fail_if_no_progress
      with_reducible
        refine Keeps.lit rfl rfl rfl rfl rfl rfl id ?_ ?_ ?_ ?_ ?_ ?_ ?_ ?_ ?_ ?_ ?_ ?_ ?_ ?_
          ?_ ?_ ?_ ?_ ?_ ?_ ?_ ?_ ?_ ?_ ?_ ?_ ?_ ?_ <;>
        try first | exact Or.inr rfl | exact Or.inl rfl

theorem State.keepFlow_keeps {T a} :
    ∀ x0 x1 x2 x3 x4 x5, Keeps T a x0 →
      within [.net] T = true →
      Keeps T a (State.keepFlow x0 x1 x2 x3 x4 x5) := by
  intro x0 x1 x2 x3 x4 x5 h hw
  refine Keeps.trans ?_ hw h
  unfold State.keepFlow
  repeat' first
    | with_reducible
        first
        | exact Keeps.refl _ _ | apply State.dropFlow_keeps
    | exact rfl | extract_lets | dsimp +zetaDelta only
    | fail_if_no_progress
      with_reducible
        refine Keeps.lit rfl rfl rfl rfl rfl rfl id ?_ ?_ ?_ ?_ ?_ ?_ ?_ ?_ ?_ ?_ ?_ ?_ ?_ ?_
          ?_ ?_ ?_ ?_ ?_ ?_ ?_ ?_ ?_ ?_ ?_ ?_ ?_ ?_ <;>
        try first | exact Or.inr rfl | exact Or.inl rfl

theorem State.setLink_keeps {T a} :
    ∀ x0 x1 x2, Keeps T a x0 →
      within [.links] T = true →
      Keeps T a (State.setLink x0 x1 x2) := by
  intro x0 x1 x2 h hw
  refine Keeps.trans ?_ hw h
  unfold State.setLink
  repeat' first
    | with_reducible
        first
        | exact Keeps.refl _ _
    | fail_if_no_progress
      with_reducible
        refine Keeps.lit rfl rfl rfl rfl rfl rfl id ?_ ?_ ?_ ?_ ?_ ?_ ?_ ?_ ?_ ?_ ?_ ?_ ?_ ?_
          ?_ ?_ ?_ ?_ ?_ ?_ ?_ ?_ ?_ ?_ ?_ ?_ ?_ ?_ <;>
        try first | exact Or.inr rfl | exact Or.inl rfl

theorem State.sendOn_keeps {T a} :
    ∀ x0 x1 x2, Keeps T a x0 →
      within [.links] T = true →
      Keeps T a (State.sendOn x0 x1 x2) := by
  intro x0 x1 x2 h hw
  refine Keeps.trans ?_ hw h
  unfold State.sendOn
  repeat' first
    | with_reducible
        first
        | exact Keeps.refl _ _ | apply State.setLink_keeps | refine Keeps.ite ?_ ?_
    | exact rfl

theorem State.sendTo_keeps {T a} :
    ∀ x0 x1, Keeps T a x0 →
      within [.links, .net] T = true →
      Keeps T a (State.sendTo x0 x1) := by
  intro x0 x1 h hw
  refine Keeps.trans ?_ hw h
  unfold State.sendTo
  repeat' first
    | with_reducible
        first
        | exact Keeps.refl _ _ | apply State.dropFlow_keeps | apply State.keepFlow_keeps | apply State.sendOn_keeps
        | refine Keeps.ite ?_ ?_
    | exact rfl | split

theorem State.ackEnd_keeps {T a} :
    ∀ x0 x1 x2, Keeps T a x0 →
      within [.links, .net] T = true →
      Keeps T a (State.ackEnd x0 x1 x2) := by
  intro x0 x1 x2 h hw
  refine Keeps.trans ?_ hw h
  unfold State.ackEnd
  repeat' first
    | with_reducible
        first
        | exact Keeps.refl _ _ | apply State.sendTo_keeps
    | exact rfl

theorem State.deny_keeps {T a} :
    ∀ x0 x1 x2 x3, Keeps T a x0 →
      within [.log] T = true →
      Keeps T a (State.deny x0 x1 x2 x3) := by
  intro x0 x1 x2 x3 h hw
  refine Keeps.trans ?_ hw h
  unfold State.deny
  repeat' first
    | with_reducible
        first
        | exact Keeps.refl _ _ | apply State.report_keeps
    | exact rfl

theorem State.refuseFlit_keeps {T a} :
    ∀ x0 x1 x2, Keeps T a x0 →
      within [.log] T = true →
      Keeps T a (State.refuseFlit x0 x1 x2) := by
  intro x0 x1 x2 h hw
  refine Keeps.trans ?_ hw h
  unfold State.refuseFlit
  repeat' first
    | with_reducible
        first
        | exact Keeps.refl _ _ | apply State.deny_keeps
    | exact rfl

theorem State.acceptEnd_keeps {T a} :
    ∀ x0 x1 x2, Keeps T a x0 →
      within [.dict, .log, .hbm, .hbmPoison, .hbmEcc, .larders, .links, .net] T = true →
      Keeps T a (State.acceptEnd x0 x1 x2) := by
  intro x0 x1 x2 h hw
  refine Keeps.trans ?_ hw h
  unfold State.acceptEnd
  repeat' first
    | with_reducible
        first
        | exact Keeps.refl _ _ | apply State.ackEnd_keeps | apply State.putBytes_keeps
        | apply State.refuseFlit_keeps | refine Keeps.ite ?_ ?_
    | exact rfl | extract_lets | dsimp +zetaDelta only
    | fail_if_no_progress
      with_reducible
        refine Keeps.lit rfl rfl rfl rfl rfl rfl id ?_ ?_ ?_ ?_ ?_ ?_ ?_ ?_ ?_ ?_ ?_ ?_ ?_ ?_
          ?_ ?_ ?_ ?_ ?_ ?_ ?_ ?_ ?_ ?_ ?_ ?_ ?_ ?_ <;>
        try first | exact Or.inr rfl | exact Or.inl rfl

theorem State.acceptWrite_keeps {T a} :
    ∀ x0 x1 x2, Keeps T a x0 →
      within [.dict, .log, .hbm, .hbmPoison, .hbmEcc, .larders, .net] T = true →
      Keeps T a (State.acceptWrite x0 x1 x2) := by
  intro x0 x1 x2 h hw
  refine Keeps.trans ?_ hw h
  unfold State.acceptWrite
  repeat' first
    | with_reducible
        first
        | exact Keeps.refl _ _ | apply State.putBytes_keeps | apply State.refuseFlit_keeps | refine Keeps.ite ?_ ?_
    | exact rfl | extract_lets | split | dsimp +zetaDelta only
    | fail_if_no_progress
      with_reducible
        refine Keeps.lit rfl rfl rfl rfl rfl rfl id ?_ ?_ ?_ ?_ ?_ ?_ ?_ ?_ ?_ ?_ ?_ ?_ ?_ ?_
          ?_ ?_ ?_ ?_ ?_ ?_ ?_ ?_ ?_ ?_ ?_ ?_ ?_ ?_ <;>
        try first | exact Or.inr rfl | exact Or.inl rfl

theorem State.arriveWord_keeps {T a} :
    ∀ x0 x1 x2 x3 x4, Keeps T a x0 →
      within [.dict, .cores] T = true →
      Keeps T a (State.arriveWord x0 x1 x2 x3 x4).1 := by
  intro x0 x1 x2 x3 x4 h hw
  refine Keeps.trans ?_ hw h
  unfold State.arriveWord
  repeat' first
    | with_reducible
        first
        | exact Keeps.refl _ _ | apply State.bankOffWrite_keeps | apply State.setCore_keeps
        | apply State.wakeBank_keeps | refine Keeps.iteFst ?_ ?_
    | exact rfl

theorem State.descFault_keeps {T a} :
    ∀ x0 x1 x2 x3, Keeps T a x0 →
      within [.log, .parts] T = true →
      Keeps T a (State.descFault x0 x1 x2 x3) := by
  intro x0 x1 x2 x3 h hw
  refine Keeps.trans ?_ hw h
  unfold State.descFault
  repeat' first
    | with_reducible
        first
        | exact Keeps.refl _ _ | apply State.jobFault_keeps | apply State.report_keeps
    | exact rfl | split

theorem State.setMover_keeps {T a} :
    ∀ x0 x1 x2, Keeps T a x0 →
      within [.movers] T = true →
      Keeps T a (State.setMover x0 x1 x2) := by
  intro x0 x1 x2 h hw
  refine Keeps.trans ?_ hw h
  unfold State.setMover
  repeat' first
    | with_reducible
        first
        | exact Keeps.refl _ _
    | fail_if_no_progress
      with_reducible
        refine Keeps.lit rfl rfl rfl rfl rfl rfl id ?_ ?_ ?_ ?_ ?_ ?_ ?_ ?_ ?_ ?_ ?_ ?_ ?_ ?_
          ?_ ?_ ?_ ?_ ?_ ?_ ?_ ?_ ?_ ?_ ?_ ?_ ?_ ?_ <;>
        try first | exact Or.inr rfl | exact Or.inl rfl

theorem State.doneDesc_keeps {T a} :
    ∀ x0 x1 x2 x3, Keeps T a x0 →
      within [.movers] T = true →
      Keeps T a (State.doneDesc x0 x1 x2 x3) := by
  intro x0 x1 x2 x3 h hw
  refine Keeps.trans ?_ hw h
  unfold State.doneDesc
  repeat' first
    | with_reducible
        first
        | exact Keeps.refl _ _ | apply State.setMover_keeps
    | exact rfl | extract_lets | split

theorem State.freeChan_keeps {T a} :
    ∀ x0 x1, Keeps T a x0 →
      within [.dict, .chanUse] T = true →
      Keeps T a (State.freeChan x0 x1) := by
  intro x0 x1 h hw
  refine Keeps.trans ?_ hw h
  unfold State.freeChan
  repeat' first
    | with_reducible
        first
        | exact Keeps.refl _ _ | apply State.setObj_keeps
    | exact rfl | dsimp only
    | fail_if_no_progress
      with_reducible
        refine Keeps.lit rfl rfl rfl rfl rfl rfl id ?_ ?_ ?_ ?_ ?_ ?_ ?_ ?_ ?_ ?_ ?_ ?_ ?_ ?_
          ?_ ?_ ?_ ?_ ?_ ?_ ?_ ?_ ?_ ?_ ?_ ?_ ?_ ?_ <;>
        try first | exact Or.inr rfl | exact Or.inl rfl

theorem State.tokenFault_keeps {T a} :
    ∀ x0 x1 x2, Keeps T a x0 →
      within [.parts] T = true →
      Keeps T a (State.tokenFault x0 x1 x2) := by
  intro x0 x1 x2 h hw
  refine Keeps.trans ?_ hw h
  unfold State.tokenFault
  repeat' first
    | with_reducible
        first
        | exact Keeps.refl _ _ | apply State.raiseFault_keeps
    | exact rfl | split

theorem State.failActive_keeps {T a} :
    ∀ x0 x1 x2 x3 x4, Keeps T a x0 →
      within [.dict, .log, .movers, .parts, .chanUse] T = true →
      Keeps T a (State.failActive x0 x1 x2 x3 x4) := by
  intro x0 x1 x2 x3 x4 h hw
  refine Keeps.trans ?_ hw h
  unfold State.failActive
  repeat' first
    | with_reducible
        first
        | assumption | exact Keeps.refl _ _ | apply State.descFault_keeps | apply State.doneDesc_keeps
        | apply State.freeChan_keeps | apply State.setMover_keeps | apply State.tokenFault_keeps
        | refine Keeps.ite ?_ ?_ | refine foldl_keeps (fun _ _ _ => ?_) ?_
    | exact rfl | split

theorem State.setActive_keeps {T a} :
    ∀ x0 x1 x2 x3, Keeps T a x0 →
      within [.movers] T = true →
      Keeps T a (State.setActive x0 x1 x2 x3) := by
  intro x0 x1 x2 x3 h hw
  refine Keeps.trans ?_ hw h
  unfold State.setActive
  repeat' first
    | with_reducible
        first
        | exact Keeps.refl _ _ | apply State.setMover_keeps
    | exact rfl

theorem State.accessRow_keeps {T a} :
    ∀ x0 x1 x2 x3, Keeps T a x0 →
      within [.dict, .log, .health, .cores, .scratch, .hbm, .hbmPoison, .hbmEcc, .larders, .movers, .parts, .chanUse] T = true →
      Keeps T a (State.accessRow x0 x1 x2 x3) := by
  intro x0 x1 x2 x3 h hw
  refine Keeps.trans ?_ hw h
  unfold State.accessRow
  repeat' first
    | with_reducible
        first
        | assumption | exact Keeps.refl _ _ | apply Mv.fail_keeps | apply Mv.read_keeps | apply Mv.write_keeps
        | apply State.arriveWord_keeps | apply State.failActive_keeps | apply State.moverWords_keeps
        | apply State.setActive_keeps | refine Keeps.iteMv ?_ ?_ | refine foldl_keeps_mv (fun _ _ _ => ?_) ?_
    | exact rfl | extract_lets | split | dsimp only
    | with_reducible
        first
        | refine Keeps.fst (by assumption) ?_ | refine Keeps.fstMv (by assumption) ?_

theorem State.ackFlit_keeps {T a} :
    ∀ x0 x1 x2, Keeps T a x0 →
      within [.links] T = true →
      Keeps T a (State.ackFlit x0 x1 x2) := by
  intro x0 x1 x2 h hw
  refine Keeps.trans ?_ hw h
  unfold State.ackFlit
  repeat' first
    | with_reducible
        first
        | exact Keeps.refl _ _ | apply State.setLink_keeps
    | exact rfl

theorem State.noteCause_keeps {T a} :
    ∀ x0 x1 x2, Keeps T a x0 →
      within [.health] T = true →
      Keeps T a (State.noteCause x0 x1 x2) := by
  intro x0 x1 x2 h hw
  refine Keeps.trans ?_ hw h
  unfold State.noteCause
  repeat' first
    | with_reducible
        first
        | exact Keeps.refl _ _ | apply State.setHearth_keeps | refine Keeps.ite ?_ ?_
    | exact rfl | split

theorem State.persist_keeps {T a} :
    ∀ x0 x1 x2, Keeps T a x0 →
      within [.boot] T = true →
      Keeps T a (State.persist x0 x1 x2) := by
  intro x0 x1 x2 h hw
  refine Keeps.trans ?_ hw h
  unfold State.persist
  repeat' first
    | with_reducible
        first
        | exact Keeps.refl _ _ | refine Keeps.ite ?_ ?_
    | extract_lets | dsimp +zetaDelta only
    | fail_if_no_progress
      with_reducible
        refine Keeps.lit rfl rfl rfl rfl rfl rfl id ?_ ?_ ?_ ?_ ?_ ?_ ?_ ?_ ?_ ?_ ?_ ?_ ?_ ?_
          ?_ ?_ ?_ ?_ ?_ ?_ ?_ ?_ ?_ ?_ ?_ ?_ ?_ ?_ <;>
        try first | exact Or.inr rfl | exact Or.inl rfl

theorem State.amendCause_keeps {T a} :
    ∀ x0 x1 x2, Keeps T a x0 →
      within [.boot, .log, .health] T = true →
      Keeps T a (State.amendCause x0 x1 x2) := by
  intro x0 x1 x2 h hw
  refine Keeps.trans ?_ hw h
  unfold State.amendCause
  repeat' first
    | with_reducible
        first
        | exact Keeps.refl _ _ | apply State.noteCause_keeps | apply State.persist_keeps | refine Keeps.ite ?_ ?_
    | exact rfl | extract_lets | dsimp only | dsimp +zetaDelta only
    | fail_if_no_progress
      with_reducible
        refine Keeps.lit rfl rfl rfl rfl rfl rfl id ?_ ?_ ?_ ?_ ?_ ?_ ?_ ?_ ?_ ?_ ?_ ?_ ?_ ?_
          ?_ ?_ ?_ ?_ ?_ ?_ ?_ ?_ ?_ ?_ ?_ ?_ ?_ ?_ <;>
        try first | exact Or.inr rfl | exact Or.inl rfl

theorem State.mapHead_keeps {T a} :
    ∀ x0 x1 x2, Keeps T a x0 →
      within [.ctxs] T = true →
      Keeps T a (State.mapHead x0 x1 x2) := by
  intro x0 x1 x2 h hw
  refine Keeps.trans ?_ hw h
  unfold State.mapHead
  repeat' first
    | with_reducible
        first
        | exact Keeps.refl _ _ | apply State.setCtx_keeps
    | exact rfl

theorem State.rollItem_keeps {T a} :
    ∀ x0 x1, Keeps T a x0 →
      within [.ctxs] T = true →
      Keeps T a (State.rollItem x0 x1) := by
  intro x0 x1 h hw
  refine Keeps.trans ?_ hw h
  unfold State.rollItem
  repeat' first
    | with_reducible
        first
        | exact Keeps.refl _ _ | apply State.mapHead_keeps
    | exact rfl

theorem State.purgeMovers_keeps {T a} :
    ∀ x0 x1, Keeps T a x0 →
      within [.dict, .movers, .chanUse] T = true →
      Keeps T a (State.purgeMovers x0 x1) := by
  intro x0 x1 h hw
  refine Keeps.trans ?_ hw h
  unfold State.purgeMovers
  repeat' first
    | with_reducible
        first
        | assumption | exact Keeps.refl _ _ | apply State.freeChan_keeps | apply State.setMover_keeps
        | refine foldl_keeps (fun _ _ _ => ?_) ?_
    | exact rfl

theorem State.clearRun_keeps {T a} :
    ∀ x0 x1 x2, Keeps T a x0 →
      within [.dict, .cores, .movers, .folds, .chanUse] T = true →
      Keeps T a (State.clearRun x0 x1 x2) := by
  intro x0 x1 x2 h hw
  refine Keeps.trans ?_ hw h
  unfold State.clearRun
  repeat' first
    | with_reducible
        first
        | assumption | exact Keeps.refl _ _ | apply State.purgeMovers_keeps | apply State.setCore_keeps
        | apply State.setFolds_keeps | refine foldl_keeps (fun _ _ _ => ?_) ?_
    | exact rfl

theorem State.setPinned_keeps {T a} :
    ∀ x0 x1 x2 x3, Keeps T a x0 →
      within [.dict, .log, .hbm, .hbmPoison, .hbmEcc, .larders] T = true →
      Keeps T a (State.setPinned x0 x1 x2 x3) := by
  intro x0 x1 x2 x3 h hw
  refine Keeps.trans ?_ hw h
  unfold State.setPinned
  repeat' first
    | with_reducible
        first
        | assumption | exact Keeps.refl _ _ | apply State.fetchLine_keeps | apply State.setLarder_keeps
        | apply State.setObj_keeps | refine Keeps.ite ?_ ?_ | refine foldl_keeps (fun _ _ _ => ?_) ?_
    | exact rfl | extract_lets | split

theorem State.pinBinding_keeps {T a} :
    ∀ x0 x1 x2, Keeps T a x0 →
      within [.dict, .log, .hbm, .hbmPoison, .hbmEcc, .larders] T = true →
      Keeps T a (State.pinBinding x0 x1 x2) := by
  intro x0 x1 x2 h hw
  refine Keeps.trans ?_ hw h
  unfold State.pinBinding
  repeat' first
    | with_reducible
        first
        | assumption | exact Keeps.refl _ _ | apply State.setPinned_keeps | refine Keeps.ite ?_ ?_
        | refine foldl_keeps (fun _ _ _ => ?_) ?_
    | exact rfl | extract_lets | split

theorem State.unbind_keeps {T a} :
    ∀ x0 x1, Keeps T a x0 →
      within [.dict, .log, .cores, .hbm, .hbmPoison, .hbmEcc, .larders, .movers, .folds, .parts, .ctxs, .chanUse] T = true →
      Keeps T a (State.unbind x0 x1) := by
  intro x0 x1 h hw
  refine Keeps.trans ?_ hw h
  unfold State.unbind
  repeat' first
    | with_reducible
        first
        | exact Keeps.refl _ _ | apply State.clearRun_keeps | apply State.pinBinding_keeps
        | apply State.setCtx_keeps | apply State.setPart_keeps
    | exact rfl | split

theorem State.loseBinding_keeps {T a} :
    ∀ x0 x1, Keeps T a x0 →
      within [.dict, .log, .cores, .hbm, .hbmPoison, .hbmEcc, .larders, .movers, .folds, .parts, .ctxs, .chanUse] T = true →
      Keeps T a (State.loseBinding x0 x1) := by
  intro x0 x1 h hw
  refine Keeps.trans ?_ hw h
  unfold State.loseBinding
  repeat' first
    | with_reducible
        first
        | exact Keeps.refl _ _ | apply State.rollItem_keeps | apply State.unbind_keeps | refine Keeps.ite ?_ ?_
    | exact rfl | split

theorem State.loseWhere_keeps {T a} :
    ∀ x0 x1, Keeps T a x0 →
      within [.dict, .log, .cores, .hbm, .hbmPoison, .hbmEcc, .larders, .movers, .folds, .parts, .ctxs, .chanUse] T = true →
      Keeps T a (State.loseWhere x0 x1) := by
  intro x0 x1 h hw
  refine Keeps.trans ?_ hw h
  unfold State.loseWhere
  repeat' first
    | with_reducible
        first
        | assumption | exact Keeps.refl _ _ | apply State.loseBinding_keeps | refine Keeps.ite ?_ ?_
        | refine foldl_keeps (fun _ _ _ => ?_) ?_
    | exact rfl

theorem State.nextGeneration_keeps {T a} :
    ∀ x0, Keeps T a x0 →
      within [.health] T = true →
      Keeps T a (State.nextGeneration x0) := by
  intro x0 h hw
  refine Keeps.trans ?_ hw h
  unfold State.nextGeneration
  repeat' first
    | with_reducible
        first
        | exact Keeps.refl _ _
    | dsimp only
    | fail_if_no_progress
      with_reducible
        refine Keeps.lit rfl rfl rfl rfl rfl rfl id ?_ ?_ ?_ ?_ ?_ ?_ ?_ ?_ ?_ ?_ ?_ ?_ ?_ ?_
          ?_ ?_ ?_ ?_ ?_ ?_ ?_ ?_ ?_ ?_ ?_ ?_ ?_ ?_ <;>
        try first | exact Or.inr rfl | exact Or.inl rfl

theorem State.setFaulty_keeps {T a} :
    ∀ x0 x1 x2, Keeps T a x0 →
      within [.health] T = true →
      Keeps T a (State.setFaulty x0 x1 x2) := by
  intro x0 x1 x2 h hw
  refine Keeps.trans ?_ hw h
  unfold State.setFaulty
  repeat' first
    | with_reducible
        first
        | exact Keeps.refl _ _ | apply State.setHearth_keeps
    | exact rfl | extract_lets | split | dsimp +zetaDelta only
    | fail_if_no_progress
      with_reducible
        refine Keeps.lit rfl rfl rfl rfl rfl rfl id ?_ ?_ ?_ ?_ ?_ ?_ ?_ ?_ ?_ ?_ ?_ ?_ ?_ ?_
          ?_ ?_ ?_ ?_ ?_ ?_ ?_ ?_ ?_ ?_ ?_ ?_ ?_ ?_ <;>
        try first | exact Or.inr rfl | exact Or.inl rfl

theorem State.markFaulty_keeps {T a} :
    ∀ x0 x1 x2, Keeps T a x0 →
      within [.boot, .log, .health] T = true →
      Keeps T a (State.markFaulty x0 x1 x2) := by
  intro x0 x1 x2 h hw
  refine Keeps.trans ?_ hw h
  unfold State.markFaulty
  repeat' first
    | with_reducible
        first
        | exact Keeps.refl _ _ | apply State.nextGeneration_keeps | apply State.noteCause_keeps
        | apply State.persist_keeps | apply State.report_keeps | apply State.setFaulty_keeps
    | exact rfl

theorem State.reportGrid_keeps {T a} :
    ∀ x0 x1, Keeps T a x0 →
      within [.health] T = true →
      Keeps T a (State.reportGrid x0 x1) := by
  intro x0 x1 h hw
  refine Keeps.trans ?_ hw h
  unfold State.reportGrid
  repeat' first
    | with_reducible
        first
        | assumption | exact Keeps.refl _ _ | apply State.setHearth_keeps | refine foldl_keeps (fun _ _ _ => ?_) ?_
    | exact rfl

theorem State.recountSpares_keeps {T a} :
    ∀ x0, Keeps T a x0 →
      within [.health] T = true →
      Keeps T a (State.recountSpares x0) := by
  intro x0 h hw
  refine Keeps.trans ?_ hw h
  unfold State.recountSpares
  repeat' first
    | with_reducible
        first
        | assumption | exact Keeps.refl _ _ | apply State.reportGrid_keeps | refine foldl_keeps (fun _ _ _ => ?_) ?_
    | exact rfl | split

theorem State.coreFails_keeps {T a} :
    ∀ x0 x1 x2, Keeps T a x0 →
      within [.boot, .dict, .log, .health, .cores, .hbm, .hbmPoison, .hbmEcc, .larders, .movers, .folds, .parts, .ctxs, .chanUse] T = true →
      Keeps T a (State.coreFails x0 x1 x2) := by
  intro x0 x1 x2 h hw
  refine Keeps.trans ?_ hw h
  unfold State.coreFails
  repeat' first
    | with_reducible
        first
        | exact Keeps.refl _ _ | apply State.loseWhere_keeps | apply State.markFaulty_keeps
        | apply State.recountSpares_keeps
    | exact rfl

theorem State.recheckParent_keeps {T a} :
    ∀ x0, Keeps T a x0 →
      within [.time] T = true →
      Keeps T a (State.recheckParent x0) := by
  intro x0 h hw
  refine Keeps.trans ?_ hw h
  unfold State.recheckParent
  repeat' first
    | with_reducible
        first
        | exact Keeps.refl _ _ | refine Keeps.ite ?_ ?_
    | dsimp only
    | fail_if_no_progress
      with_reducible
        refine Keeps.lit rfl rfl rfl rfl rfl rfl id ?_ ?_ ?_ ?_ ?_ ?_ ?_ ?_ ?_ ?_ ?_ ?_ ?_ ?_
          ?_ ?_ ?_ ?_ ?_ ?_ ?_ ?_ ?_ ?_ ?_ ?_ ?_ ?_ <;>
        try first | exact Or.inr rfl | exact Or.inl rfl

theorem State.remap_keeps {T a} :
    ∀ x0, Keeps T a x0 →
      within [.net] T = true →
      Keeps T a (State.remap x0) := by
  intro x0 h hw
  refine Keeps.trans ?_ hw h
  unfold State.remap
  repeat' first
    | with_reducible
        first
        | exact Keeps.refl _ _
    | extract_lets | dsimp +zetaDelta only
    | fail_if_no_progress
      with_reducible
        refine Keeps.lit rfl rfl rfl rfl rfl rfl id ?_ ?_ ?_ ?_ ?_ ?_ ?_ ?_ ?_ ?_ ?_ ?_ ?_ ?_
          ?_ ?_ ?_ ?_ ?_ ?_ ?_ ?_ ?_ ?_ ?_ ?_ ?_ ?_ <;>
        try first | exact Or.inr rfl | exact Or.inl rfl

theorem State.sendFragments_keeps {T a} :
    ∀ x0 x1 x2 x3 x4 x5, Keeps T a x0 →
      within [.links, .net] T = true →
      Keeps T a (State.sendFragments x0 x1 x2 x3 x4 x5) := by
  intro x0 x1 x2 x3 x4 x5 h hw
  refine Keeps.trans ?_ hw h
  unfold State.sendFragments
  repeat' first
    | with_reducible
        first
        | assumption | exact Keeps.refl _ _ | apply State.sendTo_keeps | refine foldl_keeps (fun _ _ _ => ?_) ?_
    | exact rfl

theorem State.sendMaps_keeps {T a} :
    ∀ x0, Keeps T a x0 →
      within [.links, .net] T = true →
      Keeps T a (State.sendMaps x0) := by
  intro x0 h hw
  refine Keeps.trans ?_ hw h
  unfold State.sendMaps
  repeat' first
    | with_reducible
        first
        | assumption | exact Keeps.refl _ _ | apply State.remap_keeps | apply State.sendFragments_keeps
        | refine Keeps.ite ?_ ?_ | refine foldl_keeps (fun _ _ _ => ?_) ?_
    | exact rfl

theorem State.portsChanged_keeps {T a} :
    ∀ x0, Keeps T a x0 →
      within [.time, .links, .net] T = true →
      Keeps T a (State.portsChanged x0) := by
  intro x0 h hw
  refine Keeps.trans ?_ hw h
  unfold State.portsChanged
  repeat' first
    | with_reducible
        first
        | exact Keeps.refl _ _ | apply State.recheckParent_keeps | apply State.sendMaps_keeps
    | exact rfl

theorem State.finwellFails_keeps {T a} :
    ∀ x0 x1 x2, Keeps T a x0 →
      within [.time, .boot, .log, .health, .ctxs, .links, .net] T = true →
      Keeps T a (State.finwellFails x0 x1 x2) := by
  intro x0 x1 x2 h hw
  refine Keeps.trans ?_ hw h
  unfold State.finwellFails
  repeat' first
    | with_reducible
        first
        | assumption | exact Keeps.refl _ _ | apply State.markFaulty_keeps | apply State.portsChanged_keeps
        | apply State.rollItem_keeps | apply State.setLink_keeps | refine Keeps.ite ?_ ?_
        | refine foldl_keeps (fun _ _ _ => ?_) ?_
    | exact rfl | extract_lets | split

theorem State.logicFails_keeps {T a} :
    ∀ x0 x1 x2, Keeps T a x0 →
      within [.boot, .dict, .log, .health, .cores, .hbm, .hbmPoison, .hbmEcc, .larders, .movers, .folds, .parts, .ctxs, .chanUse] T = true →
      Keeps T a (State.logicFails x0 x1 x2) := by
  intro x0 x1 x2 h hw
  refine Keeps.trans ?_ hw h
  unfold State.logicFails
  repeat' first
    | with_reducible
        first
        | exact Keeps.refl _ _ | apply State.loseWhere_keeps | apply State.markFaulty_keeps
    | exact rfl

theorem State.pcieFails_keeps {T a} :
    ∀ x0 x1 x2, Keeps T a x0 →
      within [.boot, .ports, .log, .health, .ctxs] T = true →
      Keeps T a (State.pcieFails x0 x1 x2) := by
  intro x0 x1 x2 h hw
  refine Keeps.trans ?_ hw h
  unfold State.pcieFails
  repeat' first
    | with_reducible
        first
        | assumption | exact Keeps.refl _ _ | apply State.markFaulty_keeps | apply State.rollItem_keeps
        | apply State.setPort_keeps | refine Keeps.ite ?_ ?_ | refine foldl_keeps (fun _ _ _ => ?_) ?_
    | exact rfl | extract_lets | split

theorem State.sendLane_keeps {T a} :
    ∀ x0 x1 x2, Keeps T a x0 →
      within [.links, .net] T = true →
      Keeps T a (State.sendLane x0 x1 x2) := by
  intro x0 x1 x2 h hw
  refine Keeps.trans ?_ hw h
  unfold State.sendLane
  repeat' first
    | with_reducible
        first
        | exact Keeps.refl _ _ | apply State.sendFragments_keeps
    | exact rfl

theorem State.sendReport_keeps {T a} :
    ∀ x0, Keeps T a x0 →
      within [.links, .net] T = true →
      Keeps T a (State.sendReport x0) := by
  intro x0 h hw
  refine Keeps.trans ?_ hw h
  unfold State.sendReport
  repeat' first
    | with_reducible
        first
        | exact Keeps.refl _ _ | apply State.sendLane_keeps | refine Keeps.ite ?_ ?_
    | exact rfl | extract_lets | dsimp +zetaDelta only
    | fail_if_no_progress
      with_reducible
        refine Keeps.lit rfl rfl rfl rfl rfl rfl id ?_ ?_ ?_ ?_ ?_ ?_ ?_ ?_ ?_ ?_ ?_ ?_ ?_ ?_
          ?_ ?_ ?_ ?_ ?_ ?_ ?_ ?_ ?_ ?_ ?_ ?_ ?_ ?_ <;>
        try first | exact Or.inr rfl | exact Or.inl rfl

theorem State.raiseBoth_keeps {T a} :
    ∀ x0 x1, Keeps T a x0 →
      within [.ports] T = true →
      Keeps T a (State.raiseBoth x0 x1) := by
  intro x0 x1 h hw
  refine Keeps.trans ?_ hw h
  unfold State.raiseBoth
  repeat' first
    | with_reducible
        first
        | exact Keeps.refl _ _ | apply State.raise_keeps
    | exact rfl

theorem State.setDev_keeps {T a} :
    ∀ x0 x1, Keeps T a x0 →
      within [.boot, .ports] T = true →
      Keeps T a (State.setDev x0 x1) := by
  intro x0 x1 h hw
  refine Keeps.trans ?_ hw h
  unfold State.setDev
  repeat' first
    | with_reducible
        first
        | exact Keeps.refl _ _ | apply State.raiseBoth_keeps | refine Keeps.ite ?_ ?_
    | exact rfl | dsimp only
    | fail_if_no_progress
      with_reducible
        refine Keeps.lit rfl rfl rfl rfl rfl rfl id ?_ ?_ ?_ ?_ ?_ ?_ ?_ ?_ ?_ ?_ ?_ ?_ ?_ ?_
          ?_ ?_ ?_ ?_ ?_ ?_ ?_ ?_ ?_ ?_ ?_ ?_ ?_ ?_ <;>
        try first | exact Or.inr rfl | exact Or.inl rfl

theorem State.enter_keeps {T a} :
    ∀ x0 x1, Keeps T a x0 →
      within [.boot, .ports, .links, .net] T = true →
      Keeps T a (State.enter x0 x1) := by
  intro x0 x1 h hw
  refine Keeps.trans ?_ hw h
  unfold State.enter
  repeat' first
    | with_reducible
        first
        | exact Keeps.refl _ _ | apply State.sendReport_keeps | apply State.setDev_keeps | refine Keeps.ite ?_ ?_
    | exact rfl

theorem State.logMissed_keeps {T a} :
    ∀ x0 x1 x2, Keeps T a x0 →
      within [.log] T = true →
      Keeps T a (State.logMissed x0 x1 x2) := by
  intro x0 x1 x2 h hw
  refine Keeps.trans ?_ hw h
  unfold State.logMissed
  repeat' first
    | with_reducible
        first
        | exact Keeps.refl _ _ | apply State.report_keeps
    | exact rfl

theorem State.missItem_keeps {T a} :
    ∀ x0 x1 x2, Keeps T a x0 →
      within [.parts, .ctxs] T = true →
      Keeps T a (State.missItem x0 x1 x2) := by
  intro x0 x1 x2 h hw
  refine Keeps.trans ?_ hw h
  unfold State.missItem
  repeat' first
    | with_reducible
        first
        | exact Keeps.refl _ _ | apply State.setCtx_keeps | apply State.setPart_keeps | refine Keeps.ite ?_ ?_
    | exact rfl | extract_lets | split

theorem State.logLatched_keeps {T a} :
    ∀ x0 x1, Keeps T a x0 →
      within [.log, .parts, .ctxs] T = true →
      Keeps T a (State.logLatched x0 x1) := by
  intro x0 x1 h hw
  refine Keeps.trans ?_ hw h
  unfold State.logLatched
  repeat' first
    | with_reducible
        first
        | exact Keeps.refl _ _ | apply State.logMissed_keeps | apply State.missItem_keeps | refine Keeps.ite ?_ ?_
    | exact rfl | extract_lets | split | dsimp +zetaDelta only
    | fail_if_no_progress
      with_reducible
        refine Keeps.lit rfl rfl rfl rfl rfl rfl id ?_ ?_ ?_ ?_ ?_ ?_ ?_ ?_ ?_ ?_ ?_ ?_ ?_ ?_
          ?_ ?_ ?_ ?_ ?_ ?_ ?_ ?_ ?_ ?_ ?_ ?_ ?_ ?_ <;>
        try first | exact Or.inr rfl | exact Or.inl rfl

theorem State.putLog_keeps (x : State) (r : Report) : Keeps [.log] x { x with log := x.log.put r } := by
  constructor <;> first | exact Or.inr rfl | exact Or.inl rfl | exact Nat.le_refl _ | exact id | rfl | exact Nat.le_succ _ | exact fun h => Nat.le_succ_of_le h

theorem State.logEntry_keeps {T a} :
    ∀ x0 x1, Keeps T a x0 →
      within [.ports, .dict, .log, .health] T = true →
      Keeps T a (State.logEntry x0 x1) := by
  intro x0 x1 h hw
  refine Keeps.trans ?_ hw h
  unfold State.logEntry
  extract_lets s t u v
  have h1 : Keeps [.ports, .dict, .log, .health] x0 s := by
    refine Keeps.lit rfl rfl rfl rfl rfl rfl id (Keeps.refl _ _) ?_ ?_ ?_ ?_ ?_ ?_ ?_ ?_ ?_ ?_
        ?_ ?_ ?_ ?_ ?_ ?_ ?_ ?_ ?_ ?_ ?_ ?_ ?_ ?_ ?_ ?_ ?_ <;>
      first | exact Or.inr rfl | exact Or.inl rfl
  have h2 : Keeps [.ports, .dict, .log, .health] x0 t := Keeps.ite (State.bump_keeps _ _ _ _ h1 rfl) h1
  have h3 : Keeps [.ports, .dict, .log, .health] x0 v := State.bump_keeps _ _ _ _ (Keeps.trans (State.putLog_keeps t x1) rfl h2) rfl
  exact Keeps.ite (State.raiseBoth_keeps _ _ h3 rfl) h3

theorem State.logSupply_keeps {T a} :
    ∀ x0 x1 x2, Keeps T a x0 →
      within [.ports, .dict, .log, .health] T = true →
      Keeps T a (State.logSupply x0 x1 x2) := by
  intro x0 x1 x2 h hw
  refine Keeps.trans ?_ hw h
  unfold State.logSupply
  repeat' first
    | with_reducible
        first
        | exact Keeps.refl _ _ | apply State.logEntry_keeps
    | exact rfl

theorem State.logLatches_keeps {T a} :
    ∀ x0, Keeps T a x0 →
      within [.power, .boot, .ports, .dict, .log, .health, .parts, .ctxs] T = true →
      Keeps T a (State.logLatches x0) := by
  intro x0 h hw
  refine Keeps.trans ?_ hw h
  unfold State.logLatches
  repeat' first
    | with_reducible
        first
        | assumption | exact Keeps.refl _ _ | apply State.logLatched_keeps | apply State.logSupply_keeps
        | refine foldl_keeps (fun _ _ _ => ?_) ?_
    | exact rfl | extract_lets | split | dsimp +zetaDelta only
    | fail_if_no_progress
      with_reducible
        refine Keeps.lit rfl rfl rfl rfl rfl rfl id ?_ ?_ ?_ ?_ ?_ ?_ ?_ ?_ ?_ ?_ ?_ ?_ ?_ ?_
          ?_ ?_ ?_ ?_ ?_ ?_ ?_ ?_ ?_ ?_ ?_ ?_ ?_ ?_ <;>
        try first | exact Or.inr rfl | exact Or.inl rfl

theorem State.trainPorts_keeps {T a} :
    ∀ x0, Keeps T a x0 →
      within [.links] T = true →
      Keeps T a (State.trainPorts x0) := by
  intro x0 h hw
  refine Keeps.trans ?_ hw h
  unfold State.trainPorts
  repeat' first
    | with_reducible
        first
        | assumption | exact Keeps.refl _ _ | apply State.setLink_keeps | refine Keeps.ite ?_ ?_
        | refine foldl_keeps (fun _ _ _ => ?_) ?_
    | exact rfl

theorem State.leavenStarts_keeps {T a} :
    ∀ x0 x1, Keeps T a x0 →
      within [.power, .boot, .ports, .dict, .log, .health, .parts, .ctxs, .links, .net] T = true →
      Keeps T a (State.leavenStarts x0 x1) := by
  intro x0 x1 h hw
  refine Keeps.trans ?_ hw h
  unfold State.leavenStarts
  repeat' first
    | with_reducible
        first
        | exact Keeps.refl _ _ | apply State.enter_keeps | apply State.logLatches_keeps
        | apply State.trainPorts_keeps | refine Keeps.ite ?_ ?_
    | exact rfl | extract_lets | dsimp +zetaDelta only
    | fail_if_no_progress
      with_reducible
        refine Keeps.lit rfl rfl rfl rfl rfl rfl id ?_ ?_ ?_ ?_ ?_ ?_ ?_ ?_ ?_ ?_ ?_ ?_ ?_ ?_
          ?_ ?_ ?_ ?_ ?_ ?_ ?_ ?_ ?_ ?_ ?_ ?_ ?_ ?_ <;>
        try first | exact Or.inr rfl | exact Or.inl rfl

theorem State.bootDecide_keeps {T a} :
    ∀ x0, Keeps T a x0 →
      within [.power, .boot, .ports, .dict, .log, .health, .parts, .ctxs, .links, .net] T = true →
      Keeps T a (State.bootDecide x0) := by
  intro x0 h hw
  refine Keeps.trans ?_ hw h
  unfold State.bootDecide
  repeat' first
    | with_reducible
        first
        | exact Keeps.refl _ _ | apply State.leavenStarts_keeps | apply State.setDev_keeps | refine Keeps.ite ?_ ?_
    | exact rfl | split

theorem State.dropLinks_keeps {T a} :
    ∀ x0 x1, Keeps T a x0 →
      within [.links] T = true →
      Keeps T a (State.dropLinks x0 x1) := by
  intro x0 x1 h hw
  refine Keeps.trans ?_ hw h
  unfold State.dropLinks
  repeat' first
    | with_reducible
        first
        | assumption | exact Keeps.refl _ _ | apply State.setLink_keeps | refine foldl_keeps (fun _ _ _ => ?_) ?_
    | exact rfl

theorem State.setSession_keeps {T a} :
    ∀ x0 x1 x2, Keeps T a x0 →
      within [.sessions] T = true →
      Keeps T a (State.setSession x0 x1 x2) := by
  intro x0 x1 x2 h hw
  refine Keeps.trans ?_ hw h
  unfold State.setSession
  repeat' first
    | with_reducible
        first
        | exact Keeps.refl _ _
    | fail_if_no_progress
      with_reducible
        refine Keeps.lit rfl rfl rfl rfl rfl rfl id ?_ ?_ ?_ ?_ ?_ ?_ ?_ ?_ ?_ ?_ ?_ ?_ ?_ ?_
          ?_ ?_ ?_ ?_ ?_ ?_ ?_ ?_ ?_ ?_ ?_ ?_ ?_ ?_ <;>
        try first | exact Or.inr rfl | exact Or.inl rfl

theorem State.endSession_keeps {T a} :
    ∀ x0 x1, Keeps T a x0 →
      within [.sessions] T = true →
      Keeps T a (State.endSession x0 x1) := by
  intro x0 x1 h hw
  refine Keeps.trans ?_ hw h
  unfold State.endSession
  repeat' first
    | with_reducible
        first
        | exact Keeps.refl _ _ | apply State.setSession_keeps
    | exact rfl

theorem State.loseI3c_keeps {T a} :
    ∀ x0, Keeps T a x0 →
      within [.sessions, .net] T = true →
      Keeps T a (State.loseI3c x0) := by
  intro x0 h hw
  refine Keeps.trans ?_ hw h
  unfold State.loseI3c
  repeat' first
    | with_reducible
        first
        | exact Keeps.refl _ _ | apply State.endSession_keeps
    | exact rfl | dsimp only
    | fail_if_no_progress
      with_reducible
        refine Keeps.lit rfl rfl rfl rfl rfl rfl id ?_ ?_ ?_ ?_ ?_ ?_ ?_ ?_ ?_ ?_ ?_ ?_ ?_ ?_
          ?_ ?_ ?_ ?_ ?_ ?_ ?_ ?_ ?_ ?_ ?_ ?_ ?_ ?_ <;>
        try first | exact Or.inr rfl | exact Or.inl rfl

theorem State.loseMessages_keeps {T a} :
    ∀ x0, Keeps T a x0 →
      within [.mboxes] T = true →
      Keeps T a (State.loseMessages x0) := by
  intro x0 h hw
  refine Keeps.trans ?_ hw h
  unfold State.loseMessages
  repeat' first
    | with_reducible
        first
        | exact Keeps.refl _ _
    | dsimp only
    | fail_if_no_progress
      with_reducible
        refine Keeps.lit rfl rfl rfl rfl rfl rfl id ?_ ?_ ?_ ?_ ?_ ?_ ?_ ?_ ?_ ?_ ?_ ?_ ?_ ?_
          ?_ ?_ ?_ ?_ ?_ ?_ ?_ ?_ ?_ ?_ ?_ ?_ ?_ ?_ <;>
        try first | exact Or.inr rfl | exact Or.inl rfl

theorem State.rollAll_keeps {T a} :
    ∀ x0, Keeps T a x0 →
      within [.ctxs] T = true →
      Keeps T a (State.rollAll x0) := by
  intro x0 h hw
  refine Keeps.trans ?_ hw h
  unfold State.rollAll
  repeat' first
    | with_reducible
        first
        | assumption | exact Keeps.refl _ _ | apply State.rollItem_keeps | refine foldl_keeps (fun _ _ _ => ?_) ?_
    | exact rfl | split

theorem State.takeOver_keeps {T a} :
    ∀ x0 x1, Keeps T a x0 →
      within [.boot] T = true →
      Keeps T a (State.takeOver x0 x1) := by
  intro x0 x1 h hw
  refine Keeps.trans ?_ hw h
  unfold State.takeOver
  repeat' first
    | with_reducible
        first
        | exact Keeps.refl _ _ | refine Keeps.ite ?_ ?_
    | dsimp only
    | fail_if_no_progress
      with_reducible
        refine Keeps.lit rfl rfl rfl rfl rfl rfl id ?_ ?_ ?_ ?_ ?_ ?_ ?_ ?_ ?_ ?_ ?_ ?_ ?_ ?_
          ?_ ?_ ?_ ?_ ?_ ?_ ?_ ?_ ?_ ?_ ?_ ?_ ?_ ?_ <;>
        try first | exact Or.inr rfl | exact Or.inl rfl

theorem State.prooferFails_keeps {T a} :
    ∀ x0 x1 x2, Keeps T a x0 →
      within [.time, .power, .boot, .ports, .mboxes, .sessions, .dict, .log, .health, .parts, .ctxs, .links, .net] T = true →
      Keeps T a (State.prooferFails x0 x1 x2) := by
  intro x0 x1 x2 h hw
  refine Keeps.trans ?_ hw h
  unfold State.prooferFails
  repeat' first
    | with_reducible
        first
        | exact Keeps.refl _ _ | apply State.abortSegments_keeps | apply State.bootDecide_keeps
        | apply State.dropLinks_keeps | apply State.endSession_keeps | apply State.loseI3c_keeps
        | apply State.loseMessages_keeps | apply State.markFaulty_keeps | apply State.portsChanged_keeps
        | apply State.rollAll_keeps | apply State.takeOver_keeps
    | exact rfl | extract_lets | split | dsimp +zetaDelta only
    | fail_if_no_progress
      with_reducible
        refine Keeps.lit rfl rfl rfl rfl rfl rfl id ?_ ?_ ?_ ?_ ?_ ?_ ?_ ?_ ?_ ?_ ?_ ?_ ?_ ?_
          ?_ ?_ ?_ ?_ ?_ ?_ ?_ ?_ ?_ ?_ ?_ ?_ ?_ ?_ <;>
        try first | exact Or.inr rfl | exact Or.inl rfl

theorem State.degradeMirrors_keeps {T a} :
    ∀ x0 x1, Keeps T a x0 →
      within [.dict] T = true →
      Keeps T a (State.degradeMirrors x0 x1) := by
  intro x0 x1 h hw
  refine Keeps.trans ?_ hw h
  unfold State.degradeMirrors
  repeat' first
    | with_reducible
        first
        | assumption | exact Keeps.refl _ _ | apply State.setObj_keeps | refine Keeps.ite ?_ ?_
        | refine foldl_keeps (fun _ _ _ => ?_) ?_
    | exact rfl

theorem State.dropLarder_keeps {T a} :
    ∀ x0 x1, Keeps T a x0 →
      within [.dict, .larders] T = true →
      Keeps T a (State.dropLarder x0 x1) := by
  intro x0 x1 h hw
  refine Keeps.trans ?_ hw h
  unfold State.dropLarder
  repeat' first
    | with_reducible
        first
        | exact Keeps.refl _ _ | apply State.setLarder_keeps | apply State.setObj_keeps
    | exact rfl

theorem State.journalStackFails_keeps {T a} :
    ∀ x0 x1 x2, Keeps T a x0 →
      within [.boot, .log, .health, .journal] T = true →
      Keeps T a (State.journalStackFails x0 x1 x2) := by
  intro x0 x1 x2 h hw
  refine Keeps.trans ?_ hw h
  unfold State.journalStackFails
  repeat' first
    | with_reducible
        first
        | exact Keeps.refl _ _ | apply State.markFaulty_keeps | refine Keeps.ite ?_ ?_
    | exact rfl | extract_lets | split
    | fail_if_no_progress
      with_reducible
        refine Keeps.lit rfl rfl rfl rfl rfl rfl id ?_ ?_ ?_ ?_ ?_ ?_ ?_ ?_ ?_ ?_ ?_ ?_ ?_ ?_
          ?_ ?_ ?_ ?_ ?_ ?_ ?_ ?_ ?_ ?_ ?_ ?_ ?_ ?_ <;>
        try first | exact Or.inr rfl | exact Or.inl rfl

theorem State.discardBinding_keeps {T a} :
    ∀ x0 x1, Keeps T a x0 →
      within [.dict, .log, .cores, .hbm, .hbmPoison, .hbmEcc, .larders, .movers, .folds, .parts, .chanUse] T = true →
      Keeps T a (State.discardBinding x0 x1) := by
  intro x0 x1 h hw
  refine Keeps.trans ?_ hw h
  unfold State.discardBinding
  repeat' first
    | with_reducible
        first
        | assumption | exact Keeps.refl _ _ | apply State.clearRun_keeps | apply State.pinBinding_keeps
        | apply State.setPart_keeps | refine Keeps.ite ?_ ?_ | refine foldl_keeps (fun _ _ _ => ?_) ?_
    | exact rfl | extract_lets | split

theorem State.release_keeps {T a} :
    ∀ x0 x1, Keeps T a x0 →
      within [.parts] T = true →
      Keeps T a (State.release x0 x1) := by
  intro x0 x1 h hw
  refine Keeps.trans ?_ hw h
  unfold State.release
  repeat' first
    | with_reducible
        first
        | exact Keeps.refl _ _ | apply State.setPart_keeps
    | exact rfl

theorem State.finish_keeps {T a} :
    ∀ x0 x1 x2 x3 x4 x5 x6 x7, Keeps T a x0 →
      within [.log, .ctxs, .journal] T = true →
      Keeps T a (State.finish x0 x1 x2 x3 x4 x5 x6 x7) := by
  intro x0 x1 x2 x3 x4 x5 x6 x7 h hw
  refine Keeps.trans ?_ hw h
  unfold State.finish
  repeat' first
    | with_reducible
        first
        | exact Keeps.refl _ _ | apply State.journalAppend_keeps | apply State.logMissed_keeps
        | apply State.setCtx_keeps | refine Keeps.ite ?_ ?_
    | exact rfl

theorem State.returnItems_keeps {T a} :
    ∀ x0 x1 x2 x3 x4 x5, Keeps T a x0 →
      within [.log, .ctxs, .journal] T = true →
      Keeps T a (State.returnItems x0 x1 x2 x3 x4 x5) := by
  intro x0 x1 x2 x3 x4 x5 h hw
  refine Keeps.trans ?_ hw h
  unfold State.returnItems
  repeat' first
    | with_reducible
        first
        | assumption | exact Keeps.refl _ _ | apply State.finish_keeps | apply State.journalAppend_keeps
        | apply State.report_keeps | refine foldl_keeps (fun _ _ _ => ?_) ?_
    | exact rfl | extract_lets | split | dsimp only | dsimp +zetaDelta only
    | fail_if_no_progress
      with_reducible
        refine Keeps.lit rfl rfl rfl rfl rfl rfl id ?_ ?_ ?_ ?_ ?_ ?_ ?_ ?_ ?_ ?_ ?_ ?_ ?_ ?_
          ?_ ?_ ?_ ?_ ?_ ?_ ?_ ?_ ?_ ?_ ?_ ?_ ?_ ?_ <;>
        try first | exact Or.inr rfl | exact Or.inl rfl

theorem State.returnLost_keeps {T a} :
    ∀ x0 x1 x2 x3, Keeps T a x0 →
      within [.dict, .log, .cores, .hbm, .hbmPoison, .hbmEcc, .larders, .movers, .folds, .parts, .ctxs, .journal, .chanUse] T = true →
      Keeps T a (State.returnLost x0 x1 x2 x3) := by
  intro x0 x1 x2 x3 h hw
  refine Keeps.trans ?_ hw h
  unfold State.returnLost
  repeat' first
    | with_reducible
        first
        | assumption | exact Keeps.refl _ _ | apply State.discardBinding_keeps | apply State.release_keeps
        | apply State.returnItems_keeps | apply State.setCtx_keeps | refine Keeps.ite ?_ ?_
        | refine foldl_keeps (fun _ _ _ => ?_) ?_
    | exact rfl

theorem State.stackFails_keeps {T a} :
    ∀ x0 x1 x2, Keeps T a x0 →
      within [.boot, .dict, .log, .health, .cores, .hbm, .hbmPoison, .hbmEcc, .larders, .movers, .folds, .parts, .ctxs, .journal, .chanUse] T = true →
      Keeps T a (State.stackFails x0 x1 x2) := by
  intro x0 x1 x2 h hw
  refine Keeps.trans ?_ hw h
  unfold State.stackFails
  repeat' first
    | with_reducible
        first
        | assumption | exact Keeps.refl _ _ | apply State.degradeMirrors_keeps | apply State.dropLarder_keeps
        | apply State.journalStackFails_keeps | apply State.loseBinding_keeps | apply State.markFaulty_keeps
        | apply State.returnLost_keeps | refine foldl_keeps (fun _ _ _ => ?_) ?_
    | exact rfl

theorem State.unitFails_keeps {T a} :
    ∀ x0 x1 x2, Keeps T a x0 →
      within [.time, .power, .boot, .ports, .mboxes, .sessions, .dict, .log, .health, .cores, .hbm, .hbmPoison, .hbmEcc, .larders, .movers, .folds, .parts, .ctxs, .journal, .chanUse, .links, .net] T = true →
      Keeps T a (State.unitFails x0 x1 x2) := by
  intro x0 x1 x2 h hw
  refine Keeps.trans ?_ hw h
  unfold State.unitFails
  repeat' first
    | with_reducible
        first
        | exact Keeps.refl _ _ | apply State.amendCause_keeps | apply State.coreFails_keeps
        | apply State.finwellFails_keeps | apply State.logicFails_keeps | apply State.markFaulty_keeps
        | apply State.pcieFails_keeps | apply State.prooferFails_keeps | apply State.stackFails_keeps
        | refine Keeps.ite ?_ ?_
    | exact rfl | split

theorem State.beginRetrain_keeps {T a} :
    ∀ x0 x1, Keeps T a x0 →
      within [.time, .power, .boot, .ports, .mboxes, .sessions, .dict, .log, .health, .cores, .hbm, .hbmPoison, .hbmEcc, .larders, .movers, .folds, .parts, .ctxs, .journal, .chanUse, .links, .net] T = true →
      Keeps T a (State.beginRetrain x0 x1) := by
  intro x0 x1 h hw
  refine Keeps.trans ?_ hw h
  unfold State.beginRetrain
  repeat' first
    | with_reducible
        first
        | exact Keeps.refl _ _ | apply State.bump_keeps | apply State.setLink_keeps | apply State.unitFails_keeps
        | refine Keeps.ite ?_ ?_
    | exact rfl

theorem State.ackTimeout_keeps {T a} :
    ∀ x0 x1 x2, Keeps T a x0 →
      within [.time, .power, .boot, .ports, .mboxes, .sessions, .dict, .log, .health, .cores, .hbm, .hbmPoison, .hbmEcc, .larders, .movers, .folds, .parts, .ctxs, .journal, .chanUse, .links, .net] T = true →
      Keeps T a (State.ackTimeout x0 x1 x2) := by
  intro x0 x1 x2 h hw
  refine Keeps.trans ?_ hw h
  unfold State.ackTimeout
  repeat' first
    | with_reducible
        first
        | exact Keeps.refl _ _ | apply State.beginRetrain_keeps | apply State.bump_keeps | apply State.report_keeps
    | exact rfl

theorem State.advanceEpoch_keeps {T a} :
    ∀ x0, Keeps T a x0 →
      within [.dict, .seeds] T = true →
      Keeps T a (State.advanceEpoch x0) := by
  intro x0 h hw
  refine Keeps.trans ?_ hw h
  unfold State.advanceEpoch
  repeat' first
    | with_reducible
        first
        | exact Keeps.refl _ _ | apply State.bump_keeps | apply State.setObj_keeps
    | exact rfl
    | fail_if_no_progress
      with_reducible
        refine Keeps.lit rfl rfl rfl rfl rfl rfl id ?_ ?_ ?_ ?_ ?_ ?_ ?_ ?_ ?_ ?_ ?_ ?_ ?_ ?_
          ?_ ?_ ?_ ?_ ?_ ?_ ?_ ?_ ?_ ?_ ?_ ?_ ?_ ?_ <;>
        try first | exact Or.inr rfl | exact Or.inl rfl

theorem State.flushMctp_keeps {T a} :
    ∀ x0, Keeps T a x0 →
      within [.net] T = true →
      Keeps T a (State.flushMctp x0) := by
  intro x0 h hw
  refine Keeps.trans ?_ hw h
  unfold State.flushMctp
  repeat' first
    | with_reducible
        first
        | exact Keeps.refl _ _
    | dsimp only
    | fail_if_no_progress
      with_reducible
        refine Keeps.lit rfl rfl rfl rfl rfl rfl id ?_ ?_ ?_ ?_ ?_ ?_ ?_ ?_ ?_ ?_ ?_ ?_ ?_ ?_
          ?_ ?_ ?_ ?_ ?_ ?_ ?_ ?_ ?_ ?_ ?_ ?_ ?_ ?_ <;>
        try first | exact Or.inr rfl | exact Or.inl rfl

theorem State.queueMctp_keeps {T a} :
    ∀ x0 x1, Keeps T a x0 →
      within [.net] T = true →
      Keeps T a (State.queueMctp x0 x1) := by
  intro x0 x1 h hw
  refine Keeps.trans ?_ hw h
  unfold State.queueMctp
  repeat' first
    | with_reducible
        first
        | exact Keeps.refl _ _ | apply State.flushMctp_keeps
    | exact rfl | dsimp only
    | fail_if_no_progress
      with_reducible
        refine Keeps.lit rfl rfl rfl rfl rfl rfl id ?_ ?_ ?_ ?_ ?_ ?_ ?_ ?_ ?_ ?_ ?_ ?_ ?_ ?_
          ?_ ?_ ?_ ?_ ?_ ?_ ?_ ?_ ?_ ?_ ?_ ?_ ?_ ?_ <;>
        try first | exact Or.inr rfl | exact Or.inl rfl

theorem State.answerMctp_keeps {T a} :
    ∀ x0 x1 x2 x3, Keeps T a x0 →
      within [.net] T = true →
      Keeps T a (State.answerMctp x0 x1 x2 x3) := by
  intro x0 x1 x2 x3 h hw
  refine Keeps.trans ?_ hw h
  unfold State.answerMctp
  repeat' first
    | with_reducible
        first
        | exact Keeps.refl _ _ | apply State.queueMctp_keeps
    | exact rfl

theorem State.answerRead_keeps {T a} :
    ∀ x0 x1 x2, Keeps T a x0 →
      within [.ports] T = true →
      Keeps T a (State.answerRead x0 x1 x2) := by
  intro x0 x1 x2 h hw
  refine Keeps.trans ?_ hw h
  unfold State.answerRead
  repeat' first
    | with_reducible
        first
        | exact Keeps.refl _ _ | apply State.setPort_keeps
    | exact rfl

theorem State.transferAcked_keeps {T a} :
    ∀ x0 x1 x2 x3, Keeps T a x0 →
      within [.movers, .links, .net] T = true →
      Keeps T a (State.transferAcked x0 x1 x2 x3) := by
  intro x0 x1 x2 x3 h hw
  refine Keeps.trans ?_ hw h
  unfold State.transferAcked
  repeat' first
    | with_reducible
        first
        | exact Keeps.refl _ _ | apply State.doneDesc_keeps | apply State.dropFlow_keeps | apply State.sendOn_keeps
        | apply State.setActive_keeps
    | exact rfl | split

theorem State.flitAcked_keeps {T a} :
    ∀ x0 x1 x2, Keeps T a x0 →
      within [.movers, .links, .net] T = true →
      Keeps T a (State.flitAcked x0 x1 x2) := by
  intro x0 x1 x2 h hw
  refine Keeps.trans ?_ hw h
  unfold State.flitAcked
  repeat' first
    | with_reducible
        first
        | exact Keeps.refl _ _ | apply State.setActive_keeps | apply State.transferAcked_keeps
        | refine Keeps.ite ?_ ?_
    | exact rfl | extract_lets | split

theorem State.applyAck_keeps {T a} :
    ∀ x0 x1 x2, Keeps T a x0 →
      within [.dict, .movers, .links, .net] T = true →
      Keeps T a (State.applyAck x0 x1 x2) := by
  intro x0 x1 x2 h hw
  refine Keeps.trans ?_ hw h
  unfold State.applyAck
  repeat' first
    | with_reducible
        first
        | assumption | exact Keeps.refl _ _ | apply State.bump_keeps | apply State.flitAcked_keeps
        | apply State.setLink_keeps | refine Keeps.ite ?_ ?_ | refine foldl_keeps (fun _ _ _ => ?_) ?_
    | exact rfl

theorem State.writeHandle_keeps {T a} :
    ∀ x0 x1 x2 x3, Keeps T a x0 →
      within [.cores] T = true →
      Keeps T a (State.writeHandle x0 x1 x2 x3) := by
  intro x0 x1 x2 x3 h hw
  refine Keeps.trans ?_ hw h
  unfold State.writeHandle
  repeat' first
    | with_reducible
        first
        | exact Keeps.refl _ _ | apply State.setCore_keeps
    | exact rfl

theorem State.writeHandles_keeps {T a} :
    ∀ x0 x1 x2 x3, Keeps T a x0 →
      within [.cores] T = true →
      Keeps T a (State.writeHandles x0 x1 x2 x3) := by
  intro x0 x1 x2 x3 h hw
  refine Keeps.trans ?_ hw h
  unfold State.writeHandles
  repeat' first
    | with_reducible
        first
        | assumption | exact Keeps.refl _ _ | apply State.writeHandle_keeps | refine Keeps.ite ?_ ?_
        | refine foldl_keeps (fun _ _ _ => ?_) ?_
    | exact rfl | extract_lets | split

theorem State.armUnits_keeps {T a} :
    ∀ x0 x1 x2, Keeps T a x0 →
      within [.cores, .movers, .folds, .parts] T = true →
      Keeps T a (State.armUnits x0 x1 x2) := by
  intro x0 x1 x2 h hw
  refine Keeps.trans ?_ hw h
  unfold State.armUnits
  repeat' first
    | with_reducible
        first
        | assumption | exact Keeps.refl _ _ | apply State.setBinding_keeps | apply State.setCore_keeps
        | apply State.setFolds_keeps | apply State.setMover_keeps | apply State.writeHandles_keeps
        | refine Keeps.ite ?_ ?_ | refine foldl_keeps (fun _ _ _ => ?_) ?_
    | exact rfl | split

theorem State.badHealth_keeps {T a} :
    ∀ x0 x1, Keeps T a x0 →
      within [.log] T = true →
      Keeps T a (State.badHealth x0 x1) := by
  intro x0 x1 h hw
  refine Keeps.trans ?_ hw h
  unfold State.badHealth
  repeat' first
    | with_reducible
        first
        | assumption | exact Keeps.refl _ _ | apply State.report_keeps | refine foldl_keeps (fun _ _ _ => ?_) ?_
    | exact rfl

theorem State.journalReclaim_keeps {T a} :
    ∀ x0 x1, Keeps T a x0 →
      within [.journal] T = true →
      Keeps T a (State.journalReclaim x0 x1) := by
  intro x0 x1 h hw
  refine Keeps.trans ?_ hw h
  unfold State.journalReclaim
  repeat' first
    | with_reducible
        first
        | exact Keeps.refl _ _
    | extract_lets | dsimp +zetaDelta only
    | fail_if_no_progress
      with_reducible
        refine Keeps.lit rfl rfl rfl rfl rfl rfl id ?_ ?_ ?_ ?_ ?_ ?_ ?_ ?_ ?_ ?_ ?_ ?_ ?_ ?_
          ?_ ?_ ?_ ?_ ?_ ?_ ?_ ?_ ?_ ?_ ?_ ?_ ?_ ?_ <;>
        try first | exact Or.inr rfl | exact Or.inl rfl

theorem State.readRecord_keeps {T a} :
    ∀ x0 x1 x2, Keeps T a x0 →
      within [.log] T = true →
      Keeps T a (State.readRecord x0 x1 x2).1 := by
  intro x0 x1 x2 h hw
  refine Keeps.trans ?_ hw h
  unfold State.readRecord
  repeat' first
    | with_reducible
        first
        | assumption | exact Keeps.refl _ _ | apply State.report_keeps | refine foldl_keeps (fun _ _ _ => ?_) ?_
    | exact rfl

theorem State.badRecord_keeps {T a} :
    ∀ x0 x1 x2, Keeps T a x0 →
      within [.log, .journal, .train] T = true →
      Keeps T a (State.badRecord x0 x1 x2) := by
  intro x0 x1 x2 h hw
  refine Keeps.trans ?_ hw h
  unfold State.badRecord
  repeat' first
    | with_reducible
        first
        | exact Keeps.refl _ _ | apply State.journalReclaim_keeps | apply State.readRecord_keeps
        | refine Keeps.ite ?_ ?_
    | exact rfl | extract_lets | split
    | fail_if_no_progress
      with_reducible
        refine Keeps.lit rfl rfl rfl rfl rfl rfl id ?_ ?_ ?_ ?_ ?_ ?_ ?_ ?_ ?_ ?_ ?_ ?_ ?_ ?_
          ?_ ?_ ?_ ?_ ?_ ?_ ?_ ?_ ?_ ?_ ?_ ?_ ?_ ?_ <;>
        try first | exact Or.inr rfl | exact Or.inl rfl

theorem State.poisonBank_keeps {T a} :
    ∀ x0 x1 x2, Keeps T a x0 →
      within [.scratch] T = true →
      Keeps T a (State.poisonBank x0 x1 x2) := by
  intro x0 x1 x2 h hw
  refine Keeps.trans ?_ hw h
  unfold State.poisonBank
  refine Keeps.lit rfl rfl rfl rfl rfl rfl (fun m => ⟨m.1, filter_wf _ _ _ m.2⟩) (Keeps.refl _ _) ?_ ?_ ?_ ?_ ?_ ?_ ?_ ?_ ?_ ?_
      ?_ ?_ ?_ ?_ ?_ ?_ ?_ ?_ ?_ ?_ ?_ ?_ ?_ ?_ ?_ ?_ ?_ <;>
    first | exact Or.inr rfl | exact Or.inl rfl

theorem State.bankReturn_keeps {T a} :
    ∀ x0 x1 x2 x3, Keeps T a x0 →
      within [.cores, .scratch] T = true →
      Keeps T a (State.bankReturn x0 x1 x2 x3) := by
  intro x0 x1 x2 x3 h hw
  refine Keeps.trans ?_ hw h
  unfold State.bankReturn
  repeat' first
    | with_reducible
        first
        | assumption | exact Keeps.refl _ _ | apply State.poisonBank_keeps | apply State.setCore_keeps
        | refine foldl_keeps (fun _ _ _ => ?_) ?_
    | exact rfl

theorem State.denyBar0_keeps {T a} :
    ∀ x0 x1 x2, Keeps T a x0 →
      within [.log] T = true →
      Keeps T a (State.denyBar0 x0 x1 x2) := by
  intro x0 x1 x2 h hw
  refine Keeps.trans ?_ hw h
  unfold State.denyBar0
  repeat' first
    | with_reducible
        first
        | exact Keeps.refl _ _ | apply State.deny_keeps
    | exact rfl

theorem State.mapHearthCores_keeps {T a} :
    ∀ x0 x1 x2, Keeps T a x0 →
      within [.cores] T = true →
      Keeps T a (State.mapHearthCores x0 x1 x2) := by
  intro x0 x1 x2 h hw
  refine Keeps.trans ?_ hw h
  unfold State.mapHearthCores
  repeat' first
    | with_reducible
        first
        | exact Keeps.refl _ _
    | extract_lets | dsimp +zetaDelta only
    | fail_if_no_progress
      with_reducible
        refine Keeps.lit rfl rfl rfl rfl rfl rfl id ?_ ?_ ?_ ?_ ?_ ?_ ?_ ?_ ?_ ?_ ?_ ?_ ?_ ?_
          ?_ ?_ ?_ ?_ ?_ ?_ ?_ ?_ ?_ ?_ ?_ ?_ ?_ ?_ <;>
        try first | exact Or.inr rfl | exact Or.inl rfl

theorem State.setLogic_keeps {T a} :
    ∀ x0 x1 x2, Keeps T a x0 →
      within [.power] T = true →
      Keeps T a (State.setLogic x0 x1 x2) := by
  intro x0 x1 x2 h hw
  refine Keeps.trans ?_ hw h
  unfold State.setLogic
  repeat' first
    | with_reducible
        first
        | exact Keeps.refl _ _
    | dsimp only
    | fail_if_no_progress
      with_reducible
        refine Keeps.lit rfl rfl rfl rfl rfl rfl id ?_ ?_ ?_ ?_ ?_ ?_ ?_ ?_ ?_ ?_ ?_ ?_ ?_ ?_
          ?_ ?_ ?_ ?_ ?_ ?_ ?_ ?_ ?_ ?_ ?_ ?_ ?_ ?_ <;>
        try first | exact Or.inr rfl | exact Or.inl rfl

theorem State.wakeHearth_keeps {T a} :
    ∀ x0 x1, Keeps T a x0 →
      within [.power, .cores] T = true →
      Keeps T a (State.wakeHearth x0 x1) := by
  intro x0 x1 h hw
  refine Keeps.trans ?_ hw h
  unfold State.wakeHearth
  repeat' first
    | with_reducible
        first
        | exact Keeps.refl _ _ | apply State.mapHearthCores_keeps | apply State.setLogic_keeps
        | refine Keeps.ite ?_ ?_
    | exact rfl

theorem State.wakePart_keeps {T a} :
    ∀ x0 x1, Keeps T a x0 →
      within [.power, .cores] T = true →
      Keeps T a (State.wakePart x0 x1) := by
  intro x0 x1 h hw
  refine Keeps.trans ?_ hw h
  unfold State.wakePart
  repeat' first
    | with_reducible
        first
        | assumption | exact Keeps.refl _ _ | apply State.wakeHearth_keeps | refine foldl_keeps (fun _ _ _ => ?_) ?_
    | exact rfl

theorem State.doorbell_keeps {T a} :
    ∀ x0 x1 x2, Keeps T a x0 →
      within [.power, .cores, .ctxs] T = true →
      Keeps T a (State.doorbell x0 x1 x2) := by
  intro x0 x1 x2 h hw
  refine Keeps.trans ?_ hw h
  unfold State.doorbell
  repeat' first
    | with_reducible
        first
        | exact Keeps.refl _ _ | apply State.setCtx_keeps | apply State.wakePart_keeps | refine Keeps.ite ?_ ?_
    | exact rfl

theorem State.acknowledge_keeps (x : State) (l : Log) (v : Nat) (h : x.log.acknowledge v = some l) : Keeps [.log] x { x with log := l } := by
  have hl : v ≤ x.log.head ∧ x.log.ack ≤ v ∧ l = { x.log with ack := v } := by
    unfold Log.acknowledge at h
    split at h
    · cases h
    · cases h; refine ⟨by omega, by omega, rfl⟩
  obtain ⟨h1, h2, rfl⟩ := hl
  constructor <;> first | exact Or.inr rfl | exact Or.inl rfl | exact Nat.le_refl _ | exact id | rfl | assumption | exact fun _ => h1

theorem State.writeAck_keeps {T a} :
    ∀ x0 x1, Keeps T a x0 →
      within [.log] T = true →
      Keeps T a (State.writeAck x0 x1).1 := by
  intro x0 x1 h hw
  refine Keeps.trans ?_ hw h
  unfold State.writeAck
  split
  · exact State.acknowledge_keeps _ _ _ (by assumption)
  · exact Keeps.refl _ _

theorem State.elogAckHi_keeps {T a} :
    ∀ x0 x1 x2, Keeps T a x0 →
      within [.log] T = true →
      Keeps T a (State.elogAckHi x0 x1 x2) := by
  intro x0 x1 x2 h hw
  refine Keeps.trans ?_ hw h
  unfold State.elogAckHi
  repeat' first
    | with_reducible
        first
        | exact Keeps.refl _ _ | apply State.denyBar0_keeps | apply State.writeAck_keeps | refine Keeps.ite ?_ ?_
    | exact rfl

theorem State.elogWriteReg_keeps {T a} :
    ∀ x0 x1 x2 x3, Keeps T a x0 →
      within [.ports, .log] T = true →
      Keeps T a (State.elogWriteReg x0 x1 x2 x3) := by
  intro x0 x1 x2 x3 h hw
  refine Keeps.trans ?_ hw h
  unfold State.elogWriteReg
  repeat' first
    | with_reducible
        first
        | exact Keeps.refl _ _ | apply State.elogAckHi_keeps | apply State.setPort_keeps
    | exact rfl | split

theorem State.raiseMbox_keeps {T a} :
    ∀ x0 x1, Keeps T a x0 →
      within [.ports] T = true →
      Keeps T a (State.raiseMbox x0 x1) := by
  intro x0 x1 h hw
  refine Keeps.trans ?_ hw h
  unfold State.raiseMbox
  repeat' first
    | with_reducible
        first
        | exact Keeps.refl _ _ | apply State.raise_keeps
    | exact rfl

theorem State.postDevice_keeps {T a} :
    ∀ x0 x1 x2, Keeps T a x0 →
      within [.ports, .mboxes] T = true →
      Keeps T a (State.postDevice x0 x1 x2) := by
  intro x0 x1 x2 h hw
  refine Keeps.trans ?_ hw h
  unfold State.postDevice
  repeat' first
    | with_reducible
        first
        | exact Keeps.refl _ _ | apply State.raiseMbox_keeps | apply State.setMbox_keeps | refine Keeps.ite ?_ ?_
    | exact rfl

theorem State.postSegment_keeps {T a} :
    ∀ x0 x1, Keeps T a x0 →
      within [.ports, .mboxes] T = true →
      Keeps T a (State.postSegment x0 x1) := by
  intro x0 x1 h hw
  refine Keeps.trans ?_ hw h
  unfold State.postSegment
  repeat' first
    | with_reducible
        first
        | exact Keeps.refl _ _ | apply State.postDevice_keeps | apply State.setPort_keeps | refine Keeps.ite ?_ ?_
    | exact rfl | extract_lets | split

theorem State.retrySegment_keeps {T a} :
    ∀ x0 x1, Keeps T a x0 →
      within [.ports, .mboxes] T = true →
      Keeps T a (State.retrySegment x0 x1) := by
  intro x0 x1 h hw
  refine Keeps.trans ?_ hw h
  unfold State.retrySegment
  repeat' first
    | with_reducible
        first
        | exact Keeps.refl _ _ | apply State.postSegment_keeps
    | exact rfl | split

theorem State.takeDevice_keeps {T a} :
    ∀ x0 x1, Keeps T a x0 →
      within [.ports, .mboxes] T = true →
      Keeps T a (State.takeDevice x0 x1) := by
  intro x0 x1 h hw
  refine Keeps.trans ?_ hw h
  unfold State.takeDevice
  repeat' first
    | with_reducible
        first
        | exact Keeps.refl _ _ | apply State.endWindow_keeps | apply State.postSegment_keeps
        | apply State.setMbox_keeps | apply State.setPort_keeps | refine Keeps.ite ?_ ?_
    | exact rfl | extract_lets | split

theorem State.ctrlFlags_keeps {T a} :
    ∀ x0 x1 x2, Keeps T a x0 →
      within [.ports, .mboxes] T = true →
      Keeps T a (State.ctrlFlags x0 x1 x2) := by
  intro x0 x1 x2 h hw
  refine Keeps.trans ?_ hw h
  unfold State.ctrlFlags
  repeat' first
    | with_reducible
        first
        | exact Keeps.refl _ _ | apply State.retrySegment_keeps | apply State.setMbox_keeps
        | apply State.takeDevice_keeps | refine Keeps.ite ?_ ?_
    | exact rfl

theorem State.denyMbox_keeps {T a} :
    ∀ x0 x1 x2, Keeps T a x0 →
      within [.log] T = true →
      Keeps T a (State.denyMbox x0 x1 x2) := by
  intro x0 x1 x2 h hw
  refine Keeps.trans ?_ hw h
  unfold State.denyMbox
  repeat' first
    | with_reducible
        first
        | exact Keeps.refl _ _ | apply State.denyBar0_keeps
    | exact rfl

theorem State.postHost_keeps {T a} :
    ∀ x0 x1, Keeps T a x0 →
      within [.power, .mboxes, .log] T = true →
      Keeps T a (State.postHost x0 x1) := by
  intro x0 x1 h hw
  refine Keeps.trans ?_ hw h
  unfold State.postHost
  repeat' first
    | with_reducible
        first
        | exact Keeps.refl _ _ | apply State.denyMbox_keeps | apply State.setMbox_keeps | refine Keeps.ite ?_ ?_
    | exact rfl | extract_lets | dsimp +zetaDelta only
    | fail_if_no_progress
      with_reducible
        refine Keeps.lit rfl rfl rfl rfl rfl rfl id ?_ ?_ ?_ ?_ ?_ ?_ ?_ ?_ ?_ ?_ ?_ ?_ ?_ ?_
          ?_ ?_ ?_ ?_ ?_ ?_ ?_ ?_ ?_ ?_ ?_ ?_ ?_ ?_ <;>
        try first | exact Or.inr rfl | exact Or.inl rfl

theorem State.ctrlWrite_keeps {T a} :
    ∀ x0 x1 x2, Keeps T a x0 →
      within [.power, .ports, .mboxes, .log] T = true →
      Keeps T a (State.ctrlWrite x0 x1 x2) := by
  intro x0 x1 x2 h hw
  refine Keeps.trans ?_ hw h
  unfold State.ctrlWrite
  repeat' first
    | with_reducible
        first
        | exact Keeps.refl _ _ | apply State.ctrlFlags_keeps | apply State.denyMbox_keeps
        | apply State.postHost_keeps | apply State.setMbox_keeps | refine Keeps.ite ?_ ?_
    | exact rfl

theorem State.mboxWriteReg_keeps {T a} :
    ∀ x0 x1 x2 x3, Keeps T a x0 →
      within [.power, .ports, .mboxes, .log] T = true →
      Keeps T a (State.mboxWriteReg x0 x1 x2 x3) := by
  intro x0 x1 x2 x3 h hw
  refine Keeps.trans ?_ hw h
  unfold State.mboxWriteReg
  repeat' first
    | with_reducible
        first
        | exact Keeps.refl _ _ | apply State.ctrlWrite_keeps | apply State.denyMbox_keeps
        | apply State.setMbox_keeps | refine Keeps.ite ?_ ?_
    | exact rfl

theorem State.msixWriteReg_keeps {T a} :
    ∀ x0 x1 x2 x3 x4, Keeps T a x0 →
      within [.ports] T = true →
      Keeps T a (State.msixWriteReg x0 x1 x2 x3 x4) := by
  intro x0 x1 x2 x3 x4 h hw
  refine Keeps.trans ?_ hw h
  unfold State.msixWriteReg
  repeat' first
    | with_reducible
        first
        | exact Keeps.refl _ _ | apply State.raise_keeps | apply State.setPort_keeps | refine Keeps.ite ?_ ?_
    | exact rfl

theorem State.setCmd_keeps {T a} :
    ∀ x0 x1 x2 x3 x4 x5, Keeps T a x0 →
      within [.ports] T = true →
      Keeps T a (State.setCmd x0 x1 x2 x3 x4 x5) := by
  intro x0 x1 x2 x3 x4 x5 h hw
  refine Keeps.trans ?_ hw h
  unfold State.setCmd
  repeat' first
    | with_reducible
        first
        | exact Keeps.refl _ _ | apply State.setPort_keeps
    | exact rfl

theorem State.windowAbort_keeps {T a} :
    ∀ x0 x1, Keeps T a x0 →
      within [.ports, .mboxes] T = true →
      Keeps T a (State.windowAbort x0 x1) := by
  intro x0 x1 h hw
  refine Keeps.trans ?_ hw h
  unfold State.windowAbort
  repeat' first
    | with_reducible
        first
        | exact Keeps.refl _ _ | apply State.setMbox_keeps | apply State.setPort_keeps | refine Keeps.ite ?_ ?_
    | exact rfl

theorem State.endRead_keeps {T a} :
    ∀ x0 x1 x2, Keeps T a x0 →
      within [.ports, .mboxes] T = true →
      Keeps T a (State.endRead x0 x1 x2) := by
  intro x0 x1 x2 h hw
  refine Keeps.trans ?_ hw h
  unfold State.endRead
  repeat' first
    | with_reducible
        first
        | exact Keeps.refl _ _ | apply State.endWindow_keeps | apply State.setPort_keeps
    | exact rfl

theorem State.draw_keeps {T a} :
    ∀ x0 x1 x2, Keeps T a x0 →
      within [.freeCtr] T = true →
      Keeps T a (State.draw x0 x1 x2).2 := by
  intro x0 x1 x2 h hw
  refine Keeps.trans ?_ hw h
  unfold State.draw
  repeat' first
    | with_reducible
        first
        | exact Keeps.refl _ _
    | dsimp only
    | fail_if_no_progress
      with_reducible
        refine Keeps.lit rfl rfl rfl rfl rfl rfl id ?_ ?_ ?_ ?_ ?_ ?_ ?_ ?_ ?_ ?_ ?_ ?_ ?_ ?_
          ?_ ?_ ?_ ?_ ?_ ?_ ?_ ?_ ?_ ?_ ?_ ?_ ?_ ?_ <;>
        try first | exact Or.inr rfl | exact Or.inl rfl

theorem State.objRead_keeps {T a} :
    ∀ x0 x1 x2 x3, Keeps T a x0 →
      within [.sessions, .freeCtr] T = true →
      Keeps T a (State.objRead x0 x1 x2 x3).1 := by
  intro x0 x1 x2 x3 h hw
  refine Keeps.trans ?_ hw h
  unfold State.objRead
  repeat' first
    | with_reducible
        first
        | exact Keeps.refl _ _ | apply State.draw_keeps | apply State.setSession_keeps | refine Keeps.iteFst ?_ ?_
    | exact rfl | extract_lets | split

theorem State.forward_keeps {T a} :
    ∀ x0 x1 x2, Keeps T a x0 →
      within [.links, .net] T = true →
      Keeps T a (State.forward x0 x1 x2) := by
  intro x0 x1 x2 h hw
  refine Keeps.trans ?_ hw h
  unfold State.forward
  repeat' first
    | with_reducible
        first
        | exact Keeps.refl _ _ | apply State.sendLane_keeps
    | exact rfl | extract_lets | dsimp +zetaDelta only
    | fail_if_no_progress
      with_reducible
        refine Keeps.lit rfl rfl rfl rfl rfl rfl id ?_ ?_ ?_ ?_ ?_ ?_ ?_ ?_ ?_ ?_ ?_ ?_ ?_ ?_
          ?_ ?_ ?_ ?_ ?_ ?_ ?_ ?_ ?_ ?_ ?_ ?_ ?_ ?_ <;>
        try first | exact Or.inr rfl | exact Or.inl rfl

theorem State.windowRemote_keeps {T a} :
    ∀ x0 x1 x2 x3, Keeps T a x0 →
      within [.ports, .mboxes, .log, .links, .net] T = true →
      Keeps T a (State.windowRemote x0 x1 x2 x3) := by
  intro x0 x1 x2 x3 h hw
  refine Keeps.trans ?_ hw h
  unfold State.windowRemote
  repeat' first
    | with_reducible
        first
        | exact Keeps.refl _ _ | apply State.abortWindow_keeps | apply State.forward_keeps
        | apply State.setPort_keeps | refine Keeps.ite ?_ ?_
    | exact rfl

theorem State.windowRead_keeps {T a} :
    ∀ x0 x1, Keeps T a x0 →
      within [.ports, .mboxes, .sessions, .log, .links, .net, .freeCtr] T = true →
      Keeps T a (State.windowRead x0 x1) := by
  intro x0 x1 h hw
  refine Keeps.trans ?_ hw h
  unfold State.windowRead
  repeat' first
    | with_reducible
        first
        | exact Keeps.refl _ _ | apply State.abortWindow_keeps | apply State.endRead_keeps
        | apply State.objRead_keeps | apply State.windowRemote_keeps | refine Keeps.ite ?_ ?_
    | exact rfl | extract_lets | split
    | with_reducible
        first
        | refine Keeps.fst (by assumption) ?_

theorem State.holdMbox_keeps {T a} :
    ∀ x0 x1, Keeps T a x0 →
      within [.mboxes] T = true →
      Keeps T a (State.holdMbox x0 x1) := by
  intro x0 x1 h hw
  refine Keeps.trans ?_ hw h
  unfold State.holdMbox
  repeat' first
    | with_reducible
        first
        | exact Keeps.refl _ _ | apply State.setMbox_keeps
    | exact rfl

theorem State.startSegments_keeps {T a} :
    ∀ x0 x1 x2, Keeps T a x0 →
      within [.ports, .mboxes] T = true →
      Keeps T a (State.startSegments x0 x1 x2) := by
  intro x0 x1 x2 h hw
  refine Keeps.trans ?_ hw h
  unfold State.startSegments
  repeat' first
    | with_reducible
        first
        | exact Keeps.refl _ _ | apply State.endWindow_keeps | apply State.postSegment_keeps
        | apply State.setPort_keeps | refine Keeps.ite ?_ ?_
    | exact rfl

theorem State.windowSegRead_keeps {T a} :
    ∀ x0 x1, Keeps T a x0 →
      within [.ports, .mboxes, .sessions, .log, .links, .net, .freeCtr] T = true →
      Keeps T a (State.windowSegRead x0 x1) := by
  intro x0 x1 h hw
  refine Keeps.trans ?_ hw h
  unfold State.windowSegRead
  repeat' first
    | with_reducible
        first
        | exact Keeps.refl _ _ | apply State.abortWindow_keeps | apply State.holdMbox_keeps
        | apply State.objRead_keeps | apply State.startSegments_keeps | apply State.windowRemote_keeps
        | refine Keeps.ite ?_ ?_
    | exact rfl | extract_lets | split
    | with_reducible
        first
        | refine Keeps.fst (by assumption) ?_

theorem State.windowSegWrite_keeps {T a} :
    ∀ x0 x1, Keeps T a x0 →
      within [.ports, .mboxes, .log] T = true →
      Keeps T a (State.windowSegWrite x0 x1) := by
  intro x0 x1 h hw
  refine Keeps.trans ?_ hw h
  unfold State.windowSegWrite
  repeat' first
    | with_reducible
        first
        | exact Keeps.refl _ _ | apply State.abortWindow_keeps | apply State.holdMbox_keeps
        | apply State.setPort_keeps | refine Keeps.ite ?_ ?_
    | exact rfl

theorem State.linkDown_keeps {T a} :
    ∀ x0 x1, Keeps T a x0 →
      within [.time, .links, .net] T = true →
      Keeps T a (State.linkDown x0 x1) := by
  intro x0 x1 h hw
  refine Keeps.trans ?_ hw h
  unfold State.linkDown
  repeat' first
    | with_reducible
        first
        | exact Keeps.refl _ _ | apply State.portsChanged_keeps | apply State.setLink_keeps
    | exact rfl

theorem State.enablePort_keeps {T a} :
    ∀ x0 x1 x2, Keeps T a x0 →
      within [.time, .power, .dict, .links, .net] T = true →
      Keeps T a (State.enablePort x0 x1 x2) := by
  intro x0 x1 x2 h hw
  refine Keeps.trans ?_ hw h
  unfold State.enablePort
  repeat' first
    | with_reducible
        first
        | exact Keeps.refl _ _ | apply State.linkDown_keeps | apply State.setLink_keeps | apply State.setObj_keeps
        | refine Keeps.ite ?_ ?_
    | exact rfl | extract_lets | dsimp +zetaDelta only
    | fail_if_no_progress
      with_reducible
        refine Keeps.lit rfl rfl rfl rfl rfl rfl id ?_ ?_ ?_ ?_ ?_ ?_ ?_ ?_ ?_ ?_ ?_ ?_ ?_ ?_
          ?_ ?_ ?_ ?_ ?_ ?_ ?_ ?_ ?_ ?_ ?_ ?_ ?_ ?_ <;>
        try first | exact Or.inr rfl | exact Or.inl rfl

theorem State.endPrivilege_keeps {T a} :
    ∀ x0 x1, Keeps T a x0 →
      within [.sessions] T = true →
      Keeps T a (State.endPrivilege x0 x1) := by
  intro x0 x1 h hw
  refine Keeps.trans ?_ hw h
  unfold State.endPrivilege
  repeat' first
    | with_reducible
        first
        | exact Keeps.refl _ _ | apply State.setSession_keeps
    | exact rfl

theorem State.freshScrub_keeps {T a} :
    ∀ x0, Keeps T a x0 →
      within [.cores] T = true →
      Keeps T a (State.freshScrub x0) := by
  intro x0 h hw
  refine Keeps.trans ?_ hw h
  unfold State.freshScrub
  repeat' first
    | with_reducible
        first
        | exact Keeps.refl _ _
    | dsimp only
    | fail_if_no_progress
      with_reducible
        refine Keeps.lit rfl rfl rfl rfl rfl rfl id ?_ ?_ ?_ ?_ ?_ ?_ ?_ ?_ ?_ ?_ ?_ ?_ ?_ ?_
          ?_ ?_ ?_ ?_ ?_ ?_ ?_ ?_ ?_ ?_ ?_ ?_ ?_ ?_ <;>
        try first | exact Or.inr rfl | exact Or.inl rfl

theorem State.store_keeps {T a} :
    ∀ x0 x1 x2 x3, Keeps T a x0 →
      within [.dict] T = true →
      Keeps T a (State.store x0 x1 x2 x3).1 := by
  intro x0 x1 x2 x3 h hw
  refine Keeps.trans ?_ hw h
  unfold State.store
  repeat' first
    | with_reducible
        first
        | exact Keeps.refl _ _ | apply State.setObj_keeps
    | exact rfl

theorem State.setRepair_keeps {T a} :
    ∀ x0 x1 x2, Keeps T a x0 →
      within [.health] T = true →
      Keeps T a (State.setRepair x0 x1 x2) := by
  intro x0 x1 x2 h hw
  refine Keeps.trans ?_ hw h
  unfold State.setRepair
  repeat' first
    | with_reducible
        first
        | exact Keeps.refl _ _
    | dsimp only
    | fail_if_no_progress
      with_reducible
        refine Keeps.lit rfl rfl rfl rfl rfl rfl id ?_ ?_ ?_ ?_ ?_ ?_ ?_ ?_ ?_ ?_ ?_ ?_ ?_ ?_
          ?_ ?_ ?_ ?_ ?_ ?_ ?_ ?_ ?_ ?_ ?_ ?_ ?_ ?_ <;>
        try first | exact Or.inr rfl | exact Or.inl rfl

theorem State.writeAction_keeps {T a} :
    ∀ x0 x1, Keeps T a x0 →
      within [.time, .power, .boot, .ports, .mboxes, .sessions, .dict, .log, .health, .cores, .hbm, .hbmPoison, .hbmEcc, .larders, .movers, .folds, .parts, .ctxs, .journal, .chanUse, .links, .net] T = true →
      Keeps T a (State.writeAction x0 x1).1 := by
  intro x0 x1 h hw
  refine Keeps.trans ?_ hw h
  unfold State.writeAction
  repeat' first
    | with_reducible
        first
        | exact Keeps.refl _ _ | apply State.setHearth_keeps | apply State.setRepair_keeps
        | apply State.unitFails_keeps | refine Keeps.ite ?_ ?_ | refine Keeps.iteFst ?_ ?_
    | exact rfl | extract_lets | split | dsimp only | dsimp +zetaDelta only
    | fail_if_no_progress
      with_reducible
        refine Keeps.lit rfl rfl rfl rfl rfl rfl id ?_ ?_ ?_ ?_ ?_ ?_ ?_ ?_ ?_ ?_ ?_ ?_ ?_ ?_
          ?_ ?_ ?_ ?_ ?_ ?_ ?_ ?_ ?_ ?_ ?_ ?_ ?_ ?_ <;>
        try first | exact Or.inr rfl | exact Or.inl rfl

theorem State.setRunning_keeps {T a} :
    ∀ x0 x1 x2, Keeps T a x0 →
      within [.dict] T = true →
      Keeps T a (State.setRunning x0 x1 x2) := by
  intro x0 x1 x2 h hw
  refine Keeps.trans ?_ hw h
  unfold State.setRunning
  repeat' first
    | with_reducible
        first
        | exact Keeps.refl _ _ | apply State.setObj_keeps
    | exact rfl

theorem State.writeChannel_keeps {T a} :
    ∀ x0 x1 x2 x3, Keeps T a x0 →
      within [.dict] T = true →
      Keeps T a (State.writeChannel x0 x1 x2 x3).1 := by
  intro x0 x1 x2 x3 h hw
  refine Keeps.trans ?_ hw h
  unfold State.writeChannel
  repeat' first
    | with_reducible
        first
        | exact Keeps.refl _ _ | apply State.setRunning_keeps | apply State.store_keeps | refine Keeps.iteFst ?_ ?_
    | exact rfl

theorem State.ctxReset_keeps {T a} :
    ∀ x0 x1, Keeps T a x0 →
      within [.dict, .log, .cores, .hbm, .hbmPoison, .hbmEcc, .larders, .movers, .folds, .parts, .ctxs, .journal, .chanUse] T = true →
      Keeps T a (State.ctxReset x0 x1).1 := by
  intro x0 x1 h hw
  refine Keeps.trans ?_ hw h
  unfold State.ctxReset
  repeat' first
    | with_reducible
        first
        | assumption | exact Keeps.refl _ _ | apply State.discardBinding_keeps | apply State.journalAppend_keeps
        | apply State.rollItem_keeps | apply State.setCtx_keeps | apply State.unbind_keeps | refine Keeps.ite ?_ ?_
        | refine foldl_keeps (fun _ _ _ => ?_) ?_
    | exact rfl | extract_lets | split

theorem State.ctxStart_keeps {T a} :
    ∀ x0 x1, Keeps T a x0 →
      within [.ctxs] T = true →
      Keeps T a (State.ctxStart x0 x1).1 := by
  intro x0 x1 h hw
  refine Keeps.trans ?_ hw h
  unfold State.ctxStart
  repeat' first
    | with_reducible
        first
        | exact Keeps.refl _ _ | apply State.setCtx_keeps | refine Keeps.iteFst ?_ ?_
    | exact rfl

theorem State.ctxStop_keeps {T a} :
    ∀ x0 x1, Keeps T a x0 →
      within [.ctxs] T = true →
      Keeps T a (State.ctxStop x0 x1).1 := by
  intro x0 x1 h hw
  refine Keeps.trans ?_ hw h
  unfold State.ctxStop
  repeat' first
    | with_reducible
        first
        | exact Keeps.refl _ _ | apply State.setCtx_keeps
    | exact rfl | extract_lets | split

theorem State.moveRings_keeps {T a} :
    ∀ x0 x1 x2, Keeps T a x0 →
      within [.ports] T = true →
      Keeps T a (State.moveRings x0 x1 x2) := by
  intro x0 x1 x2 h hw
  refine Keeps.trans ?_ hw h
  unfold State.moveRings
  repeat' first
    | with_reducible
        first
        | assumption | exact Keeps.refl _ _ | apply State.raise_keeps | apply State.send_keeps
        | apply State.setPort_keeps | refine Keeps.ite ?_ ?_ | refine foldl_keeps (fun _ _ _ => ?_) ?_
    | exact rfl

theorem State.writeContext_keeps {T a} :
    ∀ x0 x1 x2 x3, Keeps T a x0 →
      within [.ports, .dict, .log, .cores, .hbm, .hbmPoison, .hbmEcc, .larders, .movers, .folds, .parts, .ctxs, .journal, .chanUse] T = true →
      Keeps T a (State.writeContext x0 x1 x2 x3).1 := by
  intro x0 x1 x2 x3 h hw
  refine Keeps.trans ?_ hw h
  unfold State.writeContext
  repeat' first
    | with_reducible
        first
        | assumption | exact Keeps.refl _ _ | apply State.ctxReset_keeps | apply State.ctxStart_keeps
        | apply State.ctxStop_keeps | apply State.moveRings_keeps | apply State.setCtx_keeps
        | apply State.unbind_keeps | refine Keeps.ite ?_ ?_ | refine Keeps.iteFst ?_ ?_
        | refine foldl_keeps (fun _ _ _ => ?_) ?_
    | exact rfl | extract_lets | split

theorem State.writeDelta_keeps {T a} :
    ∀ x0 x1 x2, Keeps T a x0 →
      within [.train] T = true →
      Keeps T a (State.writeDelta x0 x1 x2).1 := by
  intro x0 x1 x2 h hw
  refine Keeps.trans ?_ hw h
  unfold State.writeDelta
  repeat' first
    | with_reducible
        first
        | exact Keeps.refl _ _ | refine Keeps.iteFst ?_ ?_
    | extract_lets | split | dsimp only | dsimp +zetaDelta only
    | fail_if_no_progress
      with_reducible
        refine Keeps.lit rfl rfl rfl rfl rfl rfl id ?_ ?_ ?_ ?_ ?_ ?_ ?_ ?_ ?_ ?_ ?_ ?_ ?_ ?_
          ?_ ?_ ?_ ?_ ?_ ?_ ?_ ?_ ?_ ?_ ?_ ?_ ?_ ?_ <;>
        try first | exact Or.inr rfl | exact Or.inl rfl

theorem State.writeKey_keeps {T a} :
    ∀ x0 x1 x2, Keeps T a x0 →
      within [.boot, .sessions] T = true →
      Keeps T a (State.writeKey x0 x1 x2).1 := by
  intro x0 x1 x2 h hw
  refine Keeps.trans ?_ hw h
  unfold State.writeKey
  repeat' first
    | with_reducible
        first
        | assumption | exact Keeps.refl _ _ | apply State.endPrivilege_keeps | refine Keeps.iteFst ?_ ?_
        | refine foldl_keeps (fun _ _ _ => ?_) ?_
    | exact rfl | dsimp only
    | fail_if_no_progress
      with_reducible
        refine Keeps.lit rfl rfl rfl rfl rfl rfl id ?_ ?_ ?_ ?_ ?_ ?_ ?_ ?_ ?_ ?_ ?_ ?_ ?_ ?_
          ?_ ?_ ?_ ?_ ?_ ?_ ?_ ?_ ?_ ?_ ?_ ?_ ?_ ?_ <;>
        try first | exact Or.inr rfl | exact Or.inl rfl

theorem State.hearthOn_keeps {T a} :
    ∀ x0 x1, Keeps T a x0 →
      within [.power, .cores] T = true →
      Keeps T a (State.hearthOn x0 x1) := by
  intro x0 x1 h hw
  refine Keeps.trans ?_ hw h
  unfold State.hearthOn
  repeat' first
    | with_reducible
        first
        | exact Keeps.refl _ _ | apply State.mapHearthCores_keeps | apply State.setLogic_keeps
        | refine Keeps.ite ?_ ?_
    | exact rfl

theorem State.leaves_keeps {T a} :
    ∀ x0 x1, Keeps T a x0 →
      within [.power] T = true →
      Keeps T a (State.leaves x0 x1) := by
  intro x0 x1 h hw
  refine Keeps.trans ?_ hw h
  unfold State.leaves
  repeat' first
    | with_reducible
        first
        | exact Keeps.refl _ _
    | dsimp only
    | fail_if_no_progress
      with_reducible
        refine Keeps.lit rfl rfl rfl rfl rfl rfl id ?_ ?_ ?_ ?_ ?_ ?_ ?_ ?_ ?_ ?_ ?_ ?_ ?_ ?_
          ?_ ?_ ?_ ?_ ?_ ?_ ?_ ?_ ?_ ?_ ?_ ?_ ?_ ?_ <;>
        try first | exact Or.inr rfl | exact Or.inl rfl

theorem State.writeMap_keeps {T a} :
    ∀ x0 x1 x2, Keeps T a x0 →
      within [.power, .dict, .log, .cores, .hbm, .hbmPoison, .hbmEcc, .larders, .movers, .folds, .parts, .ctxs, .chanUse] T = true →
      Keeps T a (State.writeMap x0 x1 x2).1 := by
  intro x0 x1 x2 h hw
  refine Keeps.trans ?_ hw h
  unfold State.writeMap
  repeat' first
    | with_reducible
        first
        | assumption | exact Keeps.refl _ _ | apply State.hearthOn_keeps | apply State.leaves_keeps
        | apply State.setPart_keeps | apply State.unbind_keeps | refine Keeps.ite ?_ ?_ | refine Keeps.iteFst ?_ ?_
        | refine foldl_keeps (fun _ _ _ => ?_) ?_
    | exact rfl

theorem State.failResponse_keeps {T a} :
    ∀ x0 x1 x2, Keeps T a x0 →
      within [.sessions, .dict] T = true →
      Keeps T a (State.failResponse x0 x1 x2) := by
  intro x0 x1 x2 h hw
  refine Keeps.trans ?_ hw h
  unfold State.failResponse
  repeat' first
    | with_reducible
        first
        | exact Keeps.refl _ _ | apply State.bump_keeps | apply State.setSession_keeps | refine Keeps.ite ?_ ?_
    | exact rfl

theorem State.writeResponse_keeps {T a} :
    ∀ x0 x1 x2, Keeps T a x0 →
      within [.sessions, .dict] T = true →
      Keeps T a (State.writeResponse x0 x1 x2).1 := by
  intro x0 x1 x2 h hw
  refine Keeps.trans ?_ hw h
  unfold State.writeResponse
  repeat' first
    | with_reducible
        first
        | exact Keeps.refl _ _ | apply State.failResponse_keeps | apply State.setSession_keeps
        | refine Keeps.iteFst ?_ ?_
    | exact rfl

theorem State.objEffect_keeps {T a} :
    ∀ x0 x1 x2 x3 x4, Keeps T a x0 →
      within [.time, .power, .boot, .ports, .mboxes, .sessions, .dict, .log, .health, .cores, .hbm, .hbmPoison, .hbmEcc, .larders, .movers, .folds, .parts, .ctxs, .journal, .train, .seeds, .chanUse, .links, .net] T = true →
      Keeps T a (State.objEffect x0 x1 x2 x3 x4).1 := by
  intro x0 x1 x2 x3 x4 h hw
  refine Keeps.trans ?_ hw h
  unfold State.objEffect
  repeat' first
    | with_reducible
        first
        | exact Keeps.refl _ _ | apply State.advanceEpoch_keeps | apply State.enablePort_keeps
        | apply State.endPrivilege_keeps | apply State.freshScrub_keeps | apply State.setObj_keeps
        | apply State.setSession_keeps | apply State.store_keeps | apply State.writeAck_keeps
        | apply State.writeAction_keeps | apply State.writeChannel_keeps | apply State.writeContext_keeps
        | apply State.writeDelta_keeps | apply State.writeKey_keeps | apply State.writeMap_keeps
        | apply State.writeResponse_keeps | refine admitIf_keeps _ _ _ ?_ ?_ | refine Keeps.ite ?_ ?_
    | exact rfl | extract_lets | split | dsimp only | dsimp +zetaDelta only
    | fail_if_no_progress
      with_reducible
        refine Keeps.lit rfl rfl rfl rfl rfl rfl id ?_ ?_ ?_ ?_ ?_ ?_ ?_ ?_ ?_ ?_ ?_ ?_ ?_ ?_
          ?_ ?_ ?_ ?_ ?_ ?_ ?_ ?_ ?_ ?_ ?_ ?_ ?_ ?_ <;>
        try first | exact Or.inr rfl | exact Or.inl rfl

theorem State.objWrite_keeps {T a} :
    ∀ x0 x1 x2 x3 x4, Keeps T a x0 →
      within [.time, .power, .boot, .ports, .mboxes, .sessions, .dict, .log, .health, .cores, .hbm, .hbmPoison, .hbmEcc, .larders, .movers, .folds, .parts, .ctxs, .journal, .train, .seeds, .chanUse, .links, .net] T = true →
      Keeps T a (State.objWrite x0 x1 x2 x3 x4).1 := by
  intro x0 x1 x2 x3 x4 h hw
  refine Keeps.trans ?_ hw h
  unfold State.objWrite
  repeat' first
    | with_reducible
        first
        | exact Keeps.refl _ _ | apply State.objEffect_keeps | refine Keeps.iteFst ?_ ?_
    | exact rfl

theorem State.touchPrivilege_keeps {T a} :
    ∀ x0 x1, Keeps T a x0 →
      within [.sessions] T = true →
      Keeps T a (State.touchPrivilege x0 x1) := by
  intro x0 x1 h hw
  refine Keeps.trans ?_ hw h
  unfold State.touchPrivilege
  repeat' first
    | with_reducible
        first
        | exact Keeps.refl _ _ | apply State.setSession_keeps | refine Keeps.ite ?_ ?_
    | exact rfl

theorem State.windowWrite_keeps {T a} :
    ∀ x0 x1, Keeps T a x0 →
      within [.time, .power, .boot, .ports, .mboxes, .sessions, .dict, .log, .health, .cores, .hbm, .hbmPoison, .hbmEcc, .larders, .movers, .folds, .parts, .ctxs, .journal, .train, .seeds, .chanUse, .links, .net] T = true →
      Keeps T a (State.windowWrite x0 x1) := by
  intro x0 x1 h hw
  refine Keeps.trans ?_ hw h
  unfold State.windowWrite
  repeat' first
    | with_reducible
        first
        | exact Keeps.refl _ _ | apply State.abortWindow_keeps | apply State.endWindow_keeps
        | apply State.objWrite_keeps | apply State.touchPrivilege_keeps | apply State.windowRemote_keeps
        | refine Keeps.ite ?_ ?_
    | exact rfl

theorem State.windowOp_keeps {T a} :
    ∀ x0 x1 x2, Keeps T a x0 →
      within [.time, .power, .boot, .ports, .mboxes, .sessions, .dict, .log, .health, .cores, .hbm, .hbmPoison, .hbmEcc, .larders, .movers, .folds, .parts, .ctxs, .journal, .train, .seeds, .chanUse, .links, .net, .freeCtr] T = true →
      Keeps T a (State.windowOp x0 x1 x2) := by
  intro x0 x1 x2 h hw
  refine Keeps.trans ?_ hw h
  unfold State.windowOp
  repeat' first
    | with_reducible
        first
        | exact Keeps.refl _ _ | apply State.setPort_keeps | apply State.windowRead_keeps
        | apply State.windowSegRead_keeps | apply State.windowSegWrite_keeps | apply State.windowWrite_keeps
    | exact rfl | extract_lets | split

theorem State.windowGo_keeps {T a} :
    ∀ x0 x1 x2 x3 x4 x5, Keeps T a x0 →
      within [.time, .power, .boot, .ports, .mboxes, .sessions, .dict, .log, .health, .cores, .hbm, .hbmPoison, .hbmEcc, .larders, .movers, .folds, .parts, .ctxs, .journal, .train, .seeds, .chanUse, .links, .net, .freeCtr] T = true →
      Keeps T a (State.windowGo x0 x1 x2 x3 x4 x5) := by
  intro x0 x1 x2 x3 x4 x5 h hw
  refine Keeps.trans ?_ hw h
  unfold State.windowGo
  repeat' first
    | with_reducible
        first
        | exact Keeps.refl _ _ | apply State.denyBar0_keeps | apply State.setCmd_keeps
        | apply State.windowAbort_keeps | apply State.windowOp_keeps | refine Keeps.ite ?_ ?_
    | exact rfl

theorem State.windowWriteReg_keeps {T a} :
    ∀ x0 x1 x2 x3, Keeps T a x0 →
      within [.time, .power, .boot, .ports, .mboxes, .sessions, .dict, .log, .health, .cores, .hbm, .hbmPoison, .hbmEcc, .larders, .movers, .folds, .parts, .ctxs, .journal, .train, .seeds, .chanUse, .links, .net, .freeCtr] T = true →
      Keeps T a (State.windowWriteReg x0 x1 x2 x3) := by
  intro x0 x1 x2 x3 h hw
  refine Keeps.trans ?_ hw h
  unfold State.windowWriteReg
  repeat' first
    | with_reducible
        first
        | exact Keeps.refl _ _ | apply State.denyBar0_keeps | apply State.setCmd_keeps | apply State.setPort_keeps
        | apply State.windowGo_keeps | refine Keeps.ite ?_ ?_
    | exact rfl | extract_lets | split

theorem State.bar0Write_keeps {T a} :
    ∀ x0 x1 x2 x3, Keeps T a x0 →
      within [.time, .power, .boot, .ports, .mboxes, .sessions, .dict, .log, .health, .cores, .hbm, .hbmPoison, .hbmEcc, .larders, .movers, .folds, .parts, .ctxs, .journal, .train, .seeds, .chanUse, .links, .net, .freeCtr] T = true →
      Keeps T a (State.bar0Write x0 x1 x2 x3) := by
  intro x0 x1 x2 x3 h hw
  refine Keeps.trans ?_ hw h
  unfold State.bar0Write
  repeat' first
    | with_reducible
        first
        | exact Keeps.refl _ _ | apply State.denyBar0_keeps | apply State.doorbell_keeps
        | apply State.elogWriteReg_keeps | apply State.mboxWriteReg_keeps | apply State.msixWriteReg_keeps
        | apply State.setPort_keeps | apply State.windowWriteReg_keeps
    | exact rfl | split

theorem State.drawData_keeps {T a} :
    ∀ x0 x1, Keeps T a x0 →
      within [.freeCtr] T = true →
      Keeps T a (State.drawData x0 x1).2 := by
  intro x0 x1 h hw
  refine Keeps.trans ?_ hw h
  unfold State.drawData
  repeat' first
    | with_reducible
        first
        | exact Keeps.refl _ _ | apply State.draw_keeps
    | exact rfl

theorem State.stackRead_keeps {T a} :
    ∀ x0 x1 x2, Keeps T a x0 →
      within [.dict, .log, .hbm, .hbmPoison, .hbmEcc, .larders, .freeCtr] T = true →
      Keeps T a (State.stackRead x0 x1 x2).2 := by
  intro x0 x1 x2 h hw
  refine Keeps.trans ?_ hw h
  unfold State.stackRead
  repeat' first
    | with_reducible
        first
        | exact Keeps.refl _ _ | apply State.drawData_keeps | apply State.getBytes_keeps | apply State.report_keeps
    | exact rfl | split | dsimp only
    | with_reducible
        first
        | refine Keeps.fst (by assumption) ?_

theorem State.bar2Read_keeps {T a} :
    ∀ x0 x1 x2 x3, Keeps T a x0 →
      within [.ports, .dict, .log, .hbm, .hbmPoison, .hbmEcc, .larders, .freeCtr] T = true →
      Keeps T a (State.bar2Read x0 x1 x2 x3) := by
  intro x0 x1 x2 x3 h hw
  refine Keeps.trans ?_ hw h
  unfold State.bar2Read
  repeat' first
    | with_reducible
        first
        | exact Keeps.refl _ _ | apply State.answerRead_keeps | apply State.stackRead_keeps
    | exact rfl | extract_lets | split

theorem State.stackPoison_keeps {T a} :
    ∀ x0 x1 x2, Keeps T a x0 →
      within [.dict, .log, .hbm, .hbmPoison, .hbmEcc, .larders] T = true →
      Keeps T a (State.stackPoison x0 x1 x2) := by
  intro x0 x1 x2 h hw
  refine Keeps.trans ?_ hw h
  unfold State.stackPoison
  repeat' first
    | with_reducible
        first
        | assumption | exact Keeps.refl _ _ | apply State.fetchLine_keeps | apply State.setLarder_keeps
        | refine foldl_keeps (fun _ _ _ => ?_) ?_
    | exact rfl

theorem State.stackWrite_keeps {T a} :
    ∀ x0 x1 x2, Keeps T a x0 →
      within [.dict, .log, .hbm, .hbmPoison, .hbmEcc, .larders] T = true →
      Keeps T a (State.stackWrite x0 x1 x2) := by
  intro x0 x1 x2 h hw
  refine Keeps.trans ?_ hw h
  unfold State.stackWrite
  repeat' first
    | with_reducible
        first
        | assumption | exact Keeps.refl _ _ | apply State.putSpan_keeps
        | refine foldl_keeps_fst (fun _ _ _ => ?_) ?_
    | exact rfl

theorem State.bar2Write_keeps {T a} :
    ∀ x0 x1 x2 x3 x4, Keeps T a x0 →
      within [.dict, .log, .hbm, .hbmPoison, .hbmEcc, .larders] T = true →
      Keeps T a (State.bar2Write x0 x1 x2 x3 x4) := by
  intro x0 x1 x2 x3 x4 h hw
  refine Keeps.trans ?_ hw h
  unfold State.bar2Write
  repeat' first
    | with_reducible
        first
        | exact Keeps.refl _ _ | apply State.deny_keeps | apply State.stackPoison_keeps
        | apply State.stackWrite_keeps | refine Keeps.ite ?_ ?_
    | exact rfl | extract_lets | split

theorem Boot.raiseFuse_keeps (b : Boot) : b.raiseFuse.manager = b.manager ∧ b.raiseFuse.nodeStrap = b.nodeStrap ∧
    b.fusedMin ≤ b.raiseFuse.fusedMin := by
  unfold Boot.raiseFuse
  split
  · exact ⟨rfl, rfl, Nat.le_max_left _ _⟩
  · exact ⟨rfl, rfl, Nat.le_refl _⟩

theorem State.raiseFuse_keeps (x : State) : Keeps [.boot] x { x with boot := x.boot.raiseFuse } := by
  constructor <;> first | exact Or.inr rfl | exact Or.inl rfl | exact Nat.le_refl _ | exact id | rfl | exact (Boot.raiseFuse_keeps _).1 | exact (Boot.raiseFuse_keeps _).2.1 |
    exact (Boot.raiseFuse_keeps _).2.2

theorem State.becomeReady_keeps {T a} :
    ∀ x0, Keeps T a x0 →
      within [.boot, .ports, .links, .net] T = true →
      Keeps T a (State.becomeReady x0) := by
  intro x0 h hw
  refine Keeps.trans ?_ hw h
  unfold State.becomeReady
  have he : Keeps [.boot, .ports, .links, .net] x0 (x0.enter x0.readyState) := State.enter_keeps _ _ ((Keeps.refl _ _)) rfl
  exact Keeps.ite (Keeps.trans (State.raiseFuse_keeps _) rfl he) he

theorem State.beginDesc_keeps {T a} :
    ∀ x0 x1 x2 x3, Keeps T a x0 →
      within [.movers, .chanUse, .net] T = true →
      Keeps T a (State.beginDesc x0 x1 x2 x3) := by
  intro x0 x1 x2 x3 h hw
  refine Keeps.trans ?_ hw h
  unfold State.beginDesc
  repeat' first
    | with_reducible
        first
        | exact Keeps.refl _ _ | apply State.keepFlow_keeps | apply State.setMover_keeps | refine Keeps.ite ?_ ?_
    | exact rfl | extract_lets | split
    | fail_if_no_progress
      with_reducible
        refine Keeps.lit rfl rfl rfl rfl rfl rfl id ?_ ?_ ?_ ?_ ?_ ?_ ?_ ?_ ?_ ?_ ?_ ?_ ?_ ?_
          ?_ ?_ ?_ ?_ ?_ ?_ ?_ ?_ ?_ ?_ ?_ ?_ ?_ ?_ <;>
        try first | exact Or.inr rfl | exact Or.inl rfl

theorem State.beginPass_keeps {T a} :
    ∀ x0 x1 x2, Keeps T a x0 →
      within [.cores] T = true →
      Keeps T a (State.beginPass x0 x1 x2) := by
  intro x0 x1 x2 h hw
  refine Keeps.trans ?_ hw h
  unfold State.beginPass
  repeat' first
    | with_reducible
        first
        | exact Keeps.refl _ _ | apply State.setCore_keeps
    | exact rfl

theorem State.loadSelects_keeps {T a} :
    ∀ x0 x1 x2 x3, Keeps T a x0 →
      within [.dict, .health, .cores, .scratch] T = true →
      Keeps T a (State.loadSelects x0 x1 x2 x3) := by
  intro x0 x1 x2 x3 h hw
  refine Keeps.trans ?_ hw h
  unfold State.loadSelects
  repeat' first
    | with_reducible
        first
        | assumption | exact Keeps.refl _ _ | apply writeWords_keeps | refine foldl_keeps (fun _ _ _ => ?_) ?_
    | exact rfl | extract_lets | split

theorem State.setPhase_keeps {T a} :
    ∀ x0 x1 x2 x3 x4, Keeps T a x0 →
      within [.cores, .parts] T = true →
      Keeps T a (State.setPhase x0 x1 x2 x3 x4) := by
  intro x0 x1 x2 x3 x4 h hw
  refine Keeps.trans ?_ hw h
  unfold State.setPhase
  repeat' first
    | with_reducible
        first
        | exact Keeps.refl _ _ | apply State.setBinding_keeps | apply State.setCore_keeps
    | exact rfl | split

theorem State.undefine_keeps {T a} :
    ∀ x0 x1, Keeps T a x0 →
      within [.scratch, .freeCtr] T = true →
      Keeps T a (State.undefine x0 x1) := by
  intro x0 x1 h hw
  refine Keeps.trans ?_ hw h
  unfold State.undefine
  split
  · exact Keeps.refl _ _
  · refine Keeps.lit rfl rfl rfl rfl rfl rfl
      (fun m => ⟨m.1, map_wf _ (fun k w => if x1.any (·.covers k) then w.withData (Config.freeWord x0.freeCtr k) else w)
        (fun k v hv => by split <;> [exact SWord.withData_ne hv; exact hv]) _ m.2⟩) (Keeps.refl _ _)
      ?_ ?_ ?_ ?_ ?_ ?_ ?_ ?_ ?_ ?_ ?_ ?_ ?_ ?_ ?_ ?_ ?_ ?_ ?_ ?_ ?_ ?_ ?_ ?_ ?_ ?_ ?_ <;>
      first | exact Or.inr rfl | exact Or.inl rfl

theorem State.beginPhase_keeps {T a} :
    ∀ x0 x1 x2 x3, Keeps T a x0 →
      within [.dict, .health, .cores, .scratch, .parts, .freeCtr] T = true →
      Keeps T a (State.beginPhase x0 x1 x2 x3) := by
  intro x0 x1 x2 x3 h hw
  refine Keeps.trans ?_ hw h
  unfold State.beginPhase
  repeat' first
    | with_reducible
        first
        | assumption | exact Keeps.refl _ _ | apply State.loadSelects_keeps | apply State.setPhase_keeps
        | apply State.undefine_keeps | apply State.writeHandles_keeps | refine foldl_keeps (fun _ _ _ => ?_) ?_
    | exact rfl | extract_lets | split

theorem State.estimate_keeps {T a} :
    ∀ x0 x1 x2 x3 x4, Keeps T a x0 →
      within [.ctxs] T = true →
      Keeps T a (State.estimate x0 x1 x2 x3 x4) := by
  intro x0 x1 x2 x3 x4 h hw
  refine Keeps.trans ?_ hw h
  unfold State.estimate
  repeat' first
    | with_reducible
        first
        | exact Keeps.refl _ _ | apply State.mapHead_keeps | apply State.setCtx_keeps | refine Keeps.ite ?_ ?_
    | exact rfl

theorem State.imageFault_keeps {T a} :
    ∀ x0 x1 x2 x3 x4, Keeps T a x0 →
      within [.log, .parts] T = true →
      Keeps T a (State.imageFault x0 x1 x2 x3 x4) := by
  intro x0 x1 x2 x3 x4 h hw
  refine Keeps.trans ?_ hw h
  unfold State.imageFault
  repeat' first
    | with_reducible
        first
        | exact Keeps.refl _ _ | apply State.report_keeps | apply State.setPart_keeps
    | exact rfl

theorem State.bindMirror_keeps {T a} :
    ∀ x0 x1, Keeps T a x0 →
      within [.dict] T = true →
      Keeps T a (State.bindMirror x0 x1) := by
  intro x0 x1 h hw
  refine Keeps.trans ?_ hw h
  unfold State.bindMirror
  repeat' first
    | with_reducible
        first
        | exact Keeps.refl _ _ | apply State.setObj_keeps
    | exact rfl

theorem State.imageCheckpoints_keeps {T a} :
    ∀ x0 x1, Keeps T a x0 →
      within [.dict, .log, .hbm, .hbmPoison, .hbmEcc, .larders] T = true →
      Keeps T a (State.imageCheckpoints x0 x1).1 := by
  intro x0 x1 h hw
  refine Keeps.trans ?_ hw h
  unfold State.imageCheckpoints
  repeat' first
    | with_reducible
        first
        | assumption | exact Keeps.refl _ _ | apply State.putBytes_keeps
        | refine foldl_keeps_fst (fun _ _ _ => ?_) ?_
    | exact rfl

theorem State.bufHandles_keeps {T a} :
    ∀ x0 x1 x2 x3, Keeps T a x0 →
      within [.cores] T = true →
      Keeps T a (State.bufHandles x0 x1 x2 x3) := by
  intro x0 x1 x2 x3 h hw
  refine Keeps.trans ?_ hw h
  unfold State.bufHandles
  repeat' first
    | with_reducible
        first
        | assumption | exact Keeps.refl _ _ | apply State.writeHandle_keeps
        | refine foldl_keeps (fun _ _ _ => ?_) ?_
    | exact rfl | split

theorem State.copyShares_keeps {T a} :
    ∀ x0 x1 x2 x3 x4 x5 x6, Keeps T a x0 →
      within [.dict, .log, .health, .cores, .scratch, .hbm, .hbmPoison, .hbmEcc, .larders, .parts] T = true →
      Keeps T a (State.copyShares x0 x1 x2 x3 x4 x5 x6).st := by
  intro x0 x1 x2 x3 x4 x5 x6 h hw
  refine Keeps.trans ?_ hw h
  unfold State.copyShares
  repeat' first
    | with_reducible
        first
        | assumption | exact Keeps.refl _ _ | apply Mv.rows_keeps | refine Keeps.iteMv ?_ ?_
        | refine foldl_keeps_mv (fun _ _ _ => ?_) ?_
    | exact rfl

theorem State.fillShares_keeps {T a} :
    ∀ x0 x1 x2 x3 x4 x5, Keeps T a x0 →
      within [.dict, .log, .health, .cores, .scratch, .hbm, .hbmPoison, .hbmEcc, .larders, .parts] T = true →
      Keeps T a (State.fillShares x0 x1 x2 x3 x4 x5) := by
  intro x0 x1 x2 x3 x4 x5 h hw
  refine Keeps.trans ?_ hw h
  unfold State.fillShares
  repeat' first
    | with_reducible
        first
        | exact Keeps.refl _ _ | apply State.bufHandles_keeps | apply State.copyShares_keeps
        | apply State.jobFault_keeps
    | exact rfl | extract_lets | split

theorem State.loadConst_keeps {T a} :
    ∀ x0 x1 x2, Keeps T a x0 →
      within [.ports, .dict, .log, .health, .cores, .scratch, .hbm, .hbmPoison, .hbmEcc, .larders, .parts] T = true →
      Keeps T a (State.loadConst x0 x1 x2) := by
  intro x0 x1 x2 h hw
  refine Keeps.trans ?_ hw h
  unfold State.loadConst
  repeat' first
    | with_reducible
        first
        | exact Keeps.refl _ _ | apply State.fillShares_keeps | apply State.putBytes_keeps | apply State.send_keeps
        | refine Keeps.ite ?_ ?_
    | exact rfl | extract_lets | split

theorem State.restoreKept_keeps {T a} :
    ∀ x0 x1 x2, Keeps T a x0 →
      within [.dict, .log, .hbm, .hbmPoison, .hbmEcc, .larders] T = true →
      Keeps T a (State.restoreKept x0 x1 x2).1 := by
  intro x0 x1 x2 h hw
  refine Keeps.trans ?_ hw h
  unfold State.restoreKept
  repeat' first
    | with_reducible
        first
        | assumption | exact Keeps.refl _ _ | apply State.rawWrite_keeps
        | refine foldl_keeps_fst (fun _ _ _ => ?_) ?_
    | exact rfl | extract_lets | split

theorem State.install_keeps {T a} :
    ∀ x0 x1 x2 x3 x4, Keeps T a x0 →
      within [.ports, .dict, .log, .health, .cores, .scratch, .hbm, .hbmPoison, .hbmEcc, .larders, .parts, .ctxs, .journal] T = true →
      Keeps T a (State.install x0 x1 x2 x3 x4).1 := by
  intro x0 x1 x2 x3 x4 h hw
  refine Keeps.trans ?_ hw h
  unfold State.install
  repeat' first
    | with_reducible
        first
        | assumption | exact Keeps.refl _ _ | apply State.bindMirror_keeps | apply State.imageCheckpoints_keeps
        | apply State.journalAppend_keeps | apply State.loadConst_keeps | apply State.loadSelects_keeps
        | apply State.pinBinding_keeps | apply State.reportGrid_keeps | apply State.restoreKept_keeps
        | apply State.setCtx_keeps | apply State.setPart_keeps | refine foldl_keeps (fun _ _ _ => ?_) ?_
    | exact rfl

theorem State.rejectItem_keeps {T a} :
    ∀ x0 x1 x2 x3 x4, Keeps T a x0 →
      within [.log, .parts, .ctxs, .journal] T = true →
      Keeps T a (State.rejectItem x0 x1 x2 x3 x4) := by
  intro x0 x1 x2 x3 x4 h hw
  refine Keeps.trans ?_ hw h
  unfold State.rejectItem
  repeat' first
    | with_reducible
        first
        | exact Keeps.refl _ _ | apply State.finish_keeps | apply State.release_keeps | apply State.report_keeps
    | exact rfl

theorem State.restoreShares_keeps {T a} :
    ∀ x0 x1, Keeps T a x0 →
      within [.dict, .log, .health, .cores, .scratch, .hbm, .hbmPoison, .hbmEcc, .larders, .parts] T = true →
      Keeps T a (State.restoreShares x0 x1) := by
  intro x0 x1 h hw
  refine Keeps.trans ?_ hw h
  unfold State.restoreShares
  repeat' first
    | with_reducible
        first
        | assumption | exact Keeps.refl _ _ | apply State.fillShares_keeps | refine foldl_keeps (fun _ _ _ => ?_) ?_
    | exact rfl | extract_lets | split

theorem State.startRun_keeps {T a} :
    ∀ x0 x1 x2 x3 x4 x5, Keeps T a x0 →
      within [.power, .dict, .log, .health, .cores, .scratch, .hbm, .hbmPoison, .hbmEcc, .larders, .movers, .folds, .parts, .ctxs, .train] T = true →
      Keeps T a (State.startRun x0 x1 x2 x3 x4 x5) := by
  intro x0 x1 x2 x3 x4 x5 h hw
  refine Keeps.trans ?_ hw h
  unfold State.startRun
  repeat' first
    | with_reducible
        first
        | assumption | exact Keeps.refl _ _ | apply State.abortLate_keeps | apply State.armUnits_keeps
        | apply State.mapHead_keeps | apply State.restoreShares_keeps | apply State.setPart_keeps
        | apply State.wakeHearth_keeps | refine Keeps.ite ?_ ?_ | refine foldl_keeps (fun _ _ _ => ?_) ?_
    | exact rfl | extract_lets | split | dsimp only | dsimp +zetaDelta only
    | fail_if_no_progress
      with_reducible
        refine Keeps.lit rfl rfl rfl rfl rfl rfl id ?_ ?_ ?_ ?_ ?_ ?_ ?_ ?_ ?_ ?_ ?_ ?_ ?_ ?_
          ?_ ?_ ?_ ?_ ?_ ?_ ?_ ?_ ?_ ?_ ?_ ?_ ?_ ?_ <;>
        try first | exact Or.inr rfl | exact Or.inl rfl

theorem State.bindFresh_keeps {T a} :
    ∀ x0 x1 x2 x3 x4 x5, Keeps T a x0 →
      within [.power, .ports, .dict, .log, .health, .cores, .scratch, .hbm, .hbmPoison, .hbmEcc, .larders, .movers, .folds, .parts, .ctxs, .journal, .train, .chanUse] T = true →
      Keeps T a (State.bindFresh x0 x1 x2 x3 x4 x5) := by
  intro x0 x1 x2 x3 x4 x5 h hw
  refine Keeps.trans ?_ hw h
  unfold State.bindFresh
  repeat' first
    | with_reducible
        first
        | exact Keeps.refl _ _ | apply State.estimate_keeps | apply State.imageFault_keeps
        | apply State.install_keeps | apply State.rejectItem_keeps | apply State.release_keeps
        | apply State.returnItems_keeps | apply State.startRun_keeps | apply State.unbind_keeps
    | exact rfl | extract_lets | split

theorem State.sendHello_keeps {T a} :
    ∀ x0 x1, Keeps T a x0 →
      within [.links] T = true →
      Keeps T a (State.sendHello x0 x1) := by
  intro x0 x1 h hw
  refine Keeps.trans ?_ hw h
  unfold State.sendHello
  repeat' first
    | with_reducible
        first
        | exact Keeps.refl _ _ | apply State.sendOn_keeps
    | exact rfl

theorem State.bringUp_keeps {T a} :
    ∀ x0 x1, Keeps T a x0 →
      within [.time, .links, .net] T = true →
      Keeps T a (State.bringUp x0 x1) := by
  intro x0 x1 h hw
  refine Keeps.trans ?_ hw h
  unfold State.bringUp
  repeat' first
    | with_reducible
        first
        | exact Keeps.refl _ _ | apply State.portsChanged_keeps | apply State.sendHello_keeps
        | apply State.setLink_keeps
    | exact rfl

theorem State.busyOrWait_keeps {T a} :
    ∀ x0 x1 x2 x3, Keeps T a x0 →
      within [.log, .cores, .parts] T = true →
      Keeps T a (State.busyOrWait x0 x1 x2 x3) := by
  intro x0 x1 x2 x3 h hw
  refine Keeps.trans ?_ hw h
  unfold State.busyOrWait
  repeat' first
    | with_reducible
        first
        | exact Keeps.refl _ _ | apply State.issued_keeps | apply State.opFault_keeps | apply State.setCore_keeps
        | refine Keeps.ite ?_ ?_
    | exact rfl

theorem State.carried_keeps {T a} :
    ∀ x0 x1 x2, Keeps T a x0 →
      within [.parts] T = true →
      Keeps T a (State.carried x0 x1 x2) := by
  intro x0 x1 x2 h hw
  refine Keeps.trans ?_ hw h
  unfold State.carried
  repeat' first
    | with_reducible
        first
        | exact Keeps.refl _ _ | apply State.setBinding_keeps
    | exact rfl

theorem State.sampleMode_keeps {T a} :
    ∀ x0 x1 x2, Keeps T a x0 →
      within [.dict, .parts] T = true →
      Keeps T a (State.sampleMode x0 x1 x2).1 := by
  intro x0 x1 x2 h hw
  refine Keeps.trans ?_ hw h
  unfold State.sampleMode
  repeat' first
    | with_reducible
        first
        | exact Keeps.refl _ _ | apply State.bump_keeps | apply State.setBinding_keeps
    | exact rfl | extract_lets | split

theorem State.startProduct_keeps {T a} :
    ∀ x0 x1 x2 x3, Keeps T a x0 →
      within [.dict, .log, .health, .cores, .scratch, .folds, .parts] T = true →
      Keeps T a (State.startProduct x0 x1 x2 x3) := by
  intro x0 x1 x2 x3 h hw
  refine Keeps.trans ?_ hw h
  unfold State.startProduct
  repeat' first
    | with_reducible
        first
        | exact Keeps.refl _ _ | apply Acc.close_keeps | apply Acc.emptySheets_keeps | apply Acc.settle_keeps
        | apply State.bumpH_keeps | apply State.sampleMode_keeps | apply State.setCore_keeps
        | apply Acc.ofState_keeps
    | exact rfl

theorem State.chainStart_keeps {T a} :
    ∀ x0 x1 x2 x3, Keeps T a x0 →
      within [.dict, .log, .health, .cores, .scratch, .folds, .parts] T = true →
      Keeps T a (State.chainStart x0 x1 x2 x3) := by
  intro x0 x1 x2 x3 h hw
  refine Keeps.trans ?_ hw h
  unfold State.chainStart
  repeat' first
    | with_reducible
        first
        | exact Keeps.refl _ _ | apply State.accFill_keeps | apply State.accRead_keeps | apply State.accSpill_keeps
        | apply State.setCore_keeps | apply State.startProduct_keeps | refine Keeps.ite ?_ ?_
    | exact rfl

theorem State.checkpoint_keeps {T a} :
    ∀ x0 x1 x2, Keeps T a x0 →
      within [.dict, .log, .health, .cores, .scratch, .hbm, .hbmPoison, .hbmEcc, .larders, .parts] T = true →
      Keeps T a (State.checkpoint x0 x1 x2).1 := by
  intro x0 x1 x2 h hw
  refine Keeps.trans ?_ hw h
  unfold State.checkpoint
  repeat' first
    | with_reducible
        first
        | assumption | exact Keeps.refl _ _ | apply State.copyShares_keeps | refine Keeps.iteFst ?_ ?_
        | refine foldl_keeps_fst (fun _ _ _ => ?_) ?_
    | exact rfl | extract_lets | split

theorem State.choose_keeps {T a} :
    ∀ x0 x1 x2, Keeps T a x0 →
      within [.log, .parts, .ctxs, .journal] T = true →
      Keeps T a (State.choose x0 x1 x2) := by
  intro x0 x1 x2 h hw
  refine Keeps.trans ?_ hw h
  unfold State.choose
  repeat' first
    | with_reducible
        first
        | exact Keeps.refl _ _ | apply State.finish_keeps | apply State.mapHead_keeps | apply State.setPart_keeps
        | refine Keeps.ite ?_ ?_
    | exact rfl | split

theorem State.cleanRange_keeps {T a} :
    ∀ x0 x1 x2, Keeps T a x0 →
      within [.dict, .hbm, .hbmPoison, .hbmEcc, .larders] T = true →
      Keeps T a (State.cleanRange x0 x1 x2) := by
  intro x0 x1 x2 h hw
  refine Keeps.trans ?_ hw h
  unfold State.cleanRange
  repeat' first
    | with_reducible
        first
        | assumption | exact Keeps.refl _ _ | apply State.setLarder_keeps | apply State.writeBack_keeps
        | refine foldl_keeps (fun _ _ _ => ?_) ?_
    | exact rfl

theorem State.cleanBinding_keeps {T a} :
    ∀ x0 x1, Keeps T a x0 →
      within [.dict, .hbm, .hbmPoison, .hbmEcc, .larders] T = true →
      Keeps T a (State.cleanBinding x0 x1) := by
  intro x0 x1 h hw
  refine Keeps.trans ?_ hw h
  unfold State.cleanBinding
  repeat' first
    | with_reducible
        first
        | assumption | exact Keeps.refl _ _ | apply State.cleanRange_keeps | refine Keeps.ite ?_ ?_
        | refine foldl_keeps (fun _ _ _ => ?_) ?_
    | exact rfl

theorem State.clearFaulty_keeps {T a} :
    ∀ x0 x1, Keeps T a x0 →
      within [.log, .health] T = true →
      Keeps T a (State.clearFaulty x0 x1) := by
  intro x0 x1 h hw
  refine Keeps.trans ?_ hw h
  unfold State.clearFaulty
  repeat' first
    | with_reducible
        first
        | exact Keeps.refl _ _ | apply State.nextGeneration_keeps | apply State.recountSpares_keeps
        | apply State.report_keeps | apply State.setFaulty_keeps
    | exact rfl

theorem State.dropFold_keeps {T a} :
    ∀ x0 x1 x2, Keeps T a x0 →
      within [.folds] T = true →
      Keeps T a (State.dropFold x0 x1 x2) := by
  intro x0 x1 x2 h hw
  refine Keeps.trans ?_ hw h
  unfold State.dropFold
  repeat' first
    | with_reducible
        first
        | exact Keeps.refl _ _ | apply State.setFolds_keeps
    | exact rfl

theorem State.closeKeep_keeps {T a} :
    ∀ x0 x1 x2 x3 x4, Keeps T a x0 →
      within [.dict, .log, .health, .cores, .scratch, .folds, .parts] T = true →
      Keeps T a (State.closeKeep x0 x1 x2 x3 x4) := by
  intro x0 x1 x2 x3 x4 h hw
  refine Keeps.trans ?_ hw h
  unfold State.closeKeep
  repeat' first
    | with_reducible
        first
        | assumption | exact Keeps.refl _ _ | apply State.bumpH_keeps | apply State.dropFold_keeps
        | apply State.opFault_keeps | apply State.wroteNonzero_keeps | apply writeRuns_keeps
        | apply Acc.ofState_keeps | apply Acc.andThen_keeps
    | exact rfl | intro _ | extract_lets | split

theorem State.countEmitted_keeps {T a} :
    ∀ x0 x1 x2, Keeps T a x0 →
      within [.dict] T = true →
      Keeps T a (State.countEmitted x0 x1 x2) := by
  intro x0 x1 x2 h hw
  refine Keeps.trans ?_ hw h
  unfold State.countEmitted
  repeat' first
    | with_reducible
        first
        | exact Keeps.refl _ _ | apply State.bumpH_keeps
    | exact rfl

theorem State.closeKsplit_keeps {T a} :
    ∀ x0 x1 x2 x3 x4, Keeps T a x0 →
      within [.dict, .cores, .folds] T = true →
      Keeps T a (State.closeKsplit x0 x1 x2 x3 x4) := by
  intro x0 x1 x2 x3 x4 h hw
  refine Keeps.trans ?_ hw h
  unfold State.closeKsplit
  repeat' first
    | with_reducible
        first
        | exact Keeps.refl _ _ | apply State.countEmitted_keeps | apply State.dropFold_keeps
        | apply State.setCore_keeps
    | exact rfl | extract_lets | split

theorem State.emitScatter_keeps {T a} :
    ∀ x0 x1 x2 x3 x4 x5 x6 x7, Keeps T a x0 →
      within [.dict, .cores, .folds] T = true →
      Keeps T a (State.emitScatter x0 x1 x2 x3 x4 x5 x6 x7) := by
  intro x0 x1 x2 x3 x4 x5 x6 x7 h hw
  refine Keeps.trans ?_ hw h
  unfold State.emitScatter
  repeat' first
    | with_reducible
        first
        | exact Keeps.refl _ _ | apply State.countEmitted_keeps | apply State.dropFold_keeps
        | apply State.setCore_keeps
    | exact rfl

theorem State.closeScatter_keeps {T a} :
    ∀ x0 x1 x2 x3 x4, Keeps T a x0 →
      within [.dict, .cores, .folds] T = true →
      Keeps T a (State.closeScatter x0 x1 x2 x3 x4) := by
  intro x0 x1 x2 x3 x4 h hw
  refine Keeps.trans ?_ hw h
  unfold State.closeScatter
  repeat' first
    | with_reducible
        first
        | exact Keeps.refl _ _ | apply State.emitScatter_keeps | apply State.setFolds_keeps
    | exact rfl | extract_lets | split

theorem State.closeSift_keeps {T a} :
    ∀ x0 x1 x2 x3 x4, Keeps T a x0 →
      within [.dict, .log, .health, .cores, .scratch, .folds, .parts] T = true →
      Keeps T a (State.closeSift x0 x1 x2 x3 x4) := by
  intro x0 x1 x2 x3 x4 h hw
  refine Keeps.trans ?_ hw h
  unfold State.closeSift
  repeat' first
    | with_reducible
        first
        | assumption | exact Keeps.refl _ _ | apply Acc.putSift_keeps | apply State.bumpH_keeps
        | apply State.dropFold_keeps | apply State.opFault_keeps | apply Acc.ofState_keeps | apply Acc.each_keeps
    | exact rfl | intro _ | extract_lets | split

theorem State.closeFold_keeps {T a} :
    ∀ x0 x1 x2 x3 x4, Keeps T a x0 →
      within [.dict, .log, .health, .cores, .scratch, .folds, .parts] T = true →
      Keeps T a (State.closeFold x0 x1 x2 x3 x4) := by
  intro x0 x1 x2 x3 x4 h hw
  refine Keeps.trans ?_ hw h
  unfold State.closeFold
  repeat' first
    | with_reducible
        first
        | exact Keeps.refl _ _ | apply State.closeKeep_keeps | apply State.closeKsplit_keeps
        | apply State.closeScatter_keeps | apply State.closeSift_keeps | refine Keeps.ite ?_ ?_
    | exact rfl

theorem State.endSessions_keeps {T a} :
    ∀ x0, Keeps T a x0 →
      within [.sessions] T = true →
      Keeps T a (State.endSessions x0) := by
  intro x0 h hw
  refine Keeps.trans ?_ hw h
  unfold State.endSessions
  repeat' first
    | with_reducible
        first
        | assumption | exact Keeps.refl _ _ | apply State.endSession_keeps | refine foldl_keeps (fun _ _ _ => ?_) ?_
    | exact rfl

theorem State.preempt_keeps {T a} :
    ∀ x0 x1 x2, Keeps T a x0 →
      within [.dict, .log, .cores, .hbm, .hbmPoison, .hbmEcc, .larders, .movers, .folds, .parts, .ctxs, .chanUse] T = true →
      Keeps T a (State.preempt x0 x1 x2) := by
  intro x0 x1 x2 h hw
  refine Keeps.trans ?_ hw h
  unfold State.preempt
  repeat' first
    | with_reducible
        first
        | exact Keeps.refl _ _ | apply State.mapHead_keeps | apply State.release_keeps | apply State.unbind_keeps
    | exact rfl

theorem State.recordMark_keeps {T a} :
    ∀ x0 x1 x2 x3, Keeps T a x0 →
      within [.parts, .ctxs, .journal] T = true →
      Keeps T a (State.recordMark x0 x1 x2 x3) := by
  intro x0 x1 x2 x3 h hw
  refine Keeps.trans ?_ hw h
  unfold State.recordMark
  repeat' first
    | with_reducible
        first
        | exact Keeps.refl _ _ | apply State.journalReclaim_keeps | apply State.mapHead_keeps
        | apply State.setPart_keeps
    | exact rfl

theorem State.settleGroup_keeps {T a} :
    ∀ x0 x1 x2 x3, Keeps T a x0 →
      within [.dict, .log, .journal, .train] T = true →
      Keeps T a (State.settleGroup x0 x1 x2 x3).1 := by
  intro x0 x1 x2 x3 h hw
  refine Keeps.trans ?_ hw h
  unfold State.settleGroup
  repeat' first
    | with_reducible
        first
        | exact Keeps.refl _ _ | apply State.bump_keeps | apply State.journalAppend_keeps
        | apply State.journalReclaim_keeps | apply State.report_keeps | refine Keeps.ite ?_ ?_
        | refine Keeps.iteFst ?_ ?_
    | exact rfl | extract_lets | split | dsimp only
    | fail_if_no_progress
      with_reducible
        refine Keeps.lit rfl rfl rfl rfl rfl rfl id ?_ ?_ ?_ ?_ ?_ ?_ ?_ ?_ ?_ ?_ ?_ ?_ ?_ ?_
          ?_ ?_ ?_ ?_ ?_ ?_ ?_ ?_ ?_ ?_ ?_ ?_ ?_ ?_ <;>
        try first | exact Or.inr rfl | exact Or.inl rfl

theorem State.settleAll_keeps {T a} :
    ∀ x0 x1 x2, Keeps T a x0 →
      within [.dict, .log, .journal, .train] T = true →
      Keeps T a (State.settleAll x0 x1 x2).1 := by
  intro x0 x1 x2 h hw
  refine Keeps.trans ?_ hw h
  unfold State.settleAll
  repeat' first
    | with_reducible
        first
        | assumption | exact Keeps.refl _ _ | apply State.settleGroup_keeps
        | refine foldl_keeps_fst (fun _ _ _ => ?_) ?_
    | exact rfl

theorem State.commit_keeps {T a} :
    ∀ x0 x1 x2, Keeps T a x0 →
      within [.dict, .log, .health, .cores, .scratch, .hbm, .hbmPoison, .hbmEcc, .larders, .movers, .folds, .parts, .ctxs, .journal, .train, .chanUse] T = true →
      Keeps T a (State.commit x0 x1 x2) := by
  intro x0 x1 x2 h hw
  refine Keeps.trans ?_ hw h
  unfold State.commit
  repeat' first
    | with_reducible
        first
        | exact Keeps.refl _ _ | apply State.bump_keeps | apply State.checkpoint_keeps
        | apply State.cleanBinding_keeps | apply State.finish_keeps | apply State.jobFault_keeps
        | apply State.journalAppend_keeps | apply State.mapHead_keeps | apply State.preempt_keeps
        | apply State.recordMark_keeps | apply State.release_keeps | apply State.settleAll_keeps
        | refine Keeps.ite ?_ ?_ | refine Keeps.iteFst ?_ ?_
    | exact rfl | extract_lets | split

theorem State.commitWrite_keeps {T a} :
    ∀ x0 x1 x2, Keeps T a x0 →
      within [.dict, .log, .health, .cores, .scratch, .movers, .parts, .chanUse] T = true →
      Keeps T a (State.commitWrite x0 x1 x2) := by
  intro x0 x1 x2 h hw
  refine Keeps.trans ?_ hw h
  unfold State.commitWrite
  repeat' first
    | with_reducible
        first
        | exact Keeps.refl _ _ | apply State.failActive_keeps | apply State.report_keeps | apply State.setCore_keeps
        | apply writeWord_keeps
    | exact rfl | extract_lets | split

theorem State.flushDesc_keeps {T a} :
    ∀ x0 x1 x2 x3, Keeps T a x0 →
      within [.dict, .log, .health, .cores, .scratch, .movers, .parts, .chanUse] T = true →
      Keeps T a (State.flushDesc x0 x1 x2 x3) := by
  intro x0 x1 x2 x3 h hw
  refine Keeps.trans ?_ hw h
  unfold State.flushDesc
  repeat' first
    | with_reducible
        first
        | assumption | exact Keeps.refl _ _ | apply State.commitWrite_keeps
        | refine foldl_keeps (fun _ _ _ => ?_) ?_
    | exact rfl

theorem State.moveAll_keeps {T a} :
    ∀ x0 x1 x2 x3, Keeps T a x0 →
      within [.dict, .log, .health, .cores, .scratch, .hbm, .hbmPoison, .hbmEcc, .larders, .parts] T = true →
      Keeps T a (State.moveAll x0 x1 x2 x3).st := by
  intro x0 x1 x2 x3 h hw
  refine Keeps.trans ?_ hw h
  unfold State.moveAll
  repeat' first
    | with_reducible
        first
        | exact Keeps.refl _ _ | apply Mv.check_keeps | apply Mv.fail_keeps | apply Mv.inlet_keeps
        | apply Mv.rows_keeps | refine Keeps.iteMv ?_ ?_
    | exact rfl | extract_lets | split

theorem State.joinEdges_keeps {T a} :
    ∀ x0 x1 x2, Keeps T a x0 →
      within [.parts] T = true →
      Keeps T a (State.joinEdges x0 x1 x2).1 := by
  intro x0 x1 x2 h hw
  refine Keeps.trans ?_ hw h
  unfold State.joinEdges
  repeat' first
    | with_reducible
        first
        | exact Keeps.refl _ _ | apply State.setBinding_keeps | refine Keeps.ite ?_ ?_
    | exact rfl

theorem State.sendHost_keeps {T a} :
    ∀ x0 x1 x2, Keeps T a x0 →
      within [.ports, .parts] T = true →
      Keeps T a (State.sendHost x0 x1 x2) := by
  intro x0 x1 x2 h hw
  refine Keeps.trans ?_ hw h
  unfold State.sendHost
  repeat' first
    | with_reducible
        first
        | assumption | exact Keeps.refl _ _ | apply State.joinEdges_keeps | apply State.send_keeps
        | refine foldl_keeps (fun _ _ _ => ?_) ?_
    | exact rfl

theorem State.sendWindow_keeps {T a} :
    ∀ x0 x1 x2 x3 x4, Keeps T a x0 →
      within [.movers, .parts, .links, .net] T = true →
      Keeps T a (State.sendWindow x0 x1 x2 x3 x4) := by
  intro x0 x1 x2 x3 x4 h hw
  refine Keeps.trans ?_ hw h
  unfold State.sendWindow
  repeat' first
    | with_reducible
        first
        | assumption | exact Keeps.refl _ _ | apply State.joinEdges_keeps | apply State.sendOn_keeps
        | apply State.setActive_keeps | apply State.transferAcked_keeps | refine Keeps.ite ?_ ?_
        | refine foldl_keeps (fun _ _ _ => ?_) ?_
    | exact rfl

theorem State.settleMove_keeps {T a} :
    ∀ x0 x1 x2 x3, Keeps T a x3.st →
      within [.ports, .dict, .log, .movers, .parts, .chanUse, .links, .net] T = true →
      Keeps T a (State.settleMove x0 x1 x2 x3) := by
  intro x0 x1 x2 x3 h hw
  refine Keeps.trans ?_ hw h
  unfold State.settleMove
  repeat' first
    | with_reducible
        first
        | exact Keeps.refl _ _ | apply State.doneDesc_keeps | apply State.failActive_keeps
        | apply State.freeChan_keeps | apply State.sendHost_keeps | apply State.sendWindow_keeps
        | refine Keeps.ite ?_ ?_
    | exact rfl | extract_lets | split

theorem State.complete_keeps {T a} :
    ∀ x0 x1 x2 x3, Keeps T a x0 →
      within [.ports, .dict, .log, .health, .cores, .scratch, .hbm, .hbmPoison, .hbmEcc, .larders, .movers, .parts, .chanUse, .links, .net] T = true →
      Keeps T a (State.complete x0 x1 x2 x3) := by
  intro x0 x1 x2 x3 h hw
  refine Keeps.trans ?_ hw h
  unfold State.complete
  repeat' first
    | with_reducible
        first
        | exact Keeps.refl _ _ | apply State.flushDesc_keeps | apply State.moveAll_keeps
        | apply State.settleMove_keeps | refine Keeps.ite ?_ ?_
    | exact rfl | extract_lets | split

theorem State.reclaim_keeps {T a} :
    ∀ x0, Keeps T a x0 →
      within [.journal] T = true →
      Keeps T a (State.reclaim x0) := by
  intro x0 h hw
  refine Keeps.trans ?_ hw h
  unfold State.reclaim
  repeat' first
    | with_reducible
        first
        | exact Keeps.refl _ _ | apply State.journalReclaim_keeps
    | exact rfl

theorem State.completeItem_keeps {T a} :
    ∀ x0 x1 x2 x3, Keeps T a x0 →
      within [.ports, .ctxs, .journal] T = true →
      Keeps T a (State.completeItem x0 x1 x2 x3) := by
  intro x0 x1 x2 x3 h hw
  refine Keeps.trans ?_ hw h
  unfold State.completeItem
  repeat' first
    | with_reducible
        first
        | exact Keeps.refl _ _ | apply State.raise_keeps | apply State.reclaim_keeps | apply State.send_keeps
        | apply State.setCtx_keeps | refine Keeps.ite ?_ ?_
    | exact rfl

theorem State.reportJunctions_keeps {T a} :
    ∀ x0, Keeps T a x0 →
      within [.dict] T = true →
      Keeps T a (State.reportJunctions x0) := by
  intro x0 h hw
  refine Keeps.trans ?_ hw h
  unfold State.reportJunctions
  repeat' first
    | with_reducible
        first
        | exact Keeps.refl _ _ | apply State.setObj_keeps
    | exact rfl

theorem State.setVdd_keeps {T a} :
    ∀ x0 x1 x2, Keeps T a x0 →
      within [.power] T = true →
      Keeps T a (State.setVdd x0 x1 x2) := by
  intro x0 x1 x2 h hw
  refine Keeps.trans ?_ hw h
  unfold State.setVdd
  repeat' first
    | with_reducible
        first
        | exact Keeps.refl _ _
    | dsimp only
    | fail_if_no_progress
      with_reducible
        refine Keeps.lit rfl rfl rfl rfl rfl rfl id ?_ ?_ ?_ ?_ ?_ ?_ ?_ ?_ ?_ ?_ ?_ ?_ ?_ ?_
          ?_ ?_ ?_ ?_ ?_ ?_ ?_ ?_ ?_ ?_ ?_ ?_ ?_ ?_ <;>
        try first | exact Or.inr rfl | exact Or.inl rfl

theorem State.setJunction_keeps {T a} :
    ∀ x0 x1 x2, Keeps T a x0 →
      within [.power] T = true →
      Keeps T a (State.setJunction x0 x1 x2) := by
  intro x0 x1 x2 h hw
  refine Keeps.trans ?_ hw h
  unfold State.setJunction
  repeat' first
    | with_reducible
        first
        | exact Keeps.refl _ _
    | dsimp only
    | fail_if_no_progress
      with_reducible
        refine Keeps.lit rfl rfl rfl rfl rfl rfl id ?_ ?_ ?_ ?_ ?_ ?_ ?_ ?_ ?_ ?_ ?_ ?_ ?_ ?_
          ?_ ?_ ?_ ?_ ?_ ?_ ?_ ?_ ?_ ?_ ?_ ?_ ?_ ?_ <;>
        try first | exact Or.inr rfl | exact Or.inl rfl

theorem State.takeJunctions_keeps {T a} :
    ∀ x0 x1, Keeps T a x0 →
      within [.power] T = true →
      Keeps T a (State.takeJunctions x0 x1) := by
  intro x0 x1 h hw
  refine Keeps.trans ?_ hw h
  unfold State.takeJunctions
  repeat' first
    | with_reducible
        first
        | assumption | exact Keeps.refl _ _ | apply State.setJunction_keeps
        | refine foldl_keeps (fun _ _ _ => ?_) ?_
    | exact rfl

theorem State.takePaces_keeps {T a} :
    ∀ x0 x1, Keeps T a x0 →
      within [.dict, .paceHist] T = true →
      Keeps T a (State.takePaces x0 x1) := by
  intro x0 x1 h hw
  refine Keeps.trans ?_ hw h
  unfold State.takePaces
  repeat' first
    | with_reducible
        first
        | assumption | exact Keeps.refl _ _ | apply State.setObj_keeps | refine foldl_keeps (fun _ _ _ => ?_) ?_
    | exact rfl | extract_lets | dsimp only
    | fail_if_no_progress
      with_reducible
        refine Keeps.lit rfl rfl rfl rfl rfl rfl id ?_ ?_ ?_ ?_ ?_ ?_ ?_ ?_ ?_ ?_ ?_ ?_ ?_ ?_
          ?_ ?_ ?_ ?_ ?_ ?_ ?_ ?_ ?_ ?_ ?_ ?_ ?_ ?_ <;>
        try first | exact Or.inr rfl | exact Or.inl rfl

theorem State.control_keeps {T a} :
    ∀ x0 x1, Keeps T a x0 →
      within [.power, .dict, .paceHist] T = true →
      Keeps T a (State.control x0 x1) := by
  intro x0 x1 h hw
  refine Keeps.trans ?_ hw h
  unfold State.control
  extract_lets v s t u
  have h1 : Keeps [.power, .dict, .paceHist] x0 s := State.takePaces_keeps _ _ (State.reportJunctions_keeps _ (State.takeJunctions_keeps _ _ ((Keeps.refl _ _)) rfl) rfl) rfl
  have h2 : Keeps [.power, .dict, .paceHist] x0 t := State.setObj_keeps _ _ _ _ (State.setObj_keeps _ _ _ _ h1 rfl) rfl
  have h3 : Keeps [.power, .dict, .paceHist] x0 u := foldl_keeps (fun _ _ hu => State.setVdd_keeps _ _ _ hu rfl) h2
  clear_value u
  refine Keeps.trans (U := [.power]) (s := u) ?_ rfl h3
  refine Keeps.lit rfl rfl rfl rfl rfl rfl id (Keeps.refl _ _) ?_ ?_ ?_ ?_ ?_ ?_ ?_ ?_ ?_ ?_
      ?_ ?_ ?_ ?_ ?_ ?_ ?_ ?_ ?_ ?_ ?_ ?_ ?_ ?_ ?_ ?_ ?_ <;>
    first | exact Or.inr rfl | exact Or.inl rfl

theorem State.glazeTiles_keeps {T a} :
    ∀ x0 x1 x2 x3 x4 x5, Keeps T a x0 →
      (∀ u m nt, Keeps T a u.st → Keeps T a (x5 u m nt).st) →
      within [.dict, .log, .health, .cores, .scratch, .parts] T = true →
      Keeps T a (State.glazeTiles x0 x1 x2 x3 x4 x5) := by
  intro x0 x1 x2 x3 x4 x5 h hf hw
  have h1 : Keeps T a ((Acc.ofState (x0.upsets x4.upsets)).emptySheets x1 x2 x3 (x1.bd.partRows x3 x2)).st :=
    Keeps.trans (Acc.emptySheets_keeps _ _ _ _ _ (Acc.ofState_keeps _ (State.upsets_keeps _ _ (Keeps.refl _ _) rfl)) rfl) hw h
  unfold State.glazeTiles
  extract_lets r x t
  exact Keeps.trans (Acc.finish_keeps _ _ _ _ (Keeps.refl _ _) rfl) hw (Acc.eachStep_keeps h1 fun u y hu => hf u _ _ hu)

theorem State.convert_keeps {T a} :
    ∀ x0 x1 x2 x3 x4, Keeps T a x0 →
      within [.dict, .log, .health, .cores, .scratch, .parts] T = true →
      Keeps T a (State.convert x0 x1 x2 x3 x4) := by
  intro x0 x1 x2 x3 x4 h hw
  refine Keeps.trans ?_ hw h
  unfold State.convert
  repeat' first
    | with_reducible
        first
        | assumption | exact Keeps.refl _ _ | apply Acc.convertTile_keeps | apply State.glazeTiles_keeps
    | exact rfl | intro _

theorem State.countReplay_keeps {T a} :
    ∀ x0 x1 x2, Keeps T a x0 →
      within [.ctxs, .journal] T = true →
      Keeps T a (State.countReplay x0 x1 x2) := by
  intro x0 x1 x2 h hw
  refine Keeps.trans ?_ hw h
  unfold State.countReplay
  repeat' first
    | with_reducible
        first
        | exact Keeps.refl _ _ | apply State.mapHead_keeps
    | exact rfl | extract_lets | dsimp +zetaDelta only
    | fail_if_no_progress
      with_reducible
        refine Keeps.lit rfl rfl rfl rfl rfl rfl id ?_ ?_ ?_ ?_ ?_ ?_ ?_ ?_ ?_ ?_ ?_ ?_ ?_ ?_
          ?_ ?_ ?_ ?_ ?_ ?_ ?_ ?_ ?_ ?_ ?_ ?_ ?_ ?_ <;>
        try first | exact Or.inr rfl | exact Or.inl rfl

theorem State.dark_keeps {T a} :
    ∀ x0, Keeps T a x0 →
      within [.power, .boot, .cores, .scratch, .hbm, .hbmPoison, .hbmEcc, .larders, .movers, .folds, .chanUse, .links] T = true →
      Keeps T a (State.dark x0) := by
  intro x0 h hw
  refine Keeps.trans ?_ hw h
  unfold State.dark
  refine Keeps.lit rfl rfl rfl rfl rfl rfl (fun _ => ⟨rfl, rfl⟩) (Keeps.refl _ _) ?_ ?_ ?_ ?_ ?_ ?_ ?_ ?_ ?_ ?_
      ?_ ?_ ?_ ?_ ?_ ?_ ?_ ?_ ?_ ?_ ?_ ?_ ?_ ?_ ?_ ?_ ?_ <;>
    first | exact Or.inr rfl | exact Or.inl rfl

theorem State.drain_keeps {T a} :
    ∀ x0 x1 x2 x3 x4, Keeps T a x0 →
      within [.dict, .log, .health, .cores, .scratch, .folds, .parts] T = true →
      Keeps T a (State.drain x0 x1 x2 x3 x4) := by
  intro x0 x1 x2 x3 x4 h hw
  refine Keeps.trans ?_ hw h
  unfold State.drain
  repeat' first
    | with_reducible
        first
        | assumption | exact Keeps.refl _ _ | apply Acc.glazeSlot_keeps | apply Acc.sendScatter_keeps
        | apply State.countDrained_keeps | apply State.countStretched_keeps | apply State.freeSlot_keeps
        | apply State.opFault_keeps | apply State.sendKsplit_keeps | apply State.upsets_keeps
        | apply Acc.ofState_keeps | apply Acc.map_keeps | apply Acc.eachStep_keeps | refine Keeps.iteAcc ?_ ?_
    | exact rfl | intro _ | extract_lets | split

theorem State.mboxEmptied_keeps {T a} :
    ∀ x0 x1, Keeps T a x0 →
      within [.ports] T = true →
      Keeps T a (State.mboxEmptied x0 x1) := by
  intro x0 x1 h hw
  refine Keeps.trans ?_ hw h
  unfold State.mboxEmptied
  repeat' first
    | with_reducible
        first
        | exact Keeps.refl _ _ | apply State.raiseMbox_keeps | refine Keeps.ite ?_ ?_
    | exact rfl

theorem State.taken_keeps {T a} :
    ∀ x0 x1 x2, Keeps T a x0 →
      within [.ports, .mboxes, .log] T = true →
      Keeps T a (State.taken x0 x1 x2) := by
  intro x0 x1 x2 h hw
  refine Keeps.trans ?_ hw h
  unfold State.taken
  repeat' first
    | with_reducible
        first
        | exact Keeps.refl _ _ | apply State.denyMbox_keeps | apply State.mboxEmptied_keeps
        | apply State.setMbox_keeps | refine Keeps.ite ?_ ?_
    | exact rfl

theorem State.echo_keeps {T a} :
    ∀ x0 x1, Keeps T a x0 →
      within [.ports, .mboxes, .log] T = true →
      Keeps T a (State.echo x0 x1) := by
  intro x0 x1 h hw
  refine Keeps.trans ?_ hw h
  unfold State.echo
  repeat' first
    | with_reducible
        first
        | exact Keeps.refl _ _ | apply State.postDevice_keeps | apply State.taken_keeps | refine Keeps.ite ?_ ?_
    | exact rfl

theorem State.endAcked_keeps {T a} :
    ∀ x0 x1, Keeps T a x0 →
      within [.dict, .log, .movers, .parts, .chanUse] T = true →
      Keeps T a (State.endAcked x0 x1) := by
  intro x0 x1 h hw
  refine Keeps.trans ?_ hw h
  unfold State.endAcked
  repeat' first
    | with_reducible
        first
        | exact Keeps.refl _ _ | apply State.doneDesc_keeps | apply State.failActive_keeps | refine Keeps.ite ?_ ?_
    | exact rfl | extract_lets | split

theorem State.endEvents_keeps {T a} :
    ∀ x0 x1 x2, Keeps T a x0 →
      within [.dict, .log] T = true →
      Keeps T a (State.endEvents x0 x1 x2) := by
  intro x0 x1 x2 h hw
  refine Keeps.trans ?_ hw h
  unfold State.endEvents
  repeat' first
    | with_reducible
        first
        | exact Keeps.refl _ _ | apply State.bump_keeps | apply State.report_keeps | refine Keeps.ite ?_ ?_
    | exact rfl

theorem State.fillMctp_keeps {T a} :
    ∀ x0 x1 x2, Keeps T a x0 →
      within [.net] T = true →
      Keeps T a (State.fillMctp x0 x1 x2) := by
  intro x0 x1 x2 h hw
  refine Keeps.trans ?_ hw h
  unfold State.fillMctp
  repeat' first
    | with_reducible
        first
        | exact Keeps.refl _ _ | apply State.flushMctp_keeps
    | exact rfl | extract_lets | dsimp +zetaDelta only
    | fail_if_no_progress
      with_reducible
        refine Keeps.lit rfl rfl rfl rfl rfl rfl id ?_ ?_ ?_ ?_ ?_ ?_ ?_ ?_ ?_ ?_ ?_ ?_ ?_ ?_
          ?_ ?_ ?_ ?_ ?_ ?_ ?_ ?_ ?_ ?_ ?_ ?_ ?_ ?_ <;>
        try first | exact Or.inr rfl | exact Or.inl rfl

theorem State.gatherPiece_keeps {T a} :
    ∀ x0 x1 x2 x3, Keeps T a x0 →
      within [.ports, .mboxes, .links, .net] T = true →
      Keeps T a (State.gatherPiece x0 x1 x2 x3) := by
  intro x0 x1 x2 x3 h hw
  refine Keeps.trans ?_ hw h
  unfold State.gatherPiece
  repeat' first
    | with_reducible
        first
        | exact Keeps.refl _ _ | apply State.forward_keeps | apply State.setPort_keeps
        | apply State.startSegments_keeps | refine Keeps.ite ?_ ?_
    | exact rfl

theorem State.endForward_keeps {T a} :
    ∀ x0 x1 x2 x3, Keeps T a x0 →
      within [.ports, .mboxes, .log, .links, .net] T = true →
      Keeps T a (State.endForward x0 x1 x2 x3) := by
  intro x0 x1 x2 x3 h hw
  refine Keeps.trans ?_ hw h
  unfold State.endForward
  repeat' first
    | with_reducible
        first
        | exact Keeps.refl _ _ | apply State.abortWindow_keeps | apply State.endRead_keeps
        | apply State.endWindow_keeps | apply State.fillMctp_keeps | apply State.gatherPiece_keeps
        | refine Keeps.ite ?_ ?_
    | exact rfl | extract_lets | split | dsimp +zetaDelta only
    | fail_if_no_progress
      with_reducible
        refine Keeps.lit rfl rfl rfl rfl rfl rfl id ?_ ?_ ?_ ?_ ?_ ?_ ?_ ?_ ?_ ?_ ?_ ?_ ?_ ?_
          ?_ ?_ ?_ ?_ ?_ ?_ ?_ ?_ ?_ ?_ ?_ ?_ ?_ ?_ <;>
        try first | exact Or.inr rfl | exact Or.inl rfl

theorem State.mapFault_keeps {T a} :
    ∀ x0 x1, Keeps T a x0 →
      within [.log] T = true →
      Keeps T a (State.mapFault x0 x1) := by
  intro x0 x1 h hw
  refine Keeps.trans ?_ hw h
  unfold State.mapFault
  repeat' first
    | with_reducible
        first
        | exact Keeps.refl _ _ | apply State.report_keeps
    | exact rfl

theorem State.refuseDesc_keeps {T a} :
    ∀ x0 x1 x2, Keeps T a x0 →
      within [.ports, .log, .ctxs, .journal] T = true →
      Keeps T a (State.refuseDesc x0 x1 x2) := by
  intro x0 x1 x2 h hw
  refine Keeps.trans ?_ hw h
  unfold State.refuseDesc
  repeat' first
    | with_reducible
        first
        | exact Keeps.refl _ _ | apply State.journalAppend_keeps | apply State.report_keeps
        | apply State.setCtx_keeps | apply State.writeAccept_keeps
    | exact rfl

theorem State.examine_keeps {T a} :
    ∀ x0 x1 x2 x3, Keeps T a x0 →
      within [.ports, .dict, .log, .ctxs, .journal, .seeds] T = true →
      Keeps T a (State.examine x0 x1 x2 x3) := by
  intro x0 x1 x2 x3 h hw
  refine Keeps.trans ?_ hw h
  unfold State.examine
  repeat' first
    | with_reducible
        first
        | exact Keeps.refl _ _ | apply State.acceptDesc_keeps | apply State.mapFault_keeps
        | apply State.reclaim_keeps | apply State.refuseDesc_keeps | apply State.setCtx_keeps
        | refine Keeps.ite ?_ ?_
    | exact rfl | extract_lets | split

theorem State.reach_keeps {T a} :
    ∀ x0 x1, Keeps T a x0 →
      within [.time] T = true →
      Keeps T a (State.reach x0 x1) := by
  intro x0 x1 h hw
  refine Keeps.trans ?_ hw h
  unfold State.reach
  constructor <;> first | exact Or.inr rfl | exact Or.inl rfl | exact Nat.le_refl _ | exact id | rfl | exact Nat.le_max_left _ _

theorem State.expireDevice_keeps {T a} :
    ∀ x0 x1, Keeps T a x0 →
      within [.time, .ports, .mboxes, .dict, .log] T = true →
      Keeps T a (State.expireDevice x0 x1) := by
  intro x0 x1 h hw
  refine Keeps.trans ?_ hw h
  unfold State.expireDevice
  repeat' first
    | with_reducible
        first
        | exact Keeps.refl _ _ | apply State.endWindow_keeps | apply State.logMboxTimeout_keeps
        | apply State.reach_keeps | apply State.setMbox_keeps
    | exact rfl | extract_lets | split

theorem State.expireHost_keeps {T a} :
    ∀ x0 x1, Keeps T a x0 →
      within [.time, .ports, .mboxes, .dict, .log] T = true →
      Keeps T a (State.expireHost x0 x1) := by
  intro x0 x1 h hw
  refine Keeps.trans ?_ hw h
  unfold State.expireHost
  repeat' first
    | with_reducible
        first
        | exact Keeps.refl _ _ | apply State.logMboxTimeout_keeps | apply State.mboxEmptied_keeps
        | apply State.reach_keeps | apply State.setMbox_keeps
    | exact rfl

theorem State.failItem_keeps {T a} :
    ∀ x0 x1 x2 x3 x4, Keeps T a x0 →
      within [.log, .parts, .ctxs, .journal] T = true →
      Keeps T a (State.failItem x0 x1 x2 x3 x4) := by
  intro x0 x1 x2 x3 x4 h hw
  refine Keeps.trans ?_ hw h
  unfold State.failItem
  repeat' first
    | with_reducible
        first
        | exact Keeps.refl _ _ | apply State.finish_keeps | apply State.release_keeps
    | exact rfl

theorem State.flushLarder_keeps {T a} :
    ∀ x0 x1, Keeps T a x0 →
      within [.dict, .hbm, .hbmPoison, .hbmEcc, .larders] T = true →
      Keeps T a (State.flushLarder x0 x1) := by
  intro x0 x1 h hw
  refine Keeps.trans ?_ hw h
  unfold State.flushLarder
  repeat' first
    | with_reducible
        first
        | assumption | exact Keeps.refl _ _ | apply State.dropLarder_keeps | apply State.writeBack_keeps
        | refine foldl_keeps (fun _ _ _ => ?_) ?_
    | exact rfl

theorem State.formatJournal_keeps {T a} :
    ∀ x0, Keeps T a x0 →
      within [.boot, .log, .health, .journal] T = true →
      Keeps T a (State.formatJournal x0) := by
  intro x0 h hw
  refine Keeps.trans ?_ hw h
  unfold State.formatJournal
  repeat' first
    | with_reducible
        first
        | exact Keeps.refl _ _ | apply State.markFaulty_keeps
    | exact rfl | split | dsimp only
    | fail_if_no_progress
      with_reducible
        refine Keeps.lit rfl rfl rfl rfl rfl rfl id ?_ ?_ ?_ ?_ ?_ ?_ ?_ ?_ ?_ ?_ ?_ ?_ ?_ ?_
          ?_ ?_ ?_ ?_ ?_ ?_ ?_ ?_ ?_ ?_ ?_ ?_ ?_ ?_ <;>
        try first | exact Or.inr rfl | exact Or.inl rfl

theorem State.mapPortItems_keeps {T a} :
    ∀ x0 x1 x2, Keeps T a x0 →
      within [.ctxs] T = true →
      Keeps T a (State.mapPortItems x0 x1 x2) := by
  intro x0 x1 x2 h hw
  refine Keeps.trans ?_ hw h
  unfold State.mapPortItems
  repeat' first
    | with_reducible
        first
        | exact Keeps.refl _ _
    | dsimp only
    | fail_if_no_progress
      with_reducible
        refine Keeps.lit rfl rfl rfl rfl rfl rfl id ?_ ?_ ?_ ?_ ?_ ?_ ?_ ?_ ?_ ?_ ?_ ?_ ?_ ?_
          ?_ ?_ ?_ ?_ ?_ ?_ ?_ ?_ ?_ ?_ ?_ ?_ ?_ ?_ <;>
        try first | exact Or.inr rfl | exact Or.inl rfl

theorem State.rollPort_keeps {T a} :
    ∀ x0 x1, Keeps T a x0 →
      within [.ctxs] T = true →
      Keeps T a (State.rollPort x0 x1) := by
  intro x0 x1 h hw
  refine Keeps.trans ?_ hw h
  unfold State.rollPort
  repeat' first
    | with_reducible
        first
        | assumption | exact Keeps.refl _ _ | apply State.mapPortItems_keeps | apply State.rollItem_keeps
        | refine Keeps.ite ?_ ?_ | refine foldl_keeps (fun _ _ _ => ?_) ?_
    | exact rfl | extract_lets | split

theorem State.functionReset_keeps {T a} :
    ∀ x0 x1, Keeps T a x0 →
      within [.ports, .mboxes, .sessions, .ctxs] T = true →
      Keeps T a (State.functionReset x0 x1) := by
  intro x0 x1 h hw
  refine Keeps.trans ?_ hw h
  unfold State.functionReset
  repeat' first
    | with_reducible
        first
        | exact Keeps.refl _ _ | apply State.endSession_keeps | apply State.rollPort_keeps
        | apply State.setMbox_keeps | apply State.setPort_keeps | refine Keeps.ite ?_ ?_
    | exact rfl

theorem State.glazeConflict_keeps {T a} :
    ∀ x0 x1 x2 x3 x4, Keeps T a x0 →
      within [.dict, .log, .parts] T = true →
      Keeps T a (State.glazeConflict x0 x1 x2 x3 x4) := by
  intro x0 x1 x2 x3 x4 h hw
  refine Keeps.trans ?_ hw h
  unfold State.glazeConflict
  repeat' first
    | with_reducible
        first
        | exact Keeps.refl _ _ | apply State.bumpH_keeps | apply State.opFault_keeps
    | exact rfl | split

theorem State.halo_keeps {T a} :
    ∀ x0 x1 x2 x3 x4, Keeps T a x0 →
      within [.dict, .log, .health, .cores, .scratch, .parts] T = true →
      Keeps T a (State.halo x0 x1 x2 x3 x4) := by
  intro x0 x1 x2 x3 x4 h hw
  refine Keeps.trans ?_ hw h
  unfold State.halo
  repeat' first
    | with_reducible
        first
        | assumption | exact Keeps.refl _ _ | apply Acc.finish_keeps | apply Acc.ghostFill_keeps
        | apply State.upsets_keeps | apply Acc.ofState_keeps | apply Acc.each_keeps | apply Acc.eachStep_keeps
    | exact rfl | intro _ | extract_lets | split

theorem State.hbmUpset_keeps {T a} :
    ∀ x0 x1, Keeps T a x0 →
      within [.hbmEcc, .larders] T = true →
      Keeps T a (State.hbmUpset x0 x1) := by
  intro x0 x1 h hw
  refine Keeps.trans ?_ hw h
  unfold State.hbmUpset
  repeat' first
    | with_reducible
        first
        | exact Keeps.refl _ _ | apply State.setEcc_keeps | apply State.setLarder_keeps | refine Keeps.ite ?_ ?_
    | exact rfl | extract_lets | split

theorem State.hbmUpsets_keeps {T a} :
    ∀ x0 x1, Keeps T a x0 →
      within [.hbmEcc, .larders] T = true →
      Keeps T a (State.hbmUpsets x0 x1) := by
  intro x0 x1 h hw
  refine Keeps.trans ?_ hw h
  unfold State.hbmUpsets
  repeat' first
    | with_reducible
        first
        | assumption | exact Keeps.refl _ _ | apply State.hbmUpset_keeps | refine foldl_keeps (fun _ _ _ => ?_) ?_
    | exact rfl

theorem State.mapDevice_keeps {T a} :
    ∀ x0 x1 x2 x3, Keeps T a x0 →
      within [.log, .links, .net] T = true →
      Keeps T a (State.mapDevice x0 x1 x2 x3) := by
  intro x0 x1 x2 x3 h hw
  refine Keeps.trans ?_ hw h
  unfold State.mapDevice
  repeat' first
    | with_reducible
        first
        | exact Keeps.refl _ _ | apply State.deny_keeps | apply State.sendMaps_keeps | apply State.setLink_keeps
        | refine Keeps.ite ?_ ?_
    | exact rfl | extract_lets | split
    | fail_if_no_progress
      with_reducible
        refine Keeps.lit rfl rfl rfl rfl rfl rfl id ?_ ?_ ?_ ?_ ?_ ?_ ?_ ?_ ?_ ?_ ?_ ?_ ?_ ?_
          ?_ ?_ ?_ ?_ ?_ ?_ ?_ ?_ ?_ ?_ ?_ ?_ ?_ ?_ <;>
        try first | exact Or.inr rfl | exact Or.inl rfl

theorem State.hear_keeps {T a} :
    ∀ x0 x1 x2, Keeps T a x0 →
      within [.log, .links, .net] T = true →
      Keeps T a (State.hear x0 x1 x2) := by
  intro x0 x1 x2 h hw
  refine Keeps.trans ?_ hw h
  unfold State.hear
  repeat' first
    | with_reducible
        first
        | exact Keeps.refl _ _ | apply State.deny_keeps | apply State.mapDevice_keeps | apply State.setLink_keeps
        | refine Keeps.ite ?_ ?_
    | exact rfl

theorem State.refuseMsg_keeps {T a} :
    ∀ x0 x1 x2, Keeps T a x0 →
      within [.log] T = true →
      Keeps T a (State.refuseMsg x0 x1 x2) := by
  intro x0 x1 x2 h hw
  refine Keeps.trans ?_ hw h
  unfold State.refuseMsg
  repeat' first
    | with_reducible
        first
        | exact Keeps.refl _ _ | apply State.report_keeps
    | exact rfl

theorem State.refuseLane_keeps {T a} :
    ∀ x0 x1 x2, Keeps T a x0 →
      within [.log, .links, .net] T = true →
      Keeps T a (State.refuseLane x0 x1 x2) := by
  intro x0 x1 x2 h hw
  refine Keeps.trans ?_ hw h
  unfold State.refuseLane
  repeat' first
    | with_reducible
        first
        | exact Keeps.refl _ _ | apply State.refuseMsg_keeps | apply State.sendLane_keeps
    | exact rfl

theorem State.odRead_keeps {T a} :
    ∀ x0 x1 x2 x3, Keeps T a x0 →
      within [.sessions, .log, .freeCtr] T = true →
      Keeps T a (State.odRead x0 x1 x2 x3).1 := by
  intro x0 x1 x2 x3 h hw
  refine Keeps.trans ?_ hw h
  unfold State.odRead
  repeat' first
    | with_reducible
        first
        | exact Keeps.refl _ _ | apply State.objRead_keeps | apply State.report_keeps
    | exact rfl | split | dsimp only
    | with_reducible
        first
        | refine Keeps.fst (by assumption) ?_

theorem State.odWrite_keeps {T a} :
    ∀ x0 x1 x2 x3 x4, Keeps T a x0 →
      within [.time, .power, .boot, .ports, .mboxes, .sessions, .dict, .log, .health, .cores, .hbm, .hbmPoison, .hbmEcc, .larders, .movers, .folds, .parts, .ctxs, .journal, .train, .seeds, .chanUse, .links, .net] T = true →
      Keeps T a (State.odWrite x0 x1 x2 x3 x4).1 := by
  intro x0 x1 x2 x3 x4 h hw
  refine Keeps.trans ?_ hw h
  unfold State.odWrite
  repeat' first
    | with_reducible
        first
        | exact Keeps.refl _ _ | apply State.objWrite_keeps | apply State.report_keeps
        | apply State.touchPrivilege_keeps | refine Keeps.iteFst ?_ ?_
    | exact rfl

theorem State.serveObject_keeps {T a} :
    ∀ x0 x1 x2, Keeps T a x0 →
      within [.time, .power, .boot, .ports, .mboxes, .sessions, .dict, .log, .health, .cores, .hbm, .hbmPoison, .hbmEcc, .larders, .movers, .folds, .parts, .ctxs, .journal, .train, .seeds, .chanUse, .links, .net, .freeCtr] T = true →
      Keeps T a (State.serveObject x0 x1 x2).1 := by
  intro x0 x1 x2 h hw
  refine Keeps.trans ?_ hw h
  unfold State.serveObject
  repeat' first
    | with_reducible
        first
        | exact Keeps.refl _ _ | apply State.odRead_keeps | apply State.odWrite_keeps | apply State.report_keeps
        | refine Keeps.iteFst ?_ ?_
    | exact rfl | extract_lets | split | dsimp only
    | with_reducible
        first
        | refine Keeps.fst (by assumption) ?_

theorem State.serveLane_keeps {T a} :
    ∀ x0 x1 x2, Keeps T a x0 →
      within [.time, .power, .boot, .ports, .mboxes, .sessions, .dict, .log, .health, .cores, .hbm, .hbmPoison, .hbmEcc, .larders, .movers, .folds, .parts, .ctxs, .journal, .train, .seeds, .chanUse, .links, .net, .freeCtr] T = true →
      Keeps T a (State.serveLane x0 x1 x2) := by
  intro x0 x1 x2 h hw
  refine Keeps.trans ?_ hw h
  unfold State.serveLane
  repeat' first
    | with_reducible
        first
        | exact Keeps.refl _ _ | apply State.sendLane_keeps | apply State.serveObject_keeps
        | apply State.setSession_keeps
    | exact rfl

theorem State.takeReport_keeps {T a} :
    ∀ x0 x1 x2 x3, Keeps T a x0 →
      within [.links, .net] T = true →
      Keeps T a (State.takeReport x0 x1 x2 x3) := by
  intro x0 x1 x2 x3 h hw
  refine Keeps.trans ?_ hw h
  unfold State.takeReport
  repeat' first
    | with_reducible
        first
        | exact Keeps.refl _ _ | apply State.sendLane_keeps
    | exact rfl | dsimp only
    | fail_if_no_progress
      with_reducible
        refine Keeps.lit rfl rfl rfl rfl rfl rfl id ?_ ?_ ?_ ?_ ?_ ?_ ?_ ?_ ?_ ?_ ?_ ?_ ?_ ?_
          ?_ ?_ ?_ ?_ ?_ ?_ ?_ ?_ ?_ ?_ ?_ ?_ ?_ ?_ <;>
        try first | exact Or.inr rfl | exact Or.inl rfl

theorem State.laneMessage_keeps {T a} :
    ∀ x0 x1 x2, Keeps T a x0 →
      within [.time, .power, .boot, .ports, .mboxes, .sessions, .dict, .log, .health, .cores, .hbm, .hbmPoison, .hbmEcc, .larders, .movers, .folds, .parts, .ctxs, .journal, .train, .seeds, .chanUse, .links, .net, .freeCtr] T = true →
      Keeps T a (State.laneMessage x0 x1 x2) := by
  intro x0 x1 x2 h hw
  refine Keeps.trans ?_ hw h
  unfold State.laneMessage
  repeat' first
    | with_reducible
        first
        | exact Keeps.refl _ _ | apply State.endForward_keeps | apply State.refuseLane_keeps
        | apply State.serveLane_keeps | apply State.takeReport_keeps | refine Keeps.ite ?_ ?_
    | exact rfl | split | dsimp only
    | fail_if_no_progress
      with_reducible
        refine Keeps.lit rfl rfl rfl rfl rfl rfl id ?_ ?_ ?_ ?_ ?_ ?_ ?_ ?_ ?_ ?_ ?_ ?_ ?_ ?_
          ?_ ?_ ?_ ?_ ?_ ?_ ?_ ?_ ?_ ?_ ?_ ?_ ?_ ?_ <;>
        try first | exact Or.inr rfl | exact Or.inl rfl

theorem State.larderWait_keeps {T a} :
    ∀ x0 x1 x2, Keeps T a x0 →
      within [.larders] T = true →
      Keeps T a (State.larderWait x0 x1 x2) := by
  intro x0 x1 x2 h hw
  refine Keeps.trans ?_ hw h
  unfold State.larderWait
  repeat' first
    | with_reducible
        first
        | exact Keeps.refl _ _ | apply State.setLarder_keeps
    | exact rfl

theorem State.larderTake_keeps {T a} :
    ∀ x0 x1 x2, Keeps T a x0 →
      within [.dict, .log, .hbm, .hbmPoison, .hbmEcc, .larders, .parts] T = true →
      Keeps T a (State.larderTake x0 x1 x2) := by
  intro x0 x1 x2 h hw
  refine Keeps.trans ?_ hw h
  unfold State.larderTake
  repeat' first
    | with_reducible
        first
        | assumption | exact Keeps.refl _ _ | apply State.allocLine_keeps | apply State.bringLine_keeps
        | apply State.bumpLarder_keeps | apply State.capturePage_keeps | apply State.larderWait_keeps
        | apply State.putCopy_keeps | apply State.serve_keeps | apply State.setLarder_keeps | refine Keeps.ite ?_ ?_
        | refine foldl_keeps (fun _ _ _ => ?_) ?_
    | exact rfl

theorem State.launch_keeps {T a} :
    ∀ x0 x1 x2, Keeps T a x0 →
      within [.ports, .dict, .log, .health, .cores, .scratch, .hbm, .hbmPoison, .hbmEcc, .larders, .movers, .parts, .chanUse, .links, .net] T = true →
      Keeps T a (State.launch x0 x1 x2) := by
  intro x0 x1 x2 h hw
  refine Keeps.trans ?_ hw h
  unfold State.launch
  repeat' first
    | with_reducible
        first
        | exact Keeps.refl _ _ | apply State.failActive_keeps | apply State.moveAll_keeps
        | apply State.settleMove_keeps | refine Keeps.ite ?_ ?_
    | exact rfl | split

theorem State.releaseHeld_keeps {T a} :
    ∀ x0 x1, Keeps T a x0 →
      within [.ports] T = true →
      Keeps T a (State.releaseHeld x0 x1) := by
  intro x0 x1 h hw
  refine Keeps.trans ?_ hw h
  unfold State.releaseHeld
  repeat' first
    | with_reducible
        first
        | assumption | exact Keeps.refl _ _ | apply State.raise_keeps | apply State.send_keeps
        | apply State.setPort_keeps | refine foldl_keeps (fun _ _ _ => ?_) ?_
    | exact rfl | extract_lets | split

theorem State.linkSettles_keeps {T a} :
    ∀ x0 x1 x2, Keeps T a x0 →
      within [.time, .power, .boot, .ports, .mboxes, .sessions, .dict, .log, .health, .cores, .hbm, .hbmPoison, .hbmEcc, .larders, .movers, .folds, .parts, .ctxs, .journal, .chanUse, .links, .net] T = true →
      Keeps T a (State.linkSettles x0 x1 x2) := by
  intro x0 x1 x2 h hw
  refine Keeps.trans ?_ hw h
  unfold State.linkSettles
  repeat' first
    | with_reducible
        first
        | exact Keeps.refl _ _ | apply State.releaseHeld_keeps | apply State.setPort_keeps
        | apply State.unitFails_keeps | refine Keeps.ite ?_ ?_
    | exact rfl

theorem State.loneManager_keeps {T a} :
    ∀ x0, Keeps T a x0 →
      within [.boot, .log] T = true →
      Keeps T a (State.loneManager x0) := by
  intro x0 h hw
  refine Keeps.trans ?_ hw h
  unfold State.loneManager
  repeat' first
    | with_reducible
        first
        | exact Keeps.refl _ _ | apply State.deny_keeps | refine Keeps.ite ?_ ?_
    | exact rfl | dsimp only
    | fail_if_no_progress
      with_reducible
        refine Keeps.lit rfl rfl rfl rfl rfl rfl id ?_ ?_ ?_ ?_ ?_ ?_ ?_ ?_ ?_ ?_ ?_ ?_ ?_ ?_
          ?_ ?_ ?_ ?_ ?_ ?_ ?_ ?_ ?_ ?_ ?_ ?_ ?_ ?_ <;>
        try first | exact Or.inr rfl | exact Or.inl rfl

theorem State.loseJournal_keeps {T a} :
    ∀ x0, Keeps T a x0 →
      within [.log, .health] T = true →
      Keeps T a (State.loseJournal x0) := by
  intro x0 h hw
  refine Keeps.trans ?_ hw h
  unfold State.loseJournal
  repeat' first
    | with_reducible
        first
        | exact Keeps.refl _ _ | apply State.report_keeps | refine Keeps.ite ?_ ?_
    | exact rfl | extract_lets | dsimp +zetaDelta only
    | fail_if_no_progress
      with_reducible
        refine Keeps.lit rfl rfl rfl rfl rfl rfl id ?_ ?_ ?_ ?_ ?_ ?_ ?_ ?_ ?_ ?_ ?_ ?_ ?_ ?_
          ?_ ?_ ?_ ?_ ?_ ?_ ?_ ?_ ?_ ?_ ?_ ?_ ?_ ?_ <;>
        try first | exact Or.inr rfl | exact Or.inl rfl

theorem State.supplyHold_keeps {T a} :
    ∀ x0, Keeps T a x0 →
      within [.power, .boot, .cores, .scratch, .hbm, .hbmPoison, .hbmEcc, .larders, .movers, .folds, .chanUse, .links] T = true →
      Keeps T a (State.supplyHold x0) := by
  intro x0 h hw
  refine Keeps.trans ?_ hw h
  unfold State.supplyHold
  repeat' first
    | with_reducible
        first
        | exact Keeps.refl _ _ | apply State.dark_keeps
    | exact rfl | extract_lets | dsimp +zetaDelta only
    | fail_if_no_progress
      with_reducible
        refine Keeps.lit rfl rfl rfl rfl rfl rfl id ?_ ?_ ?_ ?_ ?_ ?_ ?_ ?_ ?_ ?_ ?_ ?_ ?_ ?_
          ?_ ?_ ?_ ?_ ?_ ?_ ?_ ?_ ?_ ?_ ?_ ?_ ?_ ?_ <;>
        try first | exact Or.inr rfl | exact Or.inl rfl

theorem State.loseVaux_keeps {T a} :
    ∀ x0, Keeps T a x0 →
      within [.power, .boot, .sessions, .cores, .scratch, .hbm, .hbmPoison, .hbmEcc, .larders, .movers, .folds, .chanUse, .links, .net] T = true →
      Keeps T a (State.loseVaux x0) := by
  intro x0 h hw
  refine Keeps.trans ?_ hw h
  unfold State.loseVaux
  repeat' first
    | with_reducible
        first
        | exact Keeps.refl _ _ | apply State.supplyHold_keeps
    | exact rfl | extract_lets | split | dsimp +zetaDelta only
    | fail_if_no_progress
      with_reducible
        refine Keeps.lit rfl rfl rfl rfl rfl rfl id ?_ ?_ ?_ ?_ ?_ ?_ ?_ ?_ ?_ ?_ ?_ ?_ ?_ ?_
          ?_ ?_ ?_ ?_ ?_ ?_ ?_ ?_ ?_ ?_ ?_ ?_ ?_ ?_ <;>
        try first | exact Or.inr rfl | exact Or.inl rfl

theorem State.loseVin_keeps {T a} :
    ∀ x0, Keeps T a x0 →
      within [.power, .boot, .cores, .scratch, .hbm, .hbmPoison, .hbmEcc, .larders, .movers, .folds, .chanUse, .links] T = true →
      Keeps T a (State.loseVin x0) := by
  intro x0 h hw
  refine Keeps.trans ?_ hw h
  unfold State.loseVin
  repeat' first
    | with_reducible
        first
        | exact Keeps.refl _ _ | apply State.supplyHold_keeps
    | exact rfl | extract_lets | split | dsimp +zetaDelta only
    | fail_if_no_progress
      with_reducible
        refine Keeps.lit rfl rfl rfl rfl rfl rfl id ?_ ?_ ?_ ?_ ?_ ?_ ?_ ?_ ?_ ?_ ?_ ?_ ?_ ?_
          ?_ ?_ ?_ ?_ ?_ ?_ ?_ ?_ ?_ ?_ ?_ ?_ ?_ ?_ <;>
        try first | exact Or.inr rfl | exact Or.inl rfl

theorem State.lowerVdd_keeps {T a} :
    ∀ x0 x1, Keeps T a x0 →
      within [.power, .freeCtr] T = true →
      Keeps T a (State.lowerVdd x0 x1) := by
  intro x0 x1 h hw
  refine Keeps.trans ?_ hw h
  unfold State.lowerVdd
  repeat' first
    | with_reducible
        first
        | exact Keeps.refl _ _ | apply State.setVdd_keeps | refine Keeps.ite ?_ ?_
    | exact rfl | extract_lets
    | fail_if_no_progress
      with_reducible
        refine Keeps.lit rfl rfl rfl rfl rfl rfl id ?_ ?_ ?_ ?_ ?_ ?_ ?_ ?_ ?_ ?_ ?_ ?_ ?_ ?_
          ?_ ?_ ?_ ?_ ?_ ?_ ?_ ?_ ?_ ?_ ?_ ?_ ?_ ?_ <;>
        try first | exact Or.inr rfl | exact Or.inl rfl

theorem State.setBankPower_keeps {T a} :
    ∀ x0 x1 x2 x3, Keeps T a x0 →
      within [.cores] T = true →
      Keeps T a (State.setBankPower x0 x1 x2 x3) := by
  intro x0 x1 x2 x3 h hw
  refine Keeps.trans ?_ hw h
  unfold State.setBankPower
  repeat' first
    | with_reducible
        first
        | exact Keeps.refl _ _ | apply State.setCore_keeps
    | exact rfl

theorem State.lullBank_keeps {T a} :
    ∀ x0 x1 x2, Keeps T a x0 →
      within [.cores] T = true →
      Keeps T a (State.lullBank x0 x1 x2) := by
  intro x0 x1 x2 h hw
  refine Keeps.trans ?_ hw h
  unfold State.lullBank
  repeat' first
    | with_reducible
        first
        | exact Keeps.refl _ _ | apply State.setBankPower_keeps | refine Keeps.ite ?_ ?_
    | exact rfl

theorem State.mapCore_keeps {T a} :
    ∀ x0 x1 x2, Keeps T a x0 →
      within [.cores] T = true →
      Keeps T a (State.mapCore x0 x1 x2) := by
  intro x0 x1 x2 h hw
  refine Keeps.trans ?_ hw h
  unfold State.mapCore
  repeat' first
    | with_reducible
        first
        | exact Keeps.refl _ _ | apply State.setCore_keeps
    | exact rfl

theorem State.mctp_keeps {T a} :
    ∀ x0 x1, Keeps T a x0 →
      within [.time, .power, .boot, .ports, .mboxes, .sessions, .dict, .log, .health, .cores, .hbm, .hbmPoison, .hbmEcc, .larders, .movers, .folds, .parts, .ctxs, .journal, .train, .seeds, .chanUse, .links, .net, .freeCtr] T = true →
      Keeps T a (State.mctp x0 x1) := by
  intro x0 x1 h hw
  refine Keeps.trans ?_ hw h
  unfold State.mctp
  repeat' first
    | with_reducible
        first
        | exact Keeps.refl _ _ | apply State.answerMctp_keeps | apply State.forward_keeps
        | apply State.queueMctp_keeps | apply State.refuseMsg_keeps | apply State.serveObject_keeps
        | refine Keeps.ite ?_ ?_
    | exact rfl

theorem State.offBank_keeps {T a} :
    ∀ x0 x1 x2, Keeps T a x0 →
      within [.cores] T = true →
      Keeps T a (State.offBank x0 x1 x2) := by
  intro x0 x1 x2 h hw
  refine Keeps.trans ?_ hw h
  unfold State.offBank
  repeat' first
    | with_reducible
        first
        | exact Keeps.refl _ _ | apply State.setBankPower_keeps | refine Keeps.ite ?_ ?_
    | exact rfl

theorem State.perstLevel_keeps {T a} :
    ∀ x0 x1 x2, Keeps T a x0 →
      within [.ports, .mboxes, .sessions, .ctxs] T = true →
      Keeps T a (State.perstLevel x0 x1 x2) := by
  intro x0 x1 x2 h hw
  refine Keeps.trans ?_ hw h
  unfold State.perstLevel
  repeat' first
    | with_reducible
        first
        | exact Keeps.refl _ _ | apply State.functionReset_keeps | apply State.setPort_keeps
        | refine Keeps.ite ?_ ?_
    | exact rfl

theorem State.poolMax_keeps {T a} :
    ∀ x0 x1 x2 x3 x4, Keeps T a x0 →
      within [.dict, .log, .health, .cores, .scratch, .parts] T = true →
      Keeps T a (State.poolMax x0 x1 x2 x3 x4) := by
  intro x0 x1 x2 x3 x4 h hw
  refine Keeps.trans ?_ hw h
  unfold State.poolMax
  repeat' first
    | with_reducible
        first
        | assumption | exact Keeps.refl _ _ | apply Acc.poolTile_keeps | apply State.glazeTiles_keeps
    | exact rfl | intro _

theorem State.portReturns_keeps {T a} :
    ∀ x0 x1, Keeps T a x0 →
      within [.ports, .ctxs] T = true →
      Keeps T a (State.portReturns x0 x1) := by
  intro x0 x1 h hw
  refine Keeps.trans ?_ hw h
  unfold State.portReturns
  repeat' first
    | with_reducible
        first
        | exact Keeps.refl _ _ | apply State.mapPortItems_keeps | apply State.releaseHeld_keeps
        | apply State.setPort_keeps
    | exact rfl

theorem State.queueTransfer_keeps {T a} :
    ∀ x0 x1 x2 x3, Keeps T a x0 →
      within [.log, .movers, .parts, .net] T = true →
      Keeps T a (State.queueTransfer x0 x1 x2 x3) := by
  intro x0 x1 x2 x3 h hw
  refine Keeps.trans ?_ hw h
  unfold State.queueTransfer
  repeat' first
    | with_reducible
        first
        | assumption | exact Keeps.refl _ _ | apply State.carried_keeps | apply State.dropFlow_keeps
        | apply State.jobFault_keeps | apply State.setMover_keeps | refine Keeps.ite ?_ ?_
        | refine foldl_keeps (fun _ _ _ => ?_) ?_
    | exact rfl

theorem State.readAccept_keeps {T a} :
    ∀ x0 x1 x2 x3, Keeps T a x0 →
      within [.log] T = true →
      Keeps T a (State.readAccept x0 x1 x2 x3).1 := by
  intro x0 x1 x2 x3 h hw
  refine Keeps.trans ?_ hw h
  unfold State.readAccept
  repeat' first
    | with_reducible
        first
        | exact Keeps.refl _ _ | apply State.readRecord_keeps
    | exact rfl | split

theorem State.readHeadLo_keeps {T a} :
    ∀ x0 x1, Keeps T a x0 →
      within [.ports] T = true →
      Keeps T a (State.readHeadLo x0 x1) := by
  intro x0 x1 h hw
  refine Keeps.trans ?_ hw h
  unfold State.readHeadLo
  repeat' first
    | with_reducible
        first
        | exact Keeps.refl _ _ | apply State.answerRead_keeps | apply State.setPort_keeps
    | exact rfl

theorem State.readMeets_keeps {T a} :
    ∀ x0 x1 x2 x3, Keeps T a x0 →
      within [.dict, .hbmEcc] T = true →
      Keeps T a (State.readMeets x0 x1 x2 x3) := by
  intro x0 x1 x2 x3 h hw
  refine Keeps.trans ?_ hw h
  unfold State.readMeets
  repeat' first
    | with_reducible
        first
        | assumption | exact Keeps.refl _ _ | apply State.bumpLarder_keeps | apply State.setEcc_keeps
        | refine Keeps.ite ?_ ?_ | refine foldl_keeps (fun _ _ _ => ?_) ?_
    | exact rfl | split

theorem State.readNowLo_keeps {T a} :
    ∀ x0 x1, Keeps T a x0 →
      within [.ports] T = true →
      Keeps T a (State.readNowLo x0 x1) := by
  intro x0 x1 h hw
  refine Keeps.trans ?_ hw h
  unfold State.readNowLo
  repeat' first
    | with_reducible
        first
        | exact Keeps.refl _ _ | apply State.answerRead_keeps | apply State.setPort_keeps
    | exact rfl

theorem State.startFaulty_keeps {T a} :
    ∀ x0 x1 x2, Keeps T a x0 →
      within [.time, .power, .boot, .ports, .mboxes, .sessions, .dict, .log, .health, .cores, .hbm, .hbmPoison, .hbmEcc, .larders, .movers, .folds, .parts, .ctxs, .journal, .chanUse, .links, .net] T = true →
      Keeps T a (State.startFaulty x0 x1 x2) := by
  intro x0 x1 x2 h hw
  refine Keeps.trans ?_ hw h
  unfold State.startFaulty
  repeat' first
    | with_reducible
        first
        | exact Keeps.refl _ _ | apply State.markFaulty_keeps | apply State.unitFails_keeps | refine Keeps.ite ?_ ?_
    | exact rfl

theorem State.startGrid_keeps {T a} :
    ∀ x0 x1, Keeps T a x0 →
      within [.health] T = true →
      Keeps T a (State.startGrid x0 x1) := by
  intro x0 x1 h hw
  refine Keeps.trans ?_ hw h
  unfold State.startGrid
  repeat' first
    | with_reducible
        first
        | exact Keeps.refl _ _ | apply State.setHearth_keeps | refine Keeps.ite ?_ ?_
    | exact rfl

theorem State.rebuildHealth_keeps {T a} :
    ∀ x0 x1, Keeps T a x0 →
      within [.time, .power, .boot, .ports, .mboxes, .sessions, .dict, .log, .health, .cores, .hbm, .hbmPoison, .hbmEcc, .larders, .movers, .folds, .parts, .ctxs, .journal, .chanUse, .links, .net] T = true →
      Keeps T a (State.rebuildHealth x0 x1) := by
  intro x0 x1 h hw
  refine Keeps.trans ?_ hw h
  unfold State.rebuildHealth
  repeat' first
    | with_reducible
        first
        | assumption | exact Keeps.refl _ _ | apply State.formatJournal_keeps | apply State.startFaulty_keeps
        | apply State.startGrid_keeps | refine foldl_keeps (fun _ _ _ => ?_) ?_
    | exact rfl

theorem State.rxFlit_keeps {T a} :
    ∀ x0 x1 x2, Keeps T a x0 →
      within [.dict, .log, .movers, .links, .net] T = true →
      Keeps T a (State.rxFlit x0 x1 x2).1 := by
  intro x0 x1 x2 h hw
  refine Keeps.trans ?_ hw h
  unfold State.rxFlit
  repeat' first
    | with_reducible
        first
        | exact Keeps.refl _ _ | apply State.applyAck_keeps | apply State.deny_keeps | apply State.setLink_keeps
        | refine Keeps.ite ?_ ?_ | refine Keeps.iteFst ?_ ?_
    | exact rfl

theorem State.releasePorts_keeps {T a} :
    ∀ x0, Keeps T a x0 →
      within [.ports] T = true →
      Keeps T a (State.releasePorts x0) := by
  intro x0 h hw
  refine Keeps.trans ?_ hw h
  unfold State.releasePorts
  repeat' first
    | with_reducible
        first
        | exact Keeps.refl _ _ | apply State.releaseHeld_keeps
    | exact rfl

theorem State.resume_keeps {T a} :
    ∀ x0 x1 x2 x3 x4 x5 x6, Keeps T a x0 →
      within [.power, .ports, .dict, .log, .health, .cores, .scratch, .hbm, .hbmPoison, .hbmEcc, .larders, .movers, .folds, .parts, .ctxs, .journal, .train, .chanUse] T = true →
      Keeps T a (State.resume x0 x1 x2 x3 x4 x5 x6) := by
  intro x0 x1 x2 x3 x4 x5 x6 h hw
  refine Keeps.trans ?_ hw h
  unfold State.resume
  repeat' first
    | with_reducible
        first
        | exact Keeps.refl _ _ | apply State.countReplay_keeps | apply State.install_keeps
        | apply State.setPart_keeps | apply State.startRun_keeps | apply State.unbind_keeps
    | exact rfl

theorem State.replayItem_keeps {T a} :
    ∀ x0 x1 x2 x3 x4 x5, Keeps T a x0 →
      within [.power, .ports, .dict, .log, .health, .cores, .scratch, .hbm, .hbmPoison, .hbmEcc, .larders, .movers, .folds, .parts, .ctxs, .journal, .train, .chanUse] T = true →
      Keeps T a (State.replayItem x0 x1 x2 x3 x4 x5) := by
  intro x0 x1 x2 x3 x4 x5 h hw
  refine Keeps.trans ?_ hw h
  unfold State.replayItem
  repeat' first
    | with_reducible
        first
        | exact Keeps.refl _ _ | apply State.badHealth_keeps | apply State.countReplay_keeps
        | apply State.estimate_keeps | apply State.failItem_keeps | apply State.imageFault_keeps
        | apply State.mapHead_keeps | apply State.rejectItem_keeps | apply State.release_keeps
        | apply State.resume_keeps | apply State.returnItems_keeps | apply State.setPart_keeps
        | apply State.unbind_keeps | refine Keeps.ite ?_ ?_
    | exact rfl | extract_lets | split

theorem State.resetUnits_keeps {T a} :
    ∀ x0, Keeps T a x0 →
      within [.power, .boot, .health, .cores, .scratch, .movers, .folds, .chanUse] T = true →
      Keeps T a (State.resetUnits x0) := by
  intro x0 h hw
  refine Keeps.trans ?_ hw h
  unfold State.resetUnits
  extract_lets s t p b e
  have h1 : Keeps [.power, .boot, .health, .cores, .scratch, .movers, .folds, .chanUse] x0 s :=
    foldl_keeps (fun _ _ hu => Keeps.ite hu (State.mapHearthCores_keeps _ _ _ hu rfl)) (Keeps.refl _ _)
  have h2 : Keeps [.power, .boot, .health, .cores, .scratch, .movers, .folds, .chanUse] x0 t := foldl_keeps (fun _ _ hu => State.setHearth_keeps _ _ _ hu rfl) h1
  clear_value t
  refine Keeps.trans (U := [.power, .boot, .health, .cores, .scratch, .movers, .folds, .chanUse]) (s := t) ?_ rfl h2
  refine Keeps.lit rfl rfl rfl rfl rfl rfl (fun m => ⟨m.1, rfl⟩) (Keeps.refl _ _) ?_ ?_ ?_ ?_ ?_ ?_ ?_ ?_ ?_ ?_
      ?_ ?_ ?_ ?_ ?_ ?_ ?_ ?_ ?_ ?_ ?_ ?_ ?_ ?_ ?_ ?_ ?_ <;>
    first | exact Or.inr rfl | exact Or.inl rfl

theorem State.retrainFailed_keeps {T a} :
    ∀ x0 x1, Keeps T a x0 →
      within [.time, .power, .boot, .ports, .mboxes, .sessions, .dict, .log, .health, .cores, .hbm, .hbmPoison, .hbmEcc, .larders, .movers, .folds, .parts, .ctxs, .journal, .chanUse, .links, .net] T = true →
      Keeps T a (State.retrainFailed x0 x1) := by
  intro x0 x1 h hw
  refine Keeps.trans ?_ hw h
  unfold State.retrainFailed
  repeat' first
    | with_reducible
        first
        | exact Keeps.refl _ _ | apply State.beginRetrain_keeps | apply State.setLink_keeps
        | apply State.unitFails_keeps | refine Keeps.ite ?_ ?_
    | exact rfl

theorem State.retrained_keeps {T a} :
    ∀ x0 x1, Keeps T a x0 →
      within [.links] T = true →
      Keeps T a (State.retrained x0 x1) := by
  intro x0 x1 h hw
  refine Keeps.trans ?_ hw h
  unfold State.retrained
  repeat' first
    | with_reducible
        first
        | exact Keeps.refl _ _ | apply State.setLink_keeps
    | exact rfl

theorem State.retryWaiting_keeps {T a} :
    ∀ x0 x1, Keeps T a x0 →
      within [.dict, .log, .hbm, .hbmPoison, .hbmEcc, .larders, .parts] T = true →
      Keeps T a (State.retryWaiting x0 x1) := by
  intro x0 x1 h hw
  refine Keeps.trans ?_ hw h
  unfold State.retryWaiting
  repeat' first
    | with_reducible
        first
        | assumption | exact Keeps.refl _ _ | apply State.larderTake_keeps | apply State.setLarder_keeps
        | refine foldl_keeps (fun _ _ _ => ?_) ?_
    | exact rfl

theorem State.undoPages_keeps {T a} :
    ∀ x0 x1, Keeps T a x0 →
      within [.dict, .log, .hbm, .hbmPoison, .hbmEcc, .larders, .parts] T = true →
      Keeps T a (State.undoPages x0 x1) := by
  intro x0 x1 h hw
  refine Keeps.trans ?_ hw h
  unfold State.undoPages
  repeat' first
    | with_reducible
        first
        | assumption | exact Keeps.refl _ _ | apply State.rawRead_keeps | apply State.rawWrite_keeps
        | apply State.setPart_keeps | refine foldl_keeps (fun _ _ _ => ?_) ?_
    | exact rfl | split

theorem State.rollback_keeps {T a} :
    ∀ x0 x1, Keeps T a x0 →
      within [.dict, .log, .cores, .hbm, .hbmPoison, .hbmEcc, .larders, .movers, .folds, .parts, .chanUse] T = true →
      Keeps T a (State.rollback x0 x1) := by
  intro x0 x1 h hw
  refine Keeps.trans ?_ hw h
  unfold State.rollback
  repeat' first
    | with_reducible
        first
        | exact Keeps.refl _ _ | apply State.clearRun_keeps | apply State.undoPages_keeps
    | exact rfl | split

theorem State.segWriteWhole_keeps {T a} :
    ∀ x0 x1 x2, Keeps T a x0 →
      within [.time, .power, .boot, .ports, .mboxes, .sessions, .dict, .log, .health, .cores, .hbm, .hbmPoison, .hbmEcc, .larders, .movers, .folds, .parts, .ctxs, .journal, .train, .seeds, .chanUse, .links, .net] T = true →
      Keeps T a (State.segWriteWhole x0 x1 x2).1 := by
  intro x0 x1 x2 h hw
  refine Keeps.trans ?_ hw h
  unfold State.segWriteWhole
  repeat' first
    | with_reducible
        first
        | exact Keeps.refl _ _ | apply State.abortWindow_keeps | apply State.endWindow_keeps
        | apply State.objWrite_keeps | apply State.touchPrivilege_keeps | apply State.windowRemote_keeps
        | refine Keeps.iteFst ?_ ?_
    | exact rfl

theorem State.setMemory_keeps {T a} :
    ∀ x0 x1 x2, Keeps T a x0 →
      within [.power] T = true →
      Keeps T a (State.setMemory x0 x1 x2) := by
  intro x0 x1 x2 h hw
  refine Keeps.trans ?_ hw h
  unfold State.setMemory
  repeat' first
    | with_reducible
        first
        | exact Keeps.refl _ _
    | dsimp only
    | fail_if_no_progress
      with_reducible
        refine Keeps.lit rfl rfl rfl rfl rfl rfl id ?_ ?_ ?_ ?_ ?_ ?_ ?_ ?_ ?_ ?_ ?_ ?_ ?_ ?_
          ?_ ?_ ?_ ?_ ?_ ?_ ?_ ?_ ?_ ?_ ?_ ?_ ?_ ?_ <;>
        try first | exact Or.inr rfl | exact Or.inl rfl

theorem State.skipStep_keeps {T a} :
    ∀ x0 x1, Keeps T a x0 →
      within [.dict, .log, .cores, .hbm, .hbmPoison, .hbmEcc, .larders, .movers, .folds, .parts, .ctxs, .journal, .train, .chanUse] T = true →
      Keeps T a (State.skipStep x0 x1) := by
  intro x0 x1 h hw
  refine Keeps.trans ?_ hw h
  unfold State.skipStep
  repeat' first
    | with_reducible
        first
        | exact Keeps.refl _ _ | apply State.bump_keeps | apply State.finish_keeps | apply State.mapHead_keeps
        | apply State.release_keeps | apply State.report_keeps | apply State.rollback_keeps
        | apply State.settleAll_keeps
    | exact rfl

theorem State.tryReady_keeps {T a} :
    ∀ x0, Keeps T a x0 →
      within [.boot, .ports, .links, .net] T = true →
      Keeps T a (State.tryReady x0) := by
  intro x0 h hw
  refine Keeps.trans ?_ hw h
  unfold State.tryReady
  repeat' first
    | with_reducible
        first
        | exact Keeps.refl _ _ | apply State.becomeReady_keeps | refine Keeps.ite ?_ ?_
    | exact rfl

theorem State.startEnds_keeps {T a} :
    ∀ x0, Keeps T a x0 →
      within [.power, .boot, .ports, .log, .links, .net] T = true →
      Keeps T a (State.startEnds x0) := by
  intro x0 h hw
  refine Keeps.trans ?_ hw h
  unfold State.startEnds
  repeat' first
    | with_reducible
        first
        | exact Keeps.refl _ _ | apply State.becomeReady_keeps | apply State.enter_keeps
        | apply State.loneManager_keeps | apply State.tryReady_keeps | refine Keeps.ite ?_ ?_
    | exact rfl | extract_lets | dsimp +zetaDelta only
    | fail_if_no_progress
      with_reducible
        refine Keeps.lit rfl rfl rfl rfl rfl rfl id ?_ ?_ ?_ ?_ ?_ ?_ ?_ ?_ ?_ ?_ ?_ ?_ ?_ ?_
          ?_ ?_ ?_ ?_ ?_ ?_ ?_ ?_ ?_ ?_ ?_ ?_ ?_ ?_ <;>
        try first | exact Or.inr rfl | exact Or.inl rfl

theorem State.startGroup_keeps {T a} :
    ∀ x0 x1 x2, Keeps T a x0 →
      within [.dict, .train] T = true →
      Keeps T a (State.startGroup x0 x1 x2).1 := by
  intro x0 x1 x2 h hw
  refine Keeps.trans ?_ hw h
  unfold State.startGroup
  repeat' first
    | with_reducible
        first
        | exact Keeps.refl _ _ | apply State.bump_keeps | refine Keeps.ite ?_ ?_ | refine Keeps.iteFst ?_ ?_
    | exact rfl | extract_lets | split | dsimp +zetaDelta only
    | fail_if_no_progress
      with_reducible
        refine Keeps.lit rfl rfl rfl rfl rfl rfl id ?_ ?_ ?_ ?_ ?_ ?_ ?_ ?_ ?_ ?_ ?_ ?_ ?_ ?_
          ?_ ?_ ?_ ?_ ?_ ?_ ?_ ?_ ?_ ?_ ?_ ?_ ?_ ?_ <;>
        try first | exact Or.inr rfl | exact Or.inl rfl

theorem State.startTraining_keeps {T a} :
    ∀ x0 x1 x2, Keeps T a x0 →
      within [.dict, .log, .parts, .ctxs, .journal, .train] T = true →
      Keeps T a (State.startTraining x0 x1 x2) := by
  intro x0 x1 x2 h hw
  refine Keeps.trans ?_ hw h
  unfold State.startTraining
  repeat' first
    | with_reducible
        first
        | assumption | exact Keeps.refl _ _ | apply State.abortLate_keeps | apply State.badRecord_keeps
        | apply State.mapHead_keeps | apply State.setBinding_keeps | apply State.startGroup_keeps
        | refine foldl_keeps (fun _ _ _ => ?_) ?_ | refine foldl_keeps_fst (fun _ _ _ => ?_) ?_
    | exact rfl | extract_lets
    | fail_if_no_progress
      with_reducible
        refine Keeps.lit rfl rfl rfl rfl rfl rfl id ?_ ?_ ?_ ?_ ?_ ?_ ?_ ?_ ?_ ?_ ?_ ?_ ?_ ?_
          ?_ ?_ ?_ ?_ ?_ ?_ ?_ ?_ ?_ ?_ ?_ ?_ ?_ ?_ <;>
        try first | exact Or.inr rfl | exact Or.inl rfl

theorem State.stepRun_keeps {T a} :
    ∀ x0 x1 x2 x3 x4, Keeps T a x0 →
      within [.dict, .log, .health, .cores, .scratch, .folds, .parts] T = true →
      Keeps T a (State.stepRun x0 x1 x2 x3 x4) := by
  intro x0 x1 x2 x3 x4 h hw
  refine Keeps.trans ?_ hw h
  unfold State.stepRun
  repeat' first
    | with_reducible
        first
        | exact Keeps.refl _ _ | apply Acc.arrayPart_keeps | apply Acc.close_keeps | apply Acc.loadStep_keeps
        | apply Acc.settle_keeps | apply Acc.tickTails_keeps | apply State.glazeConflict_keeps
        | apply State.mapCore_keeps | apply State.upsets_keeps | apply Acc.ofState_keeps
    | exact rfl

theorem State.swap_keeps {T a} :
    ∀ x0 x1 x2 x3 x4 x5, Keeps T a x0 →
      within [.dict, .log, .health, .cores, .scratch, .folds, .parts] T = true →
      Keeps T a (State.swap x0 x1 x2 x3 x4 x5) := by
  intro x0 x1 x2 x3 x4 x5 h hw
  refine Keeps.trans ?_ hw h
  unfold State.swap
  repeat' first
    | with_reducible
        first
        | exact Keeps.refl _ _ | apply Acc.close_keeps | apply Acc.feed_keeps | apply Acc.tickTails_keeps
        | apply State.bumpH_keeps | apply State.glazeConflict_keeps | apply State.mapCore_keeps
        | apply State.upsets_keeps | apply Acc.ofState_keeps
    | exact rfl

theorem State.takeFragment_keeps {T a} :
    ∀ x0 x1, Keeps T a x0 →
      within [.time, .power, .boot, .ports, .mboxes, .sessions, .dict, .log, .health, .cores, .hbm, .hbmPoison, .hbmEcc, .larders, .movers, .folds, .parts, .ctxs, .journal, .train, .seeds, .chanUse, .links, .net, .freeCtr] T = true →
      Keeps T a (State.takeFragment x0 x1) := by
  intro x0 x1 h hw
  refine Keeps.trans ?_ hw h
  unfold State.takeFragment
  repeat' first
    | with_reducible
        first
        | exact Keeps.refl _ _ | apply State.laneMessage_keeps | refine Keeps.ite ?_ ?_
    | exact rfl | extract_lets | split | dsimp only | dsimp +zetaDelta only
    | fail_if_no_progress
      with_reducible
        refine Keeps.lit rfl rfl rfl rfl rfl rfl id ?_ ?_ ?_ ?_ ?_ ?_ ?_ ?_ ?_ ?_ ?_ ?_ ?_ ?_
          ?_ ?_ ?_ ?_ ?_ ?_ ?_ ?_ ?_ ?_ ?_ ?_ ?_ ?_ <;>
        try first | exact Or.inr rfl | exact Or.inl rfl

theorem State.takeMapFragment_keeps {T a} :
    ∀ x0 x1, Keeps T a x0 →
      within [.time, .boot, .ports, .links, .net] T = true →
      Keeps T a (State.takeMapFragment x0 x1) := by
  intro x0 x1 h hw
  refine Keeps.trans ?_ hw h
  unfold State.takeMapFragment
  repeat' first
    | with_reducible
        first
        | exact Keeps.refl _ _ | apply State.recheckParent_keeps | apply State.tryReady_keeps
        | refine Keeps.ite ?_ ?_
    | exact rfl | extract_lets | split | dsimp +zetaDelta only
    | fail_if_no_progress
      with_reducible
        refine Keeps.lit rfl rfl rfl rfl rfl rfl id ?_ ?_ ?_ ?_ ?_ ?_ ?_ ?_ ?_ ?_ ?_ ?_ ?_ ?_
          ?_ ?_ ?_ ?_ ?_ ?_ ?_ ?_ ?_ ?_ ?_ ?_ ?_ ?_ <;>
        try first | exact Or.inr rfl | exact Or.inl rfl

theorem State.takeSegment_keeps {T a} :
    ∀ x0 x1 x2 x3 x4, Keeps T a x0 →
      within [.time, .power, .boot, .ports, .mboxes, .sessions, .dict, .log, .health, .cores, .hbm, .hbmPoison, .hbmEcc, .larders, .movers, .folds, .parts, .ctxs, .journal, .train, .seeds, .chanUse, .links, .net] T = true →
      Keeps T a (State.takeSegment x0 x1 x2 x3 x4).1 := by
  intro x0 x1 x2 x3 x4 h hw
  refine Keeps.trans ?_ hw h
  unfold State.takeSegment
  repeat' first
    | with_reducible
        first
        | exact Keeps.refl _ _ | apply State.abortWindow_keeps | apply State.segWriteWhole_keeps
        | apply State.setPort_keeps | refine Keeps.iteFst ?_ ?_
    | exact rfl

theorem State.takeMessage_keeps {T a} :
    ∀ x0 x1, Keeps T a x0 →
      within [.time, .power, .boot, .ports, .mboxes, .sessions, .dict, .log, .health, .cores, .hbm, .hbmPoison, .hbmEcc, .larders, .movers, .folds, .parts, .ctxs, .journal, .train, .seeds, .chanUse, .links, .net] T = true →
      Keeps T a (State.takeMessage x0 x1) := by
  intro x0 x1 h hw
  refine Keeps.trans ?_ hw h
  unfold State.takeMessage
  repeat' first
    | with_reducible
        first
        | exact Keeps.refl _ _ | apply State.mboxEmptied_keeps | apply State.setMbox_keeps
        | apply State.takeSegment_keeps | apply State.taken_keeps
    | exact rfl | extract_lets | split

theorem TimeBase.lock_now (t : TimeBase) (off : Int) : t.now ≤ (t.lock off).now := by
  simp only [TimeBase.lock]; split
  · exact Nat.le_refl _
  · exact Nat.le_max_left _ _

theorem State.lockTime_keeps (x : State) (off : Int) : Keeps [.time] x { x with time := x.time.lock off } := by
  constructor <;> first | exact Or.inr rfl | exact Or.inl rfl | exact Nat.le_refl _ | exact id | rfl | exact TimeBase.lock_now _ _

theorem State.takeTime_keeps {T a} :
    ∀ x0 x1 x2 x3, Keeps T a x0 →
      within [.time, .boot, .ports, .links, .net] T = true →
      Keeps T a (State.takeTime x0 x1 x2 x3) := by
  intro x0 x1 x2 x3 h hw
  refine Keeps.trans ?_ hw h
  unfold State.takeTime
  exact Keeps.ite (State.tryReady_keeps _ ((Keeps.trans (State.lockTime_keeps ..) rfl (Keeps.refl _ _))) rfl)
    (State.sendOn_keeps _ _ _ ((Keeps.refl _ _)) rfl)

theorem State.unitReturns_keeps {T a} :
    ∀ x0 x1, Keeps T a x0 →
      within [.ports, .cores, .scratch, .hbm, .hbmPoison, .larders, .links] T = true →
      Keeps T a (State.unitReturns x0 x1) := by
  intro x0 x1 h hw
  refine Keeps.trans ?_ hw h
  unfold State.unitReturns
  extract_lets n
  split
  · exact State.bankReturn_keeps _ _ _ _ ((Keeps.refl _ _)) rfl
  · exact foldl_keeps (fun _ _ hu => State.bankReturn_keeps _ _ _ _ hu rfl) (Keeps.refl _ _)
  · refine State.setLarder_keeps _ _ _ ?_ rfl
    refine Keeps.lit rfl rfl rfl rfl rfl rfl (fun m => ⟨filter_wf _ _ _ m.1, m.2⟩) (Keeps.refl _ _) ?_ ?_ ?_ ?_ ?_ ?_ ?_ ?_ ?_ ?_
      ?_ ?_ ?_ ?_ ?_ ?_ ?_ ?_ ?_ ?_ ?_ ?_ ?_ ?_ ?_ ?_ ?_ <;>
    first | exact Or.inr rfl | exact Or.inl rfl
  · exact State.setPort_keeps _ _ _ ((Keeps.refl _ _)) rfl
  · exact State.setLink_keeps _ _ _ ((Keeps.refl _ _)) rfl
  · exact Keeps.refl _ _

theorem State.warm_keeps {T a} :
    ∀ x0, Keeps T a x0 →
      within [.power, .boot, .ports, .sessions, .dict, .log, .health, .cores, .scratch, .hbm, .hbmPoison, .hbmEcc, .larders, .movers, .folds, .parts, .ctxs, .chanUse] T = true →
      Keeps T a (State.warm x0) := by
  intro x0 h hw
  refine Keeps.trans ?_ hw h
  unfold State.warm
  extract_lets s t u p
  have h1 : Keeps [.power, .boot, .ports, .sessions, .dict, .log, .health, .cores, .scratch, .hbm, .hbmPoison, .hbmEcc, .larders, .movers, .folds, .parts, .ctxs, .chanUse] x0 s := foldl_keeps (fun _ _ hu => State.flushLarder_keeps _ _ hu rfl) (Keeps.refl _ _)
  have h2 : Keeps [.power, .boot, .ports, .sessions, .dict, .log, .health, .cores, .scratch, .hbm, .hbmPoison, .hbmEcc, .larders, .movers, .folds, .parts, .ctxs, .chanUse] x0 t := foldl_keeps (fun _ _ hu => State.loseBinding_keeps _ _ hu rfl) h1
  have h3 : Keeps [.power, .boot, .ports, .sessions, .dict, .log, .health, .cores, .scratch, .hbm, .hbmPoison, .hbmEcc, .larders, .movers, .folds, .parts, .ctxs, .chanUse] x0 u := State.resetUnits_keeps _ (State.endSessions_keeps _ h2 rfl) rfl
  clear_value u
  refine State.setDev_keeps _ _ ((Keeps.trans (U := [.power]) (s := u) ?_ rfl h3)) rfl
  refine Keeps.lit rfl rfl rfl rfl rfl rfl id (Keeps.refl _ _) ?_ ?_ ?_ ?_ ?_ ?_ ?_ ?_ ?_ ?_
      ?_ ?_ ?_ ?_ ?_ ?_ ?_ ?_ ?_ ?_ ?_ ?_ ?_ ?_ ?_ ?_ ?_ <;>
    first | exact Or.inr rfl | exact Or.inl rfl

theorem State.xferEnv_keeps {T a} :
    ∀ x0 x1 x2, Keeps T a x0 →
      within [.dict, .scratch, .hbmEcc, .larders] T = true →
      Keeps T a (State.xferEnv x0 x1 x2) := by
  intro x0 x1 x2 h hw
  refine Keeps.trans ?_ hw h
  unfold State.xferEnv
  repeat' first
    | with_reducible
        first
        | exact Keeps.refl _ _ | apply State.bumpH_keeps | apply State.hbmUpsets_keeps | apply State.upsets_keeps
    | exact rfl | extract_lets | split

theorem readRuns_keeps {T a} :
    ∀ x0 x1 x2 x3 x4, Keeps T a x0 →
      within [.dict, .health, .cores, .scratch] T = true →
      Keeps T a (readRuns x0 x1 x2 x3 x4).1 := by
  intro x0 x1 x2 x3 x4
  induction x4 generalizing x0 with
  | nil => exact fun h _ => h
  | cons e l ih =>
    intro h hw
    have hk := readBuf_keeps x0 x1 x2 x3 e.1 e.2 h hw
    simp only [readRuns]
    split
    · exact Keeps.fst (by assumption) hk
    · exact ih _ (Keeps.fst (by assumption) hk) hw

end Sys2Proof.Machine
end

