-- ==== Sys2Proof/Laws/KeepsExec.lean ====
section
/-!
SUPPORT. For each command's meaning, one lemma: the parts of State it may change in a next state, and that it keeps what Keeps
says.
-/
namespace Sys2Proof.Machine

theorem State.receive_ends {T : List StateField} {x0 : State} {x1 x2 : Nat} {x3 : Bool} {x4 : Flit} {f : State → State}
    (hw : within [.dict, .log, .movers, .links, .net] T = true)
    (hf : ∀ u, Keeps T x0 u → Keeps T x0 (f u)) : Ends T x0 (State.receive x0 x1 x2 x3 x4 f) := by
  have hr : Keeps T x0 (x0.rxFlit x1 x4).1 := Keeps.trans (State.rxFlit_keeps _ _ _ ((Keeps.refl _ _)) rfl) hw (Keeps.refl _ _)
  unfold State.receive
  refine Ends.ite Ends.stay (Ends.ite Ends.stay (Ends.next (Keeps.ite ?_ hr)))
  have ha : ∀ u, Keeps T x0 u → Keeps T x0 (u.ackFlit x1 x4) := fun u hu => Keeps.trans (State.ackFlit_keeps _ _ _ ((Keeps.refl _ _)) rfl) hw hu
  exact ha _ (Keeps.ite (Keeps.trans (State.sendTo_keeps _ _ ((Keeps.refl _ _)) rfl) hw hr) (hf _ hr))

theorem State.access_ends {T : List StateField} {x0 t : State} {x1 : Session} {x2 x3 : Nat} (hw : within [.log] T = true)
    (h : Keeps T x0 t) : Ends T x0 (State.access x0 x1 x2 x3 t) := by
  unfold State.access
  exact Ends.ite (Ends.next h) (Ends.ite (Ends.next (Keeps.trans (State.report_keeps _ _ ((Keeps.refl _ _)) rfl) hw (Keeps.refl _ _))) Ends.stay)


theorem execAbort_ends :
    ∀ x0 x1, Ends [.time, .power, .boot, .ports, .mboxes, .sessions, .dict, .log, .health, .cores, .hbm, .hbmPoison, .hbmEcc, .larders, .movers, .folds, .parts, .ctxs, .journal, .train, .seeds, .chanUse, .links, .net, .freeCtr] x1 (execAbort x0 x1) := by
  intro x0 x1
  unfold execAbort
  repeat' first
    | with_reducible
        first
        | refine Ends.next ?_ | exact Keeps.refl _ _ | apply State.windowGo_keeps | refine Keeps.ite ?_ ?_
    | exact rfl

theorem execAccFill_ends :
    ∀ x0 x1 x2, Ends [.dict, .log, .health, .cores, .scratch, .parts] x2 (execAccFill x0 x1 x2) := by
  intro x0 x1 x2
  unfold execAccFill
  repeat' first
    | with_reducible
        first
        | apply Ends.stay | refine Ends.next ?_ | refine Ends.ite ?_ ?_ | exact Keeps.refl _ _
        | apply State.accFill_keeps | apply State.busyOrWait_keeps
    | exact rfl | extract_lets | split

theorem execAccRead_ends :
    ∀ x0 x1, Ends [.dict, .log, .health, .cores, .scratch, .parts] x1 (execAccRead x0 x1) := by
  intro x0 x1
  unfold execAccRead
  repeat' first
    | with_reducible
        first
        | apply Ends.stay | refine Ends.next ?_ | refine Ends.ite ?_ ?_ | exact Keeps.refl _ _
        | apply State.accRead_keeps | apply State.busyOrWait_keeps
    | exact rfl | extract_lets | split

theorem execAccSpill_ends :
    ∀ x0 x1, Ends [.dict, .log, .health, .cores, .scratch, .parts] x1 (execAccSpill x0 x1) := by
  intro x0 x1
  unfold execAccSpill
  repeat' first
    | with_reducible
        first
        | apply Ends.stay | refine Ends.next ?_ | refine Ends.ite ?_ ?_ | exact Keeps.refl _ _
        | apply State.accSpill_keeps | apply State.busyOrWait_keeps
    | exact rfl | extract_lets | split

theorem execAck_ends :
    ∀ x0 x1 x2, Ends [.time, .power, .boot, .ports, .mboxes, .sessions, .dict, .log, .health, .cores, .hbm, .hbmPoison, .hbmEcc, .larders, .movers, .folds, .parts, .ctxs, .journal, .train, .seeds, .chanUse, .links, .net] x2 (execAck x0 x1 x2) := by
  intro x0 x1 x2
  unfold execAck
  repeat' first
    | with_reducible
        first
        | refine State.access_ends rfl ?_ | exact Keeps.refl _ _ | apply State.odWrite_keeps
    | exact rfl

theorem execAdvance_ends :
    ∀ x0 x1 x2, Ends [.time, .power, .boot, .ports, .mboxes, .sessions, .dict, .log, .health, .cores, .hbm, .hbmPoison, .hbmEcc, .larders, .movers, .folds, .parts, .ctxs, .journal, .train, .seeds, .chanUse, .links, .net] x2 (execAdvance x0 x1 x2) := by
  intro x0 x1 x2
  unfold execAdvance
  repeat' first
    | with_reducible
        first
        | refine State.access_ends rfl ?_ | exact Keeps.refl _ _ | apply State.odWrite_keeps
    | exact rfl

theorem execArrayStep_ends :
    ∀ x0 x1 x2, Ends [.dict, .log, .health, .cores, .scratch, .folds, .parts] x2 (execArrayStep x0 x1 x2) := by
  intro x0 x1 x2
  unfold execArrayStep
  repeat' first
    | with_reducible
        first
        | apply Ends.stay | refine Ends.next ?_ | refine Ends.ite ?_ ?_ | exact Keeps.refl _ _
        | apply State.bumpH_keeps | apply State.countStretched_keeps | apply State.glazeConflict_keeps
        | apply State.mapCore_keeps | apply State.stepRun_keeps | apply State.upsets_keeps
    | exact rfl | extract_lets | split

theorem execAutoLull_ends :
    ∀ x0 x1 x2, Ends [.time, .cores] x2 (execAutoLull x0 x1 x2) := by
  intro x0 x1 x2
  unfold execAutoLull
  repeat' first
    | with_reducible
        first
        | apply Ends.stay | refine Ends.next ?_ | refine Ends.ite ?_ ?_ | exact Keeps.refl _ _
        | apply State.lullBank_keeps | apply State.reach_keeps
    | exact rfl

theorem execBankRepair_ends :
    ∀ x0 x1 x2, Ends [.health, .cores, .scratch] x2 (execBankRepair x0 x1 x2) := by
  intro x0 x1 x2
  unfold execBankRepair
  repeat' first
    | with_reducible
        first
        | apply Ends.stay | refine Ends.next ?_ | refine Ends.ite ?_ ?_ | exact Keeps.refl _ _
        | apply State.bankReturn_keeps | apply State.setCore_keeps | apply State.setHearth_keeps
    | exact rfl

theorem execBankReturn_ends :
    ∀ x0 x1 x2, Ends [.cores, .scratch] x2 (execBankReturn x0 x1 x2) := by
  intro x0 x1 x2
  unfold execBankReturn
  repeat' first
    | with_reducible
        first
        | apply Ends.stay | refine Ends.next ?_ | refine Ends.ite ?_ ?_ | exact Keeps.refl _ _
        | apply State.bankReturn_keeps
    | exact rfl | extract_lets | split

theorem execBar2Read_ends :
    ∀ x0 x1 x2 x3, Ends [.ports, .dict, .log, .hbm, .hbmPoison, .hbmEcc, .larders, .freeCtr] x3 (execBar2Read x0 x1 x2 x3) := by
  intro x0 x1 x2 x3
  unfold execBar2Read
  repeat' first
    | with_reducible
        first
        | refine Ends.next ?_ | exact Keeps.refl _ _ | apply State.bar2Read_keeps | refine Keeps.ite ?_ ?_
    | exact rfl

theorem execBar2Write_ends :
    ∀ x0 x1 x2 x3 x4, Ends [.dict, .log, .hbm, .hbmPoison, .hbmEcc, .larders] x4 (execBar2Write x0 x1 x2 x3 x4) := by
  intro x0 x1 x2 x3 x4
  unfold execBar2Write
  repeat' first
    | with_reducible
        first
        | refine Ends.next ?_ | exact Keeps.refl _ _ | apply State.bar2Write_keeps | refine Keeps.ite ?_ ?_
    | exact rfl

theorem execBind_ends :
    ∀ x0 x1 x2 x3, Ends [.power, .ports, .dict, .log, .health, .cores, .scratch, .hbm, .hbmPoison, .hbmEcc, .larders, .movers, .folds, .parts, .ctxs, .journal, .train, .chanUse] x3 (execBind x0 x1 x2 x3) := by
  intro x0 x1 x2 x3
  unfold execBind
  repeat' first
    | with_reducible
        first
        | apply Ends.stay | refine Ends.next ?_ | refine Ends.ite ?_ ?_ | exact Keeps.refl _ _
        | apply State.badHealth_keeps | apply State.bindFresh_keeps | apply State.estimate_keeps
        | apply State.mapFault_keeps | apply State.startRun_keeps
    | exact rfl | extract_lets | split

theorem execBootImageVerify_ends :
    ∀ x0 x1 x2 x3, Ends [.power, .boot, .ports, .dict, .log, .health, .parts, .ctxs, .links, .net] x3 (execBootImageVerify x0 x1 x2 x3) := by
  intro x0 x1 x2 x3
  unfold execBootImageVerify
  repeat' first
    | with_reducible
        first
        | apply Ends.stay | refine Ends.next ?_ | refine Ends.ite ?_ ?_ | exact Keeps.refl _ _
        | apply State.bootDecide_keeps
    | exact rfl | dsimp only
    | fail_if_no_progress
      with_reducible
        refine Keeps.lit rfl rfl rfl rfl rfl rfl id ?_ ?_ ?_ ?_ ?_ ?_ ?_ ?_ ?_ ?_ ?_ ?_ ?_ ?_
          ?_ ?_ ?_ ?_ ?_ ?_ ?_ ?_ ?_ ?_ ?_ ?_ ?_ ?_ <;>
        try first | exact Or.inr rfl | exact Or.inl rfl

theorem execBusMasterEnable_ends :
    ∀ x0 x1, Ends [.ports, .ctxs] x1 (execBusMasterEnable x0 x1) := by
  intro x0 x1
  unfold execBusMasterEnable
  repeat' first
    | with_reducible
        first
        | apply Ends.stay | refine Ends.next ?_ | refine Ends.ite ?_ ?_ | exact Keeps.refl _ _
        | apply State.portReturns_keeps
    | exact rfl

theorem execChainIssue_ends :
    ∀ x0 x1, Ends [.dict, .log, .health, .cores, .scratch, .folds, .parts] x1 (execChainIssue x0 x1) := by
  intro x0 x1
  unfold execChainIssue
  repeat' first
    | with_reducible
        first
        | apply Ends.stay | refine Ends.next ?_ | refine Ends.ite ?_ ?_ | exact Keeps.refl _ _
        | apply State.chainStart_keeps
    | exact rfl | extract_lets | split

theorem execChallenge_ends :
    ∀ x0 x1, Ends [.sessions, .log, .freeCtr] x1 (execChallenge x0 x1) := by
  intro x0 x1
  unfold execChallenge
  repeat' first
    | with_reducible
        first
        | refine State.access_ends rfl ?_ | exact Keeps.refl _ _ | apply State.odRead_keeps
    | exact rfl

theorem execClean_ends :
    ∀ x0 x1 x2, Ends [.dict, .hbm, .hbmPoison, .hbmEcc, .larders] x2 (execClean x0 x1 x2) := by
  intro x0 x1 x2
  unfold execClean
  repeat' first
    | with_reducible
        first
        | apply Ends.stay | refine Ends.next ?_ | refine Ends.ite ?_ ?_ | exact Keeps.refl _ _
        | apply State.cleanRange_keeps
    | exact rfl

theorem execClosingComplete_ends :
    ∀ x0 x1 x2, Ends [.cores] x2 (execClosingComplete x0 x1 x2) := by
  intro x0 x1 x2
  unfold execClosingComplete
  repeat' first
    | with_reducible
        first
        | apply Ends.stay | refine Ends.next ?_ | refine Ends.ite ?_ ?_ | exact Keeps.refl _ _
        | apply State.setBankPower_keeps | apply State.setCore_keeps | refine Keeps.ite ?_ ?_
    | exact rfl | extract_lets | split

theorem execCommitMark_ends :
    ∀ x0 x1, Ends [.dict, .log, .health, .cores, .scratch, .hbm, .hbmPoison, .hbmEcc, .larders, .movers, .folds, .parts, .ctxs, .journal, .train, .chanUse] x1 (execCommitMark x0 x1) := by
  intro x0 x1
  unfold execCommitMark
  repeat' first
    | with_reducible
        first
        | apply Ends.stay | refine Ends.next ?_ | refine Ends.ite ?_ ?_ | exact Keeps.refl _ _
        | apply State.commit_keeps | apply State.reclaim_keeps | apply State.skipStep_keeps | refine Keeps.ite ?_ ?_
    | exact rfl | split

theorem execContextResetComplete_ends :
    ∀ x0 x1, Ends [.ctxs] x1 (execContextResetComplete x0 x1) := by
  intro x0 x1
  unfold execContextResetComplete
  repeat' first
    | with_reducible
        first
        | apply Ends.stay | refine Ends.next ?_ | refine Ends.ite ?_ ?_ | exact Keeps.refl _ _
        | apply State.setCtx_keeps
    | exact rfl

theorem execControlInterval_ends :
    ∀ x0 x1, Ends [.power, .dict, .paceHist] x1 (execControlInterval x0 x1) := by
  intro x0 x1
  unfold execControlInterval
  repeat' first
    | with_reducible
        first
        | apply Ends.stay | refine Ends.next ?_ | refine Ends.ite ?_ ?_ | exact Keeps.refl _ _
        | apply State.control_keeps | apply State.takeJunctions_keeps
    | exact rfl

theorem execConvert_ends :
    ∀ x0 x1 x2, Ends [.dict, .log, .health, .cores, .scratch, .parts] x2 (execConvert x0 x1 x2) := by
  intro x0 x1 x2
  unfold execConvert
  repeat' first
    | with_reducible
        first
        | apply Ends.stay | refine Ends.next ?_ | exact Keeps.refl _ _ | apply State.convert_keeps
    | exact rfl | split

theorem execCoreFailure_ends :
    ∀ x0 x1 x2, Ends [.time, .power, .boot, .ports, .mboxes, .sessions, .dict, .log, .health, .cores, .hbm, .hbmPoison, .hbmEcc, .larders, .movers, .folds, .parts, .ctxs, .journal, .chanUse, .links, .net] x2 (execCoreFailure x0 x1 x2) := by
  intro x0 x1 x2
  unfold execCoreFailure
  repeat' first
    | with_reducible
        first
        | apply Ends.stay | refine Ends.next ?_ | refine Ends.ite ?_ ?_ | exact Keeps.refl _ _
        | apply State.unitFails_keeps
    | exact rfl

theorem execD3hot_ends :
    ∀ x0 x1, Ends [.ports] x1 (execD3hot x0 x1) := by
  intro x0 x1
  unfold execD3hot
  repeat' first
    | with_reducible
        first
        | apply Ends.stay | refine Ends.next ?_ | refine Ends.ite ?_ ?_ | exact Keeps.refl _ _
        | apply State.setPort_keeps
    | exact rfl

theorem execDeadlineMissed_ends :
    ∀ x0, Ends [.power, .log, .parts, .ctxs] x0 (execDeadlineMissed x0) := by
  intro x0
  unfold execDeadlineMissed
  repeat' first
    | with_reducible
        first
        | apply Ends.stay | refine Ends.next ?_ | refine Ends.ite ?_ ?_ | exact Keeps.refl _ _
        | apply State.logMissed_keeps | apply State.missItem_keeps
    | exact rfl | split | dsimp only
    | fail_if_no_progress
      with_reducible
        refine Keeps.lit rfl rfl rfl rfl rfl rfl id ?_ ?_ ?_ ?_ ?_ ?_ ?_ ?_ ?_ ?_ ?_ ?_ ?_ ?_
          ?_ ?_ ?_ ?_ ?_ ?_ ?_ ?_ ?_ ?_ ?_ ?_ ?_ ?_ <;>
        try first | exact Or.inr rfl | exact Or.inl rfl

theorem execDelta_ends :
    ∀ x0 x1 x2, Ends [.time, .power, .boot, .ports, .mboxes, .sessions, .dict, .log, .health, .cores, .hbm, .hbmPoison, .hbmEcc, .larders, .movers, .folds, .parts, .ctxs, .journal, .train, .seeds, .chanUse, .links, .net] x2 (execDelta x0 x1 x2) := by
  intro x0 x1 x2
  unfold execDelta
  repeat' first
    | with_reducible
        first
        | refine State.access_ends rfl ?_ | exact Keeps.refl _ _ | apply State.odWrite_keeps
    | exact rfl

theorem execDescriptorExamine_ends :
    ∀ x0 x1 x2 x3, Ends [.ports, .dict, .log, .ctxs, .journal, .seeds] x3 (execDescriptorExamine x0 x1 x2 x3) := by
  intro x0 x1 x2 x3
  unfold execDescriptorExamine
  repeat' first
    | with_reducible
        first
        | apply Ends.stay | refine Ends.next ?_ | refine Ends.ite ?_ ?_ | exact Keeps.refl _ _
        | apply State.examine_keeps
    | exact rfl

theorem execDeviceMessagePost_ends :
    ∀ x0 x1 x2, Ends [.ports, .mboxes] x2 (execDeviceMessagePost x0 x1 x2) := by
  intro x0 x1 x2
  unfold execDeviceMessagePost
  repeat' first
    | with_reducible
        first
        | apply Ends.stay | refine Ends.next ?_ | refine Ends.ite ?_ ?_ | exact Keeps.refl _ _
        | apply State.postDevice_keeps
    | exact rfl

theorem execDictionaryWrite_ends :
    ∀ x0 x1 x2 x3 x4, Ends [.time, .power, .boot, .ports, .mboxes, .sessions, .dict, .log, .health, .cores, .hbm, .hbmPoison, .hbmEcc, .larders, .movers, .folds, .parts, .ctxs, .journal, .train, .seeds, .chanUse, .links, .net] x4 (execDictionaryWrite x0 x1 x2 x3 x4) := by
  intro x0 x1 x2 x3 x4
  unfold execDictionaryWrite
  repeat' first
    | with_reducible
        first
        | refine State.access_ends rfl ?_ | exact Keeps.refl _ _ | apply State.odWrite_keeps
    | exact rfl

theorem execDlost_ends :
    ∀ x0 x1, Ends [.time, .ports, .mboxes, .dict, .log] x1 (execDlost x0 x1) := by
  intro x0 x1
  unfold execDlost
  repeat' first
    | with_reducible
        first
        | apply Ends.stay | refine Ends.next ?_ | refine Ends.ite ?_ ?_ | exact Keeps.refl _ _
        | apply State.expireDevice_keeps
    | exact rfl

theorem execDoorbell_ends :
    ∀ x0 x1 x2 x3, Ends [.power, .cores, .ctxs] x3 (execDoorbell x0 x1 x2 x3) := by
  intro x0 x1 x2 x3
  unfold execDoorbell
  repeat' first
    | with_reducible
        first
        | refine Ends.next ?_ | exact Keeps.refl _ _ | apply State.doorbell_keeps | refine Keeps.ite ?_ ?_
    | exact rfl

theorem execDtake_ends :
    ∀ x0 x1, Ends [.ports, .mboxes] x1 (execDtake x0 x1) := by
  intro x0 x1
  unfold execDtake
  repeat' first
    | with_reducible
        first
        | refine Ends.next ?_ | exact Keeps.refl _ _ | apply State.takeDevice_keeps | refine Keeps.ite ?_ ?_
    | exact rfl

theorem execEcho_ends :
    ∀ x0 x1, Ends [.ports, .mboxes, .log] x1 (execEcho x0 x1) := by
  intro x0 x1
  unfold execEcho
  repeat' first
    | with_reducible
        first
        | apply Ends.stay | refine Ends.next ?_ | refine Ends.ite ?_ ?_ | exact Keeps.refl _ _
        | apply State.echo_keeps
    | exact rfl

theorem execElogAckHi_ends :
    ∀ x0 x1 x2, Ends [.log] x2 (execElogAckHi x0 x1 x2) := by
  intro x0 x1 x2
  unfold execElogAckHi
  repeat' first
    | with_reducible
        first
        | refine Ends.next ?_ | exact Keeps.refl _ _ | apply State.elogAckHi_keeps | refine Keeps.ite ?_ ?_
    | exact rfl

theorem execElogHeadLo_ends :
    ∀ x0 x1, Ends [.ports] x1 (execElogHeadLo x0 x1) := by
  intro x0 x1
  unfold execElogHeadLo
  repeat' first
    | with_reducible
        first
        | refine Ends.next ?_ | exact Keeps.refl _ _ | apply State.readHeadLo_keeps | refine Keeps.ite ?_ ?_
    | exact rfl

theorem execEnable_ends :
    ∀ x0 x1 x2 x3, Ends [.time, .power, .boot, .ports, .mboxes, .sessions, .dict, .log, .health, .cores, .hbm, .hbmPoison, .hbmEcc, .larders, .movers, .folds, .parts, .ctxs, .journal, .train, .seeds, .chanUse, .links, .net] x3 (execEnable x0 x1 x2 x3) := by
  intro x0 x1 x2 x3
  unfold execEnable
  repeat' first
    | with_reducible
        first
        | refine State.access_ends rfl ?_ | exact Keeps.refl _ _ | apply State.odWrite_keeps
    | exact rfl

theorem execEndAck_ends :
    ∀ x0 x1 x2, Ends [.dict, .log, .movers, .parts, .chanUse, .links, .net] x2 (execEndAck x0 x1 x2) := by
  intro x0 x1 x2
  unfold execEndAck
  repeat' first
    | with_reducible
        first
        | refine State.receive_ends rfl ?_ | assumption | apply State.endAcked_keeps
    | exact rfl | intro _

theorem execEndAckTimeout_ends :
    ∀ x0 x1, Ends [.time, .dict, .log, .movers, .parts, .chanUse] x1 (execEndAckTimeout x0 x1) := by
  intro x0 x1
  unfold execEndAckTimeout
  repeat' first
    | with_reducible
        first
        | apply Ends.stay | refine Ends.next ?_ | refine Ends.ite ?_ ?_ | exact Keeps.refl _ _
        | apply State.failActive_keeps | apply State.reach_keeps
    | exact rfl | extract_lets | split

theorem execEndFlit_ends :
    ∀ x0 x1 x2, Ends [.dict, .log, .hbm, .hbmPoison, .hbmEcc, .larders, .movers, .links, .net] x2 (execEndFlit x0 x1 x2) := by
  intro x0 x1 x2
  unfold execEndFlit
  repeat' first
    | with_reducible
        first
        | refine State.receive_ends rfl ?_ | assumption | apply State.acceptEnd_keeps
    | exact rfl | intro _

theorem execErrorLogEntry_ends :
    ∀ x0 x1, Ends [.ports, .dict, .log, .health] x1 (execErrorLogEntry x0 x1) := by
  intro x0 x1
  unfold execErrorLogEntry
  repeat' first
    | with_reducible
        first
        | apply Ends.stay | refine Ends.next ?_ | refine Ends.ite ?_ ?_ | exact Keeps.refl _ _
        | apply State.logEntry_keeps
    | exact rfl | split | dsimp only
    | fail_if_no_progress
      with_reducible
        refine Keeps.lit rfl rfl rfl rfl rfl rfl id ?_ ?_ ?_ ?_ ?_ ?_ ?_ ?_ ?_ ?_ ?_ ?_ ?_ ?_
          ?_ ?_ ?_ ?_ ?_ ?_ ?_ ?_ ?_ ?_ ?_ ?_ ?_ ?_ <;>
        try first | exact Or.inr rfl | exact Or.inl rfl

theorem execExaminationResume_ends :
    ∀ x0 x1, Ends [.ports, .dict, .log, .ctxs, .journal, .seeds] x1 (execExaminationResume x0 x1) := by
  intro x0 x1
  unfold execExaminationResume
  repeat' first
    | with_reducible
        first
        | apply Ends.stay | refine Ends.next ?_ | refine Ends.ite ?_ ?_ | exact Keeps.refl _ _
        | apply State.examine_keeps | apply State.reclaim_keeps | apply State.setCtx_keeps
    | exact rfl | extract_lets | split

theorem execFinwellGroupOff_ends :
    ∀ x0 x1, Ends [.power] x1 (execFinwellGroupOff x0 x1) := by
  intro x0 x1
  unfold execFinwellGroupOff
  repeat' first
    | with_reducible
        first
        | apply Ends.stay | refine Ends.next ?_ | refine Ends.ite ?_ ?_ | exact Keeps.refl _ _
    | dsimp only
    | fail_if_no_progress
      with_reducible
        refine Keeps.lit rfl rfl rfl rfl rfl rfl id ?_ ?_ ?_ ?_ ?_ ?_ ?_ ?_ ?_ ?_ ?_ ?_ ?_ ?_
          ?_ ?_ ?_ ?_ ?_ ?_ ?_ ?_ ?_ ?_ ?_ ?_ ?_ ?_ <;>
        try first | exact Or.inr rfl | exact Or.inl rfl

theorem execFoldClose_ends :
    ∀ x0 x1 x2, Ends [.dict, .log, .health, .cores, .scratch, .folds, .parts] x2 (execFoldClose x0 x1 x2) := by
  intro x0 x1 x2
  unfold execFoldClose
  repeat' first
    | with_reducible
        first
        | apply Ends.stay | refine Ends.next ?_ | refine Ends.ite ?_ ?_ | exact Keeps.refl _ _
        | apply State.closeFold_keeps
    | exact rfl | split

theorem execFoldEmit_ends :
    ∀ x0 x1 x2, Ends [.dict, .cores, .folds] x2 (execFoldEmit x0 x1 x2) := by
  intro x0 x1 x2
  unfold execFoldEmit
  repeat' first
    | with_reducible
        first
        | apply Ends.stay | refine Ends.next ?_ | refine Ends.ite ?_ ?_ | exact Keeps.refl _ _
        | apply State.emitScatter_keeps
    | exact rfl | split

theorem execFoldPair_ends :
    ∀ x0 x1 x2, Ends [.dict, .folds] x2 (execFoldPair x0 x1 x2) := by
  intro x0 x1 x2
  unfold execFoldPair
  repeat' first
    | with_reducible
        first
        | apply Ends.stay | refine Ends.next ?_ | refine Ends.ite ?_ ?_ | exact Keeps.refl _ _
        | apply State.bumpH_keeps | apply State.setFolds_keeps
    | exact rfl | split

theorem execForget_ends :
    ∀ x0 x1, Ends [.time, .power, .boot, .ports, .mboxes, .sessions, .dict, .log, .health, .cores, .hbm, .hbmPoison, .hbmEcc, .larders, .movers, .folds, .parts, .ctxs, .journal, .train, .seeds, .chanUse, .links, .net] x1 (execForget x0 x1) := by
  intro x0 x1
  unfold execForget
  repeat' first
    | with_reducible
        first
        | refine State.access_ends rfl ?_ | exact Keeps.refl _ _ | apply State.odWrite_keeps
    | exact rfl

theorem execForgetDone_ends :
    ∀ x0, Ends [.boot, .health] x0 (execForgetDone x0) := by
  intro x0
  unfold execForgetDone
  repeat' first
    | with_reducible
        first
        | apply Ends.stay | refine Ends.next ?_ | refine Ends.ite ?_ ?_ | exact Keeps.refl _ _
        | apply State.setRepair_keeps
    | exact rfl | extract_lets | split | dsimp +zetaDelta only
    | fail_if_no_progress
      with_reducible
        refine Keeps.lit rfl rfl rfl rfl rfl rfl id ?_ ?_ ?_ ?_ ?_ ?_ ?_ ?_ ?_ ?_ ?_ ?_ ?_ ?_
          ?_ ?_ ?_ ?_ ?_ ?_ ?_ ?_ ?_ ?_ ?_ ?_ ?_ ?_ <;>
        try first | exact Or.inr rfl | exact Or.inl rfl

theorem execFunctionLevelReset_ends :
    ∀ x0 x1, Ends [.ports, .mboxes, .sessions, .ctxs] x1 (execFunctionLevelReset x0 x1) := by
  intro x0 x1
  unfold execFunctionLevelReset
  repeat' first
    | with_reducible
        first
        | apply Ends.stay | refine Ends.next ?_ | refine Ends.ite ?_ ?_ | exact Keeps.refl _ _
        | apply State.functionReset_keeps
    | exact rfl

theorem execGo_ends :
    ∀ x0 x1 x2 x3, Ends [.power, .ports, .mboxes, .log] x3 (execGo x0 x1 x2 x3) := by
  intro x0 x1 x2 x3
  unfold execGo
  repeat' first
    | with_reducible
        first
        | refine Ends.next ?_ | exact Keeps.refl _ _ | apply State.ctrlWrite_keeps | refine Keeps.ite ?_ ?_
    | exact rfl

theorem execHalo_ends :
    ∀ x0 x1 x2, Ends [.dict, .log, .health, .cores, .scratch, .parts] x2 (execHalo x0 x1 x2) := by
  intro x0 x1 x2
  unfold execHalo
  repeat' first
    | with_reducible
        first
        | apply Ends.stay | refine Ends.next ?_ | exact Keeps.refl _ _ | apply State.halo_keeps
    | exact rfl | split

theorem execHandleWrite_ends :
    ∀ x0 x1 x2 x3 x4, Ends [.log, .cores] x4 (execHandleWrite x0 x1 x2 x3 x4) := by
  intro x0 x1 x2 x3 x4
  unfold execHandleWrite
  repeat' first
    | with_reducible
        first
        | apply Ends.stay | refine Ends.next ?_ | refine Ends.ite ?_ ?_ | exact Keeps.refl _ _
        | apply State.report_keeps | apply State.writeHandle_keeps
    | exact rfl | extract_lets | split

theorem execHbmStackFailure_ends :
    ∀ x0 x1 x2, Ends [.time, .power, .boot, .ports, .mboxes, .sessions, .dict, .log, .health, .cores, .hbm, .hbmPoison, .hbmEcc, .larders, .movers, .folds, .parts, .ctxs, .journal, .chanUse, .links, .net] x2 (execHbmStackFailure x0 x1 x2) := by
  intro x0 x1 x2
  unfold execHbmStackFailure
  repeat' first
    | with_reducible
        first
        | apply Ends.stay | refine Ends.next ?_ | refine Ends.ite ?_ ?_ | exact Keeps.refl _ _
        | apply State.unitFails_keeps
    | exact rfl

theorem execHearthFailure_ends :
    ∀ x0 x1 x2 x3, Ends [.time, .power, .boot, .ports, .mboxes, .sessions, .dict, .log, .health, .cores, .hbm, .hbmPoison, .hbmEcc, .larders, .movers, .folds, .parts, .ctxs, .journal, .chanUse, .links, .net] x3 (execHearthFailure x0 x1 x2 x3) := by
  intro x0 x1 x2 x3
  unfold execHearthFailure
  repeat' first
    | with_reducible
        first
        | apply Ends.stay | refine Ends.next ?_ | refine Ends.ite ?_ ?_ | exact Keeps.refl _ _
        | apply State.unitFails_keeps
    | exact rfl

theorem execHearthLull_ends :
    ∀ x0 x1, Ends [.time, .power, .cores] x1 (execHearthLull x0 x1) := by
  intro x0 x1
  unfold execHearthLull
  repeat' first
    | with_reducible
        first
        | apply Ends.stay | refine Ends.next ?_ | refine Ends.ite ?_ ?_ | exact Keeps.refl _ _
        | apply State.mapHearthCores_keeps | apply State.reach_keeps | apply State.setLogic_keeps
    | exact rfl | extract_lets | split

theorem execHearthOff_ends :
    ∀ x0 x1, Ends [.time, .power, .cores, .scratch, .movers, .folds] x1 (execHearthOff x0 x1) := by
  intro x0 x1
  unfold execHearthOff
  refine Ends.ite Ends.stay (Ends.ite Ends.stay ?_)
  extract_lets u s
  have h1 : Keeps [.time, .power, .cores, .scratch, .movers, .folds] x1 s := State.setLogic_keeps _ _ _ (State.mapHearthCores_keeps _ _ _ (State.reach_keeps _ _ ((Keeps.refl _ _)) rfl) rfl) rfl
  clear_value s
  refine Ends.next (Keeps.trans (U := [.scratch, .folds, .movers]) (s := s) ?_ rfl h1)
  refine Keeps.lit rfl rfl rfl rfl rfl rfl (fun m => ⟨m.1, filter_wf _ _ _ m.2⟩) (Keeps.refl _ _) ?_ ?_ ?_ ?_ ?_ ?_ ?_ ?_ ?_ ?_
      ?_ ?_ ?_ ?_ ?_ ?_ ?_ ?_ ?_ ?_ ?_ ?_ ?_ ?_ ?_ ?_ ?_ <;>
    first | exact Or.inr rfl | exact Or.inl rfl

theorem execHello_ends :
    ∀ x0 x1 x2, Ends [.dict, .log, .movers, .links, .net] x2 (execHello x0 x1 x2) := by
  intro x0 x1 x2
  unfold execHello
  repeat' first
    | with_reducible
        first
        | refine State.receive_ends rfl ?_ | assumption | apply State.hear_keeps
    | exact rfl | intro _

theorem execHostReadFailure_ends :
    ∀ x0 x1, Ends [.dict, .log, .movers, .parts, .ctxs, .chanUse] x1 (execHostReadFailure x0 x1) := by
  intro x0 x1
  unfold execHostReadFailure
  repeat' first
    | with_reducible
        first
        | apply Ends.stay | refine Ends.next ?_ | refine Ends.ite ?_ ?_ | exact Keeps.refl _ _
        | apply State.failActive_keeps | apply State.report_keeps | apply State.setCtx_keeps
    | exact rfl | extract_lets | split

theorem execHotReset_ends :
    ∀ x0 x1, Ends [.ports, .mboxes, .sessions, .ctxs] x1 (execHotReset x0 x1) := by
  intro x0 x1
  unfold execHotReset
  repeat' first
    | with_reducible
        first
        | apply Ends.stay | refine Ends.next ?_ | refine Ends.ite ?_ ?_ | exact Keeps.refl _ _
        | apply State.functionReset_keeps | apply State.setPort_keeps
    | exact rfl

theorem execI3cDynamicAddress_ends :
    ∀ x0 x1, Ends [.sessions, .net] x1 (execI3cDynamicAddress x0 x1) := by
  intro x0 x1
  unfold execI3cDynamicAddress
  repeat' first
    | with_reducible
        first
        | apply Ends.stay | refine Ends.next ?_ | refine Ends.ite ?_ ?_ | exact Keeps.refl _ _
        | apply State.loseI3c_keeps
    | exact rfl | split | dsimp only
    | fail_if_no_progress
      with_reducible
        refine Keeps.lit rfl rfl rfl rfl rfl rfl id ?_ ?_ ?_ ?_ ?_ ?_ ?_ ?_ ?_ ?_ ?_ ?_ ?_ ?_
          ?_ ?_ ?_ ?_ ?_ ?_ ?_ ?_ ?_ ?_ ?_ ?_ ?_ ?_ <;>
        try first | exact Or.inr rfl | exact Or.inl rfl

theorem execIdle_ends :
    ∀ x0 x1 x2, Ends [.dict, .log, .movers, .links, .net] x2 (execIdle x0 x1 x2) := by
  intro x0 x1 x2
  unfold execIdle
  repeat' first
    | with_reducible
        first
        | apply Ends.stay | refine Ends.next ?_ | refine Ends.ite ?_ ?_ | exact Keeps.refl _ _
        | apply State.rxFlit_keeps
    | exact rfl

theorem execIdleLock_ends :
    ∀ x0 x1, Ends [.time, .sessions] x1 (execIdleLock x0 x1) := by
  intro x0 x1
  unfold execIdleLock
  repeat' first
    | with_reducible
        first
        | apply Ends.stay | refine Ends.next ?_ | refine Ends.ite ?_ ?_ | exact Keeps.refl _ _
        | apply State.endPrivilege_keeps | apply State.reach_keeps
    | exact rfl

theorem execItemChoose_ends :
    ∀ x0 x1, Ends [.log, .parts, .ctxs, .journal] x1 (execItemChoose x0 x1) := by
  intro x0 x1
  unfold execItemChoose
  repeat' first
    | with_reducible
        first
        | apply Ends.stay | refine Ends.next ?_ | refine Ends.ite ?_ ?_ | exact Keeps.refl _ _
        | apply State.choose_keeps | apply State.mapFault_keeps | refine Keeps.ite ?_ ?_
    | exact rfl | split

theorem execItemComplete_ends :
    ∀ x0 x1, Ends [.ports, .ctxs, .journal] x1 (execItemComplete x0 x1) := by
  intro x0 x1
  unfold execItemComplete
  repeat' first
    | with_reducible
        first
        | apply Ends.stay | refine Ends.next ?_ | refine Ends.ite ?_ ?_ | exact Keeps.refl _ _
        | apply State.completeItem_keeps
    | exact rfl | split

theorem execItemReplay_ends :
    ∀ x0 x1, Ends [.power, .ports, .dict, .log, .health, .cores, .scratch, .hbm, .hbmPoison, .hbmEcc, .larders, .movers, .folds, .parts, .ctxs, .journal, .train, .chanUse] x1 (execItemReplay x0 x1) := by
  intro x0 x1
  unfold execItemReplay
  repeat' first
    | with_reducible
        first
        | apply Ends.stay | refine Ends.next ?_ | refine Ends.ite ?_ ?_ | exact Keeps.refl _ _
        | apply State.failItem_keeps | apply State.finish_keeps | apply State.loseJournal_keeps
        | apply State.mapFault_keeps | apply State.readAccept_keeps | apply State.release_keeps
        | apply State.replayItem_keeps | apply State.rollback_keeps | refine Keeps.ite ?_ ?_
    | exact rfl | extract_lets | split | dsimp +zetaDelta only

theorem execJournalRelocation_ends :
    ∀ x0, Ends [.journal] x0 (execJournalRelocation x0) := by
  intro x0
  unfold execJournalRelocation
  repeat' first
    | with_reducible
        first
        | apply Ends.stay | refine Ends.next ?_ | refine Ends.ite ?_ ?_ | exact Keeps.refl _ _
    | dsimp only
    | fail_if_no_progress
      with_reducible
        refine Keeps.lit rfl rfl rfl rfl rfl rfl id ?_ ?_ ?_ ?_ ?_ ?_ ?_ ?_ ?_ ?_ ?_ ?_ ?_ ?_
          ?_ ?_ ?_ ?_ ?_ ?_ ?_ ?_ ?_ ?_ ?_ ?_ ?_ ?_ <;>
        try first | exact Or.inr rfl | exact Or.inl rfl

theorem execJournalRelocationComplete_ends :
    ∀ x0, Ends [.journal] x0 (execJournalRelocationComplete x0) := by
  intro x0
  unfold execJournalRelocationComplete
  repeat' first
    | with_reducible
        first
        | apply Ends.stay | refine Ends.next ?_ | refine Ends.ite ?_ ?_ | exact Keeps.refl _ _
    | split
    | fail_if_no_progress
      with_reducible
        refine Keeps.lit rfl rfl rfl rfl rfl rfl id ?_ ?_ ?_ ?_ ?_ ?_ ?_ ?_ ?_ ?_ ?_ ?_ ?_ ?_
          ?_ ?_ ?_ ?_ ?_ ?_ ?_ ?_ ?_ ?_ ?_ ?_ ?_ ?_ <;>
        try first | exact Or.inr rfl | exact Or.inl rfl

theorem execKey_ends :
    ∀ x0 x1 x2, Ends [.time, .power, .boot, .ports, .mboxes, .sessions, .dict, .log, .health, .cores, .hbm, .hbmPoison, .hbmEcc, .larders, .movers, .folds, .parts, .ctxs, .journal, .train, .seeds, .chanUse, .links, .net] x2 (execKey x0 x1 x2) := by
  intro x0 x1 x2
  unfold execKey
  repeat' first
    | with_reducible
        first
        | refine State.access_ends rfl ?_ | exact Keeps.refl _ _ | apply State.odWrite_keeps
    | exact rfl

theorem execKeyFlashComplete_ends :
    ∀ x0, Ends [.boot] x0 (execKeyFlashComplete x0) := by
  intro x0
  unfold execKeyFlashComplete
  repeat' first
    | with_reducible
        first
        | apply Ends.stay | refine Ends.next ?_ | refine Ends.ite ?_ ?_ | exact Keeps.refl _ _
    | split | dsimp only
    | fail_if_no_progress
      with_reducible
        refine Keeps.lit rfl rfl rfl rfl rfl rfl id ?_ ?_ ?_ ?_ ?_ ?_ ?_ ?_ ?_ ?_ ?_ ?_ ?_ ?_
          ?_ ?_ ?_ ?_ ?_ ?_ ?_ ?_ ?_ ?_ ?_ ?_ ?_ ?_ <;>
        try first | exact Or.inr rfl | exact Or.inl rfl

theorem execLarderFill_ends :
    ∀ x0 x1 x2 x3 x4, Ends [.dict, .log, .hbm, .hbmPoison, .hbmEcc, .larders, .parts] x4 (execLarderFill x0 x1 x2 x3 x4) := by
  intro x0 x1 x2 x3 x4
  unfold execLarderFill
  repeat' first
    | with_reducible
        first
        | apply Ends.stay | refine Ends.next ?_ | refine Ends.ite ?_ ?_ | exact Keeps.refl _ _
        | apply State.completeMiss_keeps | apply State.readMeets_keeps | apply State.retryWaiting_keeps
        | refine Keeps.ite ?_ ?_
    | exact rfl | extract_lets | split

theorem execLarderRequest_ends :
    ∀ x0 x1 x2, Ends [.dict, .log, .hbm, .hbmPoison, .hbmEcc, .larders, .parts] x2 (execLarderRequest x0 x1 x2) := by
  intro x0 x1 x2
  unfold execLarderRequest
  repeat' first
    | with_reducible
        first
        | apply Ends.stay | refine Ends.next ?_ | refine Ends.ite ?_ ?_ | exact Keeps.refl _ _
        | apply State.hbmUpsets_keeps | apply State.larderTake_keeps | apply State.refuseReq_keeps
    | exact rfl

theorem execLinkAckTimeout_ends :
    ∀ x0 x1, Ends [.time, .power, .boot, .ports, .mboxes, .sessions, .dict, .log, .health, .cores, .hbm, .hbmPoison, .hbmEcc, .larders, .movers, .folds, .parts, .ctxs, .journal, .chanUse, .links, .net] x1 (execLinkAckTimeout x0 x1) := by
  intro x0 x1
  unfold execLinkAckTimeout
  repeat' first
    | with_reducible
        first
        | apply Ends.stay | refine Ends.next ?_ | refine Ends.ite ?_ ?_ | exact Keeps.refl _ _
        | apply State.ackTimeout_keeps
    | exact rfl | extract_lets | split

theorem execLinkUp_ends :
    ∀ x0 x1, Ends [.time, .links, .net] x1 (execLinkUp x0 x1) := by
  intro x0 x1
  unfold execLinkUp
  repeat' first
    | with_reducible
        first
        | apply Ends.stay | refine Ends.next ?_ | refine Ends.ite ?_ ?_ | exact Keeps.refl _ _
        | apply State.bringUp_keeps
    | exact rfl

theorem execLock_ends :
    ∀ x0 x1 x2, Ends [.time, .power, .boot, .ports, .mboxes, .sessions, .dict, .log, .health, .cores, .hbm, .hbmPoison, .hbmEcc, .larders, .movers, .folds, .parts, .ctxs, .journal, .train, .seeds, .chanUse, .links, .net] x2 (execLock x0 x1 x2) := by
  intro x0 x1 x2
  unfold execLock
  repeat' first
    | with_reducible
        first
        | refine State.access_ends rfl ?_ | exact Keeps.refl _ _ | apply State.odWrite_keeps
    | exact rfl

theorem execLockoutExpiry_ends :
    ∀ x0 x1, Ends [.time, .sessions] x1 (execLockoutExpiry x0 x1) := by
  intro x0 x1
  unfold execLockoutExpiry
  repeat' first
    | with_reducible
        first
        | apply Ends.stay | refine Ends.next ?_ | refine Ends.ite ?_ ?_ | exact Keeps.refl _ _
        | apply State.reach_keeps | apply State.setSession_keeps
    | exact rfl | split

theorem execLullRequest_ends :
    ∀ x0 x1 x2, Ends [.cores] x2 (execLullRequest x0 x1 x2) := by
  intro x0 x1 x2
  unfold execLullRequest
  repeat' first
    | with_reducible
        first
        | apply Ends.stay | refine Ends.next ?_ | refine Ends.ite ?_ ?_ | exact Keeps.refl _ _
        | apply State.lullBank_keeps
    | exact rfl

theorem execLullWake_ends :
    ∀ x0 x1 x2, Ends [.dict, .cores] x2 (execLullWake x0 x1 x2) := by
  intro x0 x1 x2
  unfold execLullWake
  repeat' first
    | with_reducible
        first
        | apply Ends.stay | refine Ends.next ?_ | refine Ends.ite ?_ ?_ | exact Keeps.refl _ _
        | apply State.wakeBank_keeps
    | exact rfl

theorem execMailboxTimeout_ends :
    ∀ x0 x1, Ends [.time, .ports, .mboxes, .dict, .log] x1 (execMailboxTimeout x0 x1) := by
  intro x0 x1
  unfold execMailboxTimeout
  repeat' first
    | with_reducible
        first
        | apply Ends.stay | refine Ends.next ?_ | refine Ends.ite ?_ ?_ | exact Keeps.refl _ _
        | apply State.expireHost_keeps
    | exact rfl

theorem execMark_ends :
    ∀ x0 x1 x2, Ends [.parts] x2 (execMark x0 x1 x2) := by
  intro x0 x1 x2
  unfold execMark
  repeat' first
    | with_reducible
        first
        | apply Ends.stay | refine Ends.next ?_ | refine Ends.ite ?_ ?_ | exact Keeps.refl _ _
        | apply State.setBinding_keeps
    | exact rfl | split

theorem execMatmul_ends :
    ∀ x0 x1, Ends [.dict, .log, .health, .cores, .scratch, .folds, .parts] x1 (execMatmul x0 x1) := by
  intro x0 x1
  unfold execMatmul
  repeat' first
    | with_reducible
        first
        | apply Ends.stay | refine Ends.next ?_ | refine Ends.ite ?_ ?_ | exact Keeps.refl _ _
        | apply State.busyOrWait_keeps | apply State.startProduct_keeps
    | exact rfl | extract_lets | split

theorem execMctpRead_ends :
    ∀ x0 x1, Ends [.time, .power, .boot, .ports, .mboxes, .sessions, .dict, .log, .health, .cores, .hbm, .hbmPoison, .hbmEcc, .larders, .movers, .folds, .parts, .ctxs, .journal, .train, .seeds, .chanUse, .links, .net, .freeCtr] x1 (execMctpRead x0 x1) := by
  intro x0 x1
  unfold execMctpRead
  repeat' first
    | with_reducible
        first
        | refine Ends.next ?_ | exact Keeps.refl _ _ | apply State.mctp_keeps
    | exact rfl

theorem execMctpWrite_ends :
    ∀ x0 x1, Ends [.time, .power, .boot, .ports, .mboxes, .sessions, .dict, .log, .health, .cores, .hbm, .hbmPoison, .hbmEcc, .larders, .movers, .folds, .parts, .ctxs, .journal, .train, .seeds, .chanUse, .links, .net, .freeCtr] x1 (execMctpWrite x0 x1) := by
  intro x0 x1
  unfold execMctpWrite
  repeat' first
    | with_reducible
        first
        | refine Ends.next ?_ | exact Keeps.refl _ _ | apply State.mctp_keeps
    | exact rfl

theorem execMgmt_ends :
    ∀ x0 x1 x2, Ends [.time, .power, .boot, .ports, .mboxes, .sessions, .dict, .log, .health, .cores, .hbm, .hbmPoison, .hbmEcc, .larders, .movers, .folds, .parts, .ctxs, .journal, .train, .seeds, .chanUse, .links, .net, .freeCtr] x2 (execMgmt x0 x1 x2) := by
  intro x0 x1 x2
  unfold execMgmt
  repeat' first
    | with_reducible
        first
        | refine State.receive_ends rfl ?_ | assumption | apply State.takeFragment_keeps | refine Keeps.ite ?_ ?_
    | exact rfl | intro _

theorem execMgmtFragmentTimeout_ends :
    ∀ x0 x1, Ends [.time, .net] x1 (execMgmtFragmentTimeout x0 x1) := by
  intro x0 x1
  unfold execMgmtFragmentTimeout
  repeat' first
    | with_reducible
        first
        | apply Ends.stay | refine Ends.next ?_ | refine Ends.ite ?_ ?_ | exact Keeps.refl _ _
        | apply State.reach_keeps
    | exact rfl | extract_lets | split | dsimp +zetaDelta only
    | fail_if_no_progress
      with_reducible
        refine Keeps.lit rfl rfl rfl rfl rfl rfl id ?_ ?_ ?_ ?_ ?_ ?_ ?_ ?_ ?_ ?_ ?_ ?_ ?_ ?_
          ?_ ?_ ?_ ?_ ?_ ?_ ?_ ?_ ?_ ?_ ?_ ?_ ?_ ?_ <;>
        try first | exact Or.inr rfl | exact Or.inl rfl

theorem execMoverBankAccess_ends :
    ∀ x0 x1 x2 x3, Ends [.dict, .log, .health, .cores, .scratch, .hbm, .hbmPoison, .hbmEcc, .larders, .movers, .parts, .chanUse] x3 (execMoverBankAccess x0 x1 x2 x3) := by
  intro x0 x1 x2 x3
  unfold execMoverBankAccess
  repeat' first
    | with_reducible
        first
        | apply Ends.stay | refine Ends.next ?_ | refine Ends.ite ?_ ?_ | exact Keeps.refl _ _
        | apply State.accessRow_keeps | apply State.commitWrite_keeps | apply State.xferEnv_keeps
    | exact rfl | extract_lets | split

theorem execMoverDescriptorComplete_ends :
    ∀ x0 x1 x2 x3, Ends [.ports, .dict, .log, .health, .cores, .scratch, .hbm, .hbmPoison, .hbmEcc, .larders, .movers, .parts, .chanUse, .links, .net] x3 (execMoverDescriptorComplete x0 x1 x2 x3) := by
  intro x0 x1 x2 x3
  unfold execMoverDescriptorComplete
  repeat' first
    | with_reducible
        first
        | apply Ends.stay | refine Ends.next ?_ | refine Ends.ite ?_ ?_ | exact Keeps.refl _ _
        | apply State.complete_keeps | apply State.xferEnv_keeps
    | exact rfl | extract_lets | split

theorem execMoverDescriptorStart_ends :
    ∀ x0 x1, Ends [.ports, .dict, .log, .health, .cores, .scratch, .hbm, .hbmPoison, .hbmEcc, .larders, .movers, .parts, .chanUse, .links, .net] x1 (execMoverDescriptorStart x0 x1) := by
  intro x0 x1
  unfold execMoverDescriptorStart
  repeat' first
    | with_reducible
        first
        | apply Ends.stay | refine Ends.next ?_ | refine Ends.ite ?_ ?_ | exact Keeps.refl _ _
        | apply State.beginDesc_keeps | apply State.failActive_keeps | apply State.launch_keeps
        | refine Keeps.ite ?_ ?_
    | exact rfl | extract_lets | split

theorem execNextSeqWrite_ends :
    ∀ x0 x1 x2 x3, Ends [.time, .power, .boot, .ports, .mboxes, .sessions, .dict, .log, .health, .cores, .hbm, .hbmPoison, .hbmEcc, .larders, .movers, .folds, .parts, .ctxs, .journal, .train, .seeds, .chanUse, .links, .net] x3 (execNextSeqWrite x0 x1 x2 x3) := by
  intro x0 x1 x2 x3
  unfold execNextSeqWrite
  repeat' first
    | with_reducible
        first
        | refine State.access_ends rfl ?_ | exact Keeps.refl _ _ | apply State.odWrite_keeps
    | exact rfl

theorem execNodeMap_ends :
    ∀ x0 x1 x2, Ends [.time, .boot, .ports, .dict, .log, .movers, .links, .net] x2 (execNodeMap x0 x1 x2) := by
  intro x0 x1 x2
  unfold execNodeMap
  repeat' first
    | with_reducible
        first
        | refine State.receive_ends rfl ?_ | assumption | apply State.takeMapFragment_keeps
    | exact rfl | intro _

theorem execNowLo_ends :
    ∀ x0 x1, Ends [.ports] x1 (execNowLo x0 x1) := by
  intro x0 x1
  unfold execNowLo
  repeat' first
    | with_reducible
        first
        | refine Ends.next ?_ | exact Keeps.refl _ _ | apply State.readNowLo_keeps | refine Keeps.ite ?_ ?_
    | exact rfl

theorem execOffRequest_ends :
    ∀ x0 x1 x2, Ends [.cores] x2 (execOffRequest x0 x1 x2) := by
  intro x0 x1 x2
  unfold execOffRequest
  repeat' first
    | with_reducible
        first
        | apply Ends.stay | refine Ends.next ?_ | refine Ends.ite ?_ ?_ | assumption | exact Keeps.refl _ _
        | apply State.offBank_keeps | apply State.setCore_keeps | refine Keeps.ite ?_ ?_
        | refine foldl_keeps (fun _ _ _ => ?_) ?_
    | exact rfl | extract_lets | split

theorem execOnRequest_ends :
    ∀ x0 x1 x2, Ends [.cores] x2 (execOnRequest x0 x1 x2) := by
  intro x0 x1 x2
  unfold execOnRequest
  repeat' first
    | with_reducible
        first
        | apply Ends.stay | refine Ends.next ?_ | refine Ends.ite ?_ ?_ | exact Keeps.refl _ _
        | apply State.setCore_keeps
    | exact rfl | extract_lets | split

theorem execOperationEnd_ends :
    ∀ x0 x1 x2, Ends [.dict, .log, .parts, .ctxs] x2 (execOperationEnd x0 x1 x2) := by
  intro x0 x1 x2
  unfold execOperationEnd
  repeat' first
    | with_reducible
        first
        | apply Ends.stay | refine Ends.next ?_ | refine Ends.ite ?_ ?_ | exact Keeps.refl _ _
        | apply State.endEvents_keeps | apply State.mapHead_keeps | apply State.stat_keeps
    | exact rfl | split

theorem execPartitionMapWrite_ends :
    ∀ x0 x1 x2 x3 x4, Ends [.time, .power, .boot, .ports, .mboxes, .sessions, .dict, .log, .health, .cores, .hbm, .hbmPoison, .hbmEcc, .larders, .movers, .folds, .parts, .ctxs, .journal, .train, .seeds, .chanUse, .links, .net] x4 (execPartitionMapWrite x0 x1 x2 x3 x4) := by
  intro x0 x1 x2 x3 x4
  unfold execPartitionMapWrite
  repeat' first
    | with_reducible
        first
        | refine State.access_ends rfl ?_ | exact Keeps.refl _ _ | apply State.odWrite_keeps
    | exact rfl

theorem execPcieLinkSettle_ends :
    ∀ x0 x1 x2 x3 x4, Ends [.time, .power, .boot, .ports, .mboxes, .sessions, .dict, .log, .health, .cores, .hbm, .hbmPoison, .hbmEcc, .larders, .movers, .folds, .parts, .ctxs, .journal, .chanUse, .links, .net] x4 (execPcieLinkSettle x0 x1 x2 x3 x4) := by
  intro x0 x1 x2 x3 x4
  unfold execPcieLinkSettle
  repeat' first
    | with_reducible
        first
        | apply Ends.stay | refine Ends.next ?_ | refine Ends.ite ?_ ?_ | exact Keeps.refl _ _
        | apply State.linkSettles_keeps
    | exact rfl

theorem execPciePortFailure_ends :
    ∀ x0 x1 x2, Ends [.time, .power, .boot, .ports, .mboxes, .sessions, .dict, .log, .health, .cores, .hbm, .hbmPoison, .hbmEcc, .larders, .movers, .folds, .parts, .ctxs, .journal, .chanUse, .links, .net] x2 (execPciePortFailure x0 x1 x2) := by
  intro x0 x1 x2
  unfold execPciePortFailure
  repeat' first
    | with_reducible
        first
        | apply Ends.stay | refine Ends.next ?_ | refine Ends.ite ?_ ?_ | exact Keeps.refl _ _
        | apply State.unitFails_keeps
    | exact rfl

theorem execPerstN_ends :
    ∀ x0 x1 x2, Ends [.ports, .mboxes, .sessions, .ctxs] x2 (execPerstN x0 x1 x2) := by
  intro x0 x1 x2
  unfold execPerstN
  repeat' first
    | with_reducible
        first
        | refine Ends.next ?_ | exact Keeps.refl _ _ | apply State.perstLevel_keeps
    | exact rfl

theorem execPhaseBegin_ends :
    ∀ x0 x1, Ends [.dict, .health, .cores, .scratch, .parts, .freeCtr] x1 (execPhaseBegin x0 x1) := by
  intro x0 x1
  unfold execPhaseBegin
  repeat' first
    | with_reducible
        first
        | apply Ends.stay | refine Ends.next ?_ | exact Keeps.refl _ _ | apply State.beginPhase_keeps
    | exact rfl | split

theorem execPhaseToken_ends :
    ∀ x0 x1, Ends [.cores, .parts] x1 (execPhaseToken x0 x1) := by
  intro x0 x1
  unfold execPhaseToken
  repeat' first
    | with_reducible
        first
        | apply Ends.stay | refine Ends.next ?_ | exact Keeps.refl _ _ | apply State.setPhase_keeps
    | exact rfl | split

theorem execPoisonedCompletion_ends :
    ∀ x0 x1 x2, Ends [.dict, .log, .movers, .parts, .chanUse] x2 (execPoisonedCompletion x0 x1 x2) := by
  intro x0 x1 x2
  unfold execPoisonedCompletion
  repeat' first
    | with_reducible
        first
        | apply Ends.stay | refine Ends.next ?_ | refine Ends.ite ?_ ?_ | exact Keeps.refl _ _
        | apply State.failActive_keeps
    | exact rfl | extract_lets | split

theorem execPoolMax_ends :
    ∀ x0 x1 x2, Ends [.dict, .log, .health, .cores, .scratch, .parts] x2 (execPoolMax x0 x1 x2) := by
  intro x0 x1 x2
  unfold execPoolMax
  repeat' first
    | with_reducible
        first
        | apply Ends.stay | refine Ends.next ?_ | exact Keeps.refl _ _ | apply State.poolMax_keeps
    | exact rfl | split

theorem execPpsIn_ends :
    ∀ x0 x1, Ends [.time] x1 (execPpsIn x0 x1) := by
  intro x0 x1
  unfold execPpsIn
  repeat' first
    | with_reducible
        first
        | apply Ends.stay | refine Ends.next ?_ | refine Ends.ite ?_ ?_ | exact Keeps.refl _ _
        | apply State.reach_keeps
    | exact rfl | extract_lets
    | fail_if_no_progress
      with_reducible
        refine Keeps.lit rfl rfl rfl rfl rfl rfl id ?_ ?_ ?_ ?_ ?_ ?_ ?_ ?_ ?_ ?_ ?_ ?_ ?_ ?_
          ?_ ?_ ?_ ?_ ?_ ?_ ?_ ?_ ?_ ?_ ?_ ?_ ?_ ?_ <;>
        try first | exact Or.inr rfl | exact Or.inl rfl

theorem execPpsLoss_ends :
    ∀ x0, Ends [.time] x0 (execPpsLoss x0) := by
  intro x0
  unfold execPpsLoss
  repeat' first
    | with_reducible
        first
        | apply Ends.stay | refine Ends.next ?_ | refine Ends.ite ?_ ?_ | exact Keeps.refl _ _
        | apply State.reach_keeps
    | exact rfl | extract_lets | split | dsimp +zetaDelta only
    | fail_if_no_progress
      with_reducible
        refine Keeps.lit rfl rfl rfl rfl rfl rfl id ?_ ?_ ?_ ?_ ?_ ?_ ?_ ?_ ?_ ?_ ?_ ?_ ?_ ?_
          ?_ ?_ ?_ ?_ ?_ ?_ ?_ ?_ ?_ ?_ ?_ ?_ ?_ ?_ <;>
        try first | exact Or.inr rfl | exact Or.inl rfl

theorem execProoferFailure_ends :
    ∀ x0 x1 x2, Ends [.time, .power, .boot, .ports, .mboxes, .sessions, .dict, .log, .health, .cores, .hbm, .hbmPoison, .hbmEcc, .larders, .movers, .folds, .parts, .ctxs, .journal, .chanUse, .links, .net] x2 (execProoferFailure x0 x1 x2) := by
  intro x0 x1 x2
  unfold execProoferFailure
  repeat' first
    | with_reducible
        first
        | apply Ends.stay | refine Ends.next ?_ | refine Ends.ite ?_ ?_ | exact Keeps.refl _ _
        | apply State.unitFails_keeps
    | exact rfl

theorem execRead_ends :
    ∀ x0 x1 x2 x3, Ends [.time, .power, .boot, .ports, .mboxes, .sessions, .dict, .log, .health, .cores, .hbm, .hbmPoison, .hbmEcc, .larders, .movers, .folds, .parts, .ctxs, .journal, .train, .seeds, .chanUse, .links, .net, .freeCtr] x3 (execRead x0 x1 x2 x3) := by
  intro x0 x1 x2 x3
  unfold execRead
  repeat' first
    | with_reducible
        first
        | refine Ends.next ?_ | exact Keeps.refl _ _ | apply State.windowGo_keeps | refine Keeps.ite ?_ ?_
    | exact rfl

theorem execReadiness_ends :
    ∀ x0 x1, Ends [.time, .power, .boot, .ports, .mboxes, .sessions, .dict, .log, .health, .cores, .hbm, .hbmPoison, .hbmEcc, .larders, .movers, .folds, .parts, .ctxs, .journal, .chanUse, .links, .net] x1 (execReadiness x0 x1) := by
  intro x0 x1
  unfold execReadiness
  repeat' first
    | with_reducible
        first
        | apply Ends.stay | refine Ends.next ?_ | refine Ends.ite ?_ ?_ | exact Keeps.refl _ _
        | apply State.rebuildHealth_keeps | apply State.startEnds_keeps
    | exact rfl | split

theorem execRef100_ends :
    ∀ x0 x1, Ends [.time] x1 (execRef100 x0 x1) := by
  intro x0 x1
  unfold execRef100
  repeat' first
    | with_reducible
        first
        | refine Ends.next ?_ | exact Keeps.refl _ _
    | dsimp only
    | fail_if_no_progress
      with_reducible
        refine Keeps.lit rfl rfl rfl rfl rfl rfl id ?_ ?_ ?_ ?_ ?_ ?_ ?_ ?_ ?_ ?_ ?_ ?_ ?_ ?_
          ?_ ?_ ?_ ?_ ?_ ?_ ?_ ?_ ?_ ?_ ?_ ?_ ?_ ?_ <;>
        try first | exact Or.inr rfl | exact Or.inl rfl

theorem execRegisterWrite_ends :
    ∀ x0 x1 x2 x3, Ends [.time, .power, .boot, .ports, .mboxes, .sessions, .dict, .log, .health, .cores, .hbm, .hbmPoison, .hbmEcc, .larders, .movers, .folds, .parts, .ctxs, .journal, .train, .seeds, .chanUse, .links, .net, .freeCtr] x3 (execRegisterWrite x0 x1 x2 x3) := by
  intro x0 x1 x2 x3
  unfold execRegisterWrite
  repeat' first
    | with_reducible
        first
        | refine Ends.next ?_ | exact Keeps.refl _ _ | apply State.bar0Write_keeps | refine Keeps.ite ?_ ?_
    | exact rfl

theorem execRemoteTimeout_ends :
    ∀ x0 x1, Ends [.time, .ports, .mboxes, .log, .links, .net] x1 (execRemoteTimeout x0 x1) := by
  intro x0 x1
  unfold execRemoteTimeout
  repeat' first
    | with_reducible
        first
        | apply Ends.stay | refine Ends.next ?_ | refine Ends.ite ?_ ?_ | exact Keeps.refl _ _
        | apply State.endForward_keeps | apply State.reach_keeps | apply State.report_keeps
    | exact rfl | extract_lets | split

theorem execReport_ends :
    ∀ x0 x1 x2 x3, Ends [.log, .links, .net] x3 (execReport x0 x1 x2 x3) := by
  intro x0 x1 x2 x3
  unfold execReport
  repeat' first
    | with_reducible
        first
        | apply Ends.stay | refine Ends.next ?_ | refine Ends.ite ?_ ?_ | exact Keeps.refl _ _
        | apply State.refuseLane_keeps | apply State.takeReport_keeps
    | exact rfl

theorem execReportResend_ends :
    ∀ x0, Ends [.links, .net] x0 (execReportResend x0) := by
  intro x0
  unfold execReportResend
  repeat' first
    | with_reducible
        first
        | apply Ends.stay | refine Ends.next ?_ | refine Ends.ite ?_ ?_ | assumption | exact Keeps.refl _ _
        | apply State.sendLane_keeps | refine foldl_keeps (fun _ _ _ => ?_) ?_
    | exact rfl

theorem execReset_ends :
    ∀ x0 x1 x2, Ends [.time, .power, .boot, .ports, .mboxes, .sessions, .dict, .log, .health, .cores, .hbm, .hbmPoison, .hbmEcc, .larders, .movers, .folds, .parts, .ctxs, .journal, .train, .seeds, .chanUse, .links, .net] x2 (execReset x0 x1 x2) := by
  intro x0 x1 x2
  unfold execReset
  repeat' first
    | with_reducible
        first
        | refine State.access_ends rfl ?_ | exact Keeps.refl _ _ | apply State.odWrite_keeps
    | exact rfl

theorem execResponse_ends :
    ∀ x0 x1 x2, Ends [.time, .power, .boot, .ports, .mboxes, .sessions, .dict, .log, .health, .cores, .hbm, .hbmPoison, .hbmEcc, .larders, .movers, .folds, .parts, .ctxs, .journal, .train, .seeds, .chanUse, .links, .net] x2 (execResponse x0 x1 x2) := by
  intro x0 x1 x2
  unfold execResponse
  repeat' first
    | with_reducible
        first
        | refine State.access_ends rfl ?_ | exact Keeps.refl _ _ | apply State.odWrite_keeps
    | exact rfl

theorem execRetest_ends :
    ∀ x0 x1, Ends [.time, .power, .boot, .ports, .mboxes, .sessions, .dict, .log, .health, .cores, .hbm, .hbmPoison, .hbmEcc, .larders, .movers, .folds, .parts, .ctxs, .journal, .train, .seeds, .chanUse, .links, .net] x1 (execRetest x0 x1) := by
  intro x0 x1
  unfold execRetest
  repeat' first
    | with_reducible
        first
        | refine State.access_ends rfl ?_ | exact Keeps.refl _ _ | apply State.odWrite_keeps
    | exact rfl

theorem execRetestDone_ends :
    ∀ x0 x1, Ends [.ports, .log, .health, .cores, .scratch, .hbm, .hbmPoison, .larders, .links] x1 (execRetestDone x0 x1) := by
  intro x0 x1
  unfold execRetestDone
  repeat' first
    | with_reducible
        first
        | apply Ends.stay | refine Ends.next ?_ | refine Ends.ite ?_ ?_ | exact Keeps.refl _ _
        | apply State.clearFaulty_keeps | apply State.setHearth_keeps | apply State.setRepair_keeps
        | apply State.unitReturns_keeps | refine Keeps.ite ?_ ?_
    | exact rfl | split

theorem execRetire_ends :
    ∀ x0 x1, Ends [.time, .power, .boot, .ports, .mboxes, .sessions, .dict, .log, .health, .cores, .hbm, .hbmPoison, .hbmEcc, .larders, .movers, .folds, .parts, .ctxs, .journal, .train, .seeds, .chanUse, .links, .net] x1 (execRetire x0 x1) := by
  intro x0 x1
  unfold execRetire
  repeat' first
    | with_reducible
        first
        | refine State.access_ends rfl ?_ | exact Keeps.refl _ _ | apply State.odWrite_keeps
    | exact rfl

theorem execRetrainEnd_ends :
    ∀ x0 x1 x2, Ends [.time, .power, .boot, .ports, .mboxes, .sessions, .dict, .log, .health, .cores, .hbm, .hbmPoison, .hbmEcc, .larders, .movers, .folds, .parts, .ctxs, .journal, .chanUse, .links, .net] x2 (execRetrainEnd x0 x1 x2) := by
  intro x0 x1 x2
  unfold execRetrainEnd
  repeat' first
    | with_reducible
        first
        | apply Ends.stay | refine Ends.next ?_ | refine Ends.ite ?_ ?_ | exact Keeps.refl _ _
        | apply State.retrainFailed_keeps | apply State.retrained_keeps | refine Keeps.ite ?_ ?_
    | exact rfl

theorem execRunning_ends :
    ∀ x0 x1 x2 x3, Ends [.time, .power, .boot, .ports, .mboxes, .sessions, .dict, .log, .health, .cores, .hbm, .hbmPoison, .hbmEcc, .larders, .movers, .folds, .parts, .ctxs, .journal, .train, .seeds, .chanUse, .links, .net] x3 (execRunning x0 x1 x2 x3) := by
  intro x0 x1 x2 x3
  unfold execRunning
  repeat' first
    | with_reducible
        first
        | refine State.access_ends rfl ?_ | exact Keeps.refl _ _ | apply State.odWrite_keeps
    | exact rfl

theorem execScrubRead_ends :
    ∀ x0 x1 x2 x3 x4 x5 x6, Ends [.dict, .health, .cores, .scratch] x6 (execScrubRead x0 x1 x2 x3 x4 x5 x6) := by
  intro x0 x1 x2 x3 x4 x5 x6
  unfold execScrubRead
  repeat' first
    | with_reducible
        first
        | apply Ends.stay | refine Ends.next ?_ | refine Ends.ite ?_ ?_ | exact Keeps.refl _ _
        | apply State.beginPass_keeps | apply State.bumpH_keeps | apply State.countCorrected_keeps
        | apply State.poisonWord_keeps | apply State.setWord_keeps | apply State.upset_keeps
        | apply State.wakeBank_keeps | refine Keeps.ite ?_ ?_
    | exact rfl | extract_lets | split | dsimp +zetaDelta only

theorem execSegRead_ends :
    ∀ x0 x1 x2 x3, Ends [.time, .power, .boot, .ports, .mboxes, .sessions, .dict, .log, .health, .cores, .hbm, .hbmPoison, .hbmEcc, .larders, .movers, .folds, .parts, .ctxs, .journal, .train, .seeds, .chanUse, .links, .net, .freeCtr] x3 (execSegRead x0 x1 x2 x3) := by
  intro x0 x1 x2 x3
  unfold execSegRead
  repeat' first
    | with_reducible
        first
        | refine Ends.next ?_ | exact Keeps.refl _ _ | apply State.windowGo_keeps | refine Keeps.ite ?_ ?_
    | exact rfl

theorem execSegWrite_ends :
    ∀ x0 x1 x2 x3, Ends [.time, .power, .boot, .ports, .mboxes, .sessions, .dict, .log, .health, .cores, .hbm, .hbmPoison, .hbmEcc, .larders, .movers, .folds, .parts, .ctxs, .journal, .train, .seeds, .chanUse, .links, .net, .freeCtr] x3 (execSegWrite x0 x1 x2 x3) := by
  intro x0 x1 x2 x3
  unfold execSegWrite
  repeat' first
    | with_reducible
        first
        | refine Ends.next ?_ | exact Keeps.refl _ _ | apply State.windowGo_keeps | refine Keeps.ite ?_ ?_
    | exact rfl

theorem execSegmentGapTimeout_ends :
    ∀ x0 x1, Ends [.time, .ports, .mboxes, .dict, .log] x1 (execSegmentGapTimeout x0 x1) := by
  intro x0 x1
  unfold execSegmentGapTimeout
  repeat' first
    | with_reducible
        first
        | apply Ends.stay | refine Ends.next ?_ | refine Ends.ite ?_ ?_ | exact Keeps.refl _ _
        | apply State.endWindow_keeps | apply State.logMboxTimeout_keeps | apply State.reach_keeps
    | exact rfl | extract_lets | split

theorem execShadowCheck_ends :
    ∀ x0 x1, Ends [.dict, .cores, .parts] x1 (execShadowCheck x0 x1) := by
  intro x0 x1
  unfold execShadowCheck
  repeat' first
    | with_reducible
        first
        | apply Ends.stay | refine Ends.next ?_ | refine Ends.ite ?_ ?_ | exact Keeps.refl _ _
        | apply State.bumpH_keeps | apply State.setCore_keeps | apply State.stat_keeps
    | exact rfl | extract_lets | split

theorem execSlotDrain_ends :
    ∀ x0 x1 x2 x3, Ends [.dict, .log, .health, .cores, .scratch, .folds, .parts] x3 (execSlotDrain x0 x1 x2 x3) := by
  intro x0 x1 x2 x3
  unfold execSlotDrain
  repeat' first
    | with_reducible
        first
        | apply Ends.stay | refine Ends.next ?_ | refine Ends.ite ?_ ?_ | exact Keeps.refl _ _
        | apply State.drain_keeps
    | exact rfl | split

theorem execStart_ends :
    ∀ x0 x1 x2, Ends [.time, .power, .boot, .ports, .mboxes, .sessions, .dict, .log, .health, .cores, .hbm, .hbmPoison, .hbmEcc, .larders, .movers, .folds, .parts, .ctxs, .journal, .train, .seeds, .chanUse, .links, .net] x2 (execStart x0 x1 x2) := by
  intro x0 x1 x2
  unfold execStart
  repeat' first
    | with_reducible
        first
        | refine State.access_ends rfl ?_ | exact Keeps.refl _ _ | apply State.odWrite_keeps
    | exact rfl

theorem execStop_ends :
    ∀ x0 x1 x2, Ends [.time, .power, .boot, .ports, .mboxes, .sessions, .dict, .log, .health, .cores, .hbm, .hbmPoison, .hbmEcc, .larders, .movers, .folds, .parts, .ctxs, .journal, .train, .seeds, .chanUse, .links, .net] x2 (execStop x0 x1 x2) := by
  intro x0 x1 x2
  unfold execStop
  repeat' first
    | with_reducible
        first
        | refine State.access_ends rfl ?_ | exact Keeps.refl _ _ | apply State.odWrite_keeps
    | exact rfl

theorem execSwapStep_ends :
    ∀ x0 x1, Ends [.dict, .log, .health, .cores, .scratch, .folds, .parts] x1 (execSwapStep x0 x1) := by
  intro x0 x1
  unfold execSwapStep
  repeat' first
    | with_reducible
        first
        | apply Ends.stay | refine Ends.next ?_ | refine Ends.ite ?_ ?_ | exact Keeps.refl _ _
        | apply State.swap_keeps
    | exact rfl | extract_lets | split

theorem execSysRstNRelease_ends :
    ∀ x0 x1, Ends [.power, .boot, .ports, .cores, .scratch, .hbm, .hbmPoison, .hbmEcc, .larders, .movers, .folds, .chanUse, .links] x1 (execSysRstNRelease x0 x1) := by
  intro x0 x1
  unfold execSysRstNRelease
  repeat' first
    | with_reducible
        first
        | apply Ends.stay | refine Ends.next ?_ | refine Ends.ite ?_ ?_ | exact Keeps.refl _ _
        | apply State.releasePorts_keeps | apply State.supplyHold_keeps
    | exact rfl | dsimp only
    | fail_if_no_progress
      with_reducible
        refine Keeps.lit rfl rfl rfl rfl rfl rfl id ?_ ?_ ?_ ?_ ?_ ?_ ?_ ?_ ?_ ?_ ?_ ?_ ?_ ?_
          ?_ ?_ ?_ ?_ ?_ ?_ ?_ ?_ ?_ ?_ ?_ ?_ ?_ ?_ <;>
        try first | exact Or.inr rfl | exact Or.inl rfl

theorem execTaken_ends :
    ∀ x0 x1, Ends [.time, .power, .boot, .ports, .mboxes, .sessions, .dict, .log, .health, .cores, .hbm, .hbmPoison, .hbmEcc, .larders, .movers, .folds, .parts, .ctxs, .journal, .train, .seeds, .chanUse, .links, .net] x1 (execTaken x0 x1) := by
  intro x0 x1
  unfold execTaken
  repeat' first
    | with_reducible
        first
        | apply Ends.stay | refine Ends.next ?_ | refine Ends.ite ?_ ?_ | exact Keeps.refl _ _
        | apply State.takeMessage_keeps
    | exact rfl

theorem execThermTripN_ends :
    ∀ x0 x1 x2, Ends [.power, .boot, .cores, .scratch, .hbm, .hbmPoison, .hbmEcc, .larders, .movers, .folds, .chanUse, .links] x2 (execThermTripN x0 x1 x2) := by
  intro x0 x1 x2
  unfold execThermTripN
  repeat' first
    | with_reducible
        first
        | apply Ends.stay | refine Ends.next ?_ | refine Ends.ite ?_ ?_ | exact Keeps.refl _ _
        | apply State.dark_keeps | apply State.setJunction_keeps
    | exact rfl | extract_lets | dsimp +zetaDelta only
    | fail_if_no_progress
      with_reducible
        refine Keeps.lit rfl rfl rfl rfl rfl rfl id ?_ ?_ ?_ ?_ ?_ ?_ ?_ ?_ ?_ ?_ ?_ ?_ ?_ ?_
          ?_ ?_ ?_ ?_ ?_ ?_ ?_ ?_ ?_ ?_ ?_ ?_ ?_ ?_ <;>
        try first | exact Or.inr rfl | exact Or.inl rfl

theorem execThrottle_ends :
    ∀ x0 x1 x2, Ends [.power, .dict, .freeCtr] x2 (execThrottle x0 x1 x2) := by
  intro x0 x1 x2
  unfold execThrottle
  repeat' first
    | with_reducible
        first
        | apply Ends.stay | refine Ends.next ?_ | refine Ends.ite ?_ ?_ | exact Keeps.refl _ _
        | apply State.lowerVdd_keeps | apply State.reportJunctions_keeps | apply State.setJunction_keeps
    | exact rfl | extract_lets | split | dsimp +zetaDelta only
    | fail_if_no_progress
      with_reducible
        refine Keeps.lit rfl rfl rfl rfl rfl rfl id ?_ ?_ ?_ ?_ ?_ ?_ ?_ ?_ ?_ ?_ ?_ ?_ ?_ ?_
          ?_ ?_ ?_ ?_ ?_ ?_ ?_ ?_ ?_ ?_ ?_ ?_ ?_ ?_ <;>
        try first | exact Or.inr rfl | exact Or.inl rfl

theorem execTime_ends :
    ∀ x0 x1 x2 x3, Ends [.time, .boot, .ports, .dict, .log, .movers, .links, .net] x3 (execTime x0 x1 x2 x3) := by
  intro x0 x1 x2 x3
  unfold execTime
  repeat' first
    | with_reducible
        first
        | refine State.receive_ends rfl ?_ | assumption | apply State.takeTime_keeps
    | exact rfl | intro _

theorem execTopkReferenceComplete_ends :
    ∀ x0 x1, Ends [.cores] x1 (execTopkReferenceComplete x0 x1) := by
  intro x0 x1
  unfold execTopkReferenceComplete
  repeat' first
    | with_reducible
        first
        | apply Ends.stay | refine Ends.next ?_ | refine Ends.ite ?_ ?_ | exact Keeps.refl _ _
        | apply State.setCore_keeps
    | exact rfl | extract_lets | split

theorem execTrainingItemStart_ends :
    ∀ x0 x1 x2, Ends [.dict, .log, .parts, .ctxs, .journal, .train] x2 (execTrainingItemStart x0 x1 x2) := by
  intro x0 x1 x2
  unfold execTrainingItemStart
  repeat' first
    | with_reducible
        first
        | apply Ends.stay | refine Ends.next ?_ | refine Ends.ite ?_ ?_ | exact Keeps.refl _ _
        | apply State.startTraining_keeps
    | exact rfl | split

theorem execTransfer_ends :
    ∀ x0 x1 x2, Ends [.log, .movers, .parts, .net] x2 (execTransfer x0 x1 x2) := by
  intro x0 x1 x2
  unfold execTransfer
  repeat' first
    | with_reducible
        first
        | apply Ends.stay | refine Ends.next ?_ | refine Ends.ite ?_ ?_ | exact Keeps.refl _ _
        | apply State.queueTransfer_keeps
    | exact rfl | split

theorem execUnassignedAccess_ends :
    ∀ x0 x1 x2, Ends [.log] x2 (execUnassignedAccess x0 x1 x2) := by
  intro x0 x1 x2
  unfold execUnassignedAccess
  repeat' first
    | with_reducible
        first
        | refine Ends.next ?_ | exact Keeps.refl _ _ | apply State.denyBar0_keeps | refine Keeps.ite ?_ ?_
    | exact rfl

theorem execVaux33Excursion_ends :
    ∀ x0, Ends [.power, .boot, .sessions, .cores, .scratch, .hbm, .hbmPoison, .hbmEcc, .larders, .movers, .folds, .chanUse, .links, .net] x0 (execVaux33Excursion x0) := by
  intro x0
  unfold execVaux33Excursion
  repeat' first
    | with_reducible
        first
        | refine Ends.next ?_ | exact Keeps.refl _ _ | apply State.loseVaux_keeps | refine Keeps.ite ?_ ?_
    | exact rfl

theorem execVin48Excursion_ends :
    ∀ x0, Ends [.power, .boot, .cores, .scratch, .hbm, .hbmPoison, .hbmEcc, .larders, .movers, .folds, .chanUse, .links] x0 (execVin48Excursion x0) := by
  intro x0
  unfold execVin48Excursion
  repeat' first
    | with_reducible
        first
        | refine Ends.next ?_ | exact Keeps.refl _ _ | apply State.loseVin_keeps | refine Keeps.ite ?_ ?_
    | exact rfl

theorem execWarmReset_ends :
    ∀ x0, Ends [.power, .boot, .ports, .sessions, .dict, .log, .health, .cores, .scratch, .hbm, .hbmPoison, .hbmEcc, .larders, .movers, .folds, .parts, .ctxs, .chanUse, .links] x0 (execWarmReset x0) := by
  intro x0
  unfold execWarmReset
  repeat' first
    | with_reducible
        first
        | refine Ends.next ?_ | exact Keeps.refl _ _ | apply State.supplyHold_keeps | apply State.warm_keeps
        | refine Keeps.ite ?_ ?_
    | exact rfl

theorem execWindowArrival_ends :
    ∀ x0 x1, Ends [.ports, .dict, .log, .health, .cores, .scratch, .hbm, .hbmPoison, .hbmEcc, .larders, .movers, .parts, .chanUse, .links, .net] x1 (execWindowArrival x0 x1) := by
  intro x0 x1
  unfold execWindowArrival
  repeat' first
    | with_reducible
        first
        | apply Ends.stay | refine Ends.next ?_ | refine Ends.ite ?_ ?_ | exact Keeps.refl _ _
        | apply State.complete_keeps | apply State.failActive_keeps | apply State.setActive_keeps
        | refine Keeps.ite ?_ ?_
    | exact rfl | extract_lets | split

theorem execWrite_ends :
    ∀ x0 x1 x2 x3 x4, Ends [.time, .power, .boot, .ports, .mboxes, .sessions, .dict, .log, .health, .cores, .hbm, .hbmPoison, .hbmEcc, .larders, .movers, .folds, .parts, .ctxs, .journal, .train, .seeds, .chanUse, .links, .net, .freeCtr] x4 (execWrite x0 x1 x2 x3 x4) := by
  intro x0 x1 x2 x3 x4
  unfold execWrite
  repeat' first
    | with_reducible
        first
        | refine Ends.next ?_ | exact Keeps.refl _ _ | apply State.windowGo_keeps | refine Keeps.ite ?_ ?_
    | exact rfl

theorem execWriteFlit_ends :
    ∀ x0 x1 x2, Ends [.dict, .log, .hbm, .hbmPoison, .hbmEcc, .larders, .movers, .links, .net] x2 (execWriteFlit x0 x1 x2) := by
  intro x0 x1 x2
  unfold execWriteFlit
  repeat' first
    | with_reducible
        first
        | refine State.receive_ends rfl ?_ | assumption | apply State.acceptWrite_keeps
    | exact rfl | intro _

end Sys2Proof.Machine
end

