-- ==== Sys2Proof/WellFormed.lean ====
section
/-!
DEFINITION. Commands whose operands can occur: what lies outside the ranges here names no unit, address or
event of the device. The machine takes every command; these checks say which ones an environment can send.
-/
namespace Sys2Proof

/-- An upset names a word of a bank (R127). -/
def Upset.ok (u : Upset) : Bool := decide (u.row < 3584) && decide (u.word < 8)

/-- An upset of HBM names a 64-bit word of a stack of 48 GB (01_the_panel.md). -/
def HbmUpset.ok (u : HbmUpset) : Bool := decide (8 * u.word < 48000000000)

def StepEnv.ok (e : StepEnv) : Bool := e.upsets.all Upset.ok
def XferEnv.ok (e : XferEnv) : Bool := e.upsets.all Upset.ok && e.hbm.all HbmUpset.ok

/-- A larder request lies within one 128-byte line (R147), and a write carries as many bytes as it says. -/
def LarderReq.ok (r : LarderReq) : Bool :=
  decide (0 < r.len) && decide (r.off % 128 + r.len ≤ 128) && r.upsets.all HbmUpset.ok &&
  (match r.data with
   | none => true
   | some d => decide (d.length = r.len))

/-- A dictionary message of Table 12-7 carries at most 1,024 bytes. -/
def MctpMsg.ok (m : MctpMsg) : Bool := decide (m.length ≤ 1024) && decide (m.data.length ≤ 1024)

/-- A frame's type is a byte and its enterprise number four (Table 12-7). -/
def MctpFrame.ok (f : MctpFrame) : Bool := decide (f.mtype < 2 ^ 8) && decide (f.enterprise < 2 ^ 32) && f.body.ok

/-- An access of a BAR0 word (R270). -/
def wordAccess (off : Nat) : Bool := decide (off % 4 = 0) && decide (off < 2 ^ 24)

/-- The well-formed commands. -/
def Instr.wf : Instr → Bool
  | .arrayStep _ e => e.ok
  | .swapStep c => c.env.ok
  | .convert _ e => e.ok
  | .poolMax _ e => e.ok
  | .halo _ e => e.ok
  | .accFill _ e => e.ok
  | .slotDrain _ _ e => e.ok
  | .moverBankAccess _ _ e => e.ok
  | .moverDescriptorComplete _ _ e => e.ok
  | .larderRequest _ r => r.ok
  | .clean _ rs => rs.all fun r => decide (r.1 % 128 = 0) && decide (r.2 % 128 = 0)
  | .mctpRead m => m.ok
  | .mctpWrite m => m.ok
  | .registerWrite _ off _ => wordAccess off
  | .unassignedAccess _ off => decide (off < 2 ^ 24)
  | .bar2Write _ _ d _ => decide (d ≠ [])
  | .deviceMessagePost _ ws => decide (ws.length ≤ 16)
  | .pcieLinkSettle _ w g _ => decide (w ≤ 16) && decide (g ≤ 64)
  | _ => true

end Sys2Proof
end

