-- ==== Sys2Proof/Tests/Slice0.lean ====
section
/-!
SUPPORT. Tests: what WellFormed refuses, a state for the hypotheses of each statement with one for each of its clauses,
and single steps whose results the manual states.
-/
namespace Sys2Proof.Tests
open Sys2Proof Sys2Proof.Machine
set_option exponentiation.threshold 3000
set_option maxRecDepth 100000

/-! ## Small states -/

def k0 : CoreId := ⟨0, 0⟩
def m0 : MoverId := .hearth 0 0
def pins : ColdEnv := ⟨true, 0, true, true, true⟩

/-- A port whose link has settled. -/
def livePort : PortState := { PortState.reset with linkUp := true }

/-- A device that is READY, with nothing bound. -/
def up : State := { State.reset with
  ports := [(0, livePort), (1, livePort)]
  power := { Power.reset with rst := .run }
  boot := { Boot.reset with
    dev := .ready
    leavenRuns := true } }

/-- The same with one core other than at reset. -/
def withCore (c : Core) : State := { up with cores := [(0, c)] }
def withBank (b : Bank) : State := withCore { Core.reset with banks := [(0, b)] }
def withHandle (h : Handle) (epoch : Nat) : Core := { Core.reset with handles := [(1, h)], epoch := epoch }
def withCtx (s : State) (x : Context) : State := { s with ctxs := [(0, x)] }
def withPort (s : State) (f : PortState) : State := { s with ports := [(0, f)] }

/-! ## WellFormed refuses -/

def badUpset : StepEnv := { upsets := [⟨k0, 0, 3584, 0, .single⟩] }
def badXfer : XferEnv := { upsets := [⟨k0, 0, 0, 8, .single⟩] }
def badWord : HbmUpset := ⟨0, 6000000000, false, .single⟩
def frame (len : Nat) : MctpFrame := ⟨0x7F, 5, ⟨1, 0, 0, 0, 0, 0, len, 0, []⟩⟩

theorem test_wf_upsets : Instr.wf (.arrayStep k0 badUpset) = false ∧ Instr.wf (.swapStep ⟨k0, badUpset⟩) = false ∧ Instr.wf (.convert k0 badUpset) = false ∧
    Instr.wf (.poolMax k0 badUpset) = false ∧ Instr.wf (.halo k0 badUpset) = false ∧ Instr.wf (.accFill k0 badUpset) = false ∧
    Instr.wf (.slotDrain k0 0 badUpset) = false ∧ Instr.wf (.moverBankAccess m0 .arrive badXfer) = false ∧
    Instr.wf (.moverDescriptorComplete m0 0 badXfer) = false ∧ Instr.wf (.moverDescriptorComplete m0 0 { hbm := [badWord] }) = false ∧
    Instr.wf (.larderRequest 0 ⟨0, 0, 1, none, [badWord]⟩) = false := by decide

theorem test_wf_requests : Instr.wf (.larderRequest 0 ⟨0, 127, 2, none, []⟩) = false ∧ Instr.wf (.larderRequest 0 ⟨0, 0, 0, none, []⟩) = false ∧
    Instr.wf (.larderRequest 0 ⟨0, 0, 2, some [1], []⟩) = false ∧ Instr.wf (.clean 0 [(1, 128)]) = false ∧
    Instr.wf (.clean 0 [(0, 127)]) = false := by decide

theorem test_wf_host : Instr.wf (.mctpRead (frame 1025)) = false ∧ Instr.wf (.mctpRead { frame 0 with mtype := 256 }) = false ∧
    Instr.wf (.mctpWrite (frame 1025)) = false ∧ Instr.wf (.registerWrite 0 2 0) = false ∧
    Instr.wf (.registerWrite 0 (2 ^ 24) 0) = false ∧ Instr.wf (.unassignedAccess 0 (2 ^ 24)) = false ∧
    Instr.wf (.bar2Write 0 0 [] false) = false ∧ Instr.wf (.deviceMessagePost 0 (List.replicate 17 0)) = false ∧
    Instr.wf (.pcieLinkSettle 0 17 64 true) = false ∧ Instr.wf (.pcieLinkSettle 0 16 65 true) = false := by decide

theorem test_wf_passes : Instr.wf (.larderRequest 0 ⟨0, 127, 1, none, []⟩) = true ∧ Instr.wf (.mctpRead (frame 1024)) = true ∧
    Instr.wf (.registerWrite 0 (2 ^ 24 - 4) 0) = true := by decide

/-! ## States for the hypotheses: the queue and the invariants -/

theorem test_hyp_queue : ({ up with pending := [.warmReset] } : State).pending = .warmReset :: [] ∧ up.pending = [] ∧
    up.power.vaux33 = true ∧ up.time.ref100 = true ∧ ({ up with time := { up.time with ref100 := false } } : State).time.ref100 = false ∧
    ({ up with power := { up.power with vaux33 := false } } : State).power.vaux33 = false := by decide

theorem test_hyp_frame : ∃ t, exec (.ref100 true) up = .next t ∧ StateField.log ∉ touches (.ref100 true) := ⟨_, rfl, by decide⟩

theorem test_hyp_form : MemoryForm State.reset ∧ LogWindow State.reset := by
  unfold MemoryForm LogWindow memOk; decide

theorem test_hyp_steps : (∃ t, step { State.reset with pending := [.ref100 true] } = .next t) ∧
    (∃ t, step { State.reset with pending := [.coldReset pins] } = .next t) ∧
    State.reset.power.vaux33 = true ∧ State.reset.time.now + 30518 < 2 ^ 64 ∧ State.reset.time.frac < 64 :=
  ⟨⟨_, rfl⟩, ⟨_, rfl⟩, rfl, by decide, by decide⟩

/-! ## Scratchpads, banks and handles -/

theorem test_hyp_cold : up.tripHolds = false := by decide

/-- A trip that a junction at 95.1 °C holds, and one that none holds any more. -/
def tripped (j : Int) : State := { up with power := { up.power with
  tripped := true
  junction := [(0, j)] } }

theorem test_hyp_trip : (tripped 951).tripHolds = true ∧ (tripped 950).tripHolds = false ∧ (tripped 951).power.vin48 = true ∧
    (tripped 951).power.vaux33 = true ∧ 950 < (tripped 951).junctionOf 0 := by decide

/-- Value words of Table 7-1: one row from row 0 of bank 0; the last row; one row too many. -/
def goodHandle : W64 := 0x0000000010001
def lastRow : W64 := 0xDFF0001001
def pastRow : W64 := 0x1DFF0001001

theorem test_hyp_handles : up.coreRuns (idKey k0) = true ∧
    (let h : Handle := ⟨lastRow, ~~~lastRow⟩
     h.valid = true ∧ h.bankMask = 1 ∧ h.rowBase + (h.rowCount - 1) = 3583) ∧
    (let h : Handle := ⟨pastRow, ~~~pastRow⟩
     h.valid = true ∧ 3583 < h.rowBase + (h.rowCount - 1)) ∧
    (let h : Handle := ⟨1, ~~~1⟩
     h.valid = true ∧ h.bankMask = 0) ∧ (0 : W64) ≠ ~~~(0 : W64) := by decide

theorem test_hyp_checks : 0 < 1 ∧ 1 < 64 ∧
    ((withHandle ⟨0, 0⟩ 0).handle 1).pairOk = false ∧
    (let h := (withHandle ⟨0, ~~~0⟩ 0).handle 1; h.pairOk = true ∧ h.valid = false) ∧
    (let h := (withHandle (Handle.stamp lastRow 1) 2).handle 1; h.pairOk = true ∧ h.valid = true ∧ h.epoch ≠ 2) ∧
    (let h := (withHandle (Handle.stamp lastRow 1) 1).handle 1
     h.pairOk = true ∧ h.valid = true ∧ h.epoch = 1 ∧ h.we = false ∧ h.bytes ≤ h.bytes ∧ h.bytes - 1 < h.bytes) := by decide

theorem test_hyp_words : ((withBank Bank.reset).core 0 |>.bank 0).power = .awake ∧
    ({ up with scratch := [(wordKey 0 0 0 0, .bad)] } : State).word (wordKey 0 0 0 0) = .bad ∧
    up.word (wordKey 0 0 0 0) = .poisoned ∧
    ({ up with scratch := [(wordKey 0 0 0 0, .clean 5)] } : State).word (wordKey 0 0 0 0) = .clean 5 ∧
    ({ up with scratch := [(wordKey 0 0 0 0, .flipped 5)] } : State).word (wordKey 0 0 0 0) = .flipped 5 ∧
    (1 : W64) ≠ BitVec.allOnes 64 ∧ up.obj 0x2030 3 ≠ 0 ∧ ¬ ((0 : Fin 3584) = 0 ∧ (1 : Fin 8) = 0) := by decide

theorem test_hyp_scrub : ((withBank { Bank.reset with inPass := true }).core 0 |>.bank 0).inPass = true ∧ Bank.reset.inPass = false ∧
    ({ up with dict := [(objKey 0x2030 3, 0)] } : State).obj 0x2030 3 = 0 := by decide

theorem test_hyp_banks : (up.core 0 |>.bank 0).power = .awake ∧ ({ up with dict := [(objKey 0x2030 1, 1)] } : State).obj 0x2030 1 ≠ 0 ∧
    up.bankUsed 0 0 = false ∧ up.coreUsed 0 = false ∧ (∀ e ∈ (up.core 0).slots, e.2.phase = .free) ∧
    ((withBank { Bank.reset with power := .closingLull }).core 0 |>.bank 0).queue = [] ∧
    ((withBank { Bank.reset with power := .closingOff }).core 0).closing = false ∧
    ((withBank { Bank.reset with power := .off }).core 0).power ≠ .off ∧
    ((withBank { Bank.reset with power := .lull }).core 0 |>.bank 0).power = .lull := by decide

theorem test_hyp_returns : up.hearthRuns k0.hearth.val = true ∧
    ((withBank { Bank.reset with power := .off, returning := true }).core 0 |>.bank 0).returning = true ∧
    (let s : State := { up with health := { Health.reset with hearths := [(0, { HearthHealth.reset with marked := [0] })] } }
     s.coreRuns 0 = true ∧ 0 ∈ (s.hearth 0).marked ∧ s.bankUsed 0 0 = false) ∧
    ((withCore { Core.reset with power := .off }).core 0).power = .off ∧
    ((withCore { Core.reset with power := .off, returning := true }).core 0).returning = true := by decide

/-! ## Formats and accumulation -/

/-- A record from its fields: first bit and value (Tables 8-5 and 8-6). -/
def word (w : Nat) (fs : List (Nat × Nat)) : BitVec w := fs.foldl (fun b f => b ||| BitVec.ofNat w (f.2 <<< f.1)) 0

/-- A dense I8 MATMUL over dimension 0 in every place, one unit in slot 0; and others like it. -/
def matmulOp : OpRec := word 1024 [(0, 1), (88, 7), (96, 7), (104, 7), (160, 1), (272, 1), (320, 64)]
def sparseOp : OpRec := word 1024 [(0, 1), (18, 1), (88, 0x17), (96, 7), (104, 7), (240, 1), (272, 1), (320, 64)]
def chainOp : OpRec := word 1024 [(0, 1), (8, 1), (88, 7), (96, 7), (104, 7), (160, 1), (272, 1), (320, 64)]
def opOfKind (k : Nat) : OpRec := word 1024 [(0, k), (88, 7), (104, 7), (160, 1), (272, 1), (320, 64)]
def outBuffer : BufRec := word 256 [(0, 1), (8, 7), (20, 2)]

def program (ops : List OpRec) : Program where
  id := 7
  ops := ops
  bufs := [outBuffer]
  planned := [64]
  varDims := [false]
  anchors := []
  consts := []
  phases := 1
  ioCount := 0
  opsOff := 64
  bufsOff := 0
  anchorsOff := 0
  constOff := 0

/-- A program bound to the first column of hearth 0, every operation in one part. -/
def bound (ops : List OpRec) : Binding where
  ctx := 0
  image := 0
  training := false
  generation := 0
  prog := program ops
  grids := [⟨0, List.range 32, [0]⟩]
  splits := ops.map fun _ => ⟨1, 1, 1, 1, 1, 1, 1⟩
  places := []
  ckpt := []
  saved := []
  undoBase := 0
  undoPages := 0
  scaleBase := 0
  scaleBytes := 0
  deltas := []
  undo := []
  extents := [64]
  seed := 0
  train := false
  ioAddr := []
  stats := []
  tokens := []
  issued := []
  edges := []
  modes := []
  spareCores := []
  raiseBelow := 0
  doldrumsRun := 0

def tile0 : Tile := ⟨0, 0, 0, [], [], [[3]], [], [], []⟩

theorem test_hyp_sums : ((matmulOp : OpRec).sparse = false ∧ fmtSigned (OpRec.aFmt matmulOp) = true) ∧
    (OpRec.sparse sparseOp = true ∧ (∀ row : Fin 64, ((tile0.selects).getD row.val []).getD 0 0 < 4) ∧
      fmtSigned (OpRec.aFmt sparseOp) = false ∧ 0 ≤ OpRec.aPad sparseOp) ∧
    (let v := feedVec (bound [matmulOp]) matmulOp 0 0 127 []
     0 < OpRec.nPass matmulOp ∧ 0 < 1 ∧ 1 < v.len) := by decide

theorem test_hyp_selects : ∀ row, (tile0.selects.getD row []).getD 0 0 < 4 := by
  intro row
  cases row with
  | zero => decide
  | succ n => simp [tile0]

/-- I8, U4, T2 and B1 codes at the ends of their ranges. -/
theorem test_hyp_formats : (fmtOk 0x07 = true ∧ fmtKind 0x07 ≤ 4 ∧ -(2 ^ (fmtWidth 0x07 - 1) : Int) ≤ -128 ∧ (127 : Int) < 2 ^ (fmtWidth 0x07 - 1)) ∧
    (fmtOk 0x13 = true ∧ fmtKind 0x13 = kUn ∧ (15 : Int) < 2 ^ fmtWidth 0x13) ∧ (fmtOk 0x31 = true ∧ fmtKind 0x31 = kT2) ∧
    fmtIsB1 0x20 = true ∧
    (127 < (⟨200, 0⟩ : Dy).round 0 .rhe 0 ∧ (⟨-200, 0⟩ : Dy).round 0 .rhe 0 < -128 ∧ (⟨5, -1⟩ : Dy).round 0 .rhe 0 = 2) := by decide

/-- The discarded part is 0; a tie; k at 48 and above it. -/
theorem test_hyp_rounding : (8 % 2 ^ 2 : Int).toNat = 0 ∧ 2 * |roundShift 3 1 .rhe 0 * 2 ^ 1 - 3| = 2 ^ 1 ∧ (48 : Nat) ≤ 48 ∧ 48 < 49 := by decide

/-- A saturating left shift, a left shift of 0 bits, a right shift that discards, and one of 47 bits. -/
theorem test_hyp_alignment : |(2 ^ 37 - 1 : Int)| < 2 ^ 37 ∧ entryHi false < (2 ^ 37 - 1) * 2 ^ 0 ∧ -(2 ^ 37 - 1) * 2 ^ 0 < entryLo false ∧
    (entryLo false ≤ 5 ∧ 5 ≤ entryHi false) ∧ (5 : Int) % 2 ^ 1 ≠ 0 ∧ (-47 : Int) ≤ -47 := by decide

theorem test_hyp_reductions : [((5 : Int), (0 : Int)), (6, 1)].Perm [[(6, 1)], [(5, 0)]].flatten ∧
    (addBlocks false 0 Entry.reset [(5, 0), (6, 1)]).ovf = false ∧ (addBlocks true 0 Entry.reset [(40000, 0)]).ovf = true ∧
    ([[((6 : Int), (1 : Int))], [(5, 0)]].foldl (fun e ps =>
      let q := addBlocks false 0 Entry.reset ps
      accAdd false e q.val q.ovf) Entry.reset).ovf = false :=
  ⟨List.Perm.swap _ _ _, by decide, by decide, by decide⟩

theorem test_hyp_folds : [(⟨2, 0, 1, false⟩ : Pair), ⟨1, 0, 1, false⟩].Perm [⟨1, 0, 1, false⟩, ⟨2, 0, 1, false⟩] ∧
    ([(⟨2, 0, 1, false⟩ : Pair), ⟨1, 0, 1, false⟩].map fun p => (p.index, p.source)).Nodup :=
  ⟨List.Perm.swap _ _ _, by decide⟩

/-- Of 64 codes of 2 bits: 31 that are not zero take the bitmap form, 32 do not (the break-even row of R114's table). -/
theorem test_hyp_sheets : (64 + 31 * 2 < 64 * 2 ∧ ((List.replicate 31 1 ++ List.replicate 33 0).filter (· ≠ (0 : Nat))).length = 31) ∧
    (64 * 2 ≤ 64 + 32 * 2 ∧ ((List.replicate 32 1 ++ List.replicate 32 0).filter (· ≠ (0 : Nat))).length = 32) ∧
    (∀ e ∈ List.replicate 32 1 ++ List.replicate 32 0, e < 2 ^ 2) := by decide

/-! ## Cores at work -/

def runningItem : Item := { newItem 0 0 0 with state := .running }

/-- Partition 0 works on the item of context 0 with these operations, its first core as given. -/
def working (ops : List OpRec) (c : Core) : State := { up with
  parts := [(0, { Part.reset with
    map := 0x0000FFFF
    mapC := 0xFFFF0000
    current := some 0
    binding := some (bound ops) })]
  ctxs := [(0, { Context.reset with
    mode := .running
    items := [runningItem] })]
  cores := [(0, c)] }

def theJob (ops : List OpRec) : Job := ⟨0, 0, runningItem, bound ops⟩
def ready : Core := { Core.reset with begun := true }
def busySlot0 : Core := { ready with slots := [(0, { Slot.reset with
  phase := .owned
  size := 1 })] }

def run0 : Run where
  op := 0
  etMode := 0
  q := 0
  checked := false
  todo := [⟨0, 0, [0], false⟩]
  claims := 0
  claimed := false
  slot := 0
  cols := []
  load := none
  shadow := none
  live := none
  swaps := 0
  vec := 0
  fed := none
  pass := none
  tails := []
  topkWait := false

def stepping (u : Run) : State := working [matmulOp] { ready with
  next := 1
  run := some u }

theorem test_hyp_run : (stepping run0).coreJob (idKey k0) = some (theJob [matmulOp]) ∧
    run0.stepEnabled ((stepping run0).core 0) = true ∧ ((stepping run0).core 0).releaseDue = false ∧ Run.swapReady { run0 with shadow := some tile0 } = some tile0 ∧
    (let u : Run := { run0 with live := some tile0, topkWait := true }
     u.live = some tile0 ∧ u.topkWait = true ∧ ((stepping u).core 0).earlierTiles 0 0 0 = false) ∧
    ((withCore { Core.reset with sample := some ⟨0, 0, true, false⟩ }).core 0).sample = some ⟨0, 0, true, false⟩ := by decide

theorem test_hyp_matmul : (working [matmulOp] ready).issue 0 kMatmul = some (theJob [matmulOp], 0) ∧
    (bound [matmulOp]).pairs 0 0 ≠ [] ∧ ready.slotsReady matmulOp = true ∧
    (working [matmulOp] busySlot0).issue 0 kMatmul = some (theJob [matmulOp], 0) ∧
    busySlot0.slotsReady matmulOp = false ∧ ((working [matmulOp] busySlot0).part 0).fault = none ∧
    OpRec.chain matmulOp = false ∧ OpRec.chain chainOp = true ∧ busySlot0.slotsReady chainOp = false := by decide

theorem test_hyp_chain_steps : busySlot0.run = none ∧ busySlot0.slotsReady chainOp = false ∧ busySlot0.releaseDue = false ∧
    (∀ y ∈ (bound [matmulOp]).startsOn 0 0, (bound [matmulOp]).prog.sparseUser y.1 = none) := by decide

/-- A MATMUL that names slot 0, then an operation on that slot. -/
def after (k : Nat) : List OpRec := [matmulOp, opOfKind k]
/-- An operation on slot 0, then the MATMUL that takes it. -/
def before (k : Nat) : List OpRec := [opOfKind k, matmulOp]

theorem test_hyp_acc : (working (after kAccRead) { ready with next := 1 }).issue 0 kAccRead = some (theJob (after kAccRead), 1) ∧
    (working (after kAccSpill) { ready with next := 1 }).issue 0 kAccSpill = some (theJob (after kAccSpill), 1) ∧
    (working (before kAccFill) ready).issue 0 kAccFill = some (theJob (before kAccFill), 0) ∧
    ready.accBusy (opOfKind kAccRead) = false ∧ busySlot0.accBusy (opOfKind kAccRead) = true ∧
    (ready.slot 0).phase = .free ∧ (busySlot0.slot 0).phase ≠ .free := by decide

theorem test_hyp_chain : (working [chainOp] { ready with chainWait := some 0 }).coreJob 0 = some (theJob [chainOp]) ∧
    ready.slotsReady chainOp = true ∧ ready.run = none ∧ (∃ n ∈ OpRec.slotNames chainOp, (busySlot0.slot n).phase ≠ .free) := by
  refine ⟨by decide, by decide, rfl, 0, by decide, by decide⟩

theorem test_hyp_scheduled : (working [opOfKind kConvert] ready).issue 0 kConvert = some (theJob [opOfKind kConvert], 0) ∧
    (working [opOfKind kPool] ready).issue 0 kPool = some (theJob [opOfKind kPool], 0) ∧
    (working [opOfKind kConvert, opOfKind kHalo] { ready with next := 1 }).issue 0 kHalo =
      some (theJob [opOfKind kConvert, opOfKind kHalo], 1) ∧
    (let c : Core := { ready with slots := [(0, { Slot.reset with phase := .draining })] }
     (working [matmulOp] c).coreJob 0 = some (theJob [matmulOp]) ∧ (working [matmulOp] c).drainReady (theJob [matmulOp]) 0 0 = true) := by
  decide

/-- A TRANSFER whose mover has begun its phase; a MARK. -/
def transferring : State := { working [opOfKind kTransfer] Core.reset with
  parts := [(0, { Part.reset with
    map := 0x0000FFFF
    mapC := 0xFFFF0000
    current := some 0
    binding := some { bound [opOfKind kTransfer] with tokens := [⟨.mover (.hearth 0 0), 0, true⟩] } })] }

def transferJob : Job := ⟨0, 0, runningItem, { bound [opOfKind kTransfer] with tokens := [⟨.mover (.hearth 0 0), 0, true⟩] }⟩

theorem test_hyp_transfer : transferring.job 0 = some transferJob ∧ transferJob.bd.moverOf 0 0 = 0 ∧
    transferring.canCarry transferJob (moverUnit 0) 0 kTransfer = true ∧ transferJob.ioRefused (opOfKind kTransfer) 0 = false := by decide

theorem test_hyp_mark : (working [opOfKind kMark] Core.reset).job 0 = some (theJob [opOfKind kMark]) ∧
    (OpRec.kind (opOfKind kMark)) = kMark ∧ runningItem.resumePhase ≤ OpRec.phase (opOfKind kMark) ∧
    (theJob [opOfKind kMark]).marksDone 0 = true := by decide

theorem test_hyp_phases : (let s := working [matmulOp] { ready with next := 1 }
     s.findJob (fun y => s.tokenReady y (.core k0)) = some (theJob [matmulOp])) ∧
    (let s := working [matmulOp] Core.reset
     s.findJob (fun y => s.beginReady y (.core k0)) = some (theJob [matmulOp])) := by decide

theorem test_hyp_op_end : (working [matmulOp] { ready with next := 1 }).job 0 = some (theJob [matmulOp]) ∧
    (working [matmulOp] { ready with next := 1 }).opEnded (theJob [matmulOp]) 0 = true ∧
    ((theJob [matmulOp]).bd.opStats 0).ended = false := by decide

/-- A K-split fold with one pair in flight, the same with none, and a scatter fold that waits for the slot of operation 1. -/
def fold0 : Fold := ⟨0, 0, 0, 0, [], [⟨0, 0, 1, false⟩], [], [], none⟩
def scatterOp : OpRec := word 1024 [(0, 1), (28, 2), (88, 7), (96, 7), (104, 7), (160, 1), (272, 1), (320, 64)]
def scatterBuf : BufRec := word 256 [(0, 1), (8, 7), (20, 2), (64, 1)]
def scatterBound : Binding := { bound [scatterOp, matmulOp] with prog := { program [scatterOp, matmulOp] with bufs := [scatterBuf] } }
def emitting : State := { working [] ready with
  parts := [(0, { Part.reset with
    map := 0x0000FFFF
    mapC := 0xFFFF0000
    current := some 0
    binding := some scatterBound })]
  cores := [(0, { ready with slots := [(1, { Slot.reset with
    phase := .owned
    op := 1 })] })]
  folds := [(0, [⟨0, 0, 0, 0, [], [], [], [], some []⟩])] }

theorem test_hyp_fold_commands : takePair 0 [fold0] = some [{ fold0 with inFlight := [], taken := [⟨0, 0, 1, false⟩] }] ∧
    (let s : State := { working [matmulOp] ready with folds := [(0, [{ fold0 with inFlight := [] }])] }
     s.hearthRuns 0 = true ∧ s.foldJob 0 0 = some (theJob [matmulOp], { fold0 with inFlight := [] }) ∧
     s.foldComplete (theJob [matmulOp]) { fold0 with inFlight := [] } = true) ∧
    (let f : Fold := ⟨0, 0, 0, 0, [], [], [], [], some []⟩
     let x : Job := ⟨0, 0, runningItem, scatterBound⟩
     emitting.foldJob 0 0 = some (x, f) ∧ f.emitting = some [] ∧ x.bd.prog.scatterDest (x.bd.prog.op f.op) = some 1 ∧
     emitting.emitReady x 0 1 f = some (0, 1, { Slot.reset with
       phase := .owned
       op := 1 })) := by decide

/-! ## Larders, HBM and movers -/

def line0 (dirty : Bool) (poison : List Bool) : Line := ⟨0, 0, List.replicate 128 7, dirty, false, poison, []⟩
def withLarder (l : Larder) : State := { up with larders := [(0, l)] }

theorem test_hyp_larder : up.alive = true ∧ (0 : Nat) ∉ up.health.stacksFailed ∧
    (stackBytes ≤ stackBytes + 1 - 1 ∧ stackBytes - 1 + 1 - 1 < stackBytes) ∧
    (let l : Larder := { Larder.reset with lines := [(larderSet 0, [line0 true []])] }
     l.find 0 = some (line0 true [])) ∧
    (line0 true [true]).poison.getD 0 false = true ∧ (8 * 0 < 0 % 128 + 1 ∧ 0 % 128 < 8 * 0 + 8) ∧
    Larder.reset.find 0 = none ∧ (∃ m ∈ [((0 : Nat), ([] : List LarderReq))], m.1 = 0) ∧
    Larder.reset.misses.length < 256 ∧ 256 ≤ ((List.range 256).map fun k => (k + 1, ([] : List LarderReq))).length ∧
    (∀ m ∈ (List.range 256).map fun k => (k + 1, ([] : List LarderReq)), m.1 ≠ 0) := by decide

theorem test_hyp_fill : ((withLarder { Larder.reset with misses := [(5, [])] }).larder 0).misses.find? (fun m => m.1 = 5) = some (5, []) ∧
    ((withLarder { Larder.reset with misses := [(5, [])] }).larder 0).waiting = [] ∧
    ((line0 true []).dirty = true ∧ (line0 true []).within [(0, 128)] = true) ∧
    (5000 < hbmAddr 0 (128 * (line0 true []).line) ∨ hbmAddr 0 (128 * (line0 true []).line) + (line0 true []).data.length ≤ 5000) := by decide

/-- A request behind one of its source and line; a word that no read can restore. -/
theorem test_hyp_larder_waits : (∃ q ∈ [(⟨3, 0, 1, none, []⟩ : LarderReq)], q.source = 3 ∧ q.off / 128 = 0) ∧
    (let x := { line0 true [] with ecc := [some .uncorrectable] }
     eccBad x.ecc = true ∧ up.mirrored (hbmAddr 0 (128 * 0)) = false ∧
       firstWord 0 1 ((List.range 16).map fun w => decide (x.ecc.getD w none = some .uncorrectable)) = some 0) ∧
    eccBad (line0 true []).ecc = false ∧ firstWord 0 1 (line0 true [true]).poison = some 0 ∧ firstWord 0 1 (line0 true []).poison = none := by decide

/-- A row of 64 bits between two spaces. -/
def desc (src dst : Space) (ordered : Bool) : MoverDesc where
  srcSpace := src
  dstSpace := dst
  packed := false
  unpack := false
  append := false
  strip := false
  hostPort := 0
  notify := false
  ordered := ordered
  channel := 0
  rowBits := 64
  rows := 1
  srcCore := 0
  srcHandle := 1
  srcBit := 0
  srcStride := 64
  dstCore := 0
  dstHandle := 1
  dstBit := 0
  dstStride := 64
  node := 1
  token := 3
  auxSrc := 0
  auxDst := 0
  rsvd := 0
  addr := 0
  part := 0
  op := 0
  window := none
  record := 0
  endBytes := none
  auxSrcHandle := 0
  auxDstHandle := 0
  groups := 0
  codeBits := 8
  skip := 0
  clip := 0
  planned := 0

def active (d : MoverDesc) : Active := ⟨d, 0, false, 0, none, 0⟩
def withMover (k : Nat) (mv : Mover) : State := { up with movers := [(k, mv)] }

theorem test_hyp_movers : up.moverRuns (moverKey m0) = true ∧ up.moverRuns (moverKey (.proofer 0 0)) = true ∧
    ((withMover 0 { Mover.reset with queue := [desc .hbm .hbm true] }).mover 0).queue = desc .hbm .hbm true :: [] ∧
    (desc .hbm .hbm true).ordered = true ∧ (desc .hbm .hbm false).ordered = false ∧ (desc .hbm .hbm true).invalid 0 = false ∧
    (desc .hbm .fill false).invalid 0 = true ∧ (desc .host .hbm false).invalid 127 = true ∧ (desc .host .hbm false).invalid 128 = false := by decide

def windowed : Active := { active { desc .hbm .hbm false with window := some ⟨0, 1, 0, 0⟩ } with waits := true }

/-- A window whose arrival record of one byte has come. -/
def arrived : State := { withMover 0 { Mover.reset with active := [windowed] } with
  hbm := [(64, 1), (68, 0xFE), (69, 0xFF), (70, 0xFF), (71, 0xFF)] }

theorem test_hyp_transfers : (let l := [active (desc .scratch .hbm false)]
     l.findIdx? (·.byAccess) = some 0 ∧ up.dstReturning (desc .scratch .hbm false) = false) ∧
    (let a := active (desc .hbm .hbm false)
     a.waits = false ∧ ¬ (a.desc.dstSpace = .finwell ∧ (a.desc.srcSpace ≠ .host ∨ a.moved ≠ 0 ∨ a.endSent.isSome = true)) ∧
      up.hostOpen a.desc = true ∧ ([] : List Byte).length = a.hostBytes) ∧
    (arrived.mover 0).active.findIdx? (fun a => a.waits && a.desc.window.any arrived.windowReady) = some 0 ∧
    (arrived.mover 0).active[0]? = some windowed ∧ arrived.windowWrong ⟨0, 1, 0, 0⟩ = false ∧ arrived.windowWrong ⟨0, 1, 9, 0⟩ = true := by decide

/-- An awake bank with a write of a whole word in its queue. -/
def queued : Bank := { Bank.reset with queue := [⟨0, 0, BitVec.allOnes 64, 5, 0, 3⟩] }

theorem test_hyp_commit : (withBank queued).coreRuns 0 = true ∧ (((withBank queued).core 0).bank 0).queue = [⟨0, 0, BitVec.allOnes 64, 5, 0, 3⟩] ∧
    (((withBank queued).xferEnv (some 0) {}).commitWrite 0 0).word (wordKey 0 0 0 0) = .clean 5 := by decide

/-- A write of one byte of an uncorrectable word, whose descriptor is in progress. -/
def badWrite : State := { withCore { Core.reset with banks := [(0, { Bank.reset with queue := [⟨0, 0, 255, 5, 0, 3⟩] })] } with
  scratch := [(wordKey 0 0 0 0, .bad)]
  movers := [(0, { Mover.reset with active := [active (desc .hbm .scratch false)] })] }

theorem test_hyp_commit_fault : ((writeWord badWrite 0 0 0 0 255 5).2.2).isSome = true ∧
    ((writeWord badWrite 0 0 0 0 255 5).1.mover 0).active.findIdx? (fun a => a.desc.token = 3) = some 0 := by decide

/-- A descriptor whose bank returns from off; an ORDERED one of work in progress; a port that sends. -/
theorem test_hyp_waits : ({ withCore { Core.reset with
      banks := [(0, { Bank.reset with returning := true })]
      handles := [(1, Handle.stamp lastRow 0)] } with pending := [] } : State).dstReturning (desc .hbm .scratch false) = true ∧
    (desc .hbm .hbm true).ordered = true ∧ ((working [matmulOp] ready).job (desc .hbm .hbm true).part).isSome = true ∧
    up.canSend 0 = true := by decide

theorem test_hyp_faults : (let a : Active := { active (desc .hbm .finwell false) with endSent := some 0 }
     (withMover 128 { Mover.reset with active := [a] }).moverRuns 128 = true ∧
      ((withMover 128 { Mover.reset with active := [a] }).mover 128).active.findIdx? (withMover 128 { Mover.reset with active := [a] }).canTimeOut = some 0) ∧
    (let a := active (desc .host .hbm false)
     ((withMover 128 { Mover.reset with active := [a] }).mover 128).active.findIdx? Active.readsHost = some 0 ∧
      ((withMover 128 { Mover.reset with active := [a] }).mover 128).active[0]? = some a) ∧
    up.leavenUp = true ∧ (withCtx up { Context.reset with mode := .running, target := 0 }).mayExamine 0 = true := by decide

/-! ## The dictionary, sessions and contexts -/

def privileged (s : State) : State := { s with sessions := [(2, { SessionState.reset with privileged := true })] }

theorem test_hyp_dictionary : up.served = true ∧ objectWritten (.advance .mctp 1) = some (.mctp, 0x6010, 5, [1]) ∧
    objInfo 0x9999 1 = none ∧ (objInfo 0x1001 1).map (·.acc) = some .ro ∧
    ((objInfo 0x2010 1).map (·.acc) = some .rwp ∧ (up.session .mctp).privileged = false ∧ ((privileged up).session .mctp).privileged = true) ∧
    ((objInfo 0x2010 1).map (·.ty.len) = some 1 ∧ (objInfo 0x2010 1).map (·.ty) = some .bool ∧ 1 < fromBytes [2]) ∧
    ((objInfo 0x4000 1).map (·.ty) = some .cu32 ∧ isCompl 32 (fromBytes (toBytes 8 (2 ^ 32)) % 2 ^ 32) (fromBytes (toBytes 8 (2 ^ 32)) / 2 ^ 32) = false) ∧
    ((objInfo 0x3048 1).map (·.counter) = some true ∧ fromBytes [1] ≠ 0) ∧
    ((objInfo 0x2030 2).map (·.lo) = some 1000 ∧ (objInfo 0x2030 2).map (·.hi) = some 1000000) ∧
    (up.objEffect .mctp 0x2030 2 (toBytes 4 1000)).2 = 0 ∧ (up.objEffect .mctp 0x6010 5 [2]).2 ≠ 0 := by decide

theorem test_hyp_missing : up.selectedRec (up.session .mctp).scaleSelect = none ∧ up.log.entry (up.session .mctp).logSelect = none ∧
    State.reset.served = false ∧ State.reset.bootAnswers .bar0A = true ∧ State.reset.bootAnswers .mctp = false := by decide

def mode0 (m : CtxMode) : State := withCtx up { Context.reset with mode := m }

theorem test_hyp_contexts : ((mode0 .stopped).ctx 0).mode = .stopped ∧ ((mode0 .running).ctx 0).mode = .running ∧
    ((mode0 .draining).ctx 0).mode = .draining ∧ ((mode0 .resetting).ctx 0).mode = .resetting ∧
    ((mode0 .faulted).ctx 0).mode = .faulted ∧ (mode0 .faulted).served = true ∧
    (∀ i ∈ ((mode0 .resetting).ctx 0).items.head?, i.state ≠ .rollingBack) ∧ ((mode0 .running).ctx 0).items = [] := by decide

/-- A session with a challenge, a key of one byte, and a response that matches. -/
def code0 : List Byte := List.replicate 32 5
def answer0 : List Byte := hmacSha384 [1] (code0 ++ toBytes 1 (sessCode .mctp) ++ toBytes 2 (if Session.mctp = .lane then 0 else 0xFFFF))
def keyed (fails : Nat) (lock : Option Nat) : State := { up with
  sessions := [(2, { SessionState.reset with
    challenge := some code0
    failRun := fails
    lockoutEnd := lock })]
  boot := { up.boot with key := some [1] } }

theorem test_hyp_sessions : (keyed 0 none).served = true ∧ (List.replicate 48 (0 : Byte)).length = 48 ∧
    ¬ ((∃ t, ((keyed 0 none).session .mctp).lockoutEnd = some t ∧ (keyed 0 none).now < t) ∨ (keyed 0 none).boot.keyPending ≠ none) ∧
    ((keyed 7 none).session .mctp).failRun + 1 = 8 ∧
    (((keyed 0 (some 1)).session .mctp).lockoutEnd = some 1 ∧ (keyed 0 (some 1)).now < 1) ∧
    up.boot.key = none ∧ up.boot.keyPending = none ∧ (up.session .mctp).privileged = false ∧ (keyed 0 none).boot.key ≠ none := by
  refine ⟨by decide, by decide, ?_, by decide, ⟨by decide, by decide⟩, by decide, by decide, by decide, by decide⟩
  rintro (⟨t, h, _⟩ | h)
  · exact Option.some_ne_none t (h.symm.trans (rfl : ((keyed 0 none).session .mctp).lockoutEnd = none))
  · exact h rfl

theorem test_hyp_response : ∃ ch k, ((keyed 0 none).session .mctp).challenge = some ch ∧ (keyed 0 none).boot.key = some k ∧
    hmacSha384 k (ch ++ toBytes 1 (sessCode .mctp) ++ toBytes 2 (if Session.mctp = .lane then 0 else 0xFFFF)) = answer0 :=
  ⟨code0, [1], rfl, rfl, rfl⟩

theorem test_hyp_timers : ((keyed 0 (some 60000000000)).session .mctp).lockoutEnd = some 60000000000 ∧
    up.power.vaux33 = true ∧ (privileged up).leavenUp = true ∧ ((privileged up).session .mctp).privileged = true ∧
    ({ up with boot := { up.boot with keyPending := some (0, [1]) } } : State).boot.keyPending = some (0, [1]) := by decide

def rec0 : ScaleRec := ⟨0, 7, 0, 0, -3, 3, [], 0, 0, 0, false, false, false⟩

theorem test_hyp_objects : up.log.ack ≤ (0 : W64).toNat ∧ (0 : W64).toNat ≤ up.log.head ∧ up.log.head < (1 : W64).toNat ∧
    ((mode0 .stopped).ctx 0).mode = .stopped ∧ ((mode0 .running).ctx 0).mode ≠ .stopped ∧
    (3 : Nat) ∉ up.chanUse ∧ (3 : Nat) ∈ ({ up with chanUse := [3] } : State).chanUse ∧
    (up.link 0).state = .down ∧ (({ up with links := [(0, { Link.reset with state := .failed })] } : State).link 0).state = .failed ∧
    (let s := { privileged up with train := ⟨[rec0], [], []⟩ }
     s.selectedRec (s.session .mctp).scaleSelect = some rec0 ∧ rec0.dmin ≤ (3 : W32).toInt ∧ (3 : W32).toInt ≤ rec0.dmax ∧
       rec0.dmax < (4 : W32).toInt ∧ s.partRunning rec0.ctx = none) := by decide

/-- Partition 1 may take the hearths that partition 0 has given up, not one that it keeps, nor a hearth 16. -/
theorem test_hyp_maps : (let s := { privileged up with parts := [(0, { Part.reset with map := 1, mapC := ~~~1 })] }
     ((s.session .mctp).privileged = true) ∧ (2 : W32).toNat < 2 ^ 16 ∧ ¬ (∃ q, q < 16 ∧ q ≠ 1 ∧ (s.part q).map &&& (2 : W32) ≠ 0) ∧
       (∃ q, q < 16 ∧ q ≠ 1 ∧ (s.part q).map &&& (1 : W32) ≠ 0)) ∧ 2 ^ 16 ≤ (0x10000 : W32).toNat ∧
    (∀ c ∈ up.ctxIds, (up.ctx c).partition = 0 → (up.ctx c).mode = .stopped ∧ (up.ctx c).items = []) := by decide

def targeting (u : Nat) (a : Option RepairAction) : State := { privileged up with
  health := { Health.reset with
    repairTarget := u
    repair := a } }

theorem test_hyp_repair : repairable 0x8000 = true ∧ (targeting 0x8000 none).health.repair = none ∧
    (targeting 0x8000 none).unitFaulty 0x8000 = false ∧
    (let s := { targeting 0x8000 none with health := { (targeting 0x8000 none).health with
       hearths := [(0, { HearthHealth.reset with faulty := [0] })] } }
     s.unitFaulty 0x8000 = true ∧ s.unitInUse 0x8000 = false) ∧
    (targeting 0x8000 (some (.forget 0x8000))).health.repair = some (.forget 0x8000) ∧
    (targeting 0x8000 (some (.retest 0x8000))).health.repair = some (.retest 0x8000) := by decide

/-! ## Work -/

/-- The item of context 0 that partition 0 has chosen. -/
def chosen (st : ItemState) (bound : Bool) : Item := { newItem 0 0 0 with
  state := st
  bound := bound }
def choosing (cur : Option Nat) (b : Option Binding) (i : Item) (fault : Option RunFault) : State := { up with
  parts := [(0, { Part.reset with
    map := 1
    mapC := ~~~1
    current := cur
    binding := b
    fault := fault })]
  ctxs := [(0, { Context.reset with
    mode := .running
    items := [i] })] }

def draining0 : Context := { Context.reset with
  mode := .running
  target := 0 }

theorem test_hyp_doorbells : up.portAnswers 0 = true ∧ (withPort up { livePort with d0 := false }).portAnswers 0 = false ∧
    (1 ≤ ((0 : W32) - 0xFFFFFFFF).toNat ∧ ((0x7FFFFFFE : W32) - 0xFFFFFFFF).toNat ≤ 2 ^ 31 - 1) ∧ 2 ^ 31 - 1 < ((0x7FFFFFFF : W32) - 0xFFFFFFFF).toNat := by
  decide

theorem test_hyp_doorbell_modes : (mode0 .running).portAnswers 0 = true ∧ ((mode0 .running).ctx 0).mode = .running ∧
    ((mode0 .stopped).ctx 0).mode ≠ .running := by decide

/-- A partition whose map pair does not match. -/
def badMap : State := { choosing none none (newItem 0 0 0) none with parts := [(0, { Part.reset with map := 1, mapC := 0 })] }

theorem test_hyp_maps_fail : badMap.mapOk 0 = false ∧ badMap.leavenUp = true ∧ badMap.isReady = true ∧ (badMap.part 0).current = none ∧
    badMap.chooseCtx 0 = some 0 ∧ (badMap.ctx 0).items = newItem 0 0 0 :: [] ∧ up.health.journalLost = false := by decide

/-- A journal with room, one with too little, and a paused examination that may go on. -/
theorem test_hyp_examine : (withCtx up draining0).mayExamine 0 = true ∧
    journalReserve + recUnits 3 ≤ (withCtx up draining0).reclaim.journal.free ∧
    (let s := { withCtx up draining0 with journal := { Journal.reset with free := 10 } }
     s.mayExamine 0 = true ∧ s.reclaim.journal.free < journalReserve + recUnits 3) ∧
    (let s := withCtx up { draining0 with pause := .journal 0 0 }
     (s.ctx 0).pause = .journal 0 0 ∧ (s.ctx 0).mode = .running ∧ journalReserve + recUnits 256 ≤ s.reclaim.journal.free) := by decide

theorem test_hyp_choose : (let s := choosing none none (newItem 0 0 0) none
     s.leavenUp = true ∧ s.isReady = true ∧ (s.part 0).current = none ∧ s.mapOk 0 = true ∧ s.chooseCtx 0 = some 0 ∧
       (s.ctx 0).items = newItem 0 0 0 :: [] ∧ s.tooLate 0 (newItem 0 0 0) = false) ∧
    (let i := newItem 0 (BitVec.ofNat 512 (2 ^ 320)) 0
     let s := { choosing none none i none with time := { up.time with now := 2 } }
     s.chooseCtx 0 = some 0 ∧ s.tooLate 0 i = true) := by decide

/-- A program of one MARK at HBM address 0. -/
def header (crc : Nat) : List Byte :=
  toBytes 4 0x504D4C4D ++ toBytes 2 1 ++ [0, 0] ++ toBytes 8 7 ++ toBytes 8 (2 ^ 64 - 1 - 7) ++ toBytes 4 320 ++ toBytes 4 crc ++
  toBytes 4 1 ++ toBytes 4 1 ++ toBytes 2 1 ++ [1, 0] ++ toBytes 4 64 ++ toBytes 4 192 ++ toBytes 4 256 ++ toBytes 4 320 ++ toBytes 4 320
def image : List Byte := header 2811360011 ++ toBytes 128 9 ++ toBytes 32 (7 * 2 ^ 8 + 2 * 2 ^ 16) ++ List.replicate 32 0 ++ toBytes 8 64 ++
  List.replicate 56 0
def placed (s : State) : State := { s with hbm := (((List.range 320).zip image).filter fun c => c.2 ≠ 0) }

def outcomeOf : BindOut → Nat
  | .bound _ => 0
  | .reject _ => 1
  | .capacity _ => 2
  | .broken _ => 3

theorem outcome_is (o : BindOut) : (outcomeOf o = 0 → ∃ b, o = .bound b) ∧ (outcomeOf o = 1 → ∃ f, o = .reject f) ∧
    (outcomeOf o = 2 → ∃ n, o = .capacity n) ∧ (outcomeOf o = 3 → ∃ e, o = .broken e) := by
  cases o <;> simp [outcomeOf]

def binding0 : State := choosing (some 0) none (chosen .binding false) none

theorem test_hyp_bind : binding0.leavenUp = true ∧ binding0.mapOk 0 = true ∧ binding0.running 0 = some (0, chosen .binding false) ∧
    (binding0.part 0).fault = none ∧ ((binding0.badHealth []).part 0).binding = none ∧
    ({ bound [] with prog := { program [] with id := 0 } } : Binding).serves 0 (chosen .binding false) = true ∧
    ({ bound [] with image := 64 } : Binding).serves 0 (chosen .binding false) = false := by decide

def failedHearth : State := { placed binding0 with health := { Health.reset with
  hearths := [(0, { HearthHealth.reset with logicFailed := true })] } }
def failedStack : State := { binding0 with health := { Health.reset with stacksFailed := [0] } }

theorem test_hyp_bind_outcomes : outcomeOf (State.tryBind (((placed binding0).badHealth []).unbind 0) 0 0 0 false []) = 0 ∧
    outcomeOf (State.tryBind ((binding0.badHealth []).unbind 0) 0 0 0 false []) = 1 ∧
    outcomeOf (State.tryBind ((failedHearth.badHealth []).unbind 0) 0 0 0 false []) = 2 ∧
    outcomeOf (State.tryBind ((failedStack.badHealth []).unbind 0) 0 0 0 false []) = 3 := by
  decide

def training0 : Binding := { bound [matmulOp] with train := true }

theorem test_hyp_training : (let s := choosing (some 0) (some training0) (chosen .binding true) none
     s.leavenUp = true ∧ s.boundJob 0 = some ⟨0, 0, chosen .binding true, training0⟩ ∧ training0.train = true) ∧
    (rec0.dmin ≤ rec0.dmax ∧ rec0.run < 2 ^ 32 ∧ rec0.dmin ≤ rec0.delta ∧ rec0.delta ≤ rec0.dmax) ∧
    (0 < (⟨1, 0, 0, false⟩ : GroupStats).flagged ∧ (⟨0, 0, 0, true⟩ : GroupStats).flagged = 0) ∧
    (let hist := (List.replicate 15 3 ++ [3]).drop (15 + 1 - 16)
     hist.length = 16 ∧ ∀ v ∈ hist, v ≤ 3) ∧
    (let hist := (List.replicate 15 3 ++ [4]).drop (15 + 1 - 16)
     ¬ (hist.length = 16 ∧ ∀ v ∈ hist, v ≤ 3)) := by decide

/-- Every core and operation of the phase is done: the MATMUL has ended, by its statistics. -/
def doneStats (flagged : Nat) : Table OpStats := [(0, { OpStats.reset with
  flagged := flagged
  ended := true })]
def twoPhases : Binding := { bound [word 1024 [(0, 1), (10, 1), (88, 7), (96, 7), (104, 7), (160, 1), (272, 1), (320, 64)]] with
  prog := { program [word 1024 [(0, 1), (10, 1), (88, 7), (96, 7), (104, 7), (160, 1), (272, 1), (320, 64)]] with phases := 2 }
  stats := doneStats 0 }
def marking (b : Binding) : State := { choosing (some 0) (some b) runningItem none with
  cores := (b.cores.map fun k => (k, { Core.reset with
    phase := 1
    next := 1 })) }

theorem test_hyp_marks : (let x : Job := ⟨0, 0, runningItem, twoPhases⟩
     let s := marking twoPhases
     s.leavenUp = true ∧ s.job 0 = some x ∧ x.nextMark = some 0 ∧ s.markReady x 0 = true ∧ x.bd.train = false ∧
       (0 + 1 ≠ x.bd.prog.phases) ∧ (s.checkpoint x 0).2 = none ∧ s.preemptor 0 0 = false ∧ (s.ctx 0).items = runningItem :: []) ∧
    (let b : Binding := { bound [matmulOp] with train := true, stats := doneStats 1 }
     let x : Job := ⟨0, 0, runningItem, b⟩
     (marking b).job 0 = some x ∧ x.nextMark = some 0 ∧ (marking b).markReady x 0 = true ∧ x.bd.train = true ∧ x.bd.overflowed = true) := by
  decide

def finalOf (status : Nat) : Final := ⟨status, 0, 0, 0, 0, 0, 0, 0⟩

theorem test_hyp_completion : (let i := { newItem 4 0 0 with final := some (finalOf 0) }
     let s := withCtx up { Context.reset with mode := .draining, items := [i] }
     s.leavenUp = true ∧ (s.ctx 0).items = i :: [] ∧ i.final = some (finalOf 0)) ∧
    (let i := newItem 0 (BitVec.ofNat 512 (2 ^ 320)) 0
     let s : State := { withCtx up { Context.reset with mode := .running, items := [i] } with time := { up.time with now := 2 } }
     earliest s.deadlines = some (1, 0, 0) ∧ s.power.vaux33 = true ∧ 1 < s.now ∧ (s.ctx 0).items.find? (fun i => i.seq = 0) = some i ∧
       (let d : State := { s with boot := { s.boot with leavenRuns := false } }
        d.leavenUp = false ∧ d.power.latched.any (fun e => decide (e.1 = 0)) = false) ∧
       (let d : State := { s with
          boot := { s.boot with leavenRuns := false }
          power := { s.power with latched := [(0, 1)] } }
        d.leavenUp = false ∧ d.power.latched.any (fun e => decide (e.1 = 0)) = true)) := by decide

theorem test_hyp_replay : (let s := choosing (some 0) (some (bound [matmulOp])) runningItem (some ⟨0x0F, 3, true, false, false⟩)
     s.leavenUp = true ∧ s.mapOk 0 = true ∧ s.running 0 = some (0, runningItem) ∧ runningItem.final = none ∧
       runningItem.awaitsPort = false ∧ (s.part 0).fault = some ⟨0x0F, 3, true, false, false⟩) ∧
    (⟨0x0C, 3, false, false, true⟩ : RunFault).deadline = true ∧ (⟨0x05, 3, false, true, false⟩ : RunFault).permanent = false ∧
    (let s := choosing (some 0) (some (bound [matmulOp])) (chosen .rollingBack false) none
     (s.part 0).fault = none ∧ s.running 0 = some (0, chosen .rollingBack false) ∧ (chosen .rollingBack false).state = .rollingBack) := by decide

/-- The item's ACCEPT record, good in a copy or in none; one that has replayed as often as it may, on a binding that stays. -/
def recorded : State := { choosing (some 0) (some (bound [matmulOp])) runningItem (some ⟨0x05, 3, false, true, false⟩) with
  journal := { Journal.reset with recs := [⟨0, 0, 0, 3, .accept 0 0, 0⟩] } }

theorem test_hyp_records : ((recorded.rollback 0).readAccept 0 runningItem [0]).2 = false ∧
    ((recorded.rollback 0).readAccept 0 runningItem [0, 10]).2 = true := by decide

def sameAgain : BindOut → Bool
  | .bound b => b.same b
  | _ => false

theorem same_again (o : BindOut) (h : sameAgain o = true) : ∃ b, o = .bound b ∧ b.same b = true := by
  cases o <;> simp_all [sameAgain]

theorem test_hyp_limit : sameAgain (State.tryBind ((placed binding0).badHealth []) 0 0 0 false []) = true ∧
    (⟨0x05, 3, false, true, false⟩ : RunFault).counts = true ∧ ({ Context.reset with replayLimit := 2 } : Context).replayLimit ≤ 2 := by decide

theorem test_hyp_reset_binding : (let s := choosing (some 0) (some (bound [])) (chosen .binding false) none
     s.partRunning 0 = some 0 ∧ (s.ctx 0).mode = .running ∧ ∃ i ∈ (s.ctx 0).items.head?, i.state = .binding) := by decide

/-! ## Failures, the log, the host -/

theorem test_hyp_failures : failureOf (.coreFailure k0 3) = some (0x8000, 3) ∧ failureOf (.hearthFailure 15 true 1) = some (0x080F, 1) ∧
    failureOf (.hearthFailure 15 false 1) = some (0x180F, 1) ∧ failureOf (.hbmStackFailure 0 1) = some (0x1800, 1) ∧
    failureOf (.prooferFailure 1 1) = some (0x2801, 1) ∧ failureOf (.pciePortFailure 1 1) = some (0x4001, 1) ∧
    up.unitFaulty 0x8000 = false ∧ unitClass 0x8000 = 16 ∧ unitClass 0x080F = 1 ∧ unitClass 0x4001 = 8 ∧
    (let s : State := { up with health := { Health.reset with hearths := [(0, { HearthHealth.reset with faulty := [0] })] } }
     s.unitFaulty 0x8000 = true ∧ s.log.waiting = []) ∧
    (let s : State := { up with journal := { Journal.reset with target := some 2, state := 1 } }
     s.health.journalLost = false ∧ s.journal.target = some 2 ∧ s.journal.state = 1) ∧
    ({ Journal.reset with target := some 2, state := 2 } : Journal).state = 2 := by decide

def rep (time unit : Nat) : Report := ⟨0x0F, 0, unit, .value, 0, time, 0, 0, 0, none, none⟩
def logged (rs : List Report) : State := { up with log := ⟨[], 1025, 1000, rs⟩ }

/-- Reports 100 µs apart may still be logged in either order, those further apart may not. -/
theorem test_hyp_log : (logged [rep 100000 0, rep 0 0]).log.waiting[0]? = some (rep 100000 0) ∧
    (logged [rep 100000 0, rep 0 0]).log.admits 0 (rep 100000 0) = true ∧
    (rep 0 0 ∈ (logged [rep 100001 0, rep 0 0]).log.waiting.eraseIdx 0 ∧ (rep 0 0).time + 100000 < (rep 100001 0).time) ∧
    (let s := withPort (logged []) { livePort with ackLo := 1025 }
     s.portAnswers 0 = true ∧ s.log.ack ≤ 2 ^ 32 * (0 : W32).toNat + (s.port 0).ackLo.toNat ∧
       2 ^ 32 * (0 : W32).toNat + (s.port 0).ackLo.toNat ≤ s.log.head ∧ s.log.head < 2 ^ 32 * (1 : W32).toNat + (s.port 0).ackLo.toNat) := by decide

def withMbox (b : Mbox) : State := { up with mboxes := [(0, b)] }

theorem test_hyp_mailboxes : ((0x1001 : W32).getLsbD 0 = true ∧ (0x1001 : W32).getLsbD 5 = false ∧ (0x1001 : W32).getLsbD 6 = false) ∧
    (Mbox.reset.go = false ∧ (0x1001 : W32).toNat / 256 % 32 = 16 ∧ (0x1101 : W32).toNat / 256 % 32 = 17 ∧ (1 : W32).toNat / 256 % 32 = 0) ∧
    (let b : Mbox := { Mbox.reset with go := true, len := 1, tx := [(0, 1)] }
     (withMbox b).canTake 0 = true ∧ b.isEcho = true ∧ b.free = true) ∧
    (let b : Mbox := { Mbox.reset with go := true, len := 1, tx := [(0, 1)], dready := true }
     (withMbox b).canTake 0 = true ∧ b.isEcho = true ∧ b.free = false) ∧
    (let b : Mbox := { Mbox.reset with go := true, len := 1, tx := [(0, 9)] }
     (withMbox b).canTake 0 = true ∧ b.isEcho = false ∧ b.seg = none) ∧
    (up.served = true ∧ Mbox.reset.free = true ∧ Mbox.reset.seg = none ∧ ([1] : List W32) ≠ [] ∧ (List.replicate 16 (1 : W32)).length ≤ 16) ∧
    (let b : Mbox := { Mbox.reset with dready := true }
     (withMbox b).alive = true ∧ b.dready = true ∧ b.devLost = false ∧ b.seg = none) ∧ Mbox.reset.dready = false := by decide

theorem test_hyp_window : (let s := withPort up { livePort with busy := true }
     s.portAnswers 0 = true ∧ (s.port 0).busy = true) ∧ (up.port 0).busy = false ∧ up.served = true ∧ up.isSelf (up.port 0).odNode = true ∧
    isDomainObj 0x1001 1 = false ∧ (∃ b, ((up.objRead .bar0A 0x1001 1).2 = .ok b)) ∧ (up.objRead .bar0A 0x9999 1).2 = .error 0x10 ∧
    (∃ o, objInfo 0x2030 1 = some o ∧ ¬ (o.ty.isDomain = true ∧ o.acc = .wo)) ∧ (up.mbox 0).seg = none ∧ (up.mbox 0).free = true ∧
    (∃ b, (up.objRead .bar0A 0x1000 1).2 = .ok b ∧ b ≠ []) ∧
    (withPort up { livePort with xfer := some (.segWrite [] 0 0) }).port 0 = { livePort with xfer := some (.segWrite [] 0 0) } :=
  ⟨by decide, by decide, by decide, by decide, by decide, ⟨_, rfl⟩, rfl, ⟨_, rfl, by decide⟩, by decide, by decide, ⟨_, rfl, by decide⟩, by decide⟩

theorem test_hyp_window_remote : (let s := withPort { up with boot := { up.boot with manager := false } } { livePort with odNode := 7 }
     s.portAnswers 0 = true ∧ (s.port 0).busy = false ∧ s.served = true ∧ s.isSelf (s.port 0).odNode = false ∧ s.boot.manager = false) ∧
    isDomainObj 0x1000 1 = true := by decide

theorem test_hyp_registers : up.portAnswers 0 = true ∧ bar0At 0x14 = .unassigned ∧ bar0At 0x40000 = .slot 0 ∧ bar0At 0x4FFFC = .slot 0xFFFC ∧
    (0x1001 : W32).getLsbD 0 = true ∧ (up.mbox 0).go = false ∧ ((withMbox { Mbox.reset with go := true }).mbox 0).go = true := by decide

theorem test_hyp_bar2 : stackBytes ≤ stackBytes ∧ (stackBytes - 1 < stackBytes ∧ min 2 (stackBytes - (stackBytes - 1)) = 1) ∧
    (∃ t b, up.getBytes (2 ^ 36 * 0 + (stackBytes - 1)) 1 = (t, .ok b)) ∧
    (stagingBase ≤ stagingEnd - 1 ∧ stagingEnd - 1 + ([1] : List Byte).length ≤ stagingEnd) ∧ (0 : Nat) ∉ up.health.stacksFailed ∧
    (0 : Nat) ∈ ({ Health.reset with stacksFailed := [0] } : Health).stacksFailed ∧
    (([1] : List Byte) ≠ [] ∧ stagingBase - 1 + ([1] : List Byte).length ≤ stagingBase) :=
  ⟨by decide, by decide, ⟨_, _, rfl⟩, by decide, by decide, by decide, by decide⟩

/-! ## Management messages, functions, Finwell -/

def readMsg (node len : Nat) : MctpMsg := ⟨1, 5, node, 0x1001, 1, 0, len, 0, []⟩
def addressed (mgr : Bool) : State := { up with
  net := { up.net with i3c := 8 }
  boot := { up.boot with manager := mgr } }

theorem test_hyp_messages : ((addressed true).served = true ∧ (0 : Nat) ∉ (addressed true).health.proofersFailed ∧ (addressed true).net.i3c ≠ 0) ∧
    (¬ (up.served = true ∧ (0 : Nat) ∉ up.health.proofersFailed ∧ up.net.i3c ≠ 0)) ∧
    malformed (readMsg 0xFFFF 1024) = false ∧ malformed (readMsg 0xFFFF 1025) = true ∧
    (addressed true).isSelf 0xFFFF = true ∧ (addressed true).isSelf 7 = false ∧ (addressed true).boot.manager = true ∧
    (addressed false).boot.manager = false ∧ laneOp (readMsg 0xFFFF 1) = 1 ∧
    laneOp ⟨2, 5, 0xFFFF, 0x2030, 1, 0, 1, 0, [1]⟩ = 2 ∧
    (∃ b, ((addressed true).odRead .mctp 0x1001 1).2 = .ok b) ∧ ((addressed true).odRead .mctp 0x9999 1).2 = .error 0x10 ∧
    (let s : State := { up with net := { up.net with reportOpen := [⟨0, 4, 1⟩] } }
     s.net.reportOpen ≠ [] ∧ s.net.reportOpen = [⟨0, 4, 1⟩]) ∧
    (let s : State := { up with net := { up.net with lanes := [⟨7, 1, 0, []⟩] } }
     (s.net.lanes.find? fun l => l.node = 7) = some ⟨7, 1, 0, []⟩) ∧
    (let w : Forward := ⟨0, .mctp, 0, readMsg 7 1, 0⟩
     let s : State := { up with net := { up.net with forwards := [w] } }
     (s.net.forwards.find? fun w => w.tag = 0) = some w ∧ w.sess = .mctp) :=
  ⟨by decide, by decide, by decide, by decide, by decide, by decide, by decide, by decide, by decide, by decide, ⟨_, rfl⟩, rfl, by decide, by decide, by decide⟩

def frameOf (m : MctpMsg) : MctpFrame := ⟨0x7F, Config.mctpEnterprise.toNat, m⟩

/-- A frame that is taken, and one of another type; a forwarded request at the head of the answers to come. -/
theorem test_hyp_frames : ((addressed true).served = true ∧ (addressed true).net.i3c ≠ 0 ∧ (frameOf (readMsg 7 1)).mtype = 0x7F ∧
      (frameOf (readMsg 7 1)).enterprise = Config.mctpEnterprise.toNat) ∧ ({ frameOf (readMsg 7 1) with mtype := 0 } : MctpFrame).mtype ≠ 0x7F ∧
    (addressed true).net.mctpQueue = [] ∧
    (let n : Net := { up.net with mctpQueue := [⟨some 0, none⟩] }
     n.mctpQueue = ⟨some 0, none⟩ :: [] ∧ ∀ e ∈ ([] : List MctpTurn).head?, e.reply = none ∧ e.fwd ≠ some 0) :=
  ⟨⟨by decide, by decide, rfl, rfl⟩, by decide, by decide, by decide⟩

theorem test_hyp_trains : up.trains 0 = true ∧ ({ up with ports := [] } : State).configures 0 = false := by decide

theorem test_hyp_functions : up.configures 0 = true ∧ (up.port 0).held = [] ∧ ¬ ((16 : Nat) = 16 ∧ (32 : Nat) = 64 ∧ true = true) ∧
    (up.port 0).linkTries < 2 ∧ 2 ≤ ({ livePort with linkTries := 2 } : PortState).linkTries := by decide

def linked (l : Link) : State := { up with links := [(0, l)] }
def upLink : Link := { Link.reset with
  state := .up
  peer := 16
  credits := [4, 4, 4, 4] }
def stamped (ty dst addr tag : Nat) (data : List Byte) : BitVec 2048 := (flitOf ty 0 dst 1 addr tag data).stamp 0 0 false 0 0
def arrives (f : BitVec 2048) (ty : Nat) : Prop := Flit.crcOk f = true ∧ Flit.ty f = ty ∧ Flit.seq f = upLink.expected ∧ Flit.rsvd f = 0

theorem test_hyp_flit_commands : flitCommand (.idle 0 0) = some (0, 0, 0) ∧ flitCommand (.nodeMap 15 0) = some (15, 0, 7) ∧
    ((linked upLink).link 0).state = .up ∧ (linked upLink).power.rst ≠ .warmHeld ∧ Flit.crcOk (1 : BitVec 2048) = false ∧
    upLink.nakSent = false ∧ ({ upLink with nakSent := true } : Link).nakSent = true := by decide

theorem test_hyp_write_flit : arrives (stamped 1 0 stagingBase 0 [7]) 1 ∧ Flit.dst (stamped 1 0 stagingBase 0 [7]) = up.net.node ∧
    inStaging (Flit.address (stamped 1 0 stagingBase 0 [7])) (Flit.len (stamped 1 0 stagingBase 0 [7])) = true := by
  unfold arrives; decide

theorem test_hyp_refused_flit : arrives (stamped 1 0 0 0 [7]) 1 ∧
    inStaging (Flit.address (stamped 1 0 0 0 [7])) (Flit.len (stamped 1 0 0 0 [7])) = false := by
  unfold arrives; decide

theorem test_hyp_end_flit : arrives (stamped 2 0xFFFF stagingBase 3 (List.replicate 64 1)) 2 ∧
    inStaging (Flit.address (stamped 2 0xFFFF stagingBase 3 (List.replicate 64 1))) 64 = true ∧
    (1, 3) ∉ up.net.refused ∧ (1, 3) ∈ ({ up.net with refused := [(1, 3)] } : Net).refused := by
  unfold arrives; decide

/-- A transfer of the TRANSFER with tokens from 0 waits for its END_ACK. -/
def awaiting : State := { linked upLink with movers := [(128, { Mover.reset with
  active := [{ active (desc .hbm .finwell false) with endSent := some 0 }] })] }

theorem test_hyp_end_ack : arrives (stamped 3 0 0 0 [0]) 3 ∧ numAt (Flit.payload (stamped 3 0 0 0 [0])) 0 1 = 0 ∧
    awaiting.awaitingEnd (Flit.tag (stamped 3 0 0 0 [0])) = some (128, 0) := by
  unfold arrives; decide

theorem test_hyp_mgmt_flit : arrives (stamped 4 0 0 0 [0, 0, 9]) 4 ∧ numAt (Flit.data (stamped 4 0 0 0 [0, 0, 9])) 0 1 = 0 ∧
    numAt (Flit.data (stamped 4 0 0 0 [0, 0, 9])) 1 1 % 2 = 0 := by
  unfold arrives; decide

theorem test_hyp_map_flit : arrives (stamped 7 0xFFFF 0 0 [0, 1, 5]) 7 ∧ (addressed false).boot.manager = false ∧
    numAt (Flit.data (stamped 7 0xFFFF 0 0 [0, 1, 5])) 1 1 % 2 = 1 := by
  unfold arrives; decide

theorem test_hyp_hello_flit : arrives (stamped 6 0xFFFF 0 0 [0, 0, 16]) 6 := by
  unfold arrives; decide

/-- An END outside the staging area; HELLO of a second manager, of a new device, and of one whose number another has. -/
theorem test_hyp_refused_end : arrives (stamped 2 0xFFFF 0 3 (List.replicate 64 1)) 2 ∧
    inStaging (Flit.address (stamped 2 0xFFFF 0 3 (List.replicate 64 1))) 64 = false := by
  unfold arrives; decide

theorem test_hyp_hello_manager : arrives (stamped 6 0xFFFF 0 0 [1]) 6 ∧ numAt (Flit.payload (stamped 6 0xFFFF 0 0 [1])) 0 1 = 1 ∧
    arrives (stamped 6 0xFFFF 0 0 [0, 5]) 6 ∧ numAt (Flit.payload (stamped 6 0xFFFF 0 0 [0, 5])) 0 1 ≠ 1 ∧
    up.boot.manager = true ∧ up.boot.nodeStrap = 0 ∧
    (let serial := ((Flit.payload (stamped 6 0xFFFF 0 0 [0, 5])).drop 4).take 32
     (linked upLink).nodeFor 0 5 serial = 5 ∧ (5 : Nat) ≠ up.net.node ∧ (∀ c ∈ up.net.claims, ¬ (c.1 = 5 ∧ c.2 ≠ serial)) ∧
       ∃ c ∈ [((5 : Nat), ([1] : List Byte))], c.1 = 5 ∧ c.2 ≠ serial) := by
  unfold arrives; decide

/-- A worker with node number 17, one link from the manager's board: its peer, node 1, is its time parent. -/
def worker : State := { linked { upLink with peer := 1 } with
  boot := { up.boot with manager := false }
  net := { up.net with
    node := 17
    uplinks := [(17, 0, 1, 0)] } }

theorem test_hyp_time_flit : arrives (stamped 5 17 0 0 (List.replicate 24 0)) 5 ∧ worker.boot.manager = false ∧
    worker.timeParent = some (worker.peerNode 0) := by
  unfold arrives; decide

/-- A flit for another node; one out of sequence; one with a reserved field set; a relayed one. -/
theorem test_hyp_flit_order : arrives (stamped 1 7 0 0 [7]) 1 ∧ Flit.dst (stamped 1 7 0 0 [7]) ≠ 0xFFFF ∧ up.net.node ≠ 0xFFFF ∧
    Flit.dst (stamped 1 7 0 0 [7]) ≠ up.net.node ∧
    (let f := (flitOf 1 0 0 1 0 0 [7]).stamp 5 0 false 0 0; Flit.crcOk f = true ∧ Flit.seq f ≠ upLink.expected) ∧
    (let f := ((flitOf 1 0 0 1 0 0 [7]) ||| (1#2048 <<< 88)).stamp 0 0 false 0 0; Flit.crcOk f = true ∧ Flit.rsvd f ≠ 0) ∧
    arrives (stamped 0 0 0 0 []) 0 := by
  unfold arrives; decide

theorem test_hyp_links : up.alive = true ∧ (0 : Nat) ∉ up.health.finwellFailed ∧
    (let l : Link := { Link.reset with state := .training }
     l.retraining = false ∧ tget Domain.on up.power.fwGroup 0 ≠ .off ∧ (0 : Nat) / 8 ∉ up.health.proofersFailed) ∧
    (let l : Link := { upLink with replay := [(0, 0)], retrainTimes := List.replicate 14 0 }
     l.replay = (0, 0) :: [] ∧ (l.retrainTimes.filter fun t => decide ((0 : Nat) < t + 1000000000)).length < 15) ∧
    (let l : Link := { upLink with replay := [(0, 0)], retrainTimes := List.replicate 15 0 }
     15 ≤ (l.retrainTimes.filter fun t => decide ((0 : Nat) < t + 1000000000)).length) ∧
    (let l : Link := { Link.reset with state := .training, retraining := true }
     l.waiting = [] ∧ l.retrainsRow < 2 ∧ 2 ≤ ({ l with retrainsRow := 2 } : Link).retrainsRow) ∧
    (let s : State := { up with dict := (List.range 4).map fun k => (objKey (0x9000 + k) 3, 0) }
     s.leavenUp = true ∧ ∀ k, k < 4 → s.obj (0x9000 + 4 * 0 + k) 3 = 0) ∧
    (up.power.vaux33 = true ∧ up.boot.manager = true ∧ ({ up.time with lastPps := some 5 } : TimeBase).lastPps = some 5) := by decide

/-! ## Power, resets, start-up -/

def dictOf (l : List (Nat × Nat × Nat)) : Table Nat := l.map fun e => (objKey e.1 e.2.1, e.2.2)

theorem test_hyp_power : up.leavenUp = true ∧ 10 * (up.obj 0x8020 3 : Int) ≤ 950 ∧ up.fixedSupply = false ∧
    ({ up with dict := dictOf [(0x2140, 1, 1)] } : State).fixedSupply = true ∧ up.hearthBusy 0 = false ∧
    (choosing (some 0) none runningItem none).hearthBusy 0 = true ∧ up.vddFloor ≤ up.vddOf 0 ∧
    (let s : State := { up with power := { up.power with vdd := [(0, 655)] } }
     s.vddFloor + 5 ≤ s.vddOf 0) ∧ up.power.vin48 = true ∧ up.power.vaux33 = true ∧ (∀ e ∈ up.power.latched, e.1 ≠ 4) ∧
    up.power.tripped = false ∧ up.boot.supplyCell = none ∧
    ({ up with power := { up.power with vin48 := false } } : State).power.vin48 = false := by decide

def starting : State := { State.reset with power := { Power.reset with rst := .startWarm } }
def slot (version security : Nat) (ok : Bool) : BootSlot := ⟨ok, true, version, security⟩

theorem test_hyp_resets : up.alive = true ∧ up.coldStarting = false ∧ State.reset.alive = true ∧ State.reset.coldStarting = true ∧
    ({ up with power := { up.power with tripped := true } } : State).alive = false ∧
    (let s : State := { up with power := { up.power with rst := .warmHeld } }
     s.power.tripped = false ∧ s.power.rst = .warmHeld) ∧ up.power.rst ≠ .warmHeld ∧
    (10000 ≤ 10000 ∧ 999999999 < 1000000000 ∧ 9999 < 10000) ∧
    (State.reset.health.proofersFailed = [] ∧ State.reset.power.rst = .startCold ∧ starting.power.rst = .startWarm ∧
      State.reset.boot.dev = .bootRom ∧ (∀ e ∈ State.reset.boot.verified, e.1 ≠ 0)) ∧
    (bootChoice 0 (slot 1 0 true) (slot 1 0 true)).isSome = true ∧ bootChoice 1 (slot 1 0 true) (slot 1 0 false) = none ∧
    ((([(0, none)] : List (Nat × Option Nat)).find? fun e => e.1 = 1 - 1).map (·.2)) = some none ∧
    (let s : State := { starting with boot := { Boot.reset with dev := .leavenUp, leavenRuns := true } }
     s.leavenUp = true ∧ s.boot.dev = .leavenUp ∧ s.boot.manager = true ∧ ¬ (s.net.hasMap = true ∧ s.time.locked = true)) := by decide

theorem test_hyp_idle_hearths : up.hearthRuns 0 = true ∧ up.partOf 0 = some 0 ∧ up.logicOf 0 = .on ∧ (up.part 0).current = none ∧
    ({ up with parts := [] } : State).partOf 0 = none ∧ Core.reset.power = .on := by decide

theorem test_hyp_free_hearth : ({ up with parts := [(0, { Part.reset with map := 2, mapC := ~~~2 })] } : State).partOf 0 = none ∧
    ({ up with parts := [(0, { Part.reset with map := 2, mapC := ~~~2 })] } : State).logicOf 0 = .on ∧
    (choosing (some 0) none runningItem none).partOf 0 = some 0 ∧ ((choosing (some 0) none runningItem none).part 0).current.isSome = true ∧
    ¬ (up.net.hasMap = true ∧ up.time.locked = true ∧ up.time.syncState = 2) := by decide

/-! ## Results that the manual's worked examples state -/

/-- Table 3-4. -/
theorem test_rounding_example : roundShift 4096000 16 .rhe 0 = 62 ∧ roundShift (-4096000) 16 .rhe 0 = -62 ∧ roundShift 12288000 16 .rhe 0 = 188 ∧
    roundShift 4096000 16 .sr 0x7FFF00001234 = 63 ∧ roundShift (-4096000) 16 .sr 0x7FFF00001234 = -62 ∧
    roundShift 4096000 16 .sr 0x800000000000 = 62 ∧ (convInt 0x07 ⟨12288000, -16⟩ .rhe 0).1 = 127 ∧
    (convInt 0x07 ⟨12288000, -16⟩ .rhe 0).2.sat = 1 := by decide

/-- "Choosing and applying a rescale". -/
theorem test_rescale_example : roundShift (2345 * 51590) 22 .rhe 0 = 29 := by decide

/-- Table 3-2: the bfloat16 block to BI4. -/
theorem test_block_example : (let vs := [0x4050, 0xC020, 0x3F40, 0x3EE0, 0x3DC0].map fun c => ((bfDy c).1, true, 0)
     let out := convBlock 0x43 (vs ++ List.replicate 27 (Dy.zero, true, 0)) .rhe
     out.1 = -1 ∧ out.2.1.take 6 = [6, 11, 2, 1, 0, 0] ∧ out.2.2.under = 1 ∧ out.2.2.sat = 0) := by decide

/-- Table 4-2. -/
theorem test_alignment_example : alignTo false 1000 (-4) (-6) = (4000, .exact) ∧ alignTo false (-3003) (-8) (-6) = (-751, .inexact) ∧
    alignTo false 518 (-9) (-6) = (65, .inexact) ∧ alignTo false 23 (-7) (-6) = (12, .inexact) ∧
    (addBlocks false (-6) Entry.reset [(1000, -4), (-3003, -8), (518, -9), (23, -7)]).val = 3326 := by decide

/-- Table 2-3: plane counts by row-group and the pass length. -/
theorem test_plane_example : [5, -7, -2, 1, 0, 3].map (planeCount 0x03) = [4, 4, 2, 2, 0, 3] := by decide

/-- The example of Table 5-3a: bounds after step 1, after step 2, and after step 1 with q = 8. -/
theorem test_bounds_example : (let r : OpRec := word 1024 [(0, 1), (88, 3), (96, 3), (104, 7)]
     let t : Tile := { tile0 with wneg := [[-4, -6, -2, -5]], wpos := [[12, 10, 8, 6]] }
     let v : FedVec := ⟨0, [], [], [4, 4, 4, 4], []⟩
     (entryBounds r t v 4 1 0 [-11, -9, -6, -4] false 0 Entry.reset 0).2 = 12 ∧
     (entryBounds r t v 4 2 0 [-20, -18, -7, -9] false 0 Entry.reset 0).2 = -108 ∧
     (entryBounds r t v 4 1 0 [-11, -9, -6, -4] true 8 Entry.reset 0).2 = -114) := by decide

/-- The three messages to node 7 add exactly in the fold. -/
theorem test_scatter_example : sumFold false [⟨7, 2, -400000000, false⟩, ⟨7, 0, 2000000000, false⟩, ⟨7, 1, 300000000, false⟩] =
    [⟨7, 0, 1900000000, false⟩] := by decide

/-- The last column of Table 14-5. -/
def digits : List Byte := [0x31, 0x32, 0x33, 0x34, 0x35, 0x36, 0x37, 0x38, 0x39]
theorem test_crc_catalogue : crcOf crc32c digits = 0xE3069283 ∧ crcOf crc32iso digits = 0xCBF43926 ∧
    crcOf crc64xz digits = 0x995DC9BBDF1939FA ∧ crcOf crc16ibm digits = 0x29B1 ∧ crcRun crc32c (crcInit crc32c) digits = 0x1CF96D7C ∧
    crcBytes crc32c (crcOf crc32c digits) = [0x83, 0x92, 0x06, 0xE3] := by decide

/-- Entry 9 of "a bank goes off and returns". -/
theorem test_handle_example : (let h := Handle.stamp 0x0001FF10000F0033 0x2A
     h.value = 0x02A1FF10000F0033 ∧ h.comp = 0xFD5E00EFFFF0FFCC ∧ h.bytes = 131072 ∧ h.locate (28488 / 8) = (5, 367, 1)) := by decide

/-! ## Single steps -/

def read {α : Type} (r : Result) (f : State → α) : Option α :=
  match r with
  | .next s => some (f s)
  | _ => none

theorem test_step_serves_front : read (step { up with pending := [.ref100 false, .ref100 true] }) (fun s => (s.time.ref100, s.pending)) =
    some (false, [.ref100 true]) := by decide

theorem test_step_ticks : read (step up) (fun s => s.time.now) = some 1 := by decide

/-- The maps of Table 12-6, written in its order and in the other. -/
theorem test_partition_example :
    read (exec (.partitionMapWrite .mctp 0 0x0000FF33 0xFFFF00CC) (privileged up)) (fun s => (s.part 0).map) = some 0x0000FF33 ∧
    read (exec (.partitionMapWrite .mctp 2 0x000000CC 0xFFFFFF33) (privileged up)) (fun s => ((s.part 2).map, s.log.waiting.map (·.code))) =
      some (0, [0x0F]) ∧
    read (exec (.partitionMapWrite .mctp 0 0x0000FF33 0xFFFF00CC) up) (fun s => (s.part 0).map) = some 0x0000FFFF := by decide

/-- READ of 0x1001.01 at time 20 of Table 12-6: DONE, LENGTH 1, READY. -/
theorem test_read_example : read (exec (.read 0 0x1001 1) up) (fun s => ((s.port 0).done, (s.port 0).length, (s.port 0).dataLo)) =
    some (true, 1, 3) := by decide

theorem test_handle_write : read (exec (.handleWrite k0 9 0x0001FF10000F0033 0xFFFE00EFFFF0FFCC) (withCore { Core.reset with epoch := 0x2A }))
      (fun s => ((s.core 0).handle 9).value) = some 0x02A1FF10000F0033 ∧
    read (exec (.handleWrite k0 0 0x0001FF10000F0033 0xFFFE00EFFFF0FFCC) up) (fun s => s.log.waiting.map (·.code)) = some [0x02] := by decide

theorem test_off_request : read (exec (.offRequest k0 (.bank 12)) up) (fun s => ((s.core 0).bank 12).power) = some .closingOff := by decide

theorem test_bank_return_wraps : read (exec (.bankReturn k0 (.bank 0)) (withCore { Core.reset with
      epoch := 255
      banks := [(0, { Bank.reset with power := .off, returning := true })] })) (fun s => ((s.core 0).epoch, ((s.core 0).bank 0).power)) =
    some (0, .awake) := by decide

theorem test_scrub_corrects : read (exec (.scrubRead k0 0 0 1 none false) { withBank { Bank.reset with inPass := true } with scratch := [(wordKey 0 0 0 1, .flipped 5)] })
      (fun s => (s.word (wordKey 0 0 0 1), ((s.core 0).bank 0).ceCount)) = some (.clean 5, 1) := by decide

theorem test_doorbell_keeps_target : read (exec (.doorbell 0 0 5) (withCtx up { Context.reset with target := 7 })) (fun s => (s.ctx 0).target) =
    some 7 := by decide

theorem test_start_stop : read (exec (.start .mctp 0) (mode0 .stopped)) (fun s => (s.ctx 0).mode) = some .running ∧
    read (exec (.stop .mctp 0) (mode0 .running)) (fun s => (s.ctx 0).mode) = some .stopped ∧
    read (exec (.reset .mctp 0) (mode0 .stopped)) (fun s => s.log.waiting.map (·.code)) = some [0x0F] := by decide

theorem test_echo : read (exec (.echo 0) (withMbox { Mbox.reset with go := true, len := 2, tx := [(0, 1), (1, 9)] }))
      (fun s => ((s.mbox 0).go, (s.mbox 0).dready, (s.mbox 0).dlen, (s.mbox 0).rx)) = some (false, true, 2, [1, 9]) := by decide

theorem test_ack_window : read (exec (.ack .mctp 1025) (logged [])) (fun s => s.log.ack) = some 1025 ∧
    read (exec (.ack .mctp 1026) (logged [])) (fun s => s.log.ack) = some 1000 := by decide

theorem test_log_entry : read (exec (.errorLogEntry 0) (logged [rep 0 0])) (fun s => (s.log.head, s.log.waiting)) = some (1026, []) := by decide

theorem test_core_failure : read (exec (.coreFailure k0 1) up) (fun s => ((s.hearth 0).faulty, s.health.generation, s.boot.persistent)) =
    some ([0], 1, [(0x8000, 1)]) := by decide

theorem test_write_flit : read (exec (.writeFlit 0 (stamped 1 0 stagingBase 0 [7])) (linked upLink)) (fun s => match (s.getBytes stagingBase 1).2 with
      | .ok b => b
      | .error _ => []) = some [7] := by decide

theorem test_trip : read (exec (.thermTripN 0 1050) up) (fun s => (s.power.tripped, s.logicOf 15)) = some (true, .off) ∧
    read (exec (.thermTripN 0 1049) up) (fun s => s.power.tripped) = some false := by decide

theorem test_cold_reset : read (exec (.coldReset { pins with nodeId := 5 }) up) (fun s => (s.boot.manager, s.boot.nodeStrap, s.boot.dev)) =
    some (true, 5, .bootRom) := by decide

end Sys2Proof.Tests
end

section
/-!
PROOFS. The host's accesses (R4, R6, R266, R268, R270, R272): where a BAR0 address falls, what a write of BAR0 does there, and
what BAR2 shows and takes of its stack.
-/
namespace Sys2Proof.Machine

/-! ## A function that answers, and one that does not -/

section
variable {port : PortNo} {s : State}

theorem exec_registerWrite_of_answers (h : s.portAnswers port.val = true) (off : Nat) (v : W32) :
    exec (.registerWrite port off v) s = .next (s.bar0Write port.val off v) := by
  simp [exec, execRegisterWrite, h]

theorem exec_registerWrite_of_silent (h : s.portAnswers port.val = false) (off : Nat) (v : W32) :
    exec (.registerWrite port off v) s = .next s := by
  simp [exec, execRegisterWrite, h]

theorem exec_unassignedAccess_of_answers (h : s.portAnswers port.val = true) (off : Nat) :
    exec (.unassignedAccess port off) s = .next (s.denyBar0 (unitPcie port.val) off) := by
  simp [exec, execUnassignedAccess, h]

theorem exec_unassignedAccess_of_silent (h : s.portAnswers port.val = false) (off : Nat) :
    exec (.unassignedAccess port off) s = .next s := by
  simp [exec, execUnassignedAccess, h]

theorem exec_elogAckHi_of_answers (h : s.portAnswers port.val = true) (v : W32) :
    exec (.elogAckHi port v) s = .next (s.elogAckHi port.val v) := by
  simp [exec, execElogAckHi, h]

theorem exec_doorbell_of_answers (h : s.portAnswers port.val = true) (c : CtxNo) (d : W32) :
    exec (.doorbell port c d) s = .next (s.doorbell c.val d) := by
  simp [exec, execDoorbell, h]

theorem exec_go_of_answers (h : s.portAnswers port.val = true) (m : MboxNo) (v : W32) :
    exec (.go port m v) s = .next (s.ctrlWrite m.val (v ||| 1)) := by
  simp [exec, execGo, h]

theorem exec_bar2Read_of_answers (h : s.portAnswers port.val = true) (off n : Nat) :
    exec (.bar2Read port off n) s = .next (s.bar2Read port.val off n) := by
  simp [exec, execBar2Read, h]

theorem exec_bar2Write_of_answers (h : s.portAnswers port.val = true) (off : Nat) (data : List Byte) (poisoned : Bool) :
    exec (.bar2Write port off data poisoned) s = .next (s.bar2Write port.val off data poisoned) := by
  simp [exec, execBar2Write, h]

end

/-- A refused access adds one ACCESS_DENIED with its unit and address to what waits to be logged, and does nothing else. -/
theorem denied_of_exec_eq_deny {i : Instr} {s : State} {unit a : Nat} {k : AddrKind} (h : exec i s = .next (s.deny unit k a)) :
    ∃ rep : Report, exec i s = .next (s.report rep) ∧ rep.code = 0x0F ∧ rep.unit = unit ∧ rep.addrKind = k ∧ rep.address = a :=
  ⟨plainReport cDenied unit k a, h, rfl, rfl, rfl, rfl⟩

/-! ## Where a BAR0 address falls (Table 13-3) -/

theorem bar0At_readOnlyDevice {off : Nat} (h : off ∈ [0x00, 0x04, 0x08, 0x0C]) : bar0At off = .device off ∧ off ≠ 0x10 := by
  revert off; decide

theorem bar0At_bar2Stack : bar0At 0x10 = .device 0x10 := by decide

theorem bar0At_elogAckLo : bar0At 0x20008 = .elog 0x08 := by decide

theorem bar0At_elogAckHi : bar0At 0x2000C = .elog 0x0C := by decide

theorem bar0At_doorbell (c : CtxNo) : bar0At (0x100000 + 4 * c.val) = .doorbell c.val := by
  have hc := c.isLt
  unfold bar0At offWindow
  iterate 6 rw [if_neg (by omega)]
  rw [if_pos (by omega), Nat.add_sub_cancel_left, Nat.mul_div_cancel_left _ (by decide)]

/-- The registers of a mailbox are its words up to CTRL at 0x80 (Table 13-6). -/
theorem bar0At_mailbox (m : MboxNo) {r : Nat} (h4 : r % 4 = 0) (hr : r ≤ 0x80) :
    bar0At (0x80000 + 0x100 * m.val + r) = .mailbox m.val r := by
  have hm := m.isLt
  have hrel : (0x80000 + 0x100 * m.val + r) % 256 = r := by omega
  have hnum : (0x80000 + 0x100 * m.val + r - 0x80000) / 256 = m.val := by omega
  unfold bar0At offWindow
  iterate 5 rw [if_neg (by omega)]
  rw [if_pos (by omega), hrel, hnum, if_pos hr]

/-! ## What a write of BAR0 does there -/

section
variable (s : State) (p : Nat) (v : W32)

theorem State.bar0Write_unassigned_or_slot {off : Nat} (h : bar0At off = .unassigned ∨ ∃ r, bar0At off = .slot r) :
    s.bar0Write p off v = s.denyBar0 (unitPcie p) off := by
  obtain h | ⟨r, h⟩ := h <;> simp only [State.bar0Write, h]

/-- The registers of Table 13-4 below BAR2_STACK are read-only. -/
theorem State.bar0Write_readOnlyDevice {off : Nat} (h : off ∈ [0x00, 0x04, 0x08, 0x0C]) : s.bar0Write p off v = s := by
  obtain ⟨hat, hne⟩ := bar0At_readOnlyDevice h
  -- hne rules out the arm of BAR2_STACK
  simp only [State.bar0Write, hat]

theorem State.bar0Write_bar2Stack : s.bar0Write p 0x10 v = s.setPort p { s.port p with bar2Stack := v.toNat % 16 } := by
  simp only [State.bar0Write, bar0At_bar2Stack]

theorem State.bar0Write_elogAckLo : s.bar0Write p 0x20008 v = s.setPort p { s.port p with ackLo := v } := by
  simp only [State.bar0Write, bar0At_elogAckLo, State.elogWriteReg]

theorem State.bar0Write_elogAckHi : s.bar0Write p 0x2000C v = s.elogAckHi p v := by
  simp only [State.bar0Write, bar0At_elogAckHi, State.elogWriteReg]

theorem State.bar0Write_doorbell (c : CtxNo) : s.bar0Write p (0x100000 + 4 * c.val) v = s.doorbell c.val v := by
  simp only [State.bar0Write, bar0At_doorbell]

theorem State.bar0Write_mailbox (m : MboxNo) {r : Nat} (h4 : r % 4 = 0) (hr : r ≤ 0x80) :
    s.bar0Write p (0x80000 + 0x100 * m.val + r) v = s.mboxWriteReg m.val r v := by
  simp only [State.bar0Write, bar0At_mailbox m h4 hr]

/-- Setting GO in a value that has it changes nothing. -/
theorem or_one_of_getLsbD_zero {v : W32} (h : v.getLsbD 0 = true) : v ||| 1 = v := by
  refine BitVec.eq_of_getLsbD_eq fun i hi => ?_
  rcases i with _ | i
  · simp [h]
  · simp [BitVec.getLsbD_one]

theorem State.bar0Write_ctrl (m : MboxNo) : s.bar0Write p (0x80080 + 0x100 * m.val) v = s.ctrlWrite m.val v := by
  have hoff : 0x80080 + 0x100 * m.val = 0x80000 + 0x100 * m.val + 0x80 := by omega
  rw [hoff, State.bar0Write_mailbox s p v m (by decide) (le_refl _)]
  rfl

/-- A word of TX takes the value while GO is clear, and is refused under GO (R272). -/
theorem State.bar0Write_tx (m : MboxNo) {w : Nat} (hw : w < 16) :
    s.bar0Write p (0x80000 + 0x100 * m.val + 4 * w) v =
      if (s.mbox m.val).go then s.denyBar0 (unitMailbox m.val) (0x80000 + 0x100 * m.val + 4 * w)
      else s.setMbox m.val { s.mbox m.val with tx := tset 0 (s.mbox m.val).tx w v } := by
  have hin : 4 * w < 0x40 := by omega
  have hword : 4 * w / 4 = w := Nat.mul_div_cancel_left w (by decide)
  rw [State.bar0Write_mailbox s p v m (Nat.mul_mod_right 4 w) (by omega), State.mboxWriteReg]
  simp only [hin, if_true, hword, State.denyMbox, offMailbox]

end

/-! ## Reads of BAR2 (R266) -/

theorem State.bar2Read_beyond (s : State) (p n : Nat) {off : Nat} (h : stackBytes ≤ off) :
    s.bar2Read p off n = s.answerRead p (List.replicate n 0) := by
  simp [State.bar2Read, Nat.sub_eq_zero_of_le h]

/-- A read of bytes that can be had shows the newest records of the journal over them (R220). -/
theorem State.stackRead_of_getBytes {s t : State} {a n : Nat} {b : List Byte} (h : s.getBytes a n = (t, .ok b)) :
    s.stackRead a n = ((b.zip (List.range b.length)).map fun (x, i) => (t.journalByte (a + i)).getD x, t) := by
  simp only [State.stackRead, h]

theorem State.bar2Read_within {s t : State} {p off n : Nat} {b : List Byte} (hoff : off < stackBytes) (hn : 0 < n)
    (h : s.getBytes (hbmAddr (s.port p).bar2Stack off) (min n (stackBytes - off)) = (t, .ok b)) :
    s.bar2Read p off n = t.answerRead p
      (((b.zip (List.range b.length)).map fun (x, i) => (t.journalByte (hbmAddr (s.port p).bar2Stack off + i)).getD x)
        ++ List.replicate (n - min n (stackBytes - off)) 0) := by
  have hne : min n (stackBytes - off) ≠ 0 := by omega
  simp only [State.bar2Read, if_neg hne, State.stackRead_of_getBytes h]

/-! ## Writes of BAR2 (R266, R268) -/

theorem State.stackWrite_nil (s : State) (a : Nat) : s.stackWrite a [] = s := rfl

theorem State.stackPoison_zero (s : State) (a : Nat) : s.stackPoison a 0 = s := rfl

/-- A write within the staging area goes there whole. -/
theorem stagedPart_within {off : Nat} {data : List Byte} (hlo : stagingBase ≤ off) (hhi : off + data.length ≤ stagingEnd) :
    stagedPart off data = (off, data) := by
  simp [stagedPart, max_eq_left hlo, min_eq_left hhi]

theorem discardedAt_within {off n : Nat} (hlo : stagingBase ≤ off) (hhi : off + n ≤ stagingEnd) : discardedAt off n = none := by
  simp [discardedAt, Nat.not_lt.mpr hlo, Nat.not_lt.mpr hhi]

/-- No byte of a write outside the staging area goes there. -/
theorem stagedPart_outside {off : Nat} {data : List Byte} (h : off + data.length ≤ stagingBase ∨ stagingEnd ≤ off) :
    (stagedPart off data).2 = [] := by
  have hnone : min (off + data.length) stagingEnd - max off stagingBase = 0 := by omega
  simp [stagedPart, hnone]

/-- The first byte that a write outside the staging area discards is its first byte. -/
theorem discardedAt_outside {off n : Nat} (hn : 0 < n) (h : off + n ≤ stagingBase ∨ stagingEnd ≤ off) :
    discardedAt off n = some off := by
  unfold discardedAt
  obtain h | h := h
  · rw [if_pos (by omega)]
  · have hbase : stagingBase < stagingEnd := by decide
    rw [if_neg (by omega), if_pos (by omega), max_eq_left h]

theorem State.bar2Write_within (s : State) (p : Nat) {off : Nat} {data : List Byte} (poisoned : Bool)
    (hlo : stagingBase ≤ off) (hhi : off + data.length ≤ stagingEnd) :
    s.bar2Write p off data poisoned =
      if (s.port p).bar2Stack ∈ s.health.stacksFailed then s
      else if poisoned then s.stackPoison (hbmAddr (s.port p).bar2Stack off) data.length
      else s.stackWrite (hbmAddr (s.port p).bar2Stack off) data := by
  simp only [State.bar2Write, stagedPart_within hlo hhi, discardedAt_within hlo hhi]

theorem State.bar2Write_outside (s : State) (p : Nat) {off : Nat} {data : List Byte} (poisoned : Bool) (hne : data ≠ [])
    (h : off + data.length ≤ stagingBase ∨ stagingEnd ≤ off) :
    s.bar2Write p off data poisoned = s.deny (unitStack (s.port p).bar2Stack) .hbm (hbmAddr (s.port p).bar2Stack off) := by
  simp only [State.bar2Write, discardedAt_outside (List.length_pos_iff.mpr hne) h, stagedPart_outside h, List.length_nil,
    State.stackPoison_zero, State.stackWrite_nil, ite_self]

/-! ## O52 -/

/-- Settles O52: each kind of access by the rule of its own, BAR0 by the region it falls in, BAR2 by the part of the stack. -/
theorem theHostsAccessesReachTheirTargets : Obligations.TheHostsAccessesReachTheirTargets := by
  unfold Obligations.TheHostsAccessesReachTheirTargets
  refine ⟨fun port v s => ⟨fun hs off => ⟨exec_registerWrite_of_silent hs off v, exec_unassignedAccess_of_silent hs off⟩,
    fun ha => ?bar0⟩, fun port off s ha => ?bar2⟩
  case bar0 =>
    have write := fun off => exec_registerWrite_of_answers ha off v
    refine ⟨?unassigned, ?refused, ?readOnly, ?bar2Stack, ?ackLo, ?ackHi, ?doorbell, fun m => ⟨?go, fun w hw => ⟨?txFree, ?txUnderGo⟩⟩⟩
    case unassigned => exact fun off => denied_of_exec_eq_deny (exec_unassignedAccess_of_answers ha off)
    case refused =>
      intro off hat
      exact denied_of_exec_eq_deny ((write off).trans (by rw [State.bar0Write_unassigned_or_slot s _ v hat]; rfl))
    case readOnly => intro off hoff; rw [write, State.bar0Write_readOnlyDevice s _ v hoff]
    case bar2Stack => rw [write, State.bar0Write_bar2Stack]
    case ackLo => rw [write, State.bar0Write_elogAckLo]
    case ackHi => rw [write, State.bar0Write_elogAckHi, exec_elogAckHi_of_answers ha]
    case doorbell => intro c; rw [write, State.bar0Write_doorbell, exec_doorbell_of_answers ha]
    case go => intro hgo; rw [write, State.bar0Write_ctrl, exec_go_of_answers ha, or_one_of_getLsbD_zero hgo]
    case txFree => intro hgo; rw [write, State.bar0Write_tx s _ v m hw, if_neg (by rw [hgo]; exact Bool.false_ne_true)]
    case txUnderGo =>
      intro hgo
      exact denied_of_exec_eq_deny ((write _).trans (by rw [State.bar0Write_tx s _ v m hw, hgo, if_pos rfl]; rfl))
  case bar2 =>
    have write := exec_bar2Write_of_answers ha off
    refine ⟨?beyond, ?within, ?staged, ?failed, ?outside⟩
    case beyond => intro n hoff; rw [exec_bar2Read_of_answers ha, State.bar2Read_beyond s _ n hoff]; rfl
    case within =>
      intro n t b hoff hn hget
      rw [exec_bar2Read_of_answers ha, State.bar2Read_within hoff hn hget]; rfl
    case staged =>
      intro data hlo hhi hok
      constructor
      · rw [write, State.bar2Write_within s _ false hlo hhi, if_neg hok, if_neg Bool.false_ne_true]; rfl
      · rw [write, State.bar2Write_within s _ true hlo hhi, if_neg hok, if_pos rfl]; rfl
    case failed =>
      intro data poisoned hlo hhi hbad
      rw [write, State.bar2Write_within s _ poisoned hlo hhi, if_pos hbad]
    case outside =>
      intro data poisoned hne hout
      obtain ⟨rep, hrep, hcode, -, hkind, haddr⟩ := denied_of_exec_eq_deny
        ((write data poisoned).trans (by rw [State.bar2Write_outside s _ poisoned hne hout]))
      exact ⟨rep, hrep, hcode, hkind, haddr⟩

end Sys2Proof.Machine
end

section
/-!
PROOFS. The exact dot products of a pass (R21 to R24, R28, R107): a register that takes the planes of its row-group from the
top plane down holds, after plane p, the dot product of the activations' parts above their low p bits.
-/
namespace Sys2Proof.Machine

/-! ## Planes of one value (R21, R22) -/

theorem lt_two_pow_bitLength (x : Nat) : x < 2 ^ bitLength x := by
  unfold bitLength
  split
  · next h => simp [h]
  · exact Nat.lt_log2_self

/-- n planes are enough for a value of a format (R22). -/
def PlanesHold (f n : Nat) (x : Int) : Prop := planeCount f x ≤ n ∧ (fmtSigned f = false → 0 ≤ x)

theorem fmtKind_of_unsigned {f : Nat} (h : fmtSigned f = false) : fmtKind f = kUn := by
  simpa [fmtSigned] using h

theorem not_isB1_of_unsigned {f : Nat} (h : fmtSigned f = false) : fmtIsB1 f = false := by
  simp [fmtIsB1, fmtKind_of_unsigned h, kUn, kB1, kBI]

theorem planesHold_unsigned {f n : Nat} {x : Int} (hs : fmtSigned f = false) (h : PlanesHold f n x) : 0 ≤ x ∧ x < 2 ^ n := by
  obtain ⟨hcount, hpos⟩ := h
  have h0 := hpos hs
  refine ⟨h0, ?_⟩
  by_cases hx : x = 0
  · simp [hx]
  have hlen : bitLength x.toNat ≤ n := by simpa [planeCount, not_isB1_of_unsigned hs, hs, hx] using hcount
  have hlt : x.toNat < 2 ^ n := (lt_two_pow_bitLength _).trans_le (Nat.pow_le_pow_right (by decide) hlen)
  exact (Int.toNat_lt h0).mp hlt |>.trans_eq (by push_cast; rfl)

theorem planesHold_signed {f n : Nat} {x : Int} (hb : fmtIsB1 f = false) (hs : fmtSigned f = true) (h : PlanesHold f (n + 1) x) :
    -2 ^ n ≤ x ∧ x < 2 ^ n := by
  have hpow : (1 : Int) ≤ 2 ^ n := one_le_pow₀ (by decide)
  have below {y : Int} (h0 : 0 ≤ y) (hlen : bitLength y.toNat + 1 ≤ n + 1) : y < 2 ^ n := by
    have hlt : y.toNat < 2 ^ n := (lt_two_pow_bitLength _).trans_le (Nat.pow_le_pow_right (by decide) (by omega))
    exact (Int.toNat_lt h0).mp hlt |>.trans_eq (by push_cast; rfl)
  have hcount := h.1
  simp only [planeCount, hb, hs, if_true, Bool.false_eq_true, if_false] at hcount
  split at hcount
  · omega
  · split at hcount
    · have := below (by omega) hcount; omega
    · have := below (y := -x - 1) (by omega) hcount; omega

theorem eq_zero_of_planesHold_zero {f : Nat} {x : Int} (h : PlanesHold f 0 x) : x = 0 := by
  cases hs : fmtSigned f
  · have := planesHold_unsigned hs h; omega
  · by_contra hx
    have hcount := h.1
    simp only [planeCount, hs, hx, if_true, if_false] at hcount
    split at hcount
    · omega
    · split at hcount <;> omega

/-- The top plane of a signed value counts negative. -/
theorem ediv_two_pow_signed {n : Nat} {x : Int} (h : -2 ^ n ≤ x ∧ x < 2 ^ n) : x / 2 ^ n = -(x / 2 ^ n % 2) := by
  have hpow : (0 : Int) < 2 ^ n := by positivity
  have hlo : -1 ≤ x / 2 ^ n := (Int.le_ediv_iff_mul_le hpow).mpr (by omega)
  have hhi : x / 2 ^ n < 1 := (Int.ediv_lt_iff_lt_mul hpow).mpr (by omega)
  omega

theorem ediv_two_pow_unsigned {n : Nat} {x : Int} (h : 0 ≤ x ∧ x < 2 ^ (n + 1)) : x / 2 ^ n = x / 2 ^ n % 2 := by
  have hpow : (0 : Int) < 2 ^ n := by positivity
  have hlo : 0 ≤ x / 2 ^ n := (Int.le_ediv_iff_mul_le hpow).mpr (by omega)
  have hhi : x / 2 ^ n < 2 := (Int.ediv_lt_iff_lt_mul hpow).mpr (by rw [← pow_succ']; exact h.2)
  omega

theorem ediv_two_pow_succ (x : Int) (p : Nat) : x / 2 ^ p = 2 * (x / 2 ^ (p + 1)) + x / 2 ^ p % 2 := by
  rw [pow_succ, ← Int.ediv_ediv_of_nonneg (by positivity)]
  omega

/-! ## The steps of a pass (R24) -/

theorem foldl_max_le_iff (l : List Nat) {a n : Nat} : l.foldl max a ≤ n ↔ a ≤ n ∧ ∀ x ∈ l, x ≤ n := by
  induction l generalizing a with
  | nil => simp
  | cons x l ih => rw [List.foldl_cons, ih, List.forall_mem_cons, max_le_iff, and_assoc]

theorem FedVec.planes_le_len (v : FedVec) (g : Nat) : v.planes.getD g 0 ≤ v.len := by
  by_cases hg : g < v.planes.length
  · rw [List.getD_eq_getElem _ _ hg]
    exact ((foldl_max_le_iff v.planes).mp le_rfl).2 _ (List.getElem_mem hg)
  · rw [List.getD_eq_default _ _ (by omega)]
    exact Nat.zero_le _

/-! ## Sums over the rows of a row-group (Table 2-2) -/

section
variable (b : Binding) (r : OpRec) (t : Tile) (v : FedVec) (col g : Nat)

/-- The sum of a row-group in a column, with what each row drives in terms of its activation. -/
def rowSum (drive : Int → Int) : Int :=
  ((List.range 16).map fun d =>
    let ai := t.actOf r (16 * g + d) col
    match t.weight b r (16 * g + d) col with
    | some w => if v.active.getD ai false then drive (v.values.getD ai 0) * w else 0
    | none => 0).sum

/-- The dot product with the activations' parts above their low p bits. -/
def highDot (p : Nat) : Int := rowSum b r t v col g fun x => x / 2 ^ p

theorem planeSum_eq_rowSum (p : Nat) : planeSum b r t v col g p = rowSum b r t v col g fun x => planeBit r.aFmt x p := rfl

theorem groupDot_eq_rowSum : groupDot b r t v col g = rowSum b r t v col g fun x => x := rfl

theorem groupDot_eq_highDot : groupDot b r t v col g = highDot b r t v col g 0 := by
  simp [groupDot_eq_rowSum, highDot]

/-- Each row of the group that is driven meets a test of its activation. -/
def DrivenRows (P : Int → Prop) : Prop :=
  ∀ d < 16, v.active.getD (t.actOf r (16 * g + d) col) false = true → P (v.values.getD (t.actOf r (16 * g + d) col) 0)

variable {b r t v col g}

theorem rowSum_congr {f h : Int → Int} (H : DrivenRows r t v col g fun x => f x = h x) :
    rowSum b r t v col g f = rowSum b r t v col g h := by
  unfold rowSum
  congr 1
  refine List.map_congr_left fun d hd => ?_
  dsimp only
  split
  · split
    · next hact => rw [H d (List.mem_range.mp hd) hact]
    · rfl
  · rfl

theorem rowSum_zero : rowSum b r t v col g (fun _ => 0) = 0 := by
  simp only [rowSum, zero_mul, ite_self]
  exact List.sum_eq_zero fun x hx => by
    obtain ⟨d, -, rfl⟩ := List.mem_map.mp hx
    split <;> rfl

theorem rowSum_mul_add (c : Int) (f h : Int → Int) :
    rowSum b r t v col g (fun x => c * f x + h x) = c * rowSum b r t v col g f + rowSum b r t v col g h := by
  rw [rowSum, rowSum, rowSum, ← List.sum_map_mul_left, ← List.sum_map_add]
  congr 2
  funext d
  dsimp only
  split
  · split
    · ring
    · simp
  · simp

theorem rowSum_neg (f : Int → Int) : rowSum b r t v col g (fun x => -f x) = -rowSum b r t v col g f := by
  simpa [rowSum_zero] using rowSum_mul_add (b := b) (r := r) (t := t) (v := v) (col := col) (g := g) (-1) f fun _ => 0

/-! ## Planes into the register (R23, R28) -/

/-- The value of the top plane as the register takes it (R23). -/
theorem top_plane {p : Nat} (hold : DrivenRows r t v col g (PlanesHold r.aFmt (p + 1))) (hb1 : fmtIsB1 r.aFmt = true → p = 0) :
    (if fmtSigned r.aFmt ∧ ¬ fmtIsB1 r.aFmt then -planeSum b r t v col g p else planeSum b r t v col g p)
      = highDot b r t v col g p := by
  rw [planeSum_eq_rowSum, highDot]
  by_cases hb : fmtIsB1 r.aFmt = true
  · simp [hb, hb1 hb, planeBit]
  · replace hb : fmtIsB1 r.aFmt = false := by simpa using hb
    by_cases hs : fmtSigned r.aFmt = true
    · rw [if_pos ⟨hs, by simp [hb]⟩, ← rowSum_neg]
      refine rowSum_congr fun d hd hact => ?_
      simpa [planeBit, hb] using (ediv_two_pow_signed (planesHold_signed hb hs (hold d hd hact))).symm
    · rw [if_neg fun h => hs h.1]
      refine rowSum_congr fun d hd hact => ?_
      simpa [planeBit, hb] using (ediv_two_pow_unsigned (planesHold_unsigned (by simpa using hs) (hold d hd hact))).symm

theorem next_plane (hb : fmtIsB1 r.aFmt = false) (p : Nat) :
    2 * highDot b r t v col g (p + 1) + planeSum b r t v col g p = highDot b r t v col g p := by
  simp only [planeSum_eq_rowSum, highDot, ← rowSum_mul_add, planeBit, hb, Bool.false_eq_true, if_false, ← ediv_two_pow_succ]

theorem groupDot_eq_zero (hold : DrivenRows r t v col g (PlanesHold r.aFmt 0)) : groupDot b r t v col g = 0 := by
  rw [groupDot_eq_rowSum, ← rowSum_zero (b := b) (r := r) (t := t) (v := v) (col := col) (g := g)]
  exact rowSum_congr fun d hd hact => eq_zero_of_planesHold_zero (hold d hd hact)

/-- The register of a row-group after the step that drives plane p: its planes come last, from its own top plane down. -/
theorem getD_stepRegs {step p : Nat} (regs : List Int) (hg : g < 4) (hp : v.len = step + p) :
    (stepRegs b r t v v.len step col regs).getD g 0 =
      if v.planes.getD g 0 ≤ p then regs.getD g 0
      else if v.planes.getD g 0 = p + 1 then
        if fmtSigned r.aFmt ∧ ¬ fmtIsB1 r.aFmt then -planeSum b r t v col g p else planeSum b r t v col g p
      else 2 * regs.getD g 0 + planeSum b r t v col g p := by
  have hplane : v.len - step = p := by omega
  have hidle : (step + v.planes.getD g 0 < v.len + 1 ∨ v.planes.getD g 0 = 0) ↔ v.planes.getD g 0 ≤ p := by omega
  simp only [stepRegs, List.getD_eq_getElem?_getD, List.getElem?_map, List.getElem?_range hg, Option.map_some, Option.getD_some,
    hplane] at hidle ⊢
  simp only [hidle, eq_comm (a := p + 1)]

theorem runRegs_succ (j : Nat) : runRegs b r t v col (j + 1) = stepRegs b r t v v.len (j + 1) col (runRegs b r t v col j) := by
  simp [runRegs, List.range_succ]

/-- The register of a row-group while planes p and below are still to come (R23, R28). -/
theorem getD_runRegs (hg : g < 4) (hold : DrivenRows r t v col g (PlanesHold r.aFmt (v.planes.getD g 0)))
    (hb1 : fmtIsB1 r.aFmt = true → v.planes.getD g 0 ≤ 1) {j : Nat} :
    ∀ {p : Nat}, v.len = j + p →
      (runRegs b r t v col j).getD g 0 = if v.planes.getD g 0 ≤ p then 0 else highDot b r t v col g p := by
  induction j with
  | zero =>
    intro p hp
    have hlen := v.planes_le_len g
    rw [if_pos (by omega)]
    match g, hg with
    | 0, _ | 1, _ | 2, _ | 3, _ => rfl
  | succ j ih =>
    intro p hp
    rw [runRegs_succ, getD_stepRegs _ hg hp, ih (p := p + 1) (by omega)]
    split
    · next hidle => rw [if_pos (by omega)]
    · split
      · next htop => exact top_plane (htop ▸ hold) fun h => by have := hb1 h; omega
      · next hidle htop =>
        rw [if_neg (by omega)]
        refine next_plane (by by_contra h; have := hb1 (by simpa using h); omega) p

theorem getD_runRegs_len (hg : g < 4) (hold : DrivenRows r t v col g (PlanesHold r.aFmt (v.planes.getD g 0)))
    (hb1 : fmtIsB1 r.aFmt = true → v.planes.getD g 0 ≤ 1) :
    (runRegs b r t v col v.len).getD g 0 = groupDot b r t v col g := by
  rw [getD_runRegs hg hold hb1 (j := v.len) (p := 0) rfl]
  split
  · next h => exact (groupDot_eq_zero (Nat.le_zero.mp h ▸ hold)).symm
  · exact (groupDot_eq_highDot b r t v col g).symm

end

/-! ## The vector that the feeder gives (R22, R24, R25) -/

theorem partialsOf_congr {r : OpRec} {xs ys : List Int} (h : ∀ g < 4, xs.getD g 0 = ys.getD g 0) :
    partialsOf r xs = partialsOf r ys := by
  have hmap : (List.range 4).map (fun g => xs.getD g 0) = (List.range 4).map fun g => ys.getD g 0 :=
    List.map_congr_left fun g hg => h g (List.mem_range.mp hg)
  simp only [partialsOf, hmap, h 0 (by decide), h 1 (by decide), h 2 (by decide), h 3 (by decide)]

theorem elemValue_nonneg {f : Nat} (h : fmtSigned f = false) (c : Nat) : 0 ≤ elemValue f c := by
  simp only [elemValue, not_isB1_of_unsigned h, fmtKind_of_unsigned h, kUn, Bool.false_eq_true, if_false]
  exact Int.natCast_nonneg _

/-- Position d of a fed vector: its activation and whether it is driven. -/
def feedCell (b : Binding) (r : OpRec) (m kt raw d : Nat) : Int × Bool :=
  if b.eM r ≤ m ∨ b.eK r ≤ r.kTile * kt + d then (if r.aPadKind = 0 then 0 else r.aPad, decide (r.aPadKind ≠ 0))
  else if r.outMK m (r.kTile * kt + d) then (0, !fmtIsB1 r.aFmt)
  else (elemValue r.aFmt (bitsAt raw (fmtBits r.aFmt * d) (fmtBits r.aFmt)), true)

/-- The planes that a row-group takes for its positions (R22). -/
def groupPlanes (f : Nat) (cells : List (Int × Bool)) : Nat :=
  cells.foldl (fun n x => if x.2 then max n (planeCount f x.1) else n) 0

theorem groupPlanes_le_iff {f n : Nat} {cells : List (Int × Bool)} :
    groupPlanes f cells ≤ n ↔ ∀ x ∈ cells, x.2 = true → planeCount f x.1 ≤ n := by
  have hmax : groupPlanes f cells = ((cells.filter (·.2)).map fun x => planeCount f x.1).foldl max 0 := by
    rw [List.foldl_map, List.foldl_filter]
    rfl
  simp [hmax, foldl_max_le_iff]

section
variable (b : Binding) (r : OpRec) (m kt raw : Nat) (exps : List Int)

/-- The positions of row-group g of a fed vector (R17, R107). -/
def groupCells (g : Nat) : List (Int × Bool) :=
  (((List.range r.kTile).map (feedCell b r m kt raw)).drop (r.kTile / 4 * g)).take (r.kTile / 4)

theorem feedVec_values : (feedVec b r m kt raw exps).values = ((List.range r.kTile).map (feedCell b r m kt raw)).map (·.1) := rfl
theorem feedVec_active : (feedVec b r m kt raw exps).active = ((List.range r.kTile).map (feedCell b r m kt raw)).map (·.2) := rfl
theorem feedVec_planes : (feedVec b r m kt raw exps).planes =
    (List.range 4).map fun g => groupPlanes r.aFmt (groupCells b r m kt raw g) := rfl

variable {b r m kt raw exps}

/-- A driven position's value; an undriven one's does not matter. -/
theorem getD_active_feedVec {ai : Nat} (hact : (feedVec b r m kt raw exps).active.getD ai false = true) :
    ai < r.kTile ∧ (feedCell b r m kt raw ai).2 = true ∧
      (feedVec b r m kt raw exps).values.getD ai 0 = (feedCell b r m kt raw ai).1 := by
  rw [feedVec_active, List.map_map] at hact
  have hlt : ai < r.kTile := by
    by_contra hge
    rw [List.getD_eq_default _ _ (by simpa using hge)] at hact
    exact Bool.false_ne_true hact
  rw [List.getD_eq_getElem _ _ (by simpa using hlt)] at hact
  rw [feedVec_values, List.map_map, List.getD_eq_getElem _ _ (by simpa using hlt)]
  exact ⟨hlt, by simpa using hact, by simp⟩

theorem feedCell_nonneg (hs : fmtSigned r.aFmt = false) (hpad : fmtSigned r.aFmt = true ∨ r.aPadKind = 0 ∨ 0 ≤ r.aPad) (ai : Nat) :
    0 ≤ (feedCell b r m kt raw ai).1 := by
  unfold feedCell
  split
  · dsimp only
    split
    · exact le_rfl
    · next hkind => exact (hpad.resolve_left (by simp [hs])).resolve_left hkind
  · split
    · exact le_rfl
    · exact elemValue_nonneg hs _

theorem getD_feedVec_planes {g : Nat} (hg : g < 4) :
    (feedVec b r m kt raw exps).planes.getD g 0 = groupPlanes r.aFmt (groupCells b r m kt raw g) := by
  rw [feedVec_planes, List.getD_eq_getElem _ _ (by simpa using hg)]
  simp

theorem feedCell_mem_groupCells {g ai : Nat} (hlt : ai < r.kTile) (hlo : r.kTile / 4 * g ≤ ai)
    (hhi : ai < r.kTile / 4 * g + r.kTile / 4) :
    feedCell b r m kt raw ai ∈ groupCells b r m kt raw g := by
  refine List.mem_iff_getElem?.mpr ⟨ai - r.kTile / 4 * g, ?_⟩
  rw [groupCells, List.getElem?_take_of_lt (by omega), List.getElem?_drop, Nat.add_sub_cancel' hlo]
  simp [List.getElem?_range hlt]

/-- The rows of row-group g take their activations from its positions (R17, R107). -/
theorem actOf_bounds {t : Tile} {g d col : Nat} (hd : d < 16)
    (hsel : r.sparse = true → ∀ row, (t.selects.getD row []).getD col 0 < 4) :
    r.kTile / 4 * g ≤ t.actOf r (16 * g + d) col ∧ t.actOf r (16 * g + d) col < r.kTile / 4 * g + r.kTile / 4 := by
  by_cases hs : r.sparse = true
  · have := hsel hs (16 * g + d)
    simp only [Tile.actOf, Tile.kOf, OpRec.kTile, hs, if_true]
    omega
  · simp only [Tile.actOf, Tile.kOf, OpRec.kTile, hs, if_false, Bool.false_eq_true]
    omega

/-- The plane counts of a fed vector are enough for what its rows drive (R22). -/
theorem feedVec_drivenRows {t : Tile} {g col : Nat} (hg : g < 4)
    (hsel : r.sparse = true → ∀ row, (t.selects.getD row []).getD col 0 < 4)
    (hpad : fmtSigned r.aFmt = true ∨ r.aPadKind = 0 ∨ 0 ≤ r.aPad) :
    DrivenRows r t (feedVec b r m kt raw exps) col g (PlanesHold r.aFmt ((feedVec b r m kt raw exps).planes.getD g 0)) := by
  intro d hd hact
  obtain ⟨hlt, hon, hval⟩ := getD_active_feedVec hact
  obtain ⟨hlo, hhi⟩ := actOf_bounds (g := g) hd hsel
  rw [hval, getD_feedVec_planes hg]
  exact ⟨groupPlanes_le_iff.mp le_rfl _ (feedCell_mem_groupCells hlt hlo hhi) hon, fun hs => feedCell_nonneg hs hpad _⟩

/-- B1 has one plane (R22). -/
theorem feedVec_planes_le_one {g : Nat} (hg : g < 4) (hb : fmtIsB1 r.aFmt = true) :
    (feedVec b r m kt raw exps).planes.getD g 0 ≤ 1 := by
  rw [getD_feedVec_planes hg, groupPlanes_le_iff]
  intro x _ _
  simp [planeCount, hb]

end

/-! ## O16 -/

/-- Settles O16: every register ends with the dot product of its row-group, since the feeder's plane counts hold what it drives. -/
theorem partialSumsAreExactDotProducts : Obligations.PartialSumsAreExactDotProducts := by
  unfold Obligations.PartialSumsAreExactDotProducts
  intro b r t m raw exps col hsel hpad
  refine partialsOf_congr fun g hg => ?_
  rw [getD_runRegs_len hg (feedVec_drivenRows hg hsel hpad) (feedVec_planes_le_one hg)]
  simp [List.getD_eq_getElem?_getD, List.getElem?_range hg]

end Sys2Proof.Machine
end

section
/-!
PROOFS. The sum folds (R34, R119): after the pairs are sorted, the totals stand at the head of a list whose indices fall, one for
each index met so far; emission order and totals depend on the pairs alone and not on the order of their arrival.
-/
namespace Sys2Proof.Machine

/-! ## The order of R119 -/

theorem pairLe_iff {a b : Pair} : pairLe a b = true ↔ a.index < b.index ∨ a.index = b.index ∧ a.source ≤ b.source := by
  simp [pairLe]

theorem pairLe_total (a b : Pair) : pairLe a b = true ∨ pairLe b a = true := by
  simp only [pairLe_iff]
  omega

theorem pairLe_trans {a b c : Pair} (hab : pairLe a b = true) (hbc : pairLe b c = true) : pairLe a c = true := by
  simp only [pairLe_iff] at *
  omega

theorem key_eq_of_pairLe {a b : Pair} (hab : pairLe a b = true) (hba : pairLe b a = true) : (a.index, a.source) = (b.index, b.source) := by
  simp only [pairLe_iff] at hab hba
  rw [Prod.mk.injEq]
  omega

theorem insertPair_eq_orderedInsert (p : Pair) (qs : List Pair) : insertPair p qs = qs.orderedInsert (fun a b => pairLe a b = true) p := by
  induction qs with
  | nil => rfl
  | cons q qs ih => simp only [insertPair, List.orderedInsert, ih]

theorem sortPairs_eq_insertionSort (ps : List Pair) : sortPairs ps = ps.insertionSort fun a b => pairLe a b = true := by
  induction ps with
  | nil => rfl
  | cons p ps ih => rw [sortPairs, ih, insertPair_eq_orderedInsert]; rfl

theorem sortPairs_perm (ps : List Pair) : (sortPairs ps).Perm ps := by
  rw [sortPairs_eq_insertionSort]
  exact List.perm_insertionSort _ ps

theorem sortPairs_pairwise (ps : List Pair) : (sortPairs ps).Pairwise fun a b => pairLe a b = true := by
  have : Std.Total fun a b => pairLe a b = true := ⟨pairLe_total⟩
  have : IsTrans Pair fun a b => pairLe a b = true := ⟨fun _ _ _ => pairLe_trans⟩
  rw [sortPairs_eq_insertionSort]
  exact List.pairwise_insertionSort _ ps

/-- Pairs that differ in index or source come out in one order (SCATTER_KEEP, R119). -/
theorem sortPairs_eq_of_perm {ps qs : List Pair} (hperm : qs.Perm ps) (hkeys : (ps.map fun p => (p.index, p.source)).Nodup) :
    sortPairs qs = sortPairs ps := by
  refine List.Perm.eq_of_pairwise (fun a b ha hb hab hba => ?_) (sortPairs_pairwise qs) (sortPairs_pairwise ps)
    (((sortPairs_perm qs).trans hperm).trans (sortPairs_perm ps).symm)
  have hin : a ∈ ps := hperm.mem_iff.mp ((sortPairs_perm qs).mem_iff.mp ha)
  exact List.inj_on_of_nodup_map hkeys hin ((sortPairs_perm ps).mem_iff.mp hb) (key_eq_of_pairLe hab hba)

/-! ## The exact total of an index -/

/-- The exact total of the pairs with an index, and whether the overflow bit of one of them is set. -/
def totalOf (ps : List Pair) (i : Nat) : Int × Bool :=
  let same := ps.filter fun p => decide (p.index = i)
  ((same.map (·.val)).sum, same.any (·.ovf))

theorem totalOf_append_same (ps : List Pair) (p : Pair) :
    totalOf (ps ++ [p]) p.index = ((totalOf ps p.index).1 + p.val, (totalOf ps p.index).2 || p.ovf) := by
  simp [totalOf]

theorem totalOf_append_ne (ps : List Pair) {p : Pair} {i : Nat} (h : i ≠ p.index) : totalOf (ps ++ [p]) i = totalOf ps i := by
  simp [totalOf, h.symm]

theorem totalOf_absent {ps : List Pair} {i : Nat} (h : i ∉ ps.map (·.index)) : totalOf ps i = (0, false) := by
  have hnone : ps.filter (fun p => decide (p.index = i)) = [] := by
    rw [List.filter_eq_nil_iff]
    intro p hp heq
    exact h (List.mem_map.mpr ⟨p, hp, of_decide_eq_true heq⟩)
  simp [totalOf, hnone]

theorem totalOf_perm {ps qs : List Pair} (h : qs.Perm ps) (i : Nat) : totalOf qs i = totalOf ps i := by
  have hsame := h.filter fun p => decide (p.index = i)
  exact Prod.ext ((hsame.map _).sum_eq) (hsame.any_eq)

/-! ## Adding up sorted pairs -/

/-- acc holds the totals of ps, one for each index, the indices falling. -/
structure Totals (ps acc : List Pair) : Prop where
  falling : acc.Pairwise fun a b => b.index < a.index
  indices : ∀ i, i ∈ acc.map (·.index) ↔ i ∈ ps.map (·.index)
  total : ∀ q ∈ acc, (q.val, q.ovf) = totalOf ps q.index

theorem Totals.nil : Totals [] [] := ⟨.nil, by simp, by simp⟩

/-- A pair of an index not met before starts a total. -/
theorem Totals.start {ps acc : List Pair} {p : Pair} (h : Totals ps acc) (hnew : ∀ q ∈ acc, q.index < p.index) :
    Totals (ps ++ [p]) (p :: acc) where
  falling := List.pairwise_cons.mpr ⟨hnew, h.falling⟩
  indices i := by simp [← h.indices i, or_comm]
  total := by
    have habsent : p.index ∉ ps.map (·.index) := by
      rw [← h.indices]
      intro hin
      obtain ⟨q, hq, heq⟩ := List.mem_map.mp hin
      exact absurd heq (hnew q hq).ne
    refine List.forall_mem_cons.mpr ⟨?_, fun q hq => ?_⟩
    · simp [totalOf_append_same, totalOf_absent habsent]
    · rw [totalOf_append_ne _ (hnew q hq).ne, h.total q hq]

/-- A pair of the highest index adds to its total. -/
theorem Totals.add {ps ts : List Pair} {t p : Pair} (h : Totals ps (t :: ts)) (hsame : t.index = p.index) :
    Totals (ps ++ [p]) ({ t with val := t.val + p.val, ovf := t.ovf || p.ovf } :: ts) where
  falling := List.pairwise_cons.mpr (List.pairwise_cons.mp h.falling)
  indices i := by
    have hi := h.indices i
    simp only [List.map_cons, List.mem_cons, List.map_append, List.mem_append, List.map_nil, List.not_mem_nil, or_false] at hi ⊢
    rw [← hi, hsame]
    tauto
  total := by
    obtain ⟨hbelow, -⟩ := List.pairwise_cons.mp h.falling
    obtain ⟨ht, hts⟩ := List.forall_mem_cons.mp h.total
    refine List.forall_mem_cons.mpr ⟨?_, fun q hq => ?_⟩
    · rw [hsame] at ht ⊢
      rw [totalOf_append_same, ← ht]
    · rw [totalOf_append_ne _ (hsame ▸ (hbelow q hq).ne), hts q hq]

theorem totals_mergePair {ps acc : List Pair} {p : Pair} (h : Totals ps acc) (htop : ∀ q ∈ ps, q.index ≤ p.index) :
    Totals (ps ++ [p]) (mergePair acc p) := by
  match acc with
  | [] => exact h.start (by simp)
  | t :: ts =>
    rw [mergePair]
    split
    · next hsame => exact h.add hsame
    · next hne =>
      obtain ⟨hbelow, -⟩ := List.pairwise_cons.mp h.falling
      have hle : t.index ≤ p.index := by
        obtain ⟨q, hq, heq⟩ := List.mem_map.mp ((h.indices t.index).mp (List.mem_cons_self))
        exact heq ▸ htop q hq
      have ht : t.index < p.index := lt_of_le_of_ne hle hne
      exact h.start (List.forall_mem_cons.mpr ⟨ht, fun q hq => (hbelow q hq).trans ht⟩)

theorem totals_foldl_mergePair {ps : List Pair} (hsorted : ps.Pairwise fun a b => a.index ≤ b.index) :
    Totals ps (ps.foldl mergePair []) := by
  induction ps using List.reverseRecOn with
  | nil => exact Totals.nil
  | append_singleton ps p ih =>
    obtain ⟨hps, -, htop⟩ := List.pairwise_append.mp hsorted
    rw [List.foldl_append]
    exact totals_mergePair (ih hps) fun q hq => htop q hq p (List.mem_singleton_self p)

/-! ## What a sum fold emits -/

/-- The totals before they are held to the entry's range. -/
def exactTotals (ps : List Pair) : List Pair := (sortPairs ps).foldl mergePair []

theorem totals_exactTotals (ps : List Pair) : Totals ps (exactTotals ps) := by
  have hsorted : (sortPairs ps).Pairwise fun a b => a.index ≤ b.index :=
    (sortPairs_pairwise ps).imp fun h => by rw [pairLe_iff] at h; omega
  obtain ⟨falling, indices, total⟩ := totals_foldl_mergePair hsorted
  exact ⟨falling, fun i => (indices i).trans ((sortPairs_perm ps).map _).mem_iff,
    fun q hq => (total q hq).trans (totalOf_perm (sortPairs_perm ps) _)⟩

section
variable (acc16 : Bool) (ps : List Pair)

/-- What is emitted for an index: its total held to the entry's range, with its overflow bit. -/
def emitted (i : Nat) : Int × Bool :=
  (entrySat acc16 (totalOf ps i).1, (totalOf ps i).2 || !entryFits acc16 (totalOf ps i).1)

theorem sumFold_index : (sumFold acc16 ps).map (·.index) = ((exactTotals ps).map (·.index)).reverse := by
  rw [sumFold, List.map_map, List.map_reverse]
  rfl

theorem sumFold_index_pairwise : ((sumFold acc16 ps).map (·.index)).Pairwise (· < ·) := by
  rw [sumFold_index, List.pairwise_reverse, List.pairwise_map]
  exact (totals_exactTotals ps).falling

theorem mem_sumFold_index (i : Nat) : i ∈ (sumFold acc16 ps).map (·.index) ↔ i ∈ ps.map (·.index) := by
  rw [sumFold_index, List.mem_reverse]
  exact (totals_exactTotals ps).indices i

variable {acc16 ps}

theorem sumFold_emitted {q : Pair} (hq : q ∈ sumFold acc16 ps) : (q.val, q.ovf) = emitted acc16 ps q.index := by
  rw [sumFold] at hq
  obtain ⟨t, ht, rfl⟩ := List.mem_map.mp hq
  have htotal := (totals_exactTotals ps).total t (List.mem_reverse.mp ht)
  simp only [emitted, ← htotal]

theorem sumFold_eq_map_emitted : (sumFold acc16 ps).map (fun q => (q.index, q.val, q.ovf))
    = ((sumFold acc16 ps).map (·.index)).map fun i => (i, emitted acc16 ps i) := by
  rw [List.map_map]
  exact List.map_congr_left fun q hq => congrArg _ (sumFold_emitted hq)

theorem emitted_perm {qs : List Pair} (h : qs.Perm ps) : emitted acc16 qs = emitted acc16 ps := by
  funext i
  simp only [emitted, totalOf_perm h]

theorem sumFold_perm {qs : List Pair} (h : qs.Perm ps) :
    (sumFold acc16 qs).map (fun q => (q.index, q.val, q.ovf)) = (sumFold acc16 ps).map fun q => (q.index, q.val, q.ovf) := by
  have hindex : (sumFold acc16 qs).map (·.index) = (sumFold acc16 ps).map (·.index) :=
    (sumFold_index_pairwise acc16 qs).eq_of_mem_iff (sumFold_index_pairwise acc16 ps) fun i => by
      rw [mem_sumFold_index, mem_sumFold_index, (h.map _).mem_iff]
  rw [sumFold_eq_map_emitted, sumFold_eq_map_emitted, hindex, emitted_perm h]

end

/-! ## O23 -/

/-- Settles O23: what is emitted is a function of the indices and their totals, which no arrival order changes. -/
theorem foldsEmitExactTotalsInAnyArrivalOrder : Obligations.FoldsEmitExactTotalsInAnyArrivalOrder := by
  unfold Obligations.FoldsEmitExactTotalsInAnyArrivalOrder
  intro acc16 ps
  exact ⟨sumFold_index_pairwise acc16 ps, mem_sumFold_index acc16 ps, fun q hq => Prod.mk.inj (sumFold_emitted hq),
    fun qs hperm => ⟨sumFold_perm hperm, sortPairs_eq_of_perm hperm⟩⟩

end Sys2Proof.Machine
end

section
/-!
PROOFS. The array's commands on a core's run (R19, R30, R35, R94, R100).
-/
namespace Sys2Proof.Machine

/-! ## What does not touch the cores -/

theorem Keeps.core_eq {T : List StateField} {a s : State} (h : Keeps T a s) (hT : may T .cores = false) (k : Nat) :
    s.core k = a.core k := by
  rw [State.core, h.cores.resolve_left (by simp [hT]), State.core]

@[simp] theorem State.core_countStretched (s : State) (k n j : Nat) : (s.countStretched k n).core j = s.core j :=
  (State.countStretched_keeps (T := [.dict]) _ _ _ (Keeps.refl _ s) rfl).core_eq rfl j

@[simp] theorem State.core_opFault (s : State) (x : Job) (k op : Nat) (e : CFault) (j : Nat) : (s.opFault x k op e).core j = s.core j :=
  (State.opFault_keeps (T := [.log, .parts]) _ _ _ _ _ (Keeps.refl _ s) rfl).core_eq rfl j

@[simp] theorem State.core_glazeConflict (s : State) (x : Job) (k : Nat) (others : List BankUse) (g : Option (Nat × List BankUse))
    (j : Nat) : (s.glazeConflict x k others g).core j = s.core j :=
  (State.glazeConflict_keeps (T := [.dict, .log, .parts]) _ _ _ _ _ (Keeps.refl _ s) rfl).core_eq rfl j

/-! ## The swap step (R19, R20, R25) -/

/-- A run that is put back into its core stands there, or has ended. -/
theorem Acc.core_close_run (a : Acc) (x : Job) (k op : Nat) (u : Run) (env : StepEnv) :
    ((a.close x k op u env).core k).run = u.orDone := by
  unfold Acc.close
  split <;> simp

theorem Run.orDone_of_live {u : Run} {t : Tile} (h : u.live = some t) : u.orDone = some u := by
  simp [Run.orDone, h]

/-- The tails' step changes nothing of the run but its tails. -/
theorem Acc.tickTails_snd (a : Acc) (x : Job) (k : Nat) (u : Run) :
    (a.tickTails x k u).2 = { u with tails := (a.tickTails x k u).2.tails } := rfl

/-- The swap makes the loaded tile live, at its first vector, and empties the shadow latches. -/
theorem State.core_swap_run (s : State) (x : Job) (k : Nat) (u : Run) (t : Tile) (env : StepEnv) :
    ∃ u', ((s.swap x k u t env).core k).run = some u' ∧ u'.live = some t ∧ u'.shadow = none ∧ u'.vec = 0 ∧
      u'.swaps = u.swaps + 1 := by
  simp only [State.swap, State.core_glazeConflict, Acc.core_close_run]
  rw [Acc.tickTails_snd]
  exact ⟨_, Run.orDone_of_live rfl, rfl, rfl, rfl, rfl⟩

/-! ## The commands -/

section
variable {c : CoreId} {s : State} {x : Job} {u : Run}

theorem exec_arrayStep_of_stepEnabled (env : StepEnv) (hjob : s.coreJob (idKey c) = some x) (hrun : (s.core (idKey c)).run = some u)
    (hon : u.stepEnabled (s.core (idKey c)) = true) : exec (.arrayStep c env) s = .next (s.stepRun x (idKey c) u env) := by
  simp [exec, execArrayStep, hjob, hrun, hon]

theorem exec_swapStep_of_swapReady (env : StepEnv) {t : Tile} (hjob : s.coreJob (idKey c) = some x)
    (hrun : (s.core (idKey c)).run = some u) (hready : u.swapReady = some t) (hrel : (s.core (idKey c)).releaseDue = false) :
    exec (.swapStep ⟨c, env⟩) s = .next (s.swap x (idKey c) u t env) := by
  simp [exec, execSwapStep, hjob, hrun, hready, hrel]

theorem exec_topkReferenceComplete_of_ranked {t : Tile} (hjob : s.coreJob (idKey c) = some x)
    (hrun : (s.core (idKey c)).run = some u) (hlive : u.live = some t) (hwait : u.topkWait = true)
    (hranked : (s.core (idKey c)).earlierTiles u.op t.mb t.nt = false) :
    exec (.topkReferenceComplete c) s =
      .next (s.setCore (idKey c) { s.core (idKey c) with run := some { u with topkWait := false } }) := by
  simp [exec, execTopkReferenceComplete, hjob, hrun, hlive, hwait, hranked]

/-- A deviation is a group that stopped and whose exact value is not proven (R100). -/
theorem countIf_stopped_unproven (stopped proven : Bool) :
    countIf (stopped && !proven) = if stopped = true ∧ proven = false then 1 else 0 := by
  simp [countIf]

theorem exec_shadowCheck_of_sample {sm : Sample} (hruns : s.coreRuns (idKey c) = true) (hsample : (s.core (idKey c)).sample = some sm) :
    exec (.shadowCheck c) s =
      .next ((((s.setCore (idKey c) { s.core (idKey c) with sample := none }).bumpH 0x3038 (idKey c / 1088) 8 1).bumpH 0x3038
        (idKey c / 1088) 9 (countIf (sm.stoppedGroup && !sm.proven))).stat sm.part sm.op fun o =>
          { o with taken := o.taken + 1, deviated := o.deviated + countIf (sm.stoppedGroup && !sm.proven) }) := by
  simp [exec, execShadowCheck, hruns, hsample]

end

/-! ## O25 -/

/-- Settles O25: each command by the condition it waits for; the swap's run is read back from the core it was put into. -/
theorem arrayCommandsServeTheRun : Obligations.ArrayCommandsServeTheRun := by
  unfold Obligations.ArrayCommandsServeTheRun
  refine fun c env s x u => ⟨fun hjob hrun => ⟨exec_arrayStep_of_stepEnabled env hjob hrun, ?swap, ?reference⟩, ?shadow⟩
  case swap =>
    intro t hready hrel
    obtain ⟨u', hu'⟩ := s.core_swap_run x (idKey c) u t env
    exact ⟨_, u', exec_swapStep_of_swapReady env hjob hrun hready hrel, hu'⟩
  case reference => exact fun t hlive hwait hranked => exec_topkReferenceComplete_of_ranked hjob hrun hlive hwait hranked
  case shadow =>
    intro sm hruns hsample
    rw [exec_shadowCheck_of_sample hruns hsample, countIf_stopped_unproven]

end Sys2Proof.Machine
end

section
/-!
PROOFS. Phases and the end of an operation (R32, R69, R88, R101, R108, R173): a phase that begins changes on its core the progress,
the handle entries and, where it forms select regions, the banks; an operation that ends logs its events.
-/
namespace Sys2Proof.Machine

/-! ## A core's banks and handle entries alone -/

/-- From s to t nothing of any core changes but the banks and handle entries of core k. -/
structure CoreMemoryOnly (k : Nat) (s t : State) : Prop where
  others : ∀ j, j ≠ k → t.core j = s.core j
  here : ∃ bs hs, t.core k = { s.core k with banks := bs, handles := hs }

section
variable {k : Nat} {s t u : State}

theorem CoreMemoryOnly.of_cores (h : t.cores = s.cores) : CoreMemoryOnly k s t := by
  have hcore : ∀ j, t.core j = s.core j := fun j => by rw [State.core, h, State.core]
  exact ⟨fun j _ => hcore j, _, _, hcore k⟩

theorem CoreMemoryOnly.refl (k : Nat) (s : State) : CoreMemoryOnly k s s := .of_cores rfl

theorem CoreMemoryOnly.trans (h : CoreMemoryOnly k s t) (g : CoreMemoryOnly k t u) : CoreMemoryOnly k s u := by
  obtain ⟨bs, hs, ht⟩ := h.here
  obtain ⟨bs', hs', hu⟩ := g.here
  exact ⟨fun j hj => (g.others j hj).trans (h.others j hj), bs', hs', by rw [hu, ht]⟩

theorem CoreMemoryOnly.setCore (s : State) (k : Nat) (bs : Table Bank) (hs : Table Handle) :
    CoreMemoryOnly k s (s.setCore k { s.core k with banks := bs, handles := hs }) :=
  ⟨fun _ hj => s.core_setCore_ne _ hj, bs, hs, s.core_setCore k _⟩

theorem CoreMemoryOnly.foldl {β : Type} {f : State → β → State} {l : List β}
    (hf : ∀ u, ∀ y ∈ l, CoreMemoryOnly k u (f u y)) (s : State) : CoreMemoryOnly k s (l.foldl f s) :=
  List.foldlRecOn l f (CoreMemoryOnly.refl k s) fun u hu y hy => hu.trans (hf u y hy)

end

/-! ## Writes of a core's words (R136 to R139) -/

theorem State.cores_markBank (s : State) (k b : Nat) : (s.markBank k b).cores = s.cores :=
  (State.markBank_keeps (T := [.health]) _ _ _ (Keeps.refl _ s) rfl).cores.resolve_left (by decide)

theorem State.countCorrected_memory (s : State) (k b row : Nat) : CoreMemoryOnly k s (s.countCorrected k b row) := by
  unfold State.countCorrected
  extract_lets s₁ c bk s₂
  have hset : CoreMemoryOnly k s s₂ := (CoreMemoryOnly.of_cores rfl : CoreMemoryOnly k s s₁).trans (CoreMemoryOnly.setCore s₁ k _ _)
  split
  · exact hset.trans (.of_cores (s₂.cores_markBank k b))
  · exact hset

theorem State.wakeBank_memory (s : State) (k b : Nat) : CoreMemoryOnly k s (s.wakeBank k b).1 := by
  have hset := CoreMemoryOnly.setCore s k
  unfold State.wakeBank
  dsimp only
  split
  · exact (hset _ _).trans (.of_cores rfl)
  · exact hset _ _

theorem writeWord_memory (s : State) (k b row w : Nat) (mask data : W64) :
    CoreMemoryOnly k s (writeWord s k b row w mask data).1 := by
  have hwake := s.wakeBank_memory k b
  have hcount := fun u : State => u.countCorrected_memory k b row
  unfold writeWord
  dsimp only
  split
  · exact CoreMemoryOnly.refl k s
  · split
    · exact hwake.trans (.of_cores rfl)
    · split
      · exact hwake.trans (.of_cores rfl)
      · exact (hwake.trans (hcount _)).trans (.of_cores rfl)
      · exact hwake.trans (.of_cores rfl)
      · exact hwake.trans (.of_cores rfl)

theorem writeWords_memory (k : Nat) (h : Handle) (n : Nat) : ∀ (s : State) (j bit len v : Nat),
    CoreMemoryOnly k s (writeWords s k h j bit len v n).1 := by
  induction n with
  | zero => exact fun s _ _ _ _ => CoreMemoryOnly.refl k s
  | succ n ih =>
    intro s j bit len v
    simp only [writeWords]
    split
    · exact writeWord_memory s k _ _ _ _ _
    · exact (writeWord_memory s k _ _ _ _ _).trans (ih _ _ _ _ _)

/-! ## The begin of a phase (R108, R170, R173, R215) -/

theorem State.core_setPhase (s : State) (x : Job) (c : CoreId) (ph : Nat) (begun : Bool) :
    (s.setPhase x (.core c) ph begun).core (idKey c) = { s.core (idKey c) with phase := ph, begun := begun } :=
  s.core_setCore _ _

theorem State.core_setPhase_ne (s : State) (x : Job) {c : CoreId} (ph : Nat) (begun : Bool) {j : Nat} (h : j ≠ idKey c) :
    (s.setPhase x (.core c) ph begun).core j = s.core j :=
  s.core_setCore_ne _ h

theorem State.loadSelects_memory (s : State) (x : Job) (i k : Nat) : CoreMemoryOnly k s (s.loadSelects x i fun q => decide (q = k)) := by
  unfold State.loadSelects
  split
  · refine CoreMemoryOnly.foldl (fun u cr _ => ?_) s
    split
    · exact CoreMemoryOnly.refl k u
    · next sh hshare =>
      have hk : cr.core = k := by
        by_contra hne
        simp [hne] at hshare
      subst hk
      exact CoreMemoryOnly.foldl (fun u _ _ => CoreMemoryOnly.foldl (fun u _ _ => writeWords_memory _ _ _ u _ _ _ _) u) u
  · exact CoreMemoryOnly.refl k s

theorem State.loadSelects_of_not_sparse (s : State) {x : Job} {i : Nat} (pick : Nat → Bool) (h : x.bd.prog.sparseUser i = none) :
    s.loadSelects x i pick = s := by
  simp only [State.loadSelects, h]

theorem State.cores_undefine (s : State) (rs : List CoreRows) : (s.undefine rs).cores = s.cores :=
  (State.undefine_keeps (T := [.scratch, .freeCtr]) _ _ (Keeps.refl _ s) rfl).cores.resolve_left (by decide)

theorem State.writeHandle_memory (s : State) (k e : Nat) (v : W64) : CoreMemoryOnly k s (s.writeHandle k e v) :=
  CoreMemoryOnly.setCore s k _ _

theorem State.banks_writeHandle (s : State) (k e : Nat) (v : W64) : ((s.writeHandle k e v).core k).banks = (s.core k).banks := by
  simp [State.writeHandle, Core.setHandle]

theorem State.writeHandles_memory (s : State) (b : Binding) (k : Nat) (pick : BufRec → Bool) :
    CoreMemoryOnly k s (s.writeHandles b k pick) := by
  unfold State.writeHandles
  refine CoreMemoryOnly.foldl (fun u i _ => ?_) s
  dsimp only
  split
  · split
    · exact u.writeHandle_memory k _ _
    · exact CoreMemoryOnly.refl k u
  · exact CoreMemoryOnly.refl k u

theorem State.banks_writeHandles (s : State) (b : Binding) (k : Nat) (pick : BufRec → Bool) :
    ((s.writeHandles b k pick).core k).banks = (s.core k).banks := by
  unfold State.writeHandles
  refine List.foldlRecOn (motive := fun u : State => (u.core k).banks = (s.core k).banks) _ _ rfl fun u hu i _ => ?_
  dsimp only
  split
  · split
    · rw [State.banks_writeHandle, hu]
    · exact hu
  · exact hu

section
variable (s : State) (x : Job) (c : CoreId) (ph : Nat)

theorem State.beginPhase_memory : CoreMemoryOnly (idKey c) (s.setPhase x (.core c) ph true) (s.beginPhase x (.core c) ph) := by
  unfold State.beginPhase
  dsimp only
  refine CoreMemoryOnly.trans ?_ (State.writeHandles_memory _ _ _ _)
  refine CoreMemoryOnly.trans ?_ (CoreMemoryOnly.foldl (fun u y _ => u.loadSelects_memory x y.1 (idKey c)) _)
  exact .of_cores (State.cores_undefine _ _)

variable {x c ph}

theorem State.banks_beginPhase (h : ∀ y ∈ x.bd.startsOn (idKey c) ph, x.bd.prog.sparseUser y.1 = none) :
    ((s.beginPhase x (.core c) ph).core (idKey c)).banks = (s.core (idKey c)).banks := by
  unfold State.beginPhase
  dsimp only
  rw [State.banks_writeHandles]
  refine (List.foldlRecOn (motive := fun u : State => (u.core (idKey c)).banks = (s.core (idKey c)).banks) _ _ ?_ fun u hu y hy => ?_)
  · rw [State.core, State.cores_undefine]
    exact (congrArg Core.banks (s.core_setPhase x c ph true)).trans rfl
  · rw [u.loadSelects_of_not_sparse _ (h y hy), hu]

end

/-! ## Progress of a core (R32, R173) -/

section
variable {s : State} {x : Job} {c : CoreId}

theorem State.phase_of_unitPhase {t : UnitPhase} (h : s.unitPhase x (.core c) = some t) : t.phase = (s.core (idKey c)).phase := by
  simp only [State.unitPhase] at h
  split at h
  · cases h; rfl
  · cases h

theorem State.unitPhase_of_tokenReady {u : UnitId} (h : s.tokenReady x u = true) : ∃ t, s.unitPhase x u = some t := by
  unfold State.tokenReady at h
  split at h
  · exact absurd h Bool.false_ne_true
  · next t ht => exact ⟨t, ht⟩

theorem State.unitPhase_of_beginReady {u : UnitId} (h : s.beginReady x u = true) : ∃ t, s.unitPhase x u = some t := by
  unfold State.beginReady at h
  split at h
  · exact absurd h Bool.false_ne_true
  · next t ht => exact ⟨t, ht⟩

theorem State.holds_of_findJob {f : Job → Bool} (h : s.findJob f = some x) : f x = true := List.find?_some h

theorem exec_phaseToken_core (h : s.findJob (fun y => s.tokenReady y (.core c)) = some x) :
    exec (.phaseToken (.core c)) s = .next (s.setPhase x (.core c) ((s.core (idKey c)).phase + 1) false) := by
  obtain ⟨t, ht⟩ := State.unitPhase_of_tokenReady (State.holds_of_findJob h)
  simp only [exec, execPhaseToken, h, ht, State.phase_of_unitPhase ht]

theorem exec_phaseBegin_core (h : s.findJob (fun y => s.beginReady y (.core c)) = some x) :
    exec (.phaseBegin (.core c)) s = .next (s.beginPhase x (.core c) (s.core (idKey c)).phase) := by
  obtain ⟨t, ht⟩ := State.unitPhase_of_beginReady (State.holds_of_findJob h)
  simp only [exec, execPhaseBegin, h, ht, State.phase_of_unitPhase ht]

end

/-! ## The events of an ending operation (R69, R88, R101) -/

/-- A report with its counter, where its condition holds. -/
def State.reportIf (s : State) (on : Prop) [Decidable on] (r : Report) (i sub : Nat) : State :=
  if on then (s.report r).bump i sub 1 else s

section
variable (s : State) (on : Prop) [Decidable on] (r : Report) (i sub : Nat)

theorem State.waiting_reportIf :
    (s.reportIf on r i sub).log.waiting = s.log.waiting ++ if on then [{ r with time := s.now }] else [] := by
  unfold State.reportIf
  split <;> simp [State.report]

theorem State.part_reportIf (p : Nat) : (s.reportIf on r i sub).part p = s.part p := by
  unfold State.reportIf
  split <;> rfl

theorem State.obj_reportIf {j sub' : Nat} (h : objKey j sub' ≠ objKey i sub) : (s.reportIf on r i sub).obj j sub' = s.obj j sub' := by
  unfold State.reportIf
  split
  · exact State.obj_setObj_ne _ _ h
  · rfl

end

/-- The report of an operation's end that names a code and two values. -/
def endReport (x : Job) (i code d0 d1 : Nat) : Report :=
  { plainReport code unitLeaven .operation i with d0 := d0, d1 := d1, item := some (x.ctx, x.item.seq), ctx := some x.ctx }

theorem State.endEvents_eq (s : State) (x : Job) (i : Nat) :
    s.endEvents x i =
      let o := x.bd.opStats i
      ((s.reportIf (0 < o.flagged) (endReport x i cAccOverflow o.flagged 0) 0x6020 2).reportIf
        (s.obj 0x6020 1 ≠ 0 ∧ s.obj 0x6020 1 ≤ o.inexact)
        (endReport x i cPrecisionLoss (min o.inexact (2 ^ 32 - 1)) 0) 0x6020 3).reportIf
        (0 < o.deviated) (endReport x i cSampleDeviation o.taken o.deviated) 0x6030 2 := by
  have hthreshold := s.obj_reportIf (0 < (x.bd.opStats i).flagged) (endReport x i cAccOverflow (x.bd.opStats i).flagged 0) 0x6020 2
    (j := 0x6020) (sub' := 1) (by decide)
  dsimp only
  simp only [← hthreshold]
  rfl

/-- The events of an operation's end, as code, operation and values, each where its condition holds. -/
theorem State.endEvents_waiting (s : State) (x : Job) (i : Nat) :
    ∃ new, (s.endEvents x i).log.waiting = s.log.waiting ++ new ∧
      new.map (fun r => (r.code, r.address, r.d0, r.d1)) =
        (if 0 < (x.bd.opStats i).flagged then [(cAccOverflow, i, (x.bd.opStats i).flagged, 0)] else []) ++
        (if s.obj 0x6020 1 ≠ 0 ∧ s.obj 0x6020 1 ≤ (x.bd.opStats i).inexact then
          [(cPrecisionLoss, i, min (x.bd.opStats i).inexact (2 ^ 32 - 1), 0)] else []) ++
        (if 0 < (x.bd.opStats i).deviated then
          [(cSampleDeviation, i, (x.bd.opStats i).taken, (x.bd.opStats i).deviated)] else []) := by
  rw [State.endEvents_eq]
  simp only [State.waiting_reportIf, List.append_assoc]
  refine ⟨_, rfl, ?_⟩
  simp only [List.map_append, apply_ite (List.map _), List.map_cons, List.map_nil, endReport, plainReport]

theorem exec_operationEnd_of_opEnded {p : PartNo} {op : Nat} {s : State} {x : Job} (hjob : s.job p.val = some x)
    (hdone : s.opEnded x op = true) (hopen : (x.bd.opStats op).ended = false) :
    exec (.operationEnd p op) s =
      .next (((s.endEvents x op).stat p.val op fun o => { o with ended := true }).mapHead x.ctx fun it =>
        { it with flags := it.flags ||| s.endFlags (x.bd.opStats op) }) := by
  simp [exec, execOperationEnd, hjob, hdone, hopen]

/-- A statistic that is written reads back from the binding. -/
theorem State.binding_stat {s : State} {p op : Nat} {b : Binding} (f : OpStats → OpStats) (h : (s.part p).binding = some b) :
    ∃ b', ((s.stat p op f).part p).binding = some b' ∧ b'.opStats op = f (b.opStats op) := by
  refine ⟨{ b with stats := tset OpStats.reset b.stats op (f (b.opStats op)) }, ?_, tget_tset_same _ _ _ _⟩
  simp [State.stat, State.setBinding, h]

/-! ## O28 -/

/-- Settles O28: the core's progress by the command's one update of it, with the frame of the begin's later writes; the events in
the order of their codes' rules. -/
theorem phasesAdvanceAndEndingOperationsAreLogged : Obligations.PhasesAdvanceAndEndingOperationsAreLogged := by
  unfold Obligations.PhasesAdvanceAndEndingOperationsAreLogged
  refine ⟨fun c s x => ⟨fun htoken => ?token, fun hbegin => ?begin⟩, fun p op s x hjob hdone hopen => ?ending⟩
  case token =>
    refine ⟨_, exec_phaseToken_core htoken, ?_⟩
    rw [State.core_setPhase]
    exact ⟨rfl, rfl, ⟨rfl, rfl, rfl, rfl, rfl⟩, rfl, rfl, fun j hj => s.core_setPhase_ne x _ _ hj⟩
  case begin =>
    obtain ⟨others, bs, hs, here⟩ := s.beginPhase_memory x c (s.core (idKey c)).phase
    rw [State.core_setPhase] at here
    refine ⟨_, exec_phaseBegin_core hbegin, ?_, ?_, ?_, s.banks_beginPhase,
      fun j hj => (others j hj).trans (s.core_setPhase_ne x _ _ hj)⟩
    all_goals rw [here]
    exact ⟨rfl, rfl, rfl, rfl, rfl⟩
  case ending =>
    obtain ⟨new, hnew, hevents⟩ := s.endEvents_waiting x op
    refine ⟨_, exec_operationEnd_of_opEnded hjob hdone hopen, ⟨new, hnew, hevents⟩, fun b hb => ?ended⟩
    case ended =>
      have hpart : ((s.endEvents x op).part p.val).binding = some b := by
        rw [State.endEvents_eq]
        simp only [State.part_reportIf, hb]
      obtain ⟨b', hb', hstats⟩ := State.binding_stat (op := op) (fun o => { o with ended := true }) hpart
      exact ⟨b', hb', by rw [hstats]⟩

end Sys2Proof.Machine
end

section
/-!
PROOFS. Formats and rounding (R41, R43, R52): what a rounding of k bits answers in either mode, that a format's container reads
back as its value, and the conversion to an integer format.
-/
namespace Sys2Proof.Machine

/-! ## Rounding (R52) -/

section
variable (p : Int) (k noise : Nat)

/-- The discarded part, between the floor's multiple and the next one's. -/
theorem toNat_emod_two_pow : ((p % 2 ^ k).toNat : Int) = p - p / 2 ^ k * 2 ^ k ∧ ((p % 2 ^ k).toNat : Int) < 2 ^ k := by
  have hpow : (0 : Int) < 2 ^ k := by positivity
  rw [Int.toNat_of_nonneg (Int.emod_nonneg p hpow.ne'), Int.emod_def, mul_comm (p / 2 ^ k)]
  exact ⟨rfl, Int.emod_def p _ ▸ Int.emod_lt_of_pos p hpow⟩

theorem roundShift_zero (mode : RMode) : roundShift p 0 mode noise = p := by
  simp [roundShift]

/-- Half to even: up from above the half, and at the half from an odd floor. -/
theorem roundShift_rhe_succ :
    roundShift p (k + 1) .rhe noise =
      if 2 ^ k < (p % 2 ^ (k + 1)).toNat ∨ (p % 2 ^ (k + 1)).toNat = 2 ^ k ∧ p / 2 ^ (k + 1) % 2 = 1
      then p / 2 ^ (k + 1) + 1 else p / 2 ^ (k + 1) := by
  simp only [roundShift, Nat.add_one_ne_zero, if_false, Int.emod_def, mul_comm (p / 2 ^ (k + 1)), Nat.add_sub_cancel]

/-- What the noise is compared with: the discarded part, its top 48 bits where it has more. -/
def noiseBound (k d : Nat) : Nat := if k ≤ 48 then d * 2 ^ (48 - k) else d / 2 ^ (k - 48)

theorem roundShift_sr :
    roundShift p k .sr noise = if noise % 2 ^ 48 < noiseBound k (p % 2 ^ k).toNat then p / 2 ^ k + 1 else p / 2 ^ k := by
  cases k with
  | zero => simp [roundShift, noiseBound]
  | succ k => simp only [roundShift, noiseBound, Nat.add_one_ne_zero, if_false, Int.emod_def, mul_comm (p / 2 ^ (k + 1))]

/-- An exact value never moves. -/
theorem roundShift_mul_two_pow_of_exact (mode : RMode) (h : (p % 2 ^ k).toNat = 0) : roundShift p k mode noise * 2 ^ k = p := by
  have hfloor : p / 2 ^ k * 2 ^ k = p := by have := (toNat_emod_two_pow p k).1; omega
  have hpos : ∀ j, 0 < 2 ^ j := fun _ => Nat.two_pow_pos _
  cases mode with
  | rhe =>
    cases k with
    | zero => simp [roundShift_zero]
    | succ k => rw [roundShift_rhe_succ, h, if_neg (by have := hpos k; omega), hfloor]
  | sr => rw [roundShift_sr, h, noiseBound, Nat.zero_mul, Nat.zero_div, ite_self, if_neg (Nat.not_lt_zero _), hfloor]

/-- Half to even: within half a quantum, and at exactly half of one the result is even. -/
theorem roundShift_rhe_near : 2 * |roundShift p k .rhe noise * 2 ^ k - p| ≤ 2 ^ k ∧
    (0 < k → 2 * |roundShift p k .rhe noise * 2 ^ k - p| = 2 ^ k → roundShift p k .rhe noise % 2 = 0) := by
  cases k with
  | zero => simp [roundShift_zero]
  | succ k =>
    obtain ⟨hd, hlt⟩ := toNat_emod_two_pow p (k + 1)
    have hquantum : (2 : Int) ^ (k + 1) = 2 * (2 ^ k : Nat) := by push_cast; ring
    rw [roundShift_rhe_succ]
    generalize (p % 2 ^ (k + 1)).toNat = d at *
    generalize p / 2 ^ (k + 1) = lo at *
    generalize 2 ^ k = half at *
    split
    case isTrue hup =>
      have herr : (lo + 1) * 2 ^ (k + 1) - p = 2 * half - d := by rw [add_mul]; omega
      rw [herr, abs_of_nonneg (by omega)]
      omega
    case isFalse hdown =>
      have herr : lo * 2 ^ (k + 1) - p = -d := by omega
      rw [herr, abs_neg, abs_of_nonneg (by omega)]
      omega

end

/-! ## O18 -/

/-- Settles O18: the floor or its successor, by the mode's comparison of the discarded part. -/
theorem roundingFollowsItsMode : Obligations.RoundingFollowsItsMode := by
  unfold Obligations.RoundingFollowsItsMode
  refine fun p k mode noise => ⟨roundShift_mul_two_pow_of_exact p k noise mode, fun h => ?rhe, fun h => ?sr⟩ <;> subst h
  case rhe => exact roundShift_rhe_near p k noise
  case sr => exact ⟨fun hk => by rw [roundShift_sr, noiseBound, if_pos hk],
    fun hk => by rw [roundShift_sr, noiseBound, if_neg hk.not_ge]⟩

/-! ## Two's complement in a field of bits -/

theorem codeOf_lt (c : Nat) (x : Int) : codeOf c x < 2 ^ c := by
  have hpow : (0 : Int) < 2 ^ c := by positivity
  have hlt := Int.emod_lt_of_pos x hpow
  have h0 := Int.emod_nonneg x hpow.ne'
  rw [codeOf, Int.toNat_lt h0]
  exact_mod_cast hlt

/-- A narrower field of a code is the narrower field's code. -/
theorem codeOf_mod {w c : Nat} (h : w ≤ c) (x : Int) : codeOf c x % 2 ^ w = codeOf w x := by
  have hpow : ∀ n, (0 : Int) < 2 ^ n := fun _ => by positivity
  zify
  rw [codeOf, codeOf, Int.toNat_of_nonneg (Int.emod_nonneg x (hpow c).ne'), Int.toNat_of_nonneg (Int.emod_nonneg x (hpow w).ne'),
    Int.emod_emod_of_dvd x (pow_dvd_pow 2 h)]

theorem codeOf_of_nonneg {c : Nat} {x : Int} (h : 0 ≤ x) (hx : x < 2 ^ c) : codeOf c x = x.toNat := by
  rw [codeOf, Int.emod_eq_of_lt h hx]

theorem codeOf_of_neg {c : Nat} {x : Int} (h : x < 0) (hx : -2 ^ c ≤ x) : codeOf c x = 2 ^ c - ((-x - 1).toNat + 1) := by
  have hcast : ((2 ^ c : Nat) : Int) = 2 ^ c := by push_cast; rfl
  rw [codeOf, ← Int.add_emod_right, Int.emod_eq_of_lt (by omega) (by omega)]
  omega

/-- A value of n + 1 bits reads back from its code. -/
theorem signed_codeOf {n : Nat} {x : Int} (hlo : -2 ^ n ≤ x) (hhi : x < 2 ^ n) : signed (codeOf (n + 1) x) (n + 1) = x := by
  have hcast : ((2 ^ n : Nat) : Int) = 2 ^ n := by push_cast; rfl
  have hdouble : (2 : Int) ^ (n + 1) = 2 * 2 ^ n := pow_succ' 2 n
  have hdoubleNat : 2 ^ (n + 1) = 2 * 2 ^ n := pow_succ' 2 n
  simp only [signed, Nat.add_sub_cancel]
  obtain hneg | hpos := lt_or_ge x 0
  · rw [codeOf_of_neg hneg (by omega), if_neg (by omega)]; omega
  · rw [codeOf_of_nonneg hpos (by omega), if_pos (by omega), Int.toNat_of_nonneg hpos]

/-- From the sign bit on, the bits of a code are copies of the sign. -/
theorem testBit_codeOf {n c i : Nat} {x : Int} (hlo : -2 ^ n ≤ x) (hhi : x < 2 ^ n) (hi : n ≤ i) (hc : i < c) :
    (codeOf c x).testBit i = decide (x < 0) := by
  have hcast : ((2 ^ n : Nat) : Int) = 2 ^ n := by push_cast; rfl
  have hbit : (2 : Int) ^ n ≤ 2 ^ c := pow_le_pow_right₀ (by decide) (by omega)
  have clear : ∀ y, y < 2 ^ n → y.testBit i = false := fun y hy =>
    Nat.testBit_lt_two_pow (hy.trans_le (Nat.pow_le_pow_right (by decide) hi))
  have hwide : 2 ^ n ≤ 2 ^ c := Nat.pow_le_pow_right (by decide) (by omega)
  obtain hneg | hpos := lt_or_ge x 0
  · rw [codeOf_of_neg hneg (by omega), Nat.testBit_two_pow_sub_succ (by omega), clear _ (by omega)]
    simp [hc, hneg]
  · rw [codeOf_of_nonneg hpos (by omega), clear _ (by omega)]
    simp [hpos]

/-! ## Formats of the array (Table 3-1) -/

theorem fmtWidth_pos (f : Nat) : 0 < fmtWidth f := Nat.succ_pos _

theorem fmtWidth_le_fmtBits (f : Nat) : fmtWidth f ≤ fmtBits f := by
  have h16 : fmtWidth f ≤ 16 := by unfold fmtWidth; omega
  unfold fmtBits container
  split_ifs <;> omega

/-- The container of x reads back as x, fits its bits, and is filled above the width as the format says. -/
def ContainerHolds (f : Nat) (x : Int) : Prop :=
  elemValue f (elemCode f x) = x ∧ elemCode f x < 2 ^ fmtBits f ∧
    ∀ i, fmtWidth f ≤ i → i < fmtBits f → (elemCode f x).testBit i = (fmtSigned f && (elemCode f x).testBit (fmtWidth f - 1))

section
variable {f : Nat} {x : Int}

/-- Where the container is as wide as the element, nothing lies above the width. -/
theorem containerHolds_of_full (hfull : fmtBits f = fmtWidth f) (hvalue : elemValue f (elemCode f x) = x)
    (hlt : elemCode f x < 2 ^ fmtWidth f) : ContainerHolds f x :=
  ⟨hvalue, hfull ▸ hlt, fun _ hlo hhi => absurd hlo (by omega)⟩

theorem fmtWidth_of_isB1 (hok : fmtOk f = true) (hb : fmtIsB1 f = true) : fmtWidth f = 1 := by
  simp only [fmtIsB1, Bool.or_eq_true, Bool.and_eq_true, decide_eq_true_eq] at hb
  obtain hkind | ⟨-, hwidth⟩ := hb
  · simpa [fmtOk, hkind, kB1] using hok
  · exact hwidth

theorem fmtWidth_of_ternary (hok : fmtOk f = true) (hk : fmtKind f = kT2) : fmtWidth f = 2 := by
  simpa [fmtOk, hk, kT2] using hok

theorem containerHolds_b1 (hok : fmtOk f = true) (hb : fmtIsB1 f = true) (hx : x = 1 ∨ x = -1) : ContainerHolds f x := by
  have hwidth := fmtWidth_of_isB1 hok hb
  have hcode : elemCode f x = if 0 ≤ x then 1 else 0 := by simp only [elemCode, hb, if_true]
  refine containerHolds_of_full (by rw [fmtBits, hwidth]; rfl) ?value ?lt
  case value => rw [hcode]; obtain rfl | rfl := hx <;> simp [elemValue, hb, hwidth]
  case lt => rw [hcode, hwidth]; split <;> decide

theorem containerHolds_ternary (hok : fmtOk f = true) (hk : fmtKind f = kT2) (hlo : -1 ≤ x) (hhi : x ≤ 1) :
    ContainerHolds f x := by
  have hwidth := fmtWidth_of_ternary hok hk
  have hb : fmtIsB1 f = false := by simp [fmtIsB1, hk, kT2, kB1, kBI]
  have hcode : elemCode f x = if x = 1 then 1 else if x = -1 then 2 else 0 := by simp [elemCode, hb, hk, kT2]
  obtain rfl | rfl | rfl : x = -1 ∨ x = 0 ∨ x = 1 := by omega
  all_goals
    refine containerHolds_of_full (by rw [fmtBits, hwidth]; rfl) ?_ (by rw [hcode, hwidth]; decide)
    rw [hcode]
    simp [elemValue, hb, hk, kT2, hwidth]

theorem containerHolds_unsigned (hk : fmtKind f = kUn) (hlo : 0 ≤ x) (hhi : x < 2 ^ fmtWidth f) : ContainerHolds f x := by
  have hs : fmtSigned f = false := by simp [fmtSigned, hk]
  have hcode : elemCode f x = x.toNat := by simp [elemCode, not_isB1_of_unsigned hs, hk, kUn]
  have hlt : x.toNat < 2 ^ fmtWidth f := (Int.toNat_lt hlo).mpr (by exact_mod_cast hhi)
  rw [ContainerHolds, hcode, hs]
  refine ⟨?value, hlt.trans_le (Nat.pow_le_pow_right (by decide) (fmtWidth_le_fmtBits f)), fun i hi _ => ?upper⟩
  case value =>
    simp only [elemValue, not_isB1_of_unsigned hs, hk, kUn, Bool.false_eq_true, if_false, Nat.mod_eq_of_lt hlt]
    exact Int.toNat_of_nonneg hlo
  case upper =>
    rw [Bool.false_and]
    exact Nat.testBit_lt_two_pow (hlt.trans_le (Nat.pow_le_pow_right (by decide) hi))

theorem containerHolds_signed (hb : fmtIsB1 f = false) (hUn : fmtKind f ≠ kUn) (hT2 : fmtKind f ≠ kT2)
    (hlo : -(2 ^ (fmtWidth f - 1)) ≤ x) (hhi : x < 2 ^ (fmtWidth f - 1)) : ContainerHolds f x := by
  obtain ⟨n, hn⟩ := Nat.exists_eq_add_one.mpr (fmtWidth_pos f)
  have hbits := fmtWidth_le_fmtBits f
  have hs : fmtSigned f = true := by simpa [fmtSigned] using hUn
  have hcode : elemCode f x = codeOf (fmtBits f) x := by
    simp only [elemCode, hb, Bool.false_eq_true, if_false]
    split
    · contradiction
    · contradiction
    · rfl
  have hvalue : ∀ c, elemValue f c = signed (c % 2 ^ fmtWidth f) (fmtWidth f) := by
    intro c
    simp only [elemValue, hb, Bool.false_eq_true, if_false]
    split
    · contradiction
    · contradiction
    · rfl
  rw [hn, Nat.add_sub_cancel] at hlo hhi
  rw [ContainerHolds, hcode, hs, hvalue, codeOf_mod hbits, hn, Nat.add_sub_cancel]
  refine ⟨signed_codeOf hlo hhi, codeOf_lt _ _, fun i hi hlt => ?_⟩
  rw [testBit_codeOf hlo hhi (by omega) hlt, testBit_codeOf hlo hhi (le_refl n) (by omega), Bool.true_and]

/-- A reader looks at the low bits alone. -/
theorem elemValue_mod (f code : Nat) : elemValue f code = elemValue f (code % 2 ^ fmtWidth f) := by
  simp only [elemValue, Nat.mod_mod]

end

/-! ## O19 -/

/-- Settles O19: by the format's class, B1, unsigned, ternary or two's complement. -/
theorem containersKeepTheirValue : Obligations.ContainersKeepTheirValue := by
  unfold Obligations.ContainersKeepTheirValue
  refine fun f hok _ => ⟨fun x hx => show ContainerHolds f x from ?_, elemValue_mod f⟩
  split_ifs at hx with hb hUn hT2
  · exact containerHolds_b1 hok hb hx
  · exact containerHolds_unsigned hUn hx.1 hx.2
  · exact containerHolds_ternary hok hT2 hx.1 hx.2
  · exact containerHolds_signed (Bool.eq_false_iff.mpr hb) hUn hT2 hx.1 hx.2

/-! ## Conversion to an integer format (R43) -/

section
variable {f : Nat} {x lo hi : Int}

theorem clampTo_of_above (h : hi < x) : clampTo lo hi x = (hi, true) := by
  rw [clampTo, if_pos h]

theorem clampTo_of_below (hle : lo ≤ hi) (h : x < lo) : clampTo lo hi x = (lo, true) := by
  rw [clampTo, if_neg (by omega), if_pos h]

theorem clampTo_of_within (hlo : lo ≤ x) (hhi : x ≤ hi) : clampTo lo hi x = (x, false) := by
  rw [clampTo, if_neg (by omega), if_neg (by omega)]

theorem intRange_of_kind (hk : fmtKind f = kIn ∨ fmtKind f = kUn ∨ fmtKind f = kT2) :
    intRange f = (if fmtKind f = kUn then 0 else if fmtKind f = kT2 then -1 else -(2 ^ (fmtWidth f - 1)),
      if fmtKind f = kUn then 2 ^ fmtWidth f - 1 else if fmtKind f = kT2 then 1 else 2 ^ (fmtWidth f - 1) - 1) := by
  obtain hk | hk | hk := hk <;> simp [intRange, hk, kIn, kUn, kT2]

theorem intRange_le (f : Nat) : (intRange f).1 ≤ (intRange f).2 := by
  have hpow : ∀ n, (0 : Int) < 2 ^ n := fun _ => by positivity
  have hw := hpow (fmtWidth f)
  have hn := hpow (fmtWidth f - 1)
  simp only [intRange]
  split <;> dsimp only <;> omega

theorem elemValue_elemCode (hok : fmtOk f = true) (hk : fmtKind f = kIn ∨ fmtKind f = kUn ∨ fmtKind f = kT2)
    (hlo : (intRange f).1 ≤ x) (hhi : x ≤ (intRange f).2) : elemValue f (elemCode f x) = x := by
  have hholds : ContainerHolds f x := by
    obtain hIn | hUn | hT2 := hk
    case inl =>
      simp only [intRange, hIn, kIn] at hlo hhi
      exact containerHolds_signed (by simp [fmtIsB1, hIn, kIn, kB1, kBI]) (by simp [hIn, kIn, kUn])
        (by simp [hIn, kIn, kT2]) hlo (by omega)
    case inr.inl =>
      simp only [intRange, hUn, kUn] at hlo hhi
      exact containerHolds_unsigned hUn hlo (by omega)
    case inr.inr =>
      simp only [intRange, hT2, kT2] at hlo hhi
      exact containerHolds_ternary hok hT2 hlo hhi
  exact hholds.1

/-- A rounded value that is clamped to y converts to the container of y, and a clamp counts as one saturation. -/
theorem convInt_of_clampTo {v : Dy} {mode : RMode} {noise : Nat} {sat : Bool} (hok : fmtOk f = true)
    (hk : fmtKind f = kIn ∨ fmtKind f = kUn ∨ fmtKind f = kT2) (hrange : intRange f = (lo, hi)) (hlo : lo ≤ x) (hhi : x ≤ hi)
    (hclamp : clampTo lo hi (v.round 0 mode noise) = (x, sat)) :
    elemValue f (convInt f v mode noise).1 = x ∧ (convInt f v mode noise).2.sat = countIf sat := by
  simp only [convInt, hrange, hclamp, and_true]
  exact elemValue_elemCode hok hk (by rwa [hrange]) (by rwa [hrange])

end

/-! ## O20 -/

/-- Settles O20: the clamped value lies in the format's range, so its container reads back as it. -/
theorem integerTargetsRoundThenSaturate : Obligations.IntegerTargetsRoundThenSaturate := by
  unfold Obligations.IntegerTargetsRoundThenSaturate
  intro f v mode noise hok hk w lo hi q out
  have hrange : intRange f = (lo, hi) := intRange_of_kind hk
  have hle : lo ≤ hi := by simpa only [hrange] using intRange_le f
  have outcome {y : Int} {sat : Bool} : lo ≤ y → y ≤ hi → clampTo lo hi q = (y, sat) →
      elemValue f out.1 = y ∧ out.2.sat = countIf sat := convInt_of_clampTo hok hk hrange
  refine ⟨fun h => ?above, fun h => ?below, fun hlo hhi => ?within⟩
  case above => exact outcome hle le_rfl (clampTo_of_above h)
  case below => exact outcome le_rfl hle (clampTo_of_below hle h)
  case within => exact outcome hlo hhi (clampTo_of_within hlo hhi)

end Sys2Proof.Machine
end

section
/-!
PROOFS. Operations that a core or its partition carries out when they are next (R59, R73, R168, R172, R185, Table 8-4).
-/
namespace Sys2Proof.Machine

/-! ## Operations of a core -/

section
variable {c : CoreId} {s : State} {x : Job} {i : Nat} (env : StepEnv)

theorem exec_convert_of_issue (h : s.issue (idKey c) kConvert = some (x, i)) :
    exec (.convert c env) s = .next (s.convert x (idKey c) i env) := by
  simp only [exec, execConvert, h]

theorem exec_poolMax_of_issue (h : s.issue (idKey c) kPool = some (x, i)) :
    exec (.poolMax c env) s = .next (s.poolMax x (idKey c) i env) := by
  simp only [exec, execPoolMax, h]

theorem exec_halo_of_issue (h : s.issue (idKey c) kHalo = some (x, i)) :
    exec (.halo c env) s = .next (s.halo x (idKey c) i env) := by
  simp only [exec, execHalo, h]

theorem exec_slotDrain_of_ready {slot : Fin 8} (hjob : s.coreJob (idKey c) = some x)
    (hready : s.drainReady x (idKey c) slot.val = true) :
    exec (.slotDrain c slot env) s = .next (s.drain x (idKey c) slot.val env) := by
  simp only [exec, execSlotDrain, hjob, hready, if_true]

end

/-! ## Operations of a partition -/

section
variable {p : PartNo} {s : State} {x : Job} {i : Nat}

/-- The job of a partition names it. -/
theorem State.part_of_job {p : Nat} (h : s.job p = some x) : x.part = p := by
  unfold State.job at h
  split at h
  · split at h
    · cases h; rfl
    · cases h
  · cases h

theorem exec_mark_of_next (hjob : s.job p.val = some x) (hkind : (x.bd.prog.op i).kind = kMark) (hlt : i < x.bd.prog.ops.length)
    (hnew : i ∉ x.bd.issued) (hphase : x.item.resumePhase ≤ (x.bd.prog.op i).phase)
    (hmarks : x.marksDone (x.bd.prog.op i).phase = true) : exec (.mark p i) s = .next (s.carried p.val i) := by
  simp only [exec, execMark, hjob]
  rw [if_pos ⟨hkind, hlt, hnew, hphase, hmarks⟩, State.carried]

theorem exec_transfer_of_canCarry (hjob : s.job p.val = some x)
    (hcan : s.canCarry x (moverUnit (x.bd.moverOf (s.ctx x.ctx).hostPort i)) i kTransfer = true) :
    exec (.transfer p i) s = .next (s.queueTransfer x (x.bd.moverOf (s.ctx x.ctx).hostPort i) i) := by
  simp only [exec, execTransfer, hjob, hcan, if_true]

/-- The flows that a transfer's descriptors give up before it begins (R291). -/
def State.dropFlows (s : State) (ds : List MoverDesc) : State :=
  ds.foldl (fun s d => if d.dstSpace = .finwell then s.dropFlow s.net.node d.node tWrite d.tag else s) s

theorem State.dropFlows_keeps (s : State) (ds : List MoverDesc) : Keeps [.net] s (s.dropFlows ds) :=
  foldl_keeps (fun u _ h => Keeps.ite (State.dropFlow_keeps u _ _ _ _ h rfl) h) (Keeps.refl _ s)

/-- A transfer that the loader does not refuse: its descriptors stand behind the queue, and it counts as carried out. -/
theorem State.queueTransfer_of_not_refused (m : Nat) (h : x.ioRefused (x.bd.prog.op i) s.net.node = false) :
    ((s.queueTransfer x m i).mover m).queue = (s.mover m).queue ++ x.expand (s.ctx x.ctx).hostPort i ∧
      ((s.queueTransfer x m i).mover m).active = (s.mover m).active ∧
      (s.queueTransfer x m i).part x.part = (s.carried x.part i).part x.part := by
  have hctx : (s.carried x.part i).ctx x.ctx = s.ctx x.ctx := rfl
  have hnet : (s.carried x.part i).net.node = s.net.node := rfl
  have hkeeps := (s.carried x.part i).dropFlows_keeps (x.expand (s.ctx x.ctx).hostPort i)
  have hmovers := hkeeps.movers.resolve_left (by decide)
  have hparts := hkeeps.parts.resolve_left (by decide)
  have heq : s.queueTransfer x m i =
      let t := (s.carried x.part i).dropFlows (x.expand (s.ctx x.ctx).hostPort i)
      t.setMover m { t.mover m with queue := (t.mover m).queue ++ x.expand (s.ctx x.ctx).hostPort i } := by
    simp only [State.queueTransfer, hctx, hnet, h, Bool.false_eq_true, if_false]
    rfl
  have hmover : ((s.carried x.part i).dropFlows (x.expand (s.ctx x.ctx).hostPort i)).mover m = s.mover m := by
    rw [State.mover, hmovers]; rfl
  rw [heq]
  dsimp only
  rw [State.mover_setMover, hmover]
  exact ⟨rfl, rfl, by rw [State.part, State.setMover, hparts, State.part]⟩

end

/-! ## O27 -/

/-- Settles O27: each command by the condition under which its operation is next; TRANSFER's effect by what its queueing keeps. -/
theorem scheduledOperationsRun : Obligations.ScheduledOperationsRun := by
  unfold Obligations.ScheduledOperationsRun
  refine fun c env p slot s x i => ⟨exec_convert_of_issue env, exec_poolMax_of_issue env, exec_halo_of_issue env,
    exec_slotDrain_of_ready env, fun hjob hcan hio => ?transfer, exec_mark_of_next⟩
  case transfer =>
    obtain ⟨hqueue, hactive, hpart⟩ := State.queueTransfer_of_not_refused (x.bd.moverOf (s.ctx x.ctx).hostPort i) hio
    refine ⟨_, exec_transfer_of_canCarry hjob hcan, hqueue, hactive, ?_⟩
    rw [State.part_of_job hjob] at hpart
    rw [hpart, State.carried, State.setBinding, State.part_setPart]

end Sys2Proof.Machine
end

section
/-!
PROOFS. What the object commands do (R56, R203 to R205, R236, R277, R281, R284, R303, R335): the bytes and the row of the object
that each writes, and the effect of the write once the row admits it.
-/
namespace Sys2Proof.Machine

/-! ## The bytes of a number -/

theorem toBytes_succ (n v : Nat) : toBytes (n + 1) v = BitVec.ofNat 8 v :: toBytes n (v / 256) := by
  simp only [toBytes, List.range_succ_eq_map, List.map_cons, List.map_map, Nat.mul_zero, pow_zero, Nat.div_one]
  refine congrArg _ (List.map_congr_left fun i _ => ?_)
  simp only [Function.comp_apply, Nat.succ_eq_add_one, Nat.mul_succ, pow_add, Nat.mul_comm (2 ^ (8 * i)), Nat.div_div_eq_div_mul]
  rfl

@[simp] theorem length_toBytes (n v : Nat) : (toBytes n v).length = n := by simp [toBytes]

/-- A number that fits its bytes reads back from them. -/
theorem fromBytes_toBytes {n v : Nat} (h : v < 2 ^ (8 * n)) : fromBytes (toBytes n v) = v := by
  induction n generalizing v with
  | zero => simp only [Nat.mul_zero, pow_zero, Nat.lt_one_iff] at h; rw [h]; rfl
  | succ n ih =>
    have hrest : v / 256 < 2 ^ (8 * n) := by
      rw [Nat.div_lt_iff_lt_mul (by decide)]
      rwa [Nat.mul_succ, pow_add] at h
    rw [toBytes_succ, fromBytes, ih hrest, BitVec.toNat_ofNat]
    omega

theorem fromBytes_append (as bs : List Byte) : fromBytes (as ++ bs) = fromBytes as + 2 ^ (8 * as.length) * fromBytes bs := by
  induction as with
  | nil => simp [fromBytes]
  | cons a as ih =>
    simp only [List.cons_append, fromBytes, ih, List.length_cons, Nat.mul_succ, pow_add]
    ring

theorem fromBytes_lt (bs : List Byte) : fromBytes bs < 2 ^ (8 * bs.length) := by
  induction bs with
  | nil => simp [fromBytes]
  | cons b bs ih =>
    have hb := b.isLt
    simp only [fromBytes, List.length_cons, Nat.mul_succ, pow_add]
    omega

theorem fromBytes_singleton (b : Byte) : fromBytes [b] = b.toNat := by simp [fromBytes]

theorem fromBytes_word (v : W32) : fromBytes (toBytes 4 v.toNat) = v.toNat := fromBytes_toBytes v.isLt

theorem fromBytes_long (v : W64) : fromBytes (toBytes 8 v.toNat) = v.toNat := fromBytes_toBytes v.isLt

theorem fromBytes_word_le (v : W32) : fromBytes (toBytes 4 v.toNat) ≤ 0xFFFFFFFF := by
  rw [fromBytes_word]
  exact Nat.le_sub_one_of_lt v.isLt

theorem fromBytes_long_le (v : W64) : fromBytes (toBytes 8 v.toNat) ≤ 2 ^ 64 - 1 := by
  rw [fromBytes_long]
  exact Nat.le_sub_one_of_lt v.isLt

/-- A word and its complement, as the one number of a CU32 object. -/
theorem fromBytes_pair (v c : W32) : fromBytes (toBytes 4 v.toNat ++ toBytes 4 c.toNat) = v.toNat + 2 ^ 32 * c.toNat := by
  rw [fromBytes_append, fromBytes_word, fromBytes_word, length_toBytes]

/-- The value of a CU32 object is the first word of the pair. -/
theorem ofNat_fromBytes_pair (v c : W32) : BitVec.ofNat 32 (fromBytes (toBytes 4 v.toNat ++ toBytes 4 c.toNat)) = v := by
  rw [fromBytes_pair]
  exact BitVec.eq_of_toNat_eq (by rw [BitVec.toNat_ofNat, Nat.add_mul_mod_self_left, Nat.mod_eq_of_lt v.isLt])

/-! ## Families of indices (R247) -/

theorem objFamily_context {c : Nat} (h : c < 4096) : objFamily (0x5000 + c) = 0x5000 := by
  unfold objFamily
  rw [if_neg (by omega), if_neg (by omega), if_pos (by omega)]

theorem objFamily_port {p : Nat} (h : p < 16) : objFamily (0x9000 + p) = 0x9000 := by
  unfold objFamily
  rw [if_neg (by omega), if_neg (by omega), if_neg (by omega), if_pos (by omega)]

theorem objFamily_channel {ch : Nat} (h : ch < 64) : objFamily (0x9100 + ch) = 0x9100 ∨ objFamily (0x9100 + ch) = 0x911C := by
  unfold objFamily
  rw [if_neg (by omega), if_neg (by omega), if_neg (by omega), if_neg (by omega), if_pos (by omega)]
  split
  · exact .inr rfl
  · exact .inl rfl

/-- An object's row is that of its family. -/
theorem objInfo_congr {i j : Nat} (h : objFamily i = objFamily j) (sub : Nat) : objInfo i sub = objInfo j sub := by
  simp only [objInfo, objNumSub, objRows, h]

theorem objInfo_context {c : Nat} (h : c < 4096) (sub : Nat) : objInfo (0x5000 + c) sub = objInfo 0x5000 sub :=
  objInfo_congr ((objFamily_context h).trans (by decide)) sub

theorem objInfo_port {p : Nat} (h : p < 16) (sub : Nat) : objInfo (0x9000 + p) sub = objInfo 0x9000 sub :=
  objInfo_congr ((objFamily_port h).trans (by decide)) sub

theorem objInfo_running {ch : Nat} (h : ch < 64) : objInfo (0x9100 + ch) 2 = some (objRw .u64 0 0 (2 ^ 64 - 1)) := by
  obtain hf | hf := objFamily_channel h
  · exact (objInfo_congr (hf.trans (by decide : _ = objFamily 0x9100)) 2).trans (by decide)
  · exact (objInfo_congr (hf.trans (by decide : _ = objFamily 0x911C)) 2).trans (by decide)

theorem objInfo_map (p : PartNo) : objInfo 0x4000 (p.val + 1) = some (objRwp .cu32 0 0 (2 ^ 64 - 1)) := by
  revert p; decide

/-! ## What a row admits (R335, steps 2 to 4) -/

/-- The row's access, type and range admit the bytes. -/
structure ObjInfo.Admits (o : ObjInfo) (privileged : Bool) (data : List Byte) : Prop where
  access : o.acc = .rw ∨ o.acc = .wo ∨ o.acc = .rwp ∧ privileged = true
  length : data.length = o.ty.len
  complement : o.ty = .cu32 → isCompl 32 (fromBytes data % 2 ^ 32) (fromBytes data / 2 ^ 32) = true
  bool : o.ty = .bool → fromBytes data ≤ 1
  counter : o.counter = false
  range : o.lo ≤ fromBytes data ∧ fromBytes data ≤ o.hi

theorem ObjInfo.judge_of_admits {o : ObjInfo} {privileged : Bool} {data : List Byte} (h : o.Admits privileged data) :
    o.judge privileged data = 0 := by
  obtain ⟨haccess, hlength, hcomplement, hbool, hcounter, hrange⟩ := h
  have hbarred : ¬ (o.acc = .ro ∨ o.acc = .const ∨ (o.acc = .rwp ∧ !privileged)) := by
    obtain h | h | ⟨h, hp⟩ := haccess <;> simp [*]
  have hpair : ¬ (o.ty = .cu32 ∧ !isCompl 32 (fromBytes data % 2 ^ 32) (fromBytes data / 2 ^ 32)) :=
    fun ⟨hty, hc⟩ => by rw [hcomplement hty] at hc; exact absurd hc (by decide)
  have hvalue : ¬ ((o.ty = .bool ∧ 1 < fromBytes data) ∨ (o.counter ∧ fromBytes data ≠ 0)) := by
    rintro (⟨hty, hv⟩ | ⟨hc, -⟩)
    · exact absurd (hbool hty) (by omega)
    · simp [hcounter] at hc
  have hinside : ¬ (!o.ty.isDomain ∧ o.acc ≠ .wo ∧ (fromBytes data < o.lo ∨ o.hi < fromBytes data)) :=
    fun ⟨_, _, hout⟩ => by omega
  rw [ObjInfo.judge, if_neg hbarred, if_neg (not_not.mpr hlength), if_neg hpair, if_neg hvalue, if_neg hinside]

theorem State.objMissing_of_ne (s : State) (x : Session) {i sub : Nat} (hscale : i ≠ 0x6041 ∨ sub < 3)
    (hlog : i ≠ 0x7000 ∨ sub ≠ 7) : s.objMissing x i sub = false := by
  have hs : ¬ (i = 0x6041 ∧ 3 ≤ sub) := by omega
  have hl : ¬ (i = 0x7000 ∧ sub = 7) := by omega
  simp only [State.objMissing, ← Bool.decide_and, decide_eq_false hs, decide_eq_false hl, Bool.false_and, Bool.or_false]

/-! ## A command that writes an object -/

/-- Command i writes the bytes to the object, whose row admits them, and Leaven serves the access. -/
structure AdmittedWrite (i : Instr) (s : State) (x : Session) (index sub : Nat) (data : List Byte) : Prop where
  served : s.served = true
  writes : exec i s = s.access x index sub (s.odWrite x index sub data).1
  admits : ∃ o, objInfo index sub = some o ∧ o.Admits (s.session x).privileged data
  present : s.objMissing x index sub = false

section
variable {i : Instr} {s t : State} {x : Session} {index sub : Nat} {data : List Byte}

theorem AdmittedWrite.objWrite_eq (h : AdmittedWrite i s x index sub data) :
    s.objWrite x index sub data = s.objEffect x index sub data := by
  obtain ⟨o, ho, hadmits⟩ := h.admits
  simp [State.objWrite, State.writeRefused, ho, h.present, ObjInfo.judge_of_admits hadmits]

/-- The effect of the write, after which the session's privilege has been used. -/
theorem AdmittedWrite.next (h : AdmittedWrite i s x index sub data) (he : s.objEffect x index sub data = (t, 0)) :
    exec i s = .next (t.touchPrivilege x) := by
  rw [h.writes, State.access, h.served, if_pos rfl, State.odWrite, h.objWrite_eq, he, if_pos rfl]

/-- A value that the object's own rule does not admit is refused with ACCESS_DENIED alone. -/
theorem AdmittedWrite.denied (h : AdmittedWrite i s x index sub data) (he : s.objEffect x index sub data = (s, cDenied)) :
    ∃ rep : Report, exec i s = .next (s.report rep) ∧ rep.code = 0x0F := by
  refine ⟨refusedAccess x index sub cDenied data.length, ?_, rfl⟩
  rw [h.writes, State.access, h.served, if_pos rfl, State.odWrite, h.objWrite_eq, he, if_neg (show cDenied ≠ 0 by decide)]

end

section
variable {s : State} (hs : s.served = true) (x : Session)
include hs

theorem advance_admitted (v : Byte) : AdmittedWrite (.advance x v) s x 0x6010 5 [v] where
  served := hs
  writes := rfl
  admits := ⟨objWo .u8, by decide, .inr (.inl rfl), rfl, nofun, nofun, rfl, Nat.zero_le _,
    Nat.le_sub_one_of_lt (fromBytes_lt [v])⟩
  present := s.objMissing_of_ne x (by decide) (by decide)

theorem ack_admitted (v : W64) : AdmittedWrite (.ack x v) s x 0x7000 2 (toBytes 8 v.toNat) where
  served := hs
  writes := rfl
  admits := ⟨objRw .u64 0 0 (2 ^ 64 - 1), by decide, .inl rfl, length_toBytes _ _, nofun, nofun, rfl, Nat.zero_le _,
    fromBytes_long_le v⟩
  present := s.objMissing_of_ne x (by decide) (by decide)

theorem nextSeqWrite_admitted (c : CtxNo) (v : W32) :
    AdmittedWrite (.nextSeqWrite x c v) s x (0x5000 + c.val) 7 (toBytes 4 v.toNat) where
  served := hs
  writes := rfl
  admits := ⟨objRw .u32 0 0 0xFFFFFFFF, (objInfo_context c.isLt 7).trans (by decide), .inl rfl, length_toBytes _ _, nofun, nofun,
    rfl, Nat.zero_le _, fromBytes_word_le v⟩
  present := s.objMissing_of_ne x (by omega) (by omega)

theorem running_admitted (ch : ChanNo) (v : W64) : AdmittedWrite (.running x ch v) s x (0x9100 + ch.val) 2 (toBytes 8 v.toNat) where
  served := hs
  writes := rfl
  admits := ⟨objRw .u64 0 0 (2 ^ 64 - 1), objInfo_running ch.isLt, .inl rfl, length_toBytes _ _, nofun, nofun, rfl, Nat.zero_le _,
    fromBytes_long_le v⟩
  present := s.objMissing_of_ne x (by omega) (by omega)

theorem enable_admitted (p : FwNo) {v : Byte} (hv : v.toNat ≤ 1) : AdmittedWrite (.enable x p v) s x (0x9000 + p.val) 3 [v] where
  served := hs
  writes := rfl
  admits := ⟨objRw .bool 1 0 1, (objInfo_port p.isLt 3).trans (by decide), .inl rfl, rfl, nofun,
    fun _ => fromBytes_singleton v ▸ hv, rfl, Nat.zero_le _, fromBytes_singleton v ▸ hv⟩
  present := s.objMissing_of_ne x (by omega) (by omega)

variable {x} (hp : (s.session x).privileged = true)
include hp

theorem partitionMapWrite_admitted (p : PartNo) (v : W32) :
    AdmittedWrite (.partitionMapWrite x p v (~~~v)) s x 0x4000 (p.val + 1) (toBytes 4 v.toNat ++ toBytes 4 (~~~v).toNat) where
  served := hs
  writes := rfl
  admits := by
    have hv := v.isLt
    have hc : (~~~v).toNat = 2 ^ 32 - 1 - v.toNat := BitVec.toNat_not
    refine ⟨objRwp .cu32 0 0 (2 ^ 64 - 1), objInfo_map p, .inr (.inr ⟨rfl, hp⟩), by simp [objRwp, OType.len], fun _ => ?_,
      nofun, rfl, Nat.zero_le _, ?_⟩
    · rw [fromBytes_pair, hc, isCompl, decide_eq_true_eq]
      omega
    · rw [fromBytes_pair, hc]
      dsimp only [objRwp]
      omega
  present := s.objMissing_of_ne x (.inl (by decide)) (.inl (by decide))

theorem delta_admitted (v : W32) : AdmittedWrite (.delta x v) s x 0x6041 2 (toBytes 4 v.toNat) where
  served := hs
  writes := rfl
  admits := ⟨objRwp .i32 0 0 0xFFFFFFFF, by decide, .inr (.inr ⟨rfl, hp⟩), length_toBytes _ _, nofun, nofun, rfl,
    Nat.zero_le _, fromBytes_word_le v⟩
  present := s.objMissing_of_ne x (by decide) (by decide)

end

/-! ## The rule of each object (R335 step 4) -/

section
variable (s : State) (x : Session)

theorem State.objEffect_advance (v : Byte) : s.objEffect x 0x6010 5 [v] = admitIf (decide (v = 1)) s s.advanceEpoch := by
  have hone : v = 1 ↔ fromBytes [v] = 1 := by rw [fromBytes_singleton, ← BitVec.toNat_inj]; rfl
  rw [decide_eq_decide.mpr hone]
  rfl

theorem State.objEffect_ack (v : W64) : s.objEffect x 0x7000 2 (toBytes 8 v.toNat) = s.writeAck v.toNat := by
  have hfamily : objFamily 0x7000 = 0x7000 := by decide
  simp only [State.objEffect, hfamily, fromBytes_long]

theorem State.objEffect_nextSeq (c : CtxNo) (v : W32) :
    s.objEffect x (0x5000 + c.val) 7 (toBytes 4 v.toNat) = s.writeContext c.val 7 v.toNat := by
  simp only [State.objEffect, objFamily_context c.isLt, Nat.add_sub_cancel_left, fromBytes_word]

theorem State.objEffect_running (ch : ChanNo) (v : W64) :
    s.objEffect x (0x9100 + ch.val) 2 (toBytes 8 v.toNat) = s.writeChannel (0x9100 + ch.val) 2 v.toNat := by
  obtain hf | hf := objFamily_channel ch.isLt <;> simp only [State.objEffect, hf, fromBytes_long]

theorem State.objEffect_enable (p : FwNo) (v : Byte) : s.objEffect x (0x9000 + p.val) 3 [v] = (s.enablePort p.val v.toNat, 0) := by
  simp only [State.objEffect, objFamily_port p.isLt, Nat.add_sub_cancel_left, fromBytes_singleton]

theorem State.objEffect_map (p : Nat) (v c : W32) :
    s.objEffect x 0x4000 (p + 1) (toBytes 4 v.toNat ++ toBytes 4 c.toNat) = s.writeMap p v := by
  have hfamily : objFamily 0x4000 = 0x4000 := by decide
  simp only [State.objEffect, hfamily, ofNat_fromBytes_pair, Nat.add_sub_cancel]

theorem State.objEffect_delta (v : W32) : s.objEffect x 0x6041 2 (toBytes 4 v.toNat) = s.writeDelta x v.toNat := by
  have hfamily : objFamily 0x6041 = 0x6041 := by decide
  simp only [State.objEffect, hfamily, fromBytes_word]

end

/-- The last privileged write of a session is all that a touch of its privilege changes. -/
theorem State.touchPrivilege_keeps_rest (s : State) (x : Session) : Keeps [.sessions] s (s.touchPrivilege x) :=
  State.touchPrivilege_keeps s x (Keeps.refl _ s) rfl

section
variable (s : State) (x : Session)

@[simp] theorem State.seeds_touchPrivilege : (s.touchPrivilege x).seeds = s.seeds :=
  (s.touchPrivilege_keeps_rest x).seeds.resolve_left (by decide)
@[simp] theorem State.log_touchPrivilege : (s.touchPrivilege x).log = s.log :=
  (s.touchPrivilege_keeps_rest x).log.resolve_left (by decide)
@[simp] theorem State.train_touchPrivilege : (s.touchPrivilege x).train = s.train :=
  (s.touchPrivilege_keeps_rest x).train.resolve_left (by decide)
@[simp] theorem State.obj_touchPrivilege (i sub : Nat) : (s.touchPrivilege x).obj i sub = s.obj i sub := by
  rw [State.obj, (s.touchPrivilege_keeps_rest x).dict.resolve_left (by decide), State.obj]
@[simp] theorem State.ctx_touchPrivilege (c : Nat) : (s.touchPrivilege x).ctx c = s.ctx c := by
  rw [State.ctx, (s.touchPrivilege_keeps_rest x).ctxs.resolve_left (by decide), State.ctx]
@[simp] theorem State.part_touchPrivilege (p : Nat) : (s.touchPrivilege x).part p = s.part p := by
  rw [State.part, (s.touchPrivilege_keeps_rest x).parts.resolve_left (by decide), State.part]
@[simp] theorem State.link_touchPrivilege (p : Nat) : (s.touchPrivilege x).link p = s.link p := by
  rw [State.link, (s.touchPrivilege_keeps_rest x).links.resolve_left (by decide), State.link]
@[simp] theorem State.chanRunning_touchPrivilege (ch : Nat) : (s.touchPrivilege x).chanRunning ch = s.chanRunning ch := by
  simp only [State.chanRunning, State.chanModel, State.obj_touchPrivilege]

end

/-! ## ADVANCE (R56) -/

theorem State.advanceEpoch_effect (s : State) :
    s.advanceEpoch.seeds = [] ∧ s.advanceEpoch.obj 0x6010 1 = 0 ∧ s.advanceEpoch.obj 0x6010 3 = 0 ∧
      s.advanceEpoch.obj 0x6010 4 = 0 ∧ s.advanceEpoch.obj 0x6010 6 = min (s.obj 0x6010 6 + 1) (2 ^ 32 - 1) := by
  have hkey {a b : Nat} (h : a ≠ b) : objKey 0x6010 a ≠ objKey 0x6010 b := by unfold objKey; omega
  have hmax : objMax 0x6010 6 = 2 ^ 32 - 1 := by decide
  have epoch : s.advanceEpoch.obj 0x6010 6 = min (s.obj 0x6010 6 + 1) (2 ^ 32 - 1) := by
    rw [State.advanceEpoch, State.bump, State.obj_setObj, hmax, State.obj_setObj_ne _ _ (hkey (by decide)),
      State.obj_setObj_ne _ _ (hkey (by decide)), State.obj_setObj_ne _ _ (hkey (by decide))]
    rfl
  refine ⟨rfl, ?_, ?_, ?_, epoch⟩
  all_goals simp [State.advanceEpoch, State.bump, State.obj_setObj_ne, hkey]

/-! ## ACK (R236) -/

theorem State.writeAck_of_within {s : State} {v : Nat} (hlo : s.log.ack ≤ v) (hhi : v ≤ s.log.head) :
    s.writeAck v = ({ s with log := { s.log with ack := v } }, 0) := by
  rw [State.writeAck, Log.acknowledge, if_neg (by omega)]

theorem State.writeAck_of_outside {s : State} {v : Nat} (h : v < s.log.ack ∨ s.log.head < v) : s.writeAck v = (s, cDenied) := by
  rw [State.writeAck, Log.acknowledge, if_pos (by omega)]

/-! ## NEXT_SEQ (R205, R277) -/

theorem State.moveRings_of_same_port {s : State} {c old : Nat} (h : (s.ctx c).hostPort = old) : s.moveRings c old = s := by
  rw [State.moveRings]
  exact if_pos (.inl h)

theorem State.writeContext_nextSeq_of_stopped {s : State} {c : Nat} (h : (s.ctx c).mode = .stopped) (v : W32) :
    s.writeContext c 7 v.toNat = (s.setCtx c ((s.ctx c).setNext v), 0) := by
  have hconfigured : (s.ctx c).configure 7 v.toNat = some ((s.ctx c).setNext v) := by simp [Context.configure]
  have hrings : (s.setCtx c ((s.ctx c).setNext v)).moveRings c (s.ctx c).hostPort = s.setCtx c ((s.ctx c).setNext v) :=
    State.moveRings_of_same_port (by rw [State.ctx_setCtx]; rfl)
  simp [State.writeContext, h, hconfigured, hrings]

theorem State.writeContext_nextSeq_of_not_stopped {s : State} {c : Nat} (h : (s.ctx c).mode ≠ .stopped) (v : Nat) :
    s.writeContext c 7 v = (s, cDenied) := by
  simp [State.writeContext, stoppedOnly, h]

/-! ## RUNNING (R303) -/

theorem State.chanRunning_setRunning (s : State) (ch v : Nat) : (s.setRunning ch v).chanRunning ch = v := by
  simp [State.chanRunning, State.setRunning]

theorem State.writeChannel_running_of_free {s : State} {ch : Nat} (h : ch ∉ s.chanUse) (v : Nat) :
    s.writeChannel (0x9100 + ch) 2 v = (s.setRunning ch v, 0) := by
  simp [State.writeChannel, h]

theorem State.writeChannel_running_of_used {s : State} {ch : Nat} (h : ch ∈ s.chanUse) (v : Nat) :
    s.writeChannel (0x9100 + ch) 2 v = (s, cDenied) := by
  simp [State.writeChannel, h]

/-! ## ENABLE (R281, R284): what a port going down sends leaves every port's state -/

/-- From s to t no port changes its state. -/
def SameLinkStates (s t : State) : Prop := ∀ p, (t.link p).state = (s.link p).state

theorem SameLinkStates.trans {s t u : State} (h : SameLinkStates s t) (g : SameLinkStates t u) : SameLinkStates s u :=
  fun p => (g p).trans (h p)

theorem SameLinkStates.of_links {s t : State} (h : t.links = s.links) : SameLinkStates s t :=
  fun p => by rw [State.link, h, State.link]

theorem SameLinkStates.foldl {β : Type} {f : State → β → State} (hf : ∀ u y, SameLinkStates u (f u y)) (l : List β)
    (s : State) : SameLinkStates s (l.foldl f s) :=
  List.foldlRecOn l f (fun _ => rfl) fun u hu y _ => hu.trans (hf u y)

theorem Link.state_push (l : Link) (f : Flit) : (l.push f).state = l.state := by
  unfold Link.push Link.transmit
  split <;> rfl

theorem State.sendOn_linkStates (s : State) (p : Nat) (f : Flit) : SameLinkStates s (s.sendOn p f) := by
  intro q
  unfold State.sendOn
  split
  · rfl
  · by_cases hq : q = p
    · rw [hq, State.link_setLink, Link.state_push]
    · rw [State.link_setLink_ne _ _ hq]

theorem State.sendTo_linkStates (s : State) (f : Flit) : SameLinkStates s (s.sendTo f) := by
  unfold State.sendTo
  split
  · refine SameLinkStates.trans (.of_links ?_) (State.sendOn_linkStates _ _ _)
    split <;> rfl
  · exact fun _ => rfl

theorem State.portsChanged_linkStates (s : State) : SameLinkStates s s.portsChanged := by
  have hparent := State.recheckParent_keeps (T := [.time]) s.sendMaps (Keeps.refl _ _) rfl
  refine SameLinkStates.trans ?sent (.of_links (hparent.links.resolve_left (by decide)))
  unfold State.sendMaps
  split
  · exact fun _ => rfl
  · exact SameLinkStates.trans (.of_links (t := s.remap) rfl)
      (SameLinkStates.foldl (fun u _ => SameLinkStates.foldl (fun w _ => w.sendTo_linkStates _) _ u) _ _)

/-- The power group of a port is on. -/
def State.groupOn (s : State) (p : Nat) : State :=
  { s with power := { s.power with fwGroup := tset .on s.power.fwGroup (p / 4) .on } }

theorem State.enablePort_eq (s : State) (p v : Nat) :
    s.enablePort p v =
      if (s.link p).state = .failed then s.setObj (0x9000 + p) 3 v
      else if v = 0 then (s.setObj (0x9000 + p) 3 v).linkDown p
      else if (s.link p).state = .down then ((s.setObj (0x9000 + p) 3 v).groupOn p).setLink p { s.link p with state := .training }
      else (s.setObj (0x9000 + p) 3 v).groupOn p := rfl

section
variable {s : State} {p : Nat}

theorem State.enablePort_zero_state (h : (s.link p).state ≠ .failed) : ((s.enablePort p 0).link p).state = .down := by
  rw [State.enablePort_eq, if_neg h, if_pos rfl, State.linkDown, State.portsChanged_linkStates, State.link_setLink]
  rfl

theorem State.enablePort_one_of_down (h : (s.link p).state = .down) : ((s.enablePort p 1).link p).state = .training := by
  rw [State.enablePort_eq, if_neg (by rw [h]; decide), if_neg Nat.one_ne_zero, if_pos h, State.link_setLink]

/-- A port that trains, works or has failed keeps its link under an ENABLE of 1. -/
theorem State.enablePort_one_of_not_down (h : (s.link p).state ≠ .down) : (s.enablePort p 1).link p = s.link p := by
  rw [State.enablePort_eq, if_neg Nat.one_ne_zero, if_neg h]
  split <;> rfl

theorem State.enablePort_of_failed (h : (s.link p).state = .failed) (v : Nat) : (s.enablePort p v).link p = s.link p := by
  rw [State.enablePort_eq, if_pos h]
  rfl

end

/-! ## PARTITION_MAP_WRITE (R204, R207) -/

theorem State.part_clearRun (s : State) (p : Nat) (b : Binding) (q : Nat) : (s.clearRun p b).part q = s.part q := by
  have hkeeps := State.clearRun_keeps (T := [.dict, .cores, .movers, .folds, .chanUse]) s p b (Keeps.refl _ s) rfl
  rw [State.part, hkeeps.parts.resolve_left (by decide), State.part]

theorem State.part_pinBinding (s : State) (b : Binding) (pin : Bool) (q : Nat) : (s.pinBinding b pin).part q = s.part q := by
  have hkeeps := State.pinBinding_keeps (T := [.dict, .log, .hbm, .hbmPoison, .hbmEcc, .larders]) s b pin (Keeps.refl _ s) rfl
  rw [State.part, hkeeps.parts.resolve_left (by decide), State.part]

/-- Of the partitions, unbinding changes the one that it unbinds, which then has no binding. -/
theorem State.part_unbind (s : State) (p : Nat) :
    ((s.unbind p).part p).binding = none ∧ ∀ q, q ≠ p → (s.unbind p).part q = s.part q := by
  unfold State.unbind
  split
  case h_1 hnone => exact ⟨hnone, fun _ _ => rfl⟩
  case h_2 b _ =>
    refine ⟨congrArg Part.binding (State.part_setPart _ _ _), fun q hq => ?_⟩
    refine (State.part_setPart_ne _ _ hq).trans ?_
    exact (State.part_pinBinding _ _ _ _).trans (State.part_clearRun _ _ _ _)

/-- A hearth that leaves the map notes the time, one that is in it comes on (R318, R133). -/
def State.moveHearth (old new : W32) (s : State) (h : Nat) : State :=
  if old.getLsbD h ∧ !new.getLsbD h then s.leaves h else if new.getLsbD h then s.hearthOn h else s

theorem State.part_foldl_moveHearth (old new : W32) (l : List Nat) (s : State) (q : Nat) :
    (l.foldl (State.moveHearth old new) s).part q = s.part q := by
  have hkeeps : Keeps [.power, .cores] s (l.foldl (State.moveHearth old new) s) :=
    foldl_keeps (fun u h hu => Keeps.ite (State.leaves_keeps u h hu rfl) (Keeps.ite (State.hearthOn_keeps u h hu rfl) hu))
      (Keeps.refl _ s)
  rw [State.part, hkeeps.parts.resolve_left (by decide), State.part]

/-- The map meets that of another partition. -/
def State.mapClash (s : State) (p : Nat) (v : W32) : Prop := ∃ q, q < 16 ∧ q ≠ p ∧ (s.part q).map &&& v ≠ 0

/-- Every context of the partition is STOPPED and holds no item. -/
def State.partIdle (s : State) (p : Nat) : Prop :=
  ∀ c ∈ s.ctxIds, (s.ctx c).partition = p → (s.ctx c).mode = .stopped ∧ (s.ctx c).items = []

section
variable {s : State} {p : Nat} {v : W32}

theorem State.mapRefused_iff :
    (2 ^ 16 ≤ v.toNat ∨ ((List.range 16).any fun q => decide (q ≠ p) && decide ((s.part q).map &&& v ≠ 0)) = true ∨
      (!s.ctxIds.all fun c => decide ((s.ctx c).partition ≠ p) ||
        (decide ((s.ctx c).mode = .stopped) && (s.ctx c).items.isEmpty)) = true) ↔
    2 ^ 16 ≤ v.toNat ∨ s.mapClash p v ∨ ¬ s.partIdle p := by
  simp [State.mapClash, State.partIdle, imp_iff_not_or]

theorem State.writeMap_of_admitted (hv : v.toNat < 2 ^ 16) (hclash : ¬ s.mapClash p v) (hidle : s.partIdle p) :
    ∃ t, s.writeMap p v = (t, 0) ∧ (t.part p).map = v ∧ (t.part p).mapC = ~~~v ∧ (t.part p).binding = none ∧
      ∀ q, q ≠ p → t.part q = s.part q := by
  obtain ⟨hnone, hothers⟩ := s.part_unbind p
  have hmoved := (s.unbind p).part_foldl_moveHearth ((s.unbind p).part p).map v (List.range 16)
  have hadmit : ¬ (2 ^ 16 ≤ v.toNat ∨ s.mapClash p v ∨ ¬ s.partIdle p) := by
    rw [not_or, not_or, not_not]
    exact ⟨by omega, hclash, hidle⟩
  refine ⟨_, if_neg (mt State.mapRefused_iff.mp hadmit), ?_⟩
  rw [State.part_setPart]
  refine ⟨rfl, rfl, (congrArg Part.binding (hmoved p)).trans hnone, fun q hq => ?_⟩
  exact (State.part_setPart_ne _ _ hq).trans ((hmoved q).trans (hothers q hq))

theorem State.writeMap_of_refused (h : 2 ^ 16 ≤ v.toNat ∨ s.mapClash p v ∨ ¬ s.partIdle p) :
    s.writeMap p v = (s, cDenied) :=
  if_pos (State.mapRefused_iff.mpr h)

end

/-! ## DELTA (R203) -/

theorem signed_toNat (v : W32) : signed v.toNat 32 = v.toInt := by
  rw [signed, BitVec.toInt_eq_toNat_cond]
  split <;> split <;> omega

section
variable {s : State} {x : Session} {r : ScaleRec} {v : W32}

theorem State.writeDelta_of_within (hr : s.selectedRec (s.session x).scaleSelect = some r)
    (hlo : r.dmin ≤ v.toInt) (hhi : v.toInt ≤ r.dmax) :
    s.writeDelta x v.toNat =
      let c := (scaleSelected (s.session x).scaleSelect).1
      let g := (scaleSelected (s.session x).scaleSelect).2
      let rest := s.train.pendingDelta.filter fun e => !(decide (e.1 = c) && decide (e.2.1 = r.program) && decide (e.2.2.1 = g))
      ({ s with train := { s.train with pendingDelta := (c, r.program, g, v.toInt) :: rest } }, 0) := by
  simp only [State.writeDelta, hr, signed_toNat]
  rw [if_neg (by omega)]

theorem State.writeDelta_of_outside (hr : s.selectedRec (s.session x).scaleSelect = some r)
    (h : v.toInt < r.dmin ∨ r.dmax < v.toInt) : s.writeDelta x v.toNat = (s, cDenied) := by
  simp only [State.writeDelta, hr, signed_toNat]
  rw [if_pos h]

end

/-! ## O38 -/

/-- Settles O38: each command's row admits its bytes, so its object's own rule decides the write and its effect. -/
theorem objectCommandsTakeEffect : Obligations.ObjectCommandsTakeEffect := by
  unfold Obligations.ObjectCommandsTakeEffect
  intro x s hs refused
  refine ⟨?advance, ?advanceRefused, ?ack, ?ackRefused, ?nextSeq, ?nextSeqRefused, ?running, ?runningRefused,
    fun p hp => ⟨?enable0, ?enableDown, ?enableUp⟩, ?enableFailed, fun p v hpriv => ⟨?map, ?mapRefused⟩,
    fun v r hpriv hr => ⟨?delta, ?deltaRefused⟩⟩
  case advance =>
    refine ⟨_, (advance_admitted hs x 1).next (s.objEffect_advance x 1), ?_⟩
    simpa only [State.seeds_touchPrivilege, State.obj_touchPrivilege] using s.advanceEpoch_effect
  case advanceRefused =>
    intro v hv
    exact (advance_admitted hs x v).denied ((s.objEffect_advance x v).trans (by rw [decide_eq_false hv]; rfl))
  case ack =>
    intro v hlo hhi
    exact ⟨_, (ack_admitted hs x v).next ((s.objEffect_ack x v).trans (State.writeAck_of_within hlo hhi)),
      State.log_touchPrivilege _ x⟩
  case ackRefused =>
    intro v h
    exact (ack_admitted hs x v).denied ((s.objEffect_ack x v).trans (State.writeAck_of_outside h))
  case nextSeq =>
    intro c v hstopped
    have heffect := (s.objEffect_nextSeq x c v).trans (State.writeContext_nextSeq_of_stopped hstopped v)
    refine ⟨_, (nextSeqWrite_admitted hs x c v).next heffect, ?_, fun j hj => ?_⟩
    · rw [State.ctx_touchPrivilege, State.ctx_setCtx, Context.setNext]
    · rw [State.ctx_touchPrivilege, State.ctx_setCtx_ne _ _ hj]
  case nextSeqRefused =>
    intro c v hmode
    exact (nextSeqWrite_admitted hs x c v).denied
      ((s.objEffect_nextSeq x c v).trans (State.writeContext_nextSeq_of_not_stopped hmode _))
  case running =>
    intro ch v hfree
    have heffect := (s.objEffect_running x ch v).trans (State.writeChannel_running_of_free hfree v.toNat)
    refine ⟨_, (running_admitted hs x ch v).next heffect, ?_⟩
    rw [State.chanRunning_touchPrivilege, State.chanRunning_setRunning]
  case runningRefused =>
    intro ch v hused
    exact (running_admitted hs x ch v).denied ((s.objEffect_running x ch v).trans (State.writeChannel_running_of_used hused _))
  case enable0 =>
    refine ⟨_, (enable_admitted hs x p (by decide)).next (s.objEffect_enable x p 0), ?_⟩
    rw [State.link_touchPrivilege]
    exact State.enablePort_zero_state hp
  case enableDown =>
    intro hdown
    refine ⟨_, (enable_admitted hs x p (by decide)).next (s.objEffect_enable x p 1), ?_⟩
    rw [State.link_touchPrivilege]
    exact State.enablePort_one_of_down hdown
  case enableUp =>
    intro hup
    refine ⟨_, (enable_admitted hs x p (by decide)).next (s.objEffect_enable x p 1), ?_⟩
    rw [State.link_touchPrivilege]
    exact congrArg Link.state (State.enablePort_one_of_not_down hup)
  case enableFailed =>
    intro p v hfailed hv
    refine ⟨_, (enable_admitted hs x p hv).next (s.objEffect_enable x p v), ?_⟩
    rw [State.link_touchPrivilege, State.enablePort_of_failed hfailed]
  case map =>
    intro hv hclash hidle
    obtain ⟨t, ht, heffect⟩ := State.writeMap_of_admitted hv hclash hidle
    refine ⟨_, (partitionMapWrite_admitted hs hpriv p v).next ((s.objEffect_map x p v _).trans ht), ?_⟩
    simpa only [State.part_touchPrivilege] using heffect
  case mapRefused =>
    intro h
    exact (partitionMapWrite_admitted hs hpriv p v).denied ((s.objEffect_map x p v _).trans (State.writeMap_of_refused h))
  case delta =>
    intro hlo hhi
    exact ⟨_, (delta_admitted hs hpriv v).next ((s.objEffect_delta x v).trans (State.writeDelta_of_within hr hlo hhi)),
      State.train_touchPrivilege _ x⟩
  case deltaRefused =>
    intro h
    exact (delta_admitted hs hpriv v).denied ((s.objEffect_delta x v).trans (State.writeDelta_of_outside hr h))

end Sys2Proof.Machine
end

section
/-!
PROOFS. Alignment and accumulation (R66 to R70): what a partial aligned to an anchor becomes, and that entries which no overflow bit
marks hold exact sums, whatever the order and the split.
-/
namespace Sys2Proof.Machine

/-! ## The entry's range (R68) -/

section
variable (acc16 : Bool)

theorem entryLo_le_entryHi : entryLo acc16 ≤ entryHi acc16 := by cases acc16 <;> decide

theorem entryFits_zero : entryFits acc16 0 = true := by cases acc16 <;> decide

variable {acc16} {x : Int}

theorem entryFits_iff : entryFits acc16 x = true ↔ entryLo acc16 ≤ x ∧ x ≤ entryHi acc16 := by
  simp [entryFits]

theorem entrySat_of_fits (h : entryFits acc16 x = true) : entrySat acc16 x = x := by
  obtain ⟨hlo, hhi⟩ := entryFits_iff.mp h
  rw [entrySat, max_eq_left hlo, min_eq_left hhi]

theorem entrySat_of_below (h : x < entryLo acc16) : entrySat acc16 x = entryLo acc16 := by
  rw [entrySat, max_eq_right h.le, min_eq_left (entryLo_le_entryHi acc16)]

theorem entrySat_of_above (h : entryHi acc16 < x) : entrySat acc16 x = entryHi acc16 := by
  rw [entrySat, max_eq_left ((entryLo_le_entryHi acc16).trans h.le), min_eq_right h.le]

end

/-! ## Far right shifts of a partial (R66) -/

section
variable {p : Int} {k : Nat}

/-- A partial lies below a quarter of a quantum of 47 or more bits. -/
theorem four_mul_abs_lt_two_pow (hp : |p| < 2 ^ 37) (hk : 47 ≤ k) : 4 * |p| < 2 ^ k := by
  have hpow : (2 : Int) ^ 47 ≤ 2 ^ k := pow_le_pow_right₀ (by norm_num) hk
  omega

theorem roundShift_rhe_of_far (hp : |p| < 2 ^ 37) (hk : 47 ≤ k) (noise : Nat) : roundShift p k .rhe noise = 0 := by
  have hquarter := four_mul_abs_lt_two_pow hp hk
  have hnear := (roundShift_rhe_near p k noise).1
  by_contra hne
  have hquantum : 2 ^ k ≤ |roundShift p k .rhe noise * 2 ^ k| := by
    rw [abs_mul, abs_of_pos (by positivity : (0 : Int) < 2 ^ k)]
    exact le_mul_of_one_le_left (by positivity) (Int.one_le_abs hne)
  have htriangle := abs_sub_abs_le_abs_sub (roundShift p k .rhe noise * 2 ^ k) p
  have := abs_nonneg p
  omega

theorem emod_two_pow_of_far (hp : |p| < 2 ^ 37) (h0 : p ≠ 0) (hk : 47 ≤ k) : p % 2 ^ k ≠ 0 := by
  intro h
  have hquarter := four_mul_abs_lt_two_pow hp hk
  exact h0 (Int.eq_zero_of_abs_lt_dvd (Int.dvd_of_emod_eq_zero h) (by have := abs_nonneg p; omega))

theorem roundShift_zero_left (k : Nat) (mode : RMode) (noise : Nat) : roundShift 0 k mode noise = 0 := by
  have h := roundShift_mul_two_pow_of_exact 0 k noise mode (by simp)
  simpa using h

end

/-! ## Alignment (R66) -/

/-- A partial shifted by s bits, to the left where s is positive; a right shift rounds half to even. -/
def shifted (p s : Int) : Int := if 0 ≤ s then p * 2 ^ s.toNat else roundShift p (-s).toNat .rhe 0

section
variable {p s : Int}

theorem shifted_zero_left (s : Int) : shifted 0 s = 0 := by
  rw [shifted, zero_mul, roundShift_zero_left, ite_self]

theorem shifted_of_far (hp : |p| < 2 ^ 37) (hs : s ≤ -47) : shifted p s = 0 := by
  rw [shifted, if_neg (by omega), roundShift_rhe_of_far hp (by omega)]

theorem shiftCount_eq_min (s : Int) : (if 0 ≤ s then 0 else min (-s).toNat 47) = min (-s).toNat 47 := by
  split <;> omega

/-- The shifter's limit of 47 bits does not change the value. -/
theorem shifted_min (hp : |p| < 2 ^ 37) (s : Int) :
    (if 0 ≤ s then p * 2 ^ s.toNat else roundShift p (min (-s).toNat 47) .rhe 0) = shifted p s := by
  rw [shifted]
  rcases Nat.le_total (-s).toNat 47 with hle | hfar
  · rw [min_eq_left hle]
  · rw [min_eq_right hfar, roundShift_rhe_of_far hp le_rfl, roundShift_rhe_of_far hp hfar]

/-- Nor does it change whether something of a partial is discarded. -/
theorem discards_min (hp : |p| < 2 ^ 37) (h0 : p ≠ 0) (s : Int) :
    discards p (min (-s).toNat 47) = discards p (-s).toNat := by
  rcases Nat.le_total (-s).toNat 47 with hle | hfar
  · rw [min_eq_left hle]
  · have hboth : p % 2 ^ 47 ≠ 0 ∧ p % 2 ^ (-s).toNat ≠ 0 := ⟨emod_two_pow_of_far hp h0 le_rfl, emod_two_pow_of_far hp h0 hfar⟩
    rw [min_eq_right hfar, discards, discards, decide_eq_true hboth.1, decide_eq_true hboth.2]

/-- What the alignment of a partial reports of a value that fits. -/
def alignReport (p s : Int) : AlignKind :=
  if discards p (-s).toNat then if shifted p s = 0 then .zeroed else .inexact else .exact

theorem alignReport_exact (h : p = 0 ∨ 0 ≤ s ∨ p % 2 ^ (-s).toNat = 0) : alignReport p s = .exact := by
  refine if_neg (not_not_intro ?_ ∘ of_decide_eq_true)
  rcases h with rfl | hs | hmod
  · exact Int.zero_emod _
  · rw [Int.toNat_of_nonpos (by omega), pow_zero, Int.emod_one]
  · exact hmod

theorem alignTo_of_small (acc16 : Bool) (e a : Int) (hp : |p| < 2 ^ 37) :
    alignTo acc16 p e a =
      if entryFits acc16 (shifted p (e - a)) then (shifted p (e - a), alignReport p (e - a))
      else (entrySat acc16 (shifted p (e - a)), .overflow) := by
  by_cases h0 : p = 0
  · subst h0
    rw [shifted_zero_left, entryFits_zero, alignReport_exact (.inl rfl)]
    rfl
  simp only [alignTo, if_neg h0, shiftCount_eq_min, discards_min hp h0, shifted_min hp, alignReport]
  by_cases hzero : shifted p (e - a) = 0
  · rw [hzero, entryFits_zero]
    cases discards p (-(e - a)).toNat <;> rfl
  · rw [if_neg hzero, if_neg hzero]
    cases entryFits acc16 (shifted p (e - a)) <;> cases discards p (-(e - a)).toNat <;> rfl

end

/-! ## O21 -/

/-- Settles O21: within a partial's range the shifter's limit of 47 bits cannot be seen, so value and report follow the shift. -/
theorem alignmentShiftsRoundsAndSaturates : Obligations.AlignmentShiftsRoundsAndSaturates := by
  unfold Obligations.AlignmentShiftsRoundsAndSaturates
  intro acc16 p e a hp out s v
  have hout : out = if entryFits acc16 v then (v, alignReport p s) else (entrySat acc16 v, .overflow) :=
    alignTo_of_small acc16 e a hp
  refine ⟨fun h => ?below, fun h => ?above, fun hlo hhi => ?within, shifted_of_far hp⟩
  case below => rw [hout, if_neg (mt entryFits_iff.mp (by omega)), entrySat_of_below h]
  case above => rw [hout, if_neg (mt entryFits_iff.mp (by omega)), entrySat_of_above h]
  case within =>
    rw [hout, if_pos (entryFits_iff.mpr ⟨hlo, hhi⟩)]
    exact ⟨rfl, alignReport_exact, fun _ _ hmod => if_pos (decide_eq_true hmod)⟩

/-! ## Sums that no overflow bit marks (R67, R68, R70) -/

section
variable {acc16 : Bool}

theorem accAdd_exact {e : Entry} {v : Int} {flag : Bool} (h : (accAdd acc16 e v flag).ovf = false) :
    e.ovf = false ∧ (accAdd acc16 e v flag).val = e.val + v := by
  simp only [accAdd, Bool.or_eq_false_iff, Bool.not_eq_false'] at h
  obtain ⟨⟨he, -⟩, hfits⟩ := h
  exact ⟨he, entrySat_of_fits hfits⟩

theorem accAlign_exact {e : Entry} {p ep a : Int} (h : (accAlign acc16 e p ep a).1.ovf = false) :
    e.ovf = false ∧ (accAlign acc16 e p ep a).1.val = e.val + (alignTo acc16 p ep a).1 :=
  accAdd_exact h

end

/-- Additions that are exact while they set no bit add up to the exact sum while the last entry's bit is clear. -/
theorem foldl_exact {β : Type} {f : Entry → β → Entry} {w : β → Int}
    (hf : ∀ e x, (f e x).ovf = false → e.ovf = false ∧ (f e x).val = e.val + w x) (xs : List β) (e : Entry)
    (h : (xs.foldl f e).ovf = false) : e.ovf = false ∧ (xs.foldl f e).val = e.val + (xs.map w).sum := by
  induction xs generalizing e with
  | nil => simpa using h
  | cons x xs ih =>
    obtain ⟨hx, hval⟩ := ih (f e x) h
    obtain ⟨he, hstep⟩ := hf e x hx
    refine ⟨he, ?_⟩
    rw [List.foldl_cons, hval, hstep, List.map_cons, List.sum_cons, add_assoc]

section
variable (acc16 : Bool) (anchor : Int)

/-- The exact sum of the aligned partials of a list of K-blocks. -/
def alignedSum (bs : List (Int × Int)) : Int := (bs.map fun x => (alignTo acc16 x.1 x.2 anchor).1).sum

theorem addBlocks_exact {e : Entry} {bs : List (Int × Int)} (h : (addBlocks acc16 anchor e bs).ovf = false) :
    e.ovf = false ∧ (addBlocks acc16 anchor e bs).val = e.val + alignedSum acc16 anchor bs :=
  foldl_exact (w := fun x : Int × Int => (alignTo acc16 x.1 x.2 anchor).1) (fun _ _ => accAlign_exact) bs e h

/-- An entry with the entry of a part added to it, the part accumulated on its own (R70). -/
def mergePart (e : Entry) (ps : List (Int × Int)) : Entry :=
  accAdd acc16 e (addBlocks acc16 anchor Entry.reset ps).val (addBlocks acc16 anchor Entry.reset ps).ovf

theorem mergePart_exact {e : Entry} {ps : List (Int × Int)} (h : (mergePart acc16 anchor e ps).ovf = false) :
    e.ovf = false ∧ (mergePart acc16 anchor e ps).val = e.val + alignedSum acc16 anchor ps := by
  obtain ⟨he, hval⟩ := accAdd_exact h
  have hpart : (addBlocks acc16 anchor Entry.reset ps).ovf = false := by
    simp only [mergePart, accAdd, Bool.or_eq_false_iff] at h
    exact h.1.2
  refine ⟨he, hval.trans ?_⟩
  rw [(addBlocks_exact acc16 anchor hpart).2, show Entry.reset.val = 0 from rfl, zero_add]

theorem alignedSum_flatten (parts : List (List (Int × Int))) :
    (parts.map (alignedSum acc16 anchor)).sum = alignedSum acc16 anchor parts.flatten := by
  rw [alignedSum, List.map_flatten, List.sum_flatten, List.map_map]
  rfl

theorem alignedSum_perm {bs cs : List (Int × Int)} (h : bs.Perm cs) : alignedSum acc16 anchor bs = alignedSum acc16 anchor cs :=
  (h.map _).sum_eq

end

/-! ## O22 -/

/-- Settles O22: unflagged, the whole and the merge each hold the exact sum of their aligned partials, which neither order nor
split changes; a bit that a later entry does not have, no earlier one had. -/
theorem reductionsAreExactForAnyOrderAndSplit : Obligations.ReductionsAreExactForAnyOrderAndSplit := by
  unfold Obligations.ReductionsAreExactForAnyOrderAndSplit
  intro acc16 anchor bs parts hperm zero whole merged
  have hwhole (h : whole.ovf = false) : whole.val = alignedSum acc16 anchor bs :=
    (addBlocks_exact acc16 anchor h).2.trans (zero_add _)
  have hmerged (h : merged.ovf = false) : merged.val = alignedSum acc16 anchor parts.flatten :=
    calc merged.val = 0 + (parts.map (alignedSum acc16 anchor)).sum :=
          (foldl_exact (f := mergePart acc16 anchor) (fun _ _ => mergePart_exact acc16 anchor) parts zero h).2
      _ = alignedSum acc16 anchor parts.flatten := by rw [zero_add, alignedSum_flatten]
  refine ⟨hwhole, fun hw hm => ?split, fun e he => ?sticky⟩
  case split => rw [hwhole hw, hmerged hm, alignedSum_perm acc16 anchor hperm]
  case sticky =>
    by_contra hclear
    have := (addBlocks_exact acc16 anchor (Bool.not_eq_true _ ▸ hclear)).1
    simp [he] at this

end Sys2Proof.Machine
end

section
/-!
PROOFS. The issue of the operations that take a slot (R74): what ACC_TILE_BUSY and the wait of CHAIN leave behind, and which of the
commands' answers the slots decide.
-/
namespace Sys2Proof.Machine

/-! ## A fault that a core meets (R225, R230) -/

section
variable (s : State) (x : Job) (k op : Nat) (e : CFault)

theorem State.log_raiseFault (p : Nat) (f : RunFault) : (s.raiseFault p f).log = s.log :=
  (State.raiseFault_keeps (T := [.parts]) _ _ _ (Keeps.refl _ s) rfl).log.resolve_left (by decide)

theorem State.fault_raiseFault {s : State} {p : Nat} (f : RunFault) (h : (s.part p).fault = none) :
    ((s.raiseFault p f).part p).fault = some f := by
  simp [State.raiseFault, h]

/-- The fault's one report names its code and its address. -/
theorem State.waiting_opFault : ∃ rep, (s.opFault x k op e).log.waiting = s.log.waiting ++ [rep] ∧ rep.code = e.code ∧
    rep.address = e.address ∧ rep.addrKind = e.kind := by
  rw [State.opFault, State.jobFault, State.log_raiseFault]
  exact ⟨_, rfl, rfl, rfl, rfl⟩

/-- The first fault of an item stops it. -/
theorem State.fault_opFault {s : State} (h : (s.part x.part).fault = none) :
    ((s.opFault x k op e).part x.part).fault = some ⟨e.code, op, codePermanent e.code, !codePermanent e.code, false⟩ :=
  State.fault_raiseFault _ h

end

/-! ## ACC_TILE_BUSY or the wait of CHAIN -/

/-- How an operation whose slots are busy leaves its core: issued, and waiting under CHAIN or stopped for good without it. -/
structure BusyAnswer (s t : State) (x : Job) (k i : Nat) : Prop where
  issued : (t.core k).next = i + 1
  waits : (x.bd.prog.op i).chain = true → (t.core k).chainWait = some i ∧ t.log = s.log
  stops : (x.bd.prog.op i).chain = false → (s.part x.part).fault = none →
    (t.part x.part).fault = some ⟨0x08, i, true, false, false⟩ ∧
      ∃ rep, t.log.waiting = s.log.waiting ++ [rep] ∧ rep.code = 0x08 ∧ rep.address = i ∧ rep.addrKind = .operation

theorem State.busyOrWait_answer (s : State) (x : Job) (k i : Nat) : BusyAnswer s (s.busyOrWait x k i) x k i := by
  have hnext : ((s.issued k i).core k).next = i + 1 := congrArg Core.next (s.core_setCore k _)
  unfold State.busyOrWait
  dsimp only
  cases hchain : (x.bd.prog.op i).chain
  case true =>
    simp only [if_true]
    refine ⟨?_, fun _ => ⟨?_, rfl⟩, fun h => absurd (hchain.symm.trans h) (by decide)⟩
    · rw [State.core_setCore, hnext]
    · rw [State.core_setCore]
  case false =>
    simp only [Bool.false_eq_true, if_false]
    refine ⟨?_, fun h => absurd (hchain.symm.trans h) (by decide), fun _ hfault => ⟨?_, ?_⟩⟩
    · rw [State.core_opFault, hnext]
    · exact State.fault_opFault _ _ _ _ hfault
    · exact (s.issued k i).waiting_opFault x k i _

/-! ## The commands -/

section
variable {c : CoreId} {s : State} {x : Job} {i : Nat}

theorem exec_matmul_of_ready (h : s.issue (idKey c) kMatmul = some (x, i))
    (hready : x.bd.pairs i (idKey c) = [] ∨ (s.core (idKey c)).slotsReady (x.bd.prog.op i) = true) :
    exec (.matmul c) s = .next (s.startProduct x (idKey c) i) := by
  simp only [exec, execMatmul, h, List.isEmpty_iff, if_pos hready]

theorem exec_matmul_of_busy (h : s.issue (idKey c) kMatmul = some (x, i)) (hpairs : x.bd.pairs i (idKey c) ≠ [])
    (hbusy : (s.core (idKey c)).slotsReady (x.bd.prog.op i) = false) :
    exec (.matmul c) s = .next (s.busyOrWait x (idKey c) i) := by
  simp [exec, execMatmul, h, hpairs, hbusy]

theorem exec_accRead_of_issue (h : s.issue (idKey c) kAccRead = some (x, i)) :
    exec (.accRead c) s =
      .next (if (s.core (idKey c)).accBusy (x.bd.prog.op i) then s.busyOrWait x (idKey c) i else s.accRead x (idKey c) i) := by
  simp only [exec, execAccRead, h, apply_ite Host.Outcome.next]

theorem exec_accSpill_of_issue (h : s.issue (idKey c) kAccSpill = some (x, i)) :
    exec (.accSpill c) s =
      .next (if (s.core (idKey c)).accBusy (x.bd.prog.op i) then s.busyOrWait x (idKey c) i else s.accSpill x (idKey c) i) := by
  simp only [exec, execAccSpill, h, apply_ite Host.Outcome.next]

theorem exec_accFill_of_issue (env : StepEnv) (h : s.issue (idKey c) kAccFill = some (x, i)) :
    exec (.accFill c env) s =
      .next (if ((s.core (idKey c)).slot (x.bd.prog.op i).slot).phase = .free then s.accFill x (idKey c) i env
        else s.busyOrWait x (idKey c) i) := by
  simp only [exec, execAccFill, h, apply_ite Host.Outcome.next]

theorem exec_chainIssue_of_ready (hjob : s.coreJob (idKey c) = some x) (hwait : (s.core (idKey c)).chainWait = some i)
    (hready : (s.core (idKey c)).slotsReady (x.bd.prog.op i) = true) :
    exec (.chainIssue c) s = .next (s.chainStart x (idKey c) i) := by
  simp only [exec, execChainIssue, hjob, hwait, hready, if_true]

theorem exec_arrayStep_of_chainWait (env : StepEnv) (hjob : s.coreJob (idKey c) = some x)
    (hwait : (s.core (idKey c)).chainWait = some i) (hrun : (s.core (idKey c)).run = none)
    (hbusy : (s.core (idKey c)).slotsReady (x.bd.prog.op i) = false) (hrel : (s.core (idKey c)).releaseDue = false) :
    exec (.arrayStep c env) s =
      .next (((((s.upsets env.upsets).mapCore (idKey c) Core.tickDrain).bumpH 0x3030 (idKey c / 1088) 4 1).countStretched (idKey c)
        (if env.backPressure.isEmpty then 0 else 1)).glazeConflict x (idKey c) [] (s.glazeUses x (idKey c))) := by
  have hstretch : countIf (!env.backPressure.isEmpty) = if env.backPressure.isEmpty then 0 else 1 := by
    cases env.backPressure.isEmpty <;> rfl
  simp [exec, execArrayStep, hjob, hrun, hwait, hbusy, hrel, hstretch]

end

/-! ## O26 -/

/-- Settles O26: each command by the slots it names; a busy slot has one answer for all of them. -/
theorem slotOperationsStartFaultOrWait : Obligations.SlotOperationsStartFaultOrWait := by
  unfold Obligations.SlotOperationsStartFaultOrWait
  intro c env s x i k r busy
  have answer {res : Result} (h : res = .next (s.busyOrWait x k i)) : busy res := by
    obtain ⟨issued, waits, stops⟩ := s.busyOrWait_answer x k i
    exact ⟨_, h, issued, waits, stops⟩
  refine ⟨fun h => ⟨exec_matmul_of_ready h, fun hpairs hbusy => answer (exec_matmul_of_busy h hpairs hbusy)⟩,
    fun h => ⟨fun hfree => ?readStarts, fun hbusy => answer ?readBusy⟩,
    fun h => ⟨fun hfree => ?spillStarts, fun hbusy => answer ?spillBusy⟩,
    fun h => ⟨fun hfree => ?fillStarts, fun hbusy => answer ?fillBusy⟩,
    fun hjob hwait => ⟨exec_chainIssue_of_ready hjob hwait, exec_arrayStep_of_chainWait env hjob hwait⟩⟩
  case readStarts => rw [exec_accRead_of_issue h, hfree]; rfl
  case readBusy => rw [exec_accRead_of_issue h, if_pos hbusy]
  case spillStarts => rw [exec_accSpill_of_issue h, hfree]; rfl
  case spillBusy => rw [exec_accSpill_of_issue h, if_pos hbusy]
  case fillStarts => rw [exec_accFill_of_issue env h, if_pos hfree]
  case fillBusy => rw [exec_accFill_of_issue env h, if_neg hbusy]

end Sys2Proof.Machine
end

section
/-!
PROOFS. The bounds of the early-termination test (R91): what the planes still to come of an activation can be worth lies in a range,
which the positive and negative weights of a row-group turn into bounds on its dot product; alignment, saturation and addition are
monotone, so they carry the bounds of the partials to the entry.
-/
namespace Sys2Proof.Machine

/-! ## Alignment and addition are monotone (R52, R66 to R68) -/

/-- Half to even is monotone: on one floor a larger discarded part rounds up whenever a smaller one does. -/
theorem roundShift_rhe_mono (k noise : Nat) {p q : Int} (h : p ≤ q) : roundShift p k .rhe noise ≤ roundShift q k .rhe noise := by
  cases k with
  | zero => simpa [roundShift_zero] using h
  | succ k =>
    have hfloor : p / 2 ^ (k + 1) ≤ q / 2 ^ (k + 1) := Int.ediv_le_ediv (by positivity) h
    have hp := (toNat_emod_two_pow p (k + 1)).1
    have hq := (toNat_emod_two_pow q (k + 1)).1
    have hpart (heq : p / 2 ^ (k + 1) = q / 2 ^ (k + 1)) : (p % 2 ^ (k + 1)).toNat ≤ (q % 2 ^ (k + 1)).toNat := by
      rw [heq] at hp
      omega
    rw [roundShift_rhe_succ, roundShift_rhe_succ]
    split <;> split <;> omega

theorem entrySat_mono (acc16 : Bool) {x y : Int} (h : x ≤ y) : entrySat acc16 x ≤ entrySat acc16 y :=
  min_le_min_right _ (max_le_max_right _ h)

/-- The value of an alignment, for a partial of any size: the shift of at most 47 bits, held in the entry's range. -/
theorem alignTo_value (acc16 : Bool) (p e a : Int) :
    (alignTo acc16 p e a).1 =
      entrySat acc16 (if 0 ≤ e - a then p * 2 ^ (e - a).toNat else roundShift p (min (-(e - a)).toNat 47) .rhe 0) := by
  by_cases h0 : p = 0
  · simp [h0, alignTo, roundShift_zero_left, entrySat_of_fits (entryFits_zero acc16)]
  simp only [alignTo, if_neg h0, shiftCount_eq_min]
  generalize (if 0 ≤ e - a then p * 2 ^ (e - a).toNat else roundShift p (min (-(e - a)).toNat 47) .rhe 0) = w
  cases hfits : entryFits acc16 w
  case false => rfl
  case true =>
    rw [entrySat_of_fits hfits]
    cases discards p (min (-(e - a)).toNat 47)
    case false => rfl
    case true => by_cases hzero : w = 0 <;> simp [hzero]

theorem alignTo_mono (acc16 : Bool) (e a : Int) {p q : Int} (h : p ≤ q) : (alignTo acc16 p e a).1 ≤ (alignTo acc16 q e a).1 := by
  rw [alignTo_value, alignTo_value]
  refine entrySat_mono acc16 ?_
  split
  · exact mul_le_mul_of_nonneg_right h (by positivity)
  · exact roundShift_rhe_mono _ _ h

theorem accAlign_mono (acc16 : Bool) (ep a : Int) {e e' : Entry} {p q : Int} (he : e.val ≤ e'.val) (h : p ≤ q) :
    (accAlign acc16 e p ep a).1.val ≤ (accAlign acc16 e' q ep a).1.val :=
  entrySat_mono acc16 (add_le_add he (alignTo_mono acc16 ep a h))

theorem accSum_mono (acc16 : Bool) (a : Int) {ps qs : List Int} (h : List.Forall₂ (· ≤ ·) ps qs) (es : List Int) {e e' : Entry}
    (he : e.val ≤ e'.val) : (accSum acc16 e a ps es).val ≤ (accSum acc16 e' a qs es).val := by
  induction h generalizing es e e' with
  | nil => simpa [accSum] using he
  | cons hpq _ ih =>
    cases es with
    | nil => simpa [accSum] using he
    | cons ep es => exact ih es (accAlign_mono acc16 ep a he hpq)

theorem partialsOf_mono {r : OpRec} {xs ys : List Int} (h : ∀ g < 4, xs.getD g 0 ≤ ys.getD g 0) :
    List.Forall₂ (· ≤ ·) (partialsOf r xs) (partialsOf r ys) := by
  have h0 := h 0 (by decide)
  have h1 := h 1 (by decide)
  have h2 := h 2 (by decide)
  have h3 := h 3 (by decide)
  unfold partialsOf
  split
  · exact .cons h0 (.cons h1 (.cons h2 (.cons h3 .nil)))
  · exact .cons (add_le_add h0 h1) (.cons (add_le_add h2 h3) .nil)

/-! ## Row sums between weighted ends (R89) -/

/-- A product whose first factor lies in a range: its upper end weighs positive factors, its lower end negative ones. -/
theorem mul_le_of_mem_range {lo hi x : Int} (hlo : lo ≤ x) (hhi : x ≤ hi) (w : Int) :
    x * w ≤ lo * (if w < 0 then w else 0) + hi * (if 0 < w then w else 0) := by
  rcases lt_trichotomy w 0 with hneg | rfl | hpos
  · rw [if_neg hneg.not_gt, if_pos hneg, mul_zero, add_zero]
    exact mul_le_mul_of_nonpos_right hlo hneg.le
  · simp
  · rw [if_pos hpos, if_neg hpos.not_gt, mul_zero, zero_add]
    exact mul_le_mul_of_nonneg_right hhi hpos.le

section
variable {b : Binding} {r : OpRec} {t : Tile} {v : FedVec} {col g : Nat}

theorem getD_wpos_sums (hcol : col < r.nPass) (hg : g < 4) :
    (((t.sums b r).wpos.getD col []).getD g 0) = t.weightSum b r col g fun w => decide (0 < w) := by
  simp [Tile.sums, List.getD_eq_getElem?_getD, hcol, List.getElem?_range hg]

theorem getD_wneg_sums (hcol : col < r.nPass) (hg : g < 4) :
    (((t.sums b r).wneg.getD col []).getD g 0) = t.weightSum b r col g fun w => decide (w < 0) := by
  simp [Tile.sums, List.getD_eq_getElem?_getD, hcol, List.getElem?_range hg]

theorem rowSum_le {drive : Int → Int} {lo hi : Int} (h0 : lo ≤ 0 ∧ 0 ≤ hi)
    (hdrive : DrivenRows r t v col g fun x => lo ≤ drive x ∧ drive x ≤ hi) :
    rowSum b r t v col g drive ≤
      lo * t.weightSum b r col g (fun w => decide (w < 0)) + hi * t.weightSum b r col g fun w => decide (0 < w) := by
  unfold rowSum Tile.weightSum
  rw [← List.sum_map_mul_left, ← List.sum_map_mul_left, ← List.sum_map_add]
  refine List.sum_le_sum fun d hd => ?_
  dsimp only
  cases t.weight b r (16 * g + d) col with
  | none => simp
  | some w =>
    simp only [decide_eq_true_eq]
    split
    · next hact =>
      obtain ⟨hlo, hhi⟩ := hdrive d (List.mem_range.mp hd) hact
      exact mul_le_of_mem_range hlo hhi w
    · simpa using mul_le_of_mem_range h0.1 h0.2 w

theorem le_rowSum {drive : Int → Int} {lo hi : Int} (h0 : lo ≤ 0 ∧ 0 ≤ hi)
    (hdrive : DrivenRows r t v col g fun x => lo ≤ drive x ∧ drive x ≤ hi) :
    lo * t.weightSum b r col g (fun w => decide (0 < w)) + hi * t.weightSum b r col g (fun w => decide (w < 0)) ≤
      rowSum b r t v col g drive := by
  have h := rowSum_le (b := b) (lo := -hi) (hi := -lo) (drive := fun x => -drive x) (by omega) fun d hd hact => by
    have := hdrive d hd hact
    omega
  rw [rowSum_neg] at h
  linarith

end

/-! ## The part of an activation that is still to come (R91) -/

/-- With u planes to come of a row-group's n, the part of an activation that the register does not hold yet. -/
def restPart (n u : Nat) (x : Int) : Int := if u < n then x % 2 ^ u else x

theorem restPart_started {n u : Nat} (h : u < n) (x : Int) : restPart n u x = x % 2 ^ u := if_pos h

theorem restPart_idle {n u : Nat} (h : n ≤ u) (x : Int) : restPart n u x = x := if_neg (Nat.not_lt.mpr h)

/-- The range of that part. -/
def restRange (f n u : Nat) : Int × Int :=
  if n = 0 then (0, 0)
  else if u < n then (0, 2 ^ u - 1)
  else if fmtSigned f then (-2 ^ (n - 1), 2 ^ (n - 1) - 1)
  else (0, 2 ^ n - 1)

theorem restRange_zero_mem (f n u : Nat) : (restRange f n u).1 ≤ 0 ∧ 0 ≤ (restRange f n u).2 := by
  have hpow (i : Nat) : (1 : Int) ≤ 2 ^ i := one_le_pow₀ (by decide)
  have hu := hpow u
  have hn := hpow n
  have hh := hpow (n - 1)
  unfold restRange
  split_ifs <;> dsimp only <;> omega

theorem restPart_mem_restRange {f n u : Nat} {x : Int} (hb : fmtIsB1 f = false) (h : PlanesHold f n x) :
    (restRange f n u).1 ≤ restPart n u x ∧ restPart n u x ≤ (restRange f n u).2 := by
  cases n with
  | zero => simp [restRange, restPart, eq_zero_of_planesHold_zero h]
  | succ n =>
    rw [restRange, if_neg n.succ_ne_zero]
    by_cases hstarted : u < n + 1
    · rw [restPart_started hstarted, if_pos hstarted]
      have hpow : (0 : Int) < 2 ^ u := by positivity
      exact ⟨Int.emod_nonneg x hpow.ne', Int.le_sub_one_of_lt (Int.emod_lt_of_pos x hpow)⟩
    · rw [restPart_idle (Nat.le_of_not_lt hstarted), if_neg hstarted]
      cases hs : fmtSigned f
      case false =>
        obtain ⟨hlo, hhi⟩ := planesHold_unsigned hs h
        exact ⟨hlo, Int.le_sub_one_of_lt hhi⟩
      case true =>
        obtain ⟨hlo, hhi⟩ := planesHold_signed hb hs h
        exact ⟨hlo, Int.le_sub_one_of_lt hhi⟩

/-! ## The bounds of a row-group (R91) -/

section
variable (b : Binding) (r : OpRec) (t : Tile) (v : FedVec) (col j g : Nat)

/-- A row-group after step j: what its register knows of its dot product, and the least and the most that is still to come. -/
def groupBounds : Int × Int × Int :=
  let rest := restRange r.aFmt (v.planes.getD g 0) (v.len - j)
  let wpos := t.weightSum b r col g fun w => decide (0 < w)
  let wneg := t.weightSum b r col g fun w => decide (w < 0)
  ((runRegs b r t v col j).getD g 0 * 2 ^ (v.len - j), rest.1 * wpos + rest.2 * wneg, rest.1 * wneg + rest.2 * wpos)

/-- The least that a row-group's dot product can be after step j. -/
def groupLow : Int := (groupBounds b r t v col j g).1 + (groupBounds b r t v col j g).2.1

/-- The most that it can be. -/
def groupHigh : Int := (groupBounds b r t v col j g).1 + (groupBounds b r t v col j g).2.2

variable {b r t v col j g}

/-- After step j the register holds the dot product but for the planes still to come (R23, R28). -/
theorem groupDot_eq_register_add_rest (hg : g < 4) (hj : j ≤ v.len)
    (hold : DrivenRows r t v col g (PlanesHold r.aFmt (v.planes.getD g 0))) (hb : fmtIsB1 r.aFmt = false) :
    groupDot b r t v col g =
      (runRegs b r t v col j).getD g 0 * 2 ^ (v.len - j) +
        rowSum b r t v col g (restPart (v.planes.getD g 0) (v.len - j)) := by
  rw [getD_runRegs hg hold (by simp [hb]) (p := v.len - j) (by omega), groupDot_eq_rowSum]
  split
  case isTrue hidle =>
    rw [zero_mul, zero_add]
    exact rowSum_congr fun d _ _ => (restPart_idle hidle _).symm
  case isFalse hstarted =>
    rw [highDot, mul_comm, ← rowSum_mul_add]
    refine rowSum_congr fun d _ _ => ?_
    dsimp only
    rw [restPart_started (Nat.lt_of_not_le hstarted), Int.mul_ediv_add_emod]

theorem groupDot_mem_bounds (hg : g < 4) (hj : j ≤ v.len)
    (hold : DrivenRows r t v col g (PlanesHold r.aFmt (v.planes.getD g 0))) (hb : fmtIsB1 r.aFmt = false) :
    groupLow b r t v col j g ≤ groupDot b r t v col g ∧ groupDot b r t v col g ≤ groupHigh b r t v col j g := by
  have h0 := restRange_zero_mem r.aFmt (v.planes.getD g 0) (v.len - j)
  have hrest := fun d hd hact => restPart_mem_restRange (u := v.len - j) hb (hold d hd hact)
  rw [groupDot_eq_register_add_rest hg hj hold hb]
  exact ⟨add_le_add_right (le_rowSum h0 hrest) _, add_le_add_right (rowSum_le h0 hrest) _⟩

theorem getD_map_range {f : Nat → Int} (hg : g < 4) : ((List.range 4).map f).getD g 0 = f g := by
  simp [List.getD_eq_getElem?_getD, List.getElem?_range hg]

/-- BOUND_SAFE's bounds in terms of the row-groups' ranges: R91's three cases of a row-group are those of `restRange`, since a
register holds 0 until its row-group starts. -/
theorem entryBounds_safe (q : Nat) (prev : Entry) (anchor : Int) (hcol : col < r.nPass) (hj : j ≤ v.len)
    (hidle : ∀ g < 4, v.planes.getD g 0 ≤ v.len - j → (runRegs b r t v col j).getD g 0 = 0) :
    entryBounds r (t.sums b r) v v.len j col (runRegs b r t v col j) false q prev anchor =
      ((accSum r.acc16 prev anchor (partialsOf r ((List.range 4).map (groupLow b r t v col j))) (partialExps r t v col)).val,
       (accSum r.acc16 prev anchor (partialsOf r ((List.range 4).map (groupHigh b r t v col j))) (partialExps r t v col)).val) := by
  have hexps : partialExps r (t.sums b r) v col = partialExps r t v col := rfl
  have hstarts (g : Nat) : v.len + 1 ≤ j + v.planes.getD g 0 ↔ v.len - j < v.planes.getD g 0 := by omega
  unfold entryBounds
  simp only [hexps, hstarts, Bool.false_eq_true, if_false]
  rw [List.map_congr_left (g := groupBounds b r t v col j) fun g hg => ?rowGroup, List.map_map, List.map_map]
  case rowGroup =>
    replace hg := List.mem_range.mp hg
    rw [getD_wpos_sums hcol hg, getD_wneg_sums hcol hg, groupBounds, restRange]
    by_cases hnone : v.planes.getD g 0 = 0
    · simp only [hidle g hg (by omega), hnone, if_true, zero_mul, add_zero]
    by_cases hstarted : v.len - j < v.planes.getD g 0
    · simp only [hnone, hstarted, if_true, if_false, zero_mul, zero_add]
    rw [hidle g hg (by omega)]
    cases fmtSigned r.aFmt
    case false => simp only [hnone, hstarted, Bool.false_eq_true, if_false, zero_mul, zero_add]
    case true => simp only [hnone, hstarted, if_true, if_false, zero_mul]
  rfl

end

/-! ## O17 -/

/-- B1 passes have one step (R22, R24). -/
theorem feedVec_len_le_one {b : Binding} {r : OpRec} {m kt raw : Nat} {exps : List Int} (hb : fmtIsB1 r.aFmt = true) :
    (feedVec b r m kt raw exps).len ≤ 1 := by
  refine (foldl_max_le_iff _).mpr ⟨le_rfl, fun n hn => ?_⟩
  rw [feedVec_planes] at hn
  obtain ⟨g, hg, rfl⟩ := List.mem_map.mp hn
  rw [← getD_feedVec_planes (exps := exps) (List.mem_range.mp hg)]
  exact feedVec_planes_le_one (List.mem_range.mp hg) hb

/-- Settles O17: the bounds of the row-groups enclose their dot products, and what follows is monotone; a B1 pass has no step
before its last. -/
theorem boundsEncloseTheFinalValue : Obligations.BoundsEncloseTheFinalValue := by
  unfold Obligations.BoundsEncloseTheFinalValue
  intro b r t m raw exps col j q prev anchor hcol hsel hpad v bounds final hj0 hj
  have hb : fmtIsB1 r.aFmt = false := by
    by_contra h
    have : v.len ≤ 1 := feedVec_len_le_one (by simpa using h)
    omega
  have hold (g : Nat) (hg : g < 4) : DrivenRows r t v col g (PlanesHold r.aFmt (v.planes.getD g 0)) :=
    feedVec_drivenRows hg hsel hpad
  have hb1 (g : Nat) : fmtIsB1 r.aFmt = true → v.planes.getD g 0 ≤ 1 := by simp [hb]
  have hbounds : bounds = _ := entryBounds_safe q prev anchor hcol hj.le fun g hg hle => by
    rw [getD_runRegs hg (hold g hg) (hb1 g) (p := v.len - j) (by omega), if_pos hle]
  have henclose (g : Nat) (hg : g < 4) := groupDot_mem_bounds (b := b) hg hj.le (hold g hg) hb
  have hfinal (g : Nat) (hg : g < 4) := getD_runRegs_len (b := b) hg (hold g hg) (hb1 g)
  rw [hbounds]
  constructor
  · refine accSum_mono r.acc16 anchor (partialsOf_mono fun g hg => ?_) _ le_rfl
    rw [getD_map_range hg, hfinal g hg]
    exact (henclose g hg).1
  · refine accSum_mono r.acc16 anchor (partialsOf_mono fun g hg => ?_) _ le_rfl
    rw [getD_map_range hg, hfinal g hg]
    exact (henclose g hg).2

end Sys2Proof.Machine
end

section
/-!
PROOFS. The sheeter's groups (R114, R115): codes packed bit-contiguously are the digits of a number in base 2 to the code's width,
the presence mask is a number in base 2, and a digit is read back where its bits stand.
-/
namespace Sys2Proof.Machine

/-! ## Digits of a packed number -/

theorem ofDigits_div_pow_mod {b : Nat} {l : List Nat} (hb : 0 < b) (hl : ∀ e ∈ l, e < b) (j : Nat) :
    Nat.ofDigits b l / b ^ j % b = l.getD j 0 := by
  have hlt : l.getD j 0 < b := by
    rw [List.getD_eq_getElem?_getD]
    cases h : l[j]? with
    | none => exact hb
    | some e => exact hl e (List.mem_of_getElem? h)
  rw [Nat.ofDigits_div_pow_eq_ofDigits_drop j hb l hl, Nat.ofDigits_mod_eq_head!, List.head!_eq_head?_getD, List.head?_drop,
    ← List.getD_eq_getElem?_getD]
  exact Nat.mod_eq_of_lt hlt

/-- Codes of c bits, packed one after the other from bit 0 (R115). -/
def packCodes (c : Nat) (l : List Nat) : Nat := Nat.ofDigits (2 ^ c) l

theorem packCodes_code {c : Nat} {l : List Nat} (hl : ∀ e ∈ l, e < 2 ^ c) (j : Nat) :
    packCodes c l / 2 ^ (j * c) % 2 ^ c = l.getD j 0 := by
  rw [mul_comm, pow_mul]
  exact ofDigits_div_pow_mod (Nat.two_pow_pos c) hl j

/-- The presence mask of a group: bit i is 1 when element i is non-zero (R114). -/
def presenceMask (es : List Nat) : Nat := Nat.ofDigits 2 (es.map fun e => if e ≠ 0 then 1 else 0)

theorem presence_lt_two (es : List Nat) : ∀ d ∈ es.map fun e => if e ≠ 0 then 1 else 0, d < 2 := by
  intro d hd
  obtain ⟨e, -, rfl⟩ := List.mem_map.mp hd
  split <;> decide

theorem presenceMask_lt (es : List Nat) : presenceMask es < 2 ^ es.length := by
  simpa [presenceMask] using Nat.ofDigits_lt_base_pow_length (by decide) (presence_lt_two es)

theorem testBit_presenceMask (es : List Nat) (i : Nat) : (presenceMask es).testBit i = decide (es.getD i 0 ≠ 0) := by
  rw [Nat.testBit_eq_decide_div_mod_eq, presenceMask, ofDigits_div_pow_mod (by decide) (presence_lt_two es)]
  simp only [List.getD_eq_getElem?_getD, List.getElem?_map]
  cases es[i]? with
  | none => rfl
  | some e => by_cases h : e = 0 <;> simp [h]

/-! ## The two forms of a group (R114) -/

theorem packCodes_eq_foldl (c : Nat) (l : List Nat) : l.reverse.foldl (fun a e => a * 2 ^ c + e) 0 = packCodes c l := by
  rw [packCodes, Nat.ofDigits_eq_foldr, List.foldl_reverse]
  simp only [Nat.cast_id, add_comm, mul_comm]

theorem presenceMask_eq_sum (es : List Nat) :
    ((es.zip (List.range es.length)).map fun p => if p.1 ≠ 0 then 2 ^ p.2 else 0).sum = presenceMask es := by
  rw [presenceMask, Nat.ofDigits_eq_sum_mapIdx, List.mapIdx_eq_zipIdx_map, List.zipIdx_map, List.zipIdx_eq_zip_range', List.map_map,
    ← List.range_eq_range']
  refine congrArg List.sum (List.map_congr_left fun p _ => ?_)
  by_cases h : p.1 = 0 <;> simp [h]

section
variable {c : Nat} {es : List Nat}

theorem sheetGroup_of_bitmap_shorter (h : 64 + (es.filter (· ≠ 0)).length * c < es.length * c) :
    sheetGroup c es.length false es = (1, presenceMask es + 2 ^ 64 * packCodes c (es.filter (· ≠ 0)),
      64 + (es.filter (· ≠ 0)).length * c) := by
  simp only [sheetGroup, Bool.false_eq_true, if_false, if_pos h, packCodes_eq_foldl, ← presenceMask_eq_sum]

theorem sheetGroup_of_dense_not_longer (h : es.length * c ≤ 64 + (es.filter (· ≠ 0)).length * c) :
    sheetGroup c es.length false es = (0, packCodes c es, es.length * c) := by
  simp only [sheetGroup, Bool.false_eq_true, if_false, if_neg h.not_gt, packCodes_eq_foldl]

end

/-- Settles O24: in bitmap form the mask fills the 64 bits below the packed codes, and either list's codes are the digits of the
packed number. -/
theorem sheetGroupsTakeTheShorterForm : Obligations.SheetGroupsTakeTheShorterForm := by
  unfold Obligations.SheetGroupsTakeTheShorterForm
  intro c es _ hlen hes out nz
  have hnz : ∀ e ∈ nz, e < 2 ^ c := fun e he => hes e (List.mem_of_mem_filter he)
  have hmask : presenceMask es < 2 ^ 64 := (presenceMask_lt es).trans_le (Nat.pow_le_pow_right (by decide) hlen)
  constructor
  · intro hbitmap
    have hout : out = (1, presenceMask es + 2 ^ 64 * packCodes c nz, 64 + nz.length * c) := sheetGroup_of_bitmap_shorter hbitmap
    rw [hout]
    refine ⟨rfl, rfl, fun i hi => ?_, fun j _ => ?_⟩
    · rw [add_comm, Nat.testBit_two_pow_mul_add _ hmask, if_pos hi, testBit_presenceMask]
    · rw [pow_add, ← Nat.div_div_eq_div_mul, Nat.add_mul_div_left _ _ (Nat.two_pow_pos 64), Nat.div_eq_of_lt hmask, zero_add]
      exact packCodes_code hnz j
  · intro hdense
    have hout : out = (0, packCodes c es, es.length * c) := sheetGroup_of_dense_not_longer hdense
    rw [hout]
    exact ⟨rfl, rfl, fun j _ => packCodes_code hes j⟩

end Sys2Proof.Machine
end

section
/-!
PROOFS. The commands of the fold trees (R118, R121 to R124): what each does when its step is due.
-/
namespace Sys2Proof.Machine

/-! ## A hearth's folds and its counters -/

@[simp] theorem State.foldsOf_bumpH (s : State) (i h sub n j : Nat) : (s.bumpH i h sub n).foldsOf j = s.foldsOf j := rfl

@[simp] theorem State.obj_setFolds (s : State) (h : Nat) (fs : List Fold) (i sub : Nat) :
    (s.setFolds h fs).obj i sub = s.obj i sub := rfl

/-- A counter counts up to the largest value of its type (R60). -/
theorem State.obj_bumpH (s : State) (i h sub n : Nat) :
    (s.bumpH i h sub n).obj (i + 0x100 * h) sub = min (s.obj (i + 0x100 * h) sub + n) (objMax (i + 0x100 * h) sub) :=
  State.obj_setObj _ _ _ _

/-! ## The commands when their step is due -/

section
variable {h : Hearth} {s : State} {x : Job} {f : Fold} {fold : Nat}

theorem exec_foldPair_of_takePair {k : Nat} {fs : List Fold} (hruns : s.hearthRuns h.val = true)
    (hpair : takePair k (s.foldsOf h.val) = some fs) :
    exec (.foldPair h k) s = .next ((s.setFolds h.val fs).bumpH 0x3040 h.val 6 1) := by
  simp [exec, execFoldPair, hruns, hpair]

theorem exec_foldClose_of_complete (hruns : s.hearthRuns h.val = true) (hjob : s.foldJob h.val fold = some (x, f))
    (hdone : s.foldComplete x f = true) : exec (.foldClose h fold) s = .next (s.closeFold x h.val fold f) := by
  simp [exec, execFoldClose, hruns, hjob, hdone]

theorem exec_foldEmit_of_ready {ps : List Pair} {d j : Nat} {st : Nat × Slot} (hruns : s.hearthRuns h.val = true)
    (hjob : s.foldJob h.val fold = some (x, f)) (hsums : f.emitting = some ps)
    (hdest : x.bd.prog.scatterDest (x.bd.prog.op f.op) = some d) (hready : s.emitReady x h.val d f = some (j, st)) :
    exec (.foldEmit h fold) s = .next (s.emitScatter x h.val fold d j st ps) := by
  simp [exec, execFoldEmit, hruns, hjob, hsums, hdest, hready]

end

/-- Settles O29: a pair in flight goes to its fold and is counted, a complete fold closes, and a waiting fold emits into a
slot that is its own. -/
theorem foldCommandsServeTheFolds : Obligations.FoldCommandsServeTheFolds := by
  unfold Obligations.FoldCommandsServeTheFolds
  intro h k fold s hruns
  refine ⟨fun fs hpair => ?pair, fun x f hjob hdone => ?close, fun x f ps d j st hjob hsums hdest hready => ?emit⟩
  case pair =>
    refine ⟨_, exec_foldPair_of_takePair hruns hpair, ?_, ?_⟩
    · rw [State.foldsOf_bumpH, State.folds_setFolds]
    · rw [State.obj_bumpH, State.obj_setFolds]
  case close => exact exec_foldClose_of_complete hruns hjob hdone
  case emit => exact exec_foldEmit_of_ready hruns hjob hsums hdest hready

end Sys2Proof.Machine
end

section
/-!
PROOFS. Handle entries (R130 to R132): what a cold reset leaves in them, how a write of one is judged and stamped, and where an
access through one stops.
-/
namespace Sys2Proof.Machine

/-! ## A cold reset (R130) -/

theorem exec_coldReset_of_no_trip {s : State} (env : ColdEnv) (h : s.tripHolds = false) :
    exec (.coldReset env) s = .next (s.cold env) := by
  simp [exec, execColdReset, h]

theorem State.cores_cold (s : State) (env : ColdEnv) : (s.cold env).cores = [] := by
  simp only [State.cold, State.setPort_same]
  exact (State.endSessions_keeps (T := [.sessions]) _ (Keeps.refl _ _) rfl).cores.resolve_left (by decide)

theorem Handle.reset_pairOk : Handle.reset.pairOk = true := by decide

theorem Handle.reset_invalid : Handle.reset.valid = false := by decide

/-- Settles O9: no core differs from its reset value, so every handle entry is that of a core at reset. -/
theorem aColdResetWritesEveryHandleEntry : Obligations.AColdResetWritesEveryHandleEntry := by
  unfold Obligations.AColdResetWritesEveryHandleEntry
  intro env s htrip
  refine ⟨s.cold env, exec_coldReset_of_no_trip env htrip, fun k e => ?_⟩
  have hentry : ((s.cold env).core k).handle e = Handle.reset := by
    rw [State.core, State.cores_cold]; rfl
  rw [hentry]
  exact ⟨rfl, Handle.reset_pairOk, Handle.reset_invalid⟩

/-! ## Writes of an entry (R131) -/

theorem Handle.pairOk_iff {h : Handle} : h.pairOk = true ↔ h.comp = ~~~h.value := by
  simp [Handle.pairOk]

section
variable {entry : Nat} {value comp : W64}

theorem handleRefused_of_mismatch (h : comp ≠ ~~~value) : handleRefused entry value comp = some cComplement := by
  simp [handleRefused, Handle.pairOk, h]

theorem handleRefused_of_unplaced (hc : comp = ~~~value) (hv : (⟨value, comp⟩ : Handle).valid = true)
    (hb : (⟨value, comp⟩ : Handle).bankMask = 0 ∨
      3583 < (⟨value, comp⟩ : Handle).rowBase + ((⟨value, comp⟩ : Handle).rowCount - 1) ∨ entry = 0) :
    handleRefused entry value comp = some cHandleInvalid := by
  have hpair : (⟨value, comp⟩ : Handle).pairOk = true := Handle.pairOk_iff.mpr hc
  simp only [handleRefused, hpair, Bool.not_true, Bool.false_eq_true, if_false]
  rw [if_pos ⟨hv, hb⟩]

theorem handleRefused_of_placed (hc : comp = ~~~value)
    (hb : ¬ ((⟨value, comp⟩ : Handle).valid = true ∧ ((⟨value, comp⟩ : Handle).bankMask = 0 ∨
      3583 < (⟨value, comp⟩ : Handle).rowBase + ((⟨value, comp⟩ : Handle).rowCount - 1) ∨ entry = 0))) :
    handleRefused entry value comp = none := by
  have hpair : (⟨value, comp⟩ : Handle).pairOk = true := Handle.pairOk_iff.mpr hc
  simp only [handleRefused, hpair, Bool.not_true, Bool.false_eq_true, if_false]
  rw [if_neg hb]

end

section
variable {c : CoreId} {entry : Fin 64} {value comp : W64} {s : State}

theorem exec_handleWrite_of_mismatch (hruns : s.coreRuns (idKey c) = true) (h : comp ≠ ~~~value) :
    exec (.handleWrite c entry value comp) s =
      .next (s.report { plainReport 0x04 (unitCore (idKey c)) .value entry.val with d0 := 3 }) := by
  simp only [exec, execHandleWrite, hruns, handleRefused_of_mismatch h]
  rfl

theorem exec_handleWrite_of_invalid (hruns : s.coreRuns (idKey c) = true)
    (h : handleRefused entry.val value comp = some cHandleInvalid) :
    exec (.handleWrite c entry value comp) s =
      .next (s.report { plainReport 0x02 (unitCore (idKey c)) .operation (s.core (idKey c)).next with d0 := entry.val }) := by
  simp only [exec, execHandleWrite, hruns, h]
  rfl

theorem exec_handleWrite_of_admitted (hruns : s.coreRuns (idKey c) = true) (h : handleRefused entry.val value comp = none) :
    exec (.handleWrite c entry value comp) s = .next (s.writeHandle (idKey c) entry.val value) := by
  simp [exec, execHandleWrite, hruns, h]

end

/-! ## The stamp (R131, Table 7-1) -/

/-- Two words that agree on the bits of a field agree on the field. -/
theorem fld_congr {w lo len : Nat} {x y : BitVec w} (h : ∀ i, lo ≤ i → i < lo + len → x.getLsbD i = y.getLsbD i) :
    fld x lo len = fld y lo len := by
  refine Nat.eq_of_testBit_eq fun i => ?_
  simp only [fld, bitsAt, Nat.testBit_mod_two_pow, Nat.testBit_div_two_pow]
  by_cases hi : i < len
  · simpa [hi, BitVec.getLsbD] using h (i + lo) (by omega) (by omega)
  · simp [hi]

theorem getLsbD_rsvdMask {i : Nat} (h : i < 64) : (0xFFFFFFFFFFFFFFF3 : W64).getLsbD i = decide (i ≠ 2 ∧ i ≠ 3) := by
  revert i; decide

section
variable (value : W64) (epoch : Nat)

theorem Handle.stamp_pairOk : (Handle.stamp value epoch).pairOk = true := Handle.pairOk_iff.mpr rfl

/-- Below the epoch the stamp keeps every bit but the two of RsvdZ. -/
theorem Handle.getLsbD_stamp_low {i : Nat} (hi : i < 52) (h2 : i ≠ 2) (h3 : i ≠ 3) :
    (Handle.stamp value epoch).value.getLsbD i = value.getLsbD i := by
  have hi64 : i < 64 := by omega
  have hepoch : (2 ^ 52 * (epoch % 256)).testBit i = false := by
    rw [Nat.testBit_two_pow_mul]; simp; omega
  simp only [Handle.stamp, BitVec.getLsbD_or, BitVec.getLsbD_and, BitVec.getLsbD_ofNat, getLsbD_rsvdMask hi64, hepoch,
    Nat.testBit_mod_two_pow]
  simp [hi, hi64, h2, h3, BitVec.getLsbD]

theorem Handle.getLsbD_stamp_epoch {i : Nat} (hi : i < 8) :
    (Handle.stamp value epoch).value.getLsbD (52 + i) = (epoch % 256).testBit i := by
  have hlow : ¬ 52 + i < 52 := by omega
  have hi64 : 52 + i < 64 := by omega
  simp only [Handle.stamp, BitVec.getLsbD_or, BitVec.getLsbD_and, BitVec.getLsbD_ofNat, Nat.testBit_mod_two_pow,
    Nat.testBit_two_pow_mul, hlow, hi64]
  simp

theorem Handle.epoch_stamp : (Handle.stamp value epoch).epoch = epoch % 256 := by
  refine Nat.eq_of_testBit_eq fun i => ?_
  rw [Handle.epoch, fld, bitsAt, Nat.testBit_mod_two_pow, Nat.testBit_div_two_pow]
  by_cases hi : i < 8
  · have h := Handle.getLsbD_stamp_epoch value epoch hi
    rw [BitVec.getLsbD, Nat.add_comm] at h
    simp [hi, h]
  · have hbig : epoch % 256 < 2 ^ i :=
      Nat.lt_of_lt_of_le (Nat.mod_lt _ (by decide)) (Nat.pow_le_pow_right (by decide) (Nat.le_of_not_lt hi) : 2 ^ 8 ≤ 2 ^ i)
    simp [hi, Nat.testBit_lt_two_pow hbig]

/-- A field above RsvdZ and below the epoch is as supplied. -/
theorem Handle.fld_stamp {lo len : Nat} (hlo : 4 ≤ lo) (hhi : lo + len ≤ 52) :
    fld (Handle.stamp value epoch).value lo len = fld value lo len :=
  fld_congr fun i hi hi' => Handle.getLsbD_stamp_low value epoch (by omega) (by omega) (by omega)

end

/-- Settles O10: the judgement of R131 in its order, and the stamp bit by bit. -/
theorem handleWritesAreJudgedAndStamped : Obligations.HandleWritesAreJudgedAndStamped := by
  unfold Obligations.HandleWritesAreJudgedAndStamped
  refine ⟨fun c entry value comp s hruns => ⟨fun hne => ?mismatch, fun hc hbad => ?invalid, fun hc hgood => ?admitted⟩,
    fun value epoch => ?stamped⟩
  case mismatch => exact exec_handleWrite_of_mismatch hruns hne
  case invalid =>
    obtain ⟨hv, hb⟩ := hbad
    refine exec_handleWrite_of_invalid hruns (handleRefused_of_unplaced hc hv ?_)
    exact hb.imp_right (Or.imp_right fun h0 => congrArg Fin.val h0)
  case admitted =>
    refine exec_handleWrite_of_admitted hruns (handleRefused_of_placed hc fun hbad => hgood ⟨hbad.1, ?_⟩)
    exact hbad.2.imp_right (Or.imp_right fun h0 => Fin.ext h0)
  case stamped =>
    have field := fun lo len => Handle.fld_stamp value epoch (lo := lo) (len := len)
    refine ⟨Handle.stamp_pairOk _ _, Handle.epoch_stamp _ _, ?_, ?_, field _ _ (by decide) (by decide),
      field _ _ (by decide) (by decide), field _ _ (by decide) (by decide),
      congrArg (· + 1) (field _ _ (by decide) (by decide))⟩
    · exact Handle.getLsbD_stamp_low value epoch (by decide) (by decide) (by decide)
    · exact Handle.getLsbD_stamp_low value epoch (by decide) (by decide) (by decide)

/-! ## Accesses through an entry (R132) -/

/-- Settles O11: the checks of R132 in their order, each taken where those before it pass. -/
theorem handleChecksStopAtTheFirstFailure : Obligations.HandleChecksStopAtTheFirstFailure := by
  unfold Obligations.HandleChecksStopAtTheFirstFailure
  intro c hd o isWrite lastByte hpos hlt h code
  have hnum : ¬ (hd = 0 ∨ 64 ≤ hd) := by omega
  have hcode : code = (checkHandle c hd o isWrite lastByte).map (·.code) := rfl
  simp only [checkHandle, hnum, or_false] at hcode
  refine ⟨fun hpair => ?pair, fun hpair hvalid => ?valid, fun hpair hvalid hepoch => ?epoch,
    fun hpair hvalid hepoch hw hwe => ?right, fun hpair hvalid hepoch hwe hlast => ?extent,
    fun hpair hvalid hepoch hwe hlast => ?passes⟩
  case pair => rw [hcode, if_pos (by simp [show (c.handle hd).pairOk = false from hpair])]; rfl
  all_goals rw [hcode, if_neg (by simp [show (c.handle hd).pairOk = true from hpair])]
  case valid => rw [if_pos (by simp [show (c.handle hd).valid = false from hvalid])]; rfl
  all_goals rw [if_neg (by simp [show (c.handle hd).valid = true from hvalid])]
  case epoch => rw [if_pos hepoch]; rfl
  all_goals rw [if_neg (not_not.mpr hepoch)]
  case right => rw [if_pos (by simp [hw, show (c.handle hd).we = false from hwe])]; rfl
  all_goals rw [if_neg (by rintro ⟨hw, hno⟩; simp [show (c.handle hd).we = true from hwe hw] at hno)]
  case extent => rw [if_pos hlast]; rfl
  case passes => rw [if_neg (Nat.not_le.mpr hlast)]; rfl

end Sys2Proof.Machine
end

section
/-!
PROOFS. Words of a bank (R129, R136 to R140): what a read, a write and the scrubber make of a word, by what the word holds.
-/
namespace Sys2Proof.Machine

/-! ## What counting and waking leave of the words -/

section
variable (s : State) (k b row i h sub n key : Nat)

theorem State.word_of_scratch {s t : State} (h : t.scratch = s.scratch) (key : Nat) : t.word key = s.word key := by
  rw [State.word, h, State.word]

@[simp] theorem State.word_bumpH : (s.bumpH i h sub n).word key = s.word key := rfl

@[simp] theorem State.word_wakeBank : (s.wakeBank k b).1.word key = s.word key :=
  State.word_of_scratch ((State.wakeBank_keeps (T := [.dict, .cores]) _ _ _ (Keeps.refl _ s) rfl).scratch.resolve_left
    (by decide)) key

@[simp] theorem State.word_countCorrected : (s.countCorrected k b row).word key = s.word key :=
  State.word_of_scratch ((State.countCorrected_keeps (T := [.dict, .health, .cores]) _ _ _ _ (Keeps.refl _ s) rfl).scratch.resolve_left
    (by decide)) key

@[simp] theorem State.word_poisonWord : (s.poisonWord k key).word key = .poisoned := s.word_setWord key .poisoned

@[simp] theorem State.word_poisonWord_ne {key j : Nat} (h : j ≠ key) : (s.poisonWord k key).word j = s.word j :=
  s.word_setWord_ne .poisoned h

end

/-! ## Reads of a word of a bank that is not off (R136 to R138) -/

section
variable {s : State} {k b row w : Nat} (hon : ((s.core k).bank b).power ≠ .off)
include hon

theorem readWord_of_clean {v : W64} (h : s.word (wordKey k b row w) = .clean v) :
    readWord s k b row w = ⟨(s.wakeBank k b).1, (s.wakeBank k b).2, .ok v⟩ := by
  simp only [readWord, if_neg hon, State.word_wakeBank, h]

theorem readWord_of_flipped {v : W64} (h : s.word (wordKey k b row w) = .flipped v) :
    readWord s k b row w = ⟨(s.wakeBank k b).1.countCorrected k b row, true, .ok v⟩ := by
  simp only [readWord, if_neg hon, State.word_wakeBank, h]

theorem readWord_of_bad (h : s.word (wordKey k b row w) = .bad) :
    readWord s k b row w = ⟨(s.wakeBank k b).1.poisonWord k (wordKey k b row w), (s.wakeBank k b).2,
      .error ⟨cEccUncorrectable, .bank, bankAddress k b row w, 0, 0, 0⟩⟩ := by
  simp only [readWord, if_neg hon, State.word_wakeBank, h]

theorem readWord_of_poisoned (h : s.word (wordKey k b row w) = .poisoned) :
    readWord s k b row w = ⟨(s.wakeBank k b).1.bumpH 0x3048 (k / 1088) 3 1, (s.wakeBank k b).2,
      .error ⟨cPoisonRead, .bank, bankAddress k b row w, 0, 0, 0⟩⟩ := by
  simp only [readWord, if_neg hon, State.word_wakeBank, h]

/-- A read changes at most the word it reads. -/
theorem readWord_word_ne {other : Nat} (hne : other ≠ wordKey k b row w) :
    (readWord s k b row w).st.word other = s.word other := by
  cases h : s.word (wordKey k b row w) with
  | clean v => rw [readWord_of_clean hon h, State.word_wakeBank]
  | flipped v => rw [readWord_of_flipped hon h, State.word_countCorrected, State.word_wakeBank]
  | bad => rw [readWord_of_bad hon h, State.word_poisonWord_ne _ _ hne, State.word_wakeBank]
  | poisoned => rw [readWord_of_poisoned hon h, State.word_bumpH, State.word_wakeBank]

/-! ## Writes of a word of a bank that is not off (R129, R138, R139) -/

theorem writeWord_whole (data : W64) : writeWord s k b row w (BitVec.allOnes 64) data =
    ((s.wakeBank k b).1.setWord (wordKey k b row w) (.clean data), (s.wakeBank k b).2, none) := by
  simp only [writeWord, if_neg hon, if_true]

variable {mask : W64} (hpart : mask ≠ BitVec.allOnes 64) (data : W64)
include hpart

theorem writeWord_of_clean {v : W64} (h : s.word (wordKey k b row w) = .clean v) :
    writeWord s k b row w mask data = ((s.wakeBank k b).1.setWord (wordKey k b row w)
      (.clean ((v &&& ~~~mask) ||| (data &&& mask))), (s.wakeBank k b).2, none) := by
  simp only [writeWord, if_neg hon, if_neg hpart, State.word_wakeBank, h]

theorem writeWord_of_flipped {v : W64} (h : s.word (wordKey k b row w) = .flipped v) :
    writeWord s k b row w mask data = (((s.wakeBank k b).1.countCorrected k b row).setWord (wordKey k b row w)
      (.clean ((v &&& ~~~mask) ||| (data &&& mask))), true, none) := by
  simp only [writeWord, if_neg hon, if_neg hpart, State.word_wakeBank, h]

theorem writeWord_of_poisoned (h : s.word (wordKey k b row w) = .poisoned) :
    writeWord s k b row w mask data = (((s.wakeBank k b).1.setWord (wordKey k b row w) (.clean (data &&& mask))).bumpH
      0x3048 (k / 1088) 4 1, (s.wakeBank k b).2, none) := by
  simp only [writeWord, if_neg hon, if_neg hpart, State.word_wakeBank, h]
  rw [show (0 : W64) &&& ~~~mask = 0 from BitVec.zero_and, show (0 : W64) ||| (data &&& mask) = data &&& mask from BitVec.zero_or]

theorem writeWord_of_bad (h : s.word (wordKey k b row w) = .bad) :
    writeWord s k b row w mask data = ((s.wakeBank k b).1.poisonWord k (wordKey k b row w), (s.wakeBank k b).2,
      some ⟨cEccUncorrectable, .bank, bankAddress k b row w, 0, 0, 0⟩) := by
  simp only [writeWord, if_neg hon, if_neg hpart, State.word_wakeBank, h]

/-- A partial write changes at most the word it writes. -/
theorem writeWord_word_ne {other : Nat} (hne : other ≠ wordKey k b row w) :
    (writeWord s k b row w mask data).1.word other = s.word other := by
  cases h : s.word (wordKey k b row w) with
  | clean v => rw [writeWord_of_clean hon hpart data h, State.word_setWord_ne _ _ hne, State.word_wakeBank]
  | flipped v =>
    rw [writeWord_of_flipped hon hpart data h, State.word_setWord_ne _ _ hne, State.word_countCorrected, State.word_wakeBank]
  | bad => rw [writeWord_of_bad hon hpart data h, State.word_poisonWord_ne _ _ hne, State.word_wakeBank]
  | poisoned => rw [writeWord_of_poisoned hon hpart data h, State.word_bumpH, State.word_setWord_ne _ _ hne, State.word_wakeBank]

end

/-- Settles O12: each clause is the rule of a read or of a whole-word write for the word that it meets. -/
theorem uncorrectableWordsArePoisonedUntilWritten : Obligations.UncorrectableWordsArePoisonedUntilWritten := by
  unfold Obligations.UncorrectableWordsArePoisonedUntilWritten
  intro s k b row w data hon key at_ s1
  refine ⟨fun hbad => ?_, fun hpoisoned => ?_, writeWord_whole hon data, State.word_setWord _ _ _, fun other hne => ⟨?_, ?_⟩⟩
  · rw [readWord_of_bad hon hbad]
    exact ⟨rfl, rfl, State.word_poisonWord _ _ _⟩
  · rw [readWord_of_poisoned hon hpoisoned]; rfl
  · rw [State.word_setWord_ne _ _ hne, State.word_wakeBank]
  · exact readWord_word_ne hon hne

/-- Settles O13: each clause is the rule of a partial write for the word that it meets. -/
theorem partialWritesMergeWithTheWord : Obligations.PartialWritesMergeWithTheWord := by
  unfold Obligations.PartialWritesMergeWithTheWord
  intro s k b row w mask data hon hpart key r s1 woke merged
  exact ⟨fun v => writeWord_of_clean hon hpart data, fun v => writeWord_of_flipped hon hpart data,
    writeWord_of_poisoned hon hpart data, writeWord_of_bad hon hpart data, fun other => writeWord_word_ne hon hpart data⟩

/-! ## The scrubber (R136, R140) -/

/-- The state in which the scrubber meets a word: a first word begins a pass, and the access wakes the bank. -/
def State.scrubbing (s : State) (k b row word : Nat) : State :=
  ((if row = 0 ∧ word = 0 then s.beginPass k b else s).wakeBank k b).1

/-- What the scrubber makes of a word: it corrects and counts, poisons and counts, or leaves; `rewritten` drops the write-back. -/
def State.scrubWord (s : State) (k b row key : Nat) (rewritten : Bool) : State :=
  match s.word key with
  | .flipped v =>
    if rewritten then s.countCorrected k b row else (s.countCorrected k b row).setWord key (.clean v)
  | .bad => if rewritten then s.bumpH 0x3048 (k / 1088) 2 1 else s.poisonWord k key
  | .clean _ => s
  | .poisoned => s

theorem State.word_scrubbing (s : State) (k b row word key : Nat) : (s.scrubbing k b row word).word key = s.word key := by
  rw [State.scrubbing, State.word_wakeBank]
  split <;> rfl

section
variable {c : CoreId} {b : BankNo} {row : Fin 3584} {word : Fin 8} {s : State}

theorem exec_scrubRead_of_scrubber_off (h : s.obj 0x2030 3 = 0) (found : Option UpsetKind) (r : Bool) :
    exec (.scrubRead c b row word found r) s = .next s := by
  simp only [exec, execScrubRead, State.stay, h, true_or, if_true, ite_self]

variable (hruns : s.coreRuns (idKey c) = true) (hon : ((s.core (idKey c)).bank b.val).power ≠ .off)
  (hscrub : s.obj 0x2030 3 ≠ 0) (hpass : ((s.core (idKey c)).bank b.val).inPass = true ∨ row = 0 ∧ word = 0)
include hruns hon hscrub hpass

theorem exec_scrubRead_of_due (found : Option UpsetKind) (r : Bool) : exec (.scrubRead c b row word found r) s =
    .next ((State.scrubbing (match found with
      | none => s
      | some u => s.upset ⟨c, b, row.val, word.val, u⟩) (idKey c) b.val row.val word.val).scrubWord (idKey c) b.val row.val
        (wordKey (idKey c) b.val row.val word.val) r) := by
  have hready : ¬ ((!s.coreRuns (idKey c)) = true ∨ ((s.core (idKey c)).bank b.val).power = .off) := by
    rintro (h | h)
    · rw [hruns] at h; exact absurd h (by decide)
    · exact hon h
  have hdue : ¬ (s.obj 0x2030 3 = 0 ∨ (!((s.core (idKey c)).bank b.val).inPass) = true ∧ (row.val ≠ 0 ∨ word.val ≠ 0)) := by
    rintro (h | ⟨hout, hlater⟩)
    · exact hscrub h
    · obtain hin | ⟨rfl, rfl⟩ := hpass
      · rw [hin] at hout; exact absurd hout (by decide)
      · exact hlater.elim (absurd rfl) (absurd rfl)
  simp only [exec, execScrubRead, if_neg hready, if_neg hdue]
  unfold State.scrubWord State.scrubbing
  cases found <;> dsimp only <;> split <;> simp_all only

end

/-- Settles O14: the scrubber that is due meets the word as it stands, or as an upset leaves it, and does what that word asks. -/
theorem theScrubberCorrectsAndPoisons : Obligations.TheScrubberCorrectsAndPoisons := by
  unfold Obligations.TheScrubberCorrectsAndPoisons
  intro c b row word s hruns k bank hon key first s1 scrub
  refine ⟨fun hscrub hpass => ?due, fun hoff found r => exec_scrubRead_of_scrubber_off hoff found r⟩
  case due =>
    have hs1 : s.scrubbing k b.val row.val word.val = s1 := by
      simp only [State.scrubbing, s1, first, Fin.ext_iff, Fin.val_zero]
    have hrun : ∀ r, scrub r = .next (s1.scrubWord k b.val row.val key r) := fun r => by
      rw [← hs1]; exact exec_scrubRead_of_due hruns hon hscrub hpass none r
    have hword : s1.word key = s.word key := by rw [← hs1, State.word_scrubbing]
    refine ⟨fun v hv => ⟨?corrects, ?dropped⟩, fun hv => ⟨?poisons, ?counts⟩, fun v r hv => ?clean, fun r hv => ?poisoned,
      fun u r => ?upset⟩
    case corrects => rw [hrun, State.scrubWord, hword, hv]; rfl
    case dropped => rw [hrun, State.scrubWord, hword, hv]; rfl
    case poisons => rw [hrun, State.scrubWord, hword, hv]; rfl
    case counts => rw [hrun, State.scrubWord, hword, hv]; rfl
    case clean => rw [hrun, State.scrubWord, hword, hv]
    case poisoned => rw [hrun, State.scrubWord, hword, hv]
    case upset =>
      -- an upset reaches words alone, so the scrubber is due after it as before
      rw [exec_scrubRead_of_due hruns hon hscrub hpass (some u) r]
      exact (exec_scrubRead_of_due (s := s.upset ⟨c, b, row.val, word.val, u⟩) hruns hon hscrub hpass none r).symm

end Sys2Proof.Machine
end

section
/-!
PROOFS. Power of banks, cores and hearths (R133, R142 to R146, R317, R318): which state each command leaves a bank in, what a
return keeps, and what a hearth's lull and its going off leave.
-/
namespace Sys2Proof.Machine

/-! ## Tables whose entries are listed or filtered by key -/

theorem tget_filter_key {α : Type} (d : α) (p : Nat → Bool) (j : Nat) (m : Table α) :
    tget d (m.filter fun e => p e.1) j = if p j then tget d m j else d := by
  induction m with
  | nil => simp [tget]
  | cons e m ih =>
    by_cases hj : j = e.1
    · subst hj
      cases hp : p e.1 <;> simp [tget, hp, ih]
    · cases hp : p e.1 <;> simp [tget, hp, hj, ih]

theorem tget_map_key {α : Type} (d : α) (f : Nat → α) (j : Nat) (l : List Nat) :
    tget d (l.map fun b => (b, f b)) j = if j ∈ l then f j else d := by
  induction l with
  | nil => rfl
  | cons b l ih =>
    by_cases hj : j = b
    · simp [tget, hj]
    · simp [tget, hj, ih]

/-! ## One change made to each of a list of banks -/

section
variable {γ : Type} {g : γ → Nat → γ}

/-- A change of single banks, made to all of a list: each listed bank is changed, every other is as it was. -/
theorem bank_foldl {view : γ → Nat → Bank} {f : Bank → Bank} (hsame : ∀ x b, view (g x b) b = f (view x b))
    (hne : ∀ x b j, j ≠ b → view (g x b) j = view x j) (hidem : ∀ bk, f (f bk) = f bk) (l : List Nat) :
    ∀ x j, view (l.foldl g x) j = if j ∈ l then f (view x j) else view x j := by
  induction l with
  | nil => exact fun _ _ => rfl
  | cons b l ih =>
    intro x j
    rw [List.foldl_cons, ih]
    by_cases hj : j = b
    · subst hj
      simp [hsame, hidem]
    · simp [hne x b j hj, hj]

theorem view_foldl {β : Type} {view : γ → β} (h : ∀ x b, view (g x b) = view x) (l : List Nat) (x : γ) :
    view (l.foldl g x) = view x :=
  List.foldlRecOn (motive := fun y => view y = view x) l g rfl fun y hy b _ => (h y b).trans hy

end

theorem idKey_div (c : CoreId) : idKey c / 1088 = c.hearth.val := by
  have hc := c.core.isLt
  unfold idKey coreKey
  omega

theorem mem_allBanks (b : BankNo) : b.val ∈ allBanks := List.mem_range.mpr b.isLt

/-! ## Requests to one bank (R142 to R144) -/

section
variable {c : CoreId} {b : BankNo} {s : State} {k : Nat}

theorem State.hearthRuns_of_coreRuns (h : s.coreRuns k = true) : s.hearthRuns (k / 1088) = true := by
  simp only [State.coreRuns, Bool.and_eq_true] at h
  exact h.1.1

theorem State.lullBank_of_awake (h : ((s.core k).bank b.val).power = .awake) : s.lullBank k b.val = s.setBankPower k b.val .closingLull :=
  if_pos h

theorem exec_onRequest_core_of_off (hruns : s.hearthRuns (idKey c / 1088) = true) (h : (s.core (idKey c)).power = .off) :
    exec (.onRequest c .core) s = .next (s.setCore (idKey c) { s.core (idKey c) with returning := true }) := by
  simp [exec, execOnRequest, hruns, h]

theorem exec_bankReturn_bank_of_returning (hruns : s.hearthRuns (idKey c / 1088) = true)
    (h : ((s.core (idKey c)).bank b.val).returning = true) :
    exec (.bankReturn c (.bank b)) s = .next (s.bankReturn (idKey c) [b.val] false) := by
  simp [exec, execBankReturn, hruns, h]

theorem exec_bankReturn_core_of_returning (hruns : s.hearthRuns (idKey c / 1088) = true)
    (h : (s.core (idKey c)).returning = true) :
    exec (.bankReturn c .core) s = .next (s.bankReturn (idKey c) allBanks true) := by
  simp [exec, execBankReturn, hruns, h]

variable (hruns : s.coreRuns (idKey c) = true)
include hruns

theorem exec_lullRequest_of_awake (h : ((s.core (idKey c)).bank b.val).power = .awake) :
    exec (.lullRequest c b) s = .next (s.setBankPower (idKey c) b.val .closingLull) := by
  simp [exec, execLullRequest, hruns, State.lullBank_of_awake h]

theorem exec_autoLull_of_awake (h : ((s.core (idKey c)).bank b.val).power = .awake) (hauto : s.obj 0x2030 1 ≠ 0) :
    exec (.autoLull c b) s = .next ((s.reach (((s.core (idKey c)).bank b.val).lastUse + s.obj 0x2030 2)).setBankPower
      (idKey c) b.val .closingLull) := by
  have hawake : (((s.reach (((s.core (idKey c)).bank b.val).lastUse + s.obj 0x2030 2)).core (idKey c)).bank b.val).power = .awake := h
  simp [exec, execAutoLull, hruns, hauto, h, State.lullBank_of_awake hawake]

theorem exec_offRequest_bank_of_unused (hused : s.bankUsed (idKey c) b.val = false)
    (h : ((s.core (idKey c)).bank b.val).power ≠ .off) :
    exec (.offRequest c (.bank b)) s = .next (s.setBankPower (idKey c) b.val .closingOff) := by
  simp [exec, execOffRequest, hruns, hused, State.offBank, h]

theorem exec_closingComplete_of_closingLull (h : ((s.core (idKey c)).bank b.val).power = .closingLull)
    (hqueue : ((s.core (idKey c)).bank b.val).queue = []) :
    exec (.closingComplete c b) s = .next (s.setBankPower (idKey c) b.val .lull) := by
  simp [exec, execClosingComplete, State.hearthRuns_of_coreRuns hruns, h, hqueue]

theorem exec_closingComplete_of_closingOff (h : ((s.core (idKey c)).bank b.val).power = .closingOff)
    (hqueue : ((s.core (idKey c)).bank b.val).queue = []) (hcore : (s.core (idKey c)).closing = false) :
    exec (.closingComplete c b) s = .next (s.setBankPower (idKey c) b.val .off) := by
  have hstill : ((s.setBankPower (idKey c) b.val .off).core (idKey c)).closing = false := by
    rw [State.setBankPower, State.core_setCore]; exact hcore
  simp [exec, execClosingComplete, State.hearthRuns_of_coreRuns hruns, h, hqueue, hstill]

theorem exec_lullWake_of_lull (h : ((s.core (idKey c)).bank b.val).power = .lull) :
    exec (.lullWake c b) s = .next ((s.setCore (idKey c) ((s.core (idKey c)).setBank b.val
      { (s.core (idKey c)).bank b.val with power := .awake, lastUse := s.time.now })).bumpH 0x3048 (idKey c / 1088) 7 1) := by
  simp [exec, execLullWake, hruns, h, State.wakeBank, State.now]

theorem exec_onRequest_bank_of_off (h : ((s.core (idKey c)).bank b.val).power = .off) (hcore : (s.core (idKey c)).power ≠ .off) :
    exec (.onRequest c (.bank b)) s = .next (s.setCore (idKey c) ((s.core (idKey c)).setBank b.val
      { (s.core (idKey c)).bank b.val with returning := true })) := by
  simp [exec, execOnRequest, State.hearthRuns_of_coreRuns hruns, h, hcore]

end

/-! ## An off request of a core (R143, R144) -/

/-- What an off request makes of a bank. -/
def Bank.requestedOff (b : Bank) : Bank := if b.power = .off then b else { b with power := .closingOff }

theorem Bank.requestedOff_requestedOff (b : Bank) : b.requestedOff.requestedOff = b.requestedOff := by
  unfold Bank.requestedOff
  by_cases h : b.power = .off <;> simp [h]

theorem Bank.power_requestedOff (b : Bank) : b.requestedOff.power = if b.power = .off then .off else .closingOff := by
  unfold Bank.requestedOff
  split
  · assumption
  · rfl

section
variable (s : State) (k : Nat)

theorem State.bank_offBank (b : Nat) : ((s.offBank k b).core k).bank b = ((s.core k).bank b).requestedOff := by
  unfold State.offBank Bank.requestedOff
  split
  · rfl
  · rw [State.setBankPower, State.core_setCore, Core.bank_setBank]

theorem State.bank_offBank_ne {b j : Nat} (h : j ≠ b) : ((s.offBank k b).core k).bank j = (s.core k).bank j := by
  unfold State.offBank
  split
  · rfl
  · rw [State.setBankPower, State.core_setCore, Core.bank_setBank_ne _ _ h]

theorem State.power_offBank (b : Nat) : ((s.offBank k b).core k).power = (s.core k).power := by
  unfold State.offBank
  split
  · rfl
  · rw [State.setBankPower, State.core_setCore]; rfl

/-- All banks of a core after an off request of the core. -/
def State.offBanks : State := allBanks.foldl (fun u b => u.offBank k b) s

theorem State.bank_offBanks (b : BankNo) : ((s.offBanks k).core k).bank b.val = ((s.core k).bank b.val).requestedOff := by
  have hfold := bank_foldl (g := fun u b => State.offBank u k b) (view := fun u j => (u.core k).bank j) (f := Bank.requestedOff)
    (fun u b => u.bank_offBank k b) (fun u b j h => u.bank_offBank_ne k h) Bank.requestedOff_requestedOff allBanks s b.val
  exact hfold.trans (if_pos (mem_allBanks b))

theorem State.corePower_offBanks : ((s.offBanks k).core k).power = (s.core k).power :=
  view_foldl (view := fun u : State => (u.core k).power) (fun u b => u.power_offBank k b) allBanks s

/-- Every bank of the core is off. -/
def Core.dark (c : Core) : Bool := allBanks.all fun b => decide ((c.bank b).power = .off)

theorem Core.dark_iff {c : Core} : c.dark = true ↔ ∀ b : BankNo, (c.bank b.val).power = .off := by
  simp only [Core.dark, List.all_eq_true, decide_eq_true_eq, allBanks, List.mem_range]
  exact ⟨fun h b => h b.val b.isLt, fun h b hb => h ⟨b, hb⟩⟩

theorem State.dark_offBanks : ((s.offBanks k).core k).dark = true ↔ ∀ b : BankNo, ((s.core k).bank b.val).power = .off := by
  rw [Core.dark_iff]
  refine forall_congr' fun b => ?_
  rw [State.bank_offBanks, Bank.power_requestedOff]
  split <;> simp [*]

/-- A core requested off: closing, and off at once where every bank already is. -/
def Core.requestedOff (c : Core) : Core := if c.dark then { c with closing := true }.lose else { c with closing := true }

theorem Core.power_requestedOff_of_dark {c : Core} (h : c.dark = true) : c.requestedOff.power = .off := by
  rw [Core.requestedOff, if_pos h]; rfl

theorem Core.requestedOff_of_not_dark {c : Core} (h : ¬ c.dark = true) :
    c.requestedOff.closing = true ∧ c.requestedOff.power = c.power := by
  rw [Core.requestedOff, if_neg h]; exact ⟨rfl, rfl⟩

theorem Core.bank_requestedOff (c : Core) (j : Nat) : c.requestedOff.bank j = c.bank j := by
  unfold Core.requestedOff
  split <;> rfl

end

/-- What follows the closing of a core's banks. -/
def State.closeCore (s : State) (k : Nat) : State :=
  let u := s.setCore k { s.core k with closing := true }
  if (u.core k).dark then u.setCore k (u.core k).lose else u

theorem State.core_closeCore (s : State) (k : Nat) : (s.closeCore k).core k = (s.core k).requestedOff := by
  have hdark : Core.dark { s.core k with closing := true } = (s.core k).dark := rfl
  simp only [State.closeCore, State.core_setCore, hdark, Core.requestedOff]
  split <;> rw [State.core_setCore]

theorem exec_offRequest_core_of_unused {c : CoreId} {s : State} (hruns : s.coreRuns (idKey c) = true)
    (hused : s.coreUsed (idKey c) = false) (hslots : ∀ e ∈ (s.core (idKey c)).slots, e.2.phase = .free) :
    exec (.offRequest c .core) s = .next ((s.offBanks (idKey c)).closeCore (idKey c)) := by
  have hfree : ((s.core (idKey c)).slots.any fun e => decide (e.2.phase ≠ .free)) = false :=
    List.any_eq_false.mpr fun e he => by simp [hslots e he]
  have hidle : ¬ (s.coreUsed (idKey c) = true ∨ ((s.core (idKey c)).slots.any fun e => decide (e.2.phase ≠ .free)) = true) := by
    rw [hused, hfree]; decide
  simp only [exec, execOffRequest, hruns, if_neg hidle]
  rfl

/-! ## The return of banks and cores (R133, R146) -/

/-- A bank that has returned: awake, with an empty queue. -/
def Bank.awakened (b : Bank) : Bank := { b with power := .awake, queue := [], returning := false }

def Core.wakeBanks (c : Core) (banks : List Nat) : Core := banks.foldl (fun c b => c.setBank b (c.bank b).awakened) c

theorem Core.bank_wakeBanks (c : Core) (banks : List Nat) (j : Nat) :
    (c.wakeBanks banks).bank j = if j ∈ banks then (c.bank j).awakened else c.bank j :=
  bank_foldl (g := fun c b => Core.setBank c b (c.bank b).awakened) (view := Core.bank) (f := Bank.awakened)
    (fun c b => c.bank_setBank b _) (fun c _ _ h => c.bank_setBank_ne _ h) (fun _ => rfl) banks c j

theorem Core.epoch_wakeBanks (c : Core) (banks : List Nat) : (c.wakeBanks banks).epoch = c.epoch :=
  view_foldl (g := fun c b => Core.setBank c b (c.bank b).awakened) (view := Core.epoch) (fun _ _ => rfl) banks c

theorem State.core_poisonBanks (s : State) (k : Nat) (banks : List Nat) (j : Nat) :
    (banks.foldl (fun s b => s.poisonBank k b) s).core j = s.core j :=
  view_foldl (g := fun s b => State.poisonBank s k b) (view := fun u : State => u.core j) (fun _ _ => rfl) banks s

theorem State.word_poisonBank (s : State) (k b key : Nat) :
    (s.poisonBank k b).word key = if key / 28672 = 16 * k + b then .poisoned else s.word key := by
  have hfilter := tget_filter_key SWord.poisoned (fun j => decide (j / 28672 ≠ 16 * k + b)) key s.scratch
  rw [State.word, State.poisonBank]
  refine hfilter.trans ?_
  by_cases h : key / 28672 = 16 * k + b <;> simp [h, State.word]

/-- The words of the banks are poisoned, and all others as they were. -/
theorem State.word_poisonBanks (k : Nat) (banks : List Nat) (key : Nat) : ∀ s : State,
    (banks.foldl (fun s b => s.poisonBank k b) s).word key =
      if ∃ b ∈ banks, key / 28672 = 16 * k + b then .poisoned else s.word key := by
  induction banks with
  | nil => intro s; simp
  | cons b banks ih =>
    intro s
    rw [List.foldl_cons, ih, State.word_poisonBank]
    by_cases h : key / 28672 = 16 * k + b <;> simp [h]

theorem wordKey_div {k b row w : Nat} (hrow : row < 3584) (hw : w < 8) : wordKey k b row w / 28672 = 16 * k + b := by
  unfold wordKey
  omega

/-- How a core and its words stand after its banks have returned. -/
structure Returned (s t : State) (k : Nat) (banks : List Nat) : Prop where
  epoch : (t.core k).epoch = ((s.core k).epoch + 1) % 256
  back : ∀ b ∈ banks, (t.core k).bank b = ((s.core k).bank b).awakened
  poisoned : ∀ b ∈ banks, ∀ row w, row < 3584 → w < 8 → t.word (wordKey k b row w) = .poisoned
  others : ∀ key, (∀ b ∈ banks, key / 28672 ≠ 16 * k + b) → t.word key = s.word key

section
variable (s : State) (k : Nat) (banks : List Nat) (own : Bool)

theorem State.bankReturn_returned : Returned s (s.bankReturn k banks own) k banks := by
  have hword : ∀ key, (s.bankReturn k banks own).word key =
      if ∃ b ∈ banks, key / 28672 = 16 * k + b then .poisoned else s.word key := fun key =>
    State.word_poisonBanks k banks key _
  have hcore : (s.bankReturn k banks own).core k = _ :=
    (State.core_poisonBanks _ k banks k).trans (s.core_setCore k _)
  have hbank : ∀ b ∈ banks, ((s.bankReturn k banks own).core k).bank b = ((s.core k).bank b).awakened := fun b hb => by
    rw [hcore]
    cases own <;> exact (Core.bank_wakeBanks _ banks b).trans (if_pos hb)
  refine ⟨?_, hbank, fun b hb row w hrow hw => ?_, fun key hkey => ?_⟩
  · rw [hcore]
    cases own <;> exact Core.epoch_wakeBanks _ banks
  · rw [hword, if_pos ⟨b, hb, wordKey_div hrow hw⟩]
  · rw [hword, if_neg fun ⟨b, hb, h⟩ => hkey b hb h]

theorem State.power_bankReturn_core : ((s.bankReturn k banks true).core k).power = .on := by
  have hcore : (s.bankReturn k banks true).core k = _ :=
    (State.core_poisonBanks _ k banks k).trans (s.core_setCore k _)
  rw [hcore]
  rfl

theorem State.hearth_bankReturn (h : Nat) : (s.bankReturn k banks own).hearth h = s.hearth h := by
  have hhealth := (State.bankReturn_keeps (T := [.cores, .scratch]) s k banks own (Keeps.refl _ s) rfl).health.resolve_left (by decide)
  rw [State.hearth, hhealth, State.hearth]

end

/-- A marked bank that no binding uses returns from repair, with its failing rows on spare rows and without its mark. -/
theorem exec_bankRepair_of_marked {c : CoreId} {b : BankNo} {s : State} (hruns : s.coreRuns (idKey c) = true)
    (hmarked : 16 * (idKey c % 1088) + b.val ∈ (s.hearth (idKey c / 1088)).marked) (hused : s.bankUsed (idKey c) b.val = false) :
    ∃ t : State, exec (.bankRepair c b) s = .next (t.bankReturn (idKey c) [b.val] false) ∧
      t.core (idKey c) = (s.core (idKey c)).setBank b.val ((s.core (idKey c)).bank b.val).repaired ∧ t.scratch = s.scratch ∧
      (t.hearth (idKey c / 1088)).marked =
        (s.hearth (idKey c / 1088)).marked.filter (· ≠ 16 * (idKey c % 1088) + b.val) := by
  have hdue : ¬ (16 * (idKey c % 1088) + b.val ∉ (s.hearth (idKey c / 1088)).marked ∨ s.bankUsed (idKey c) b.val = true) := by
    simp [hmarked, hused]
  simp only [exec, execBankRepair, hruns, if_neg hdue]
  refine ⟨_, rfl, State.core_setCore _ _ _, rfl, ?_⟩
  exact congrArg HearthHealth.marked (s.hearth_setHearth _ _)

/-- Settles O15: the request, its closing, its wake and its return, each by the rule of its own. -/
theorem bankPowerCommandsMoveTheBank : Obligations.BankPowerCommandsMoveTheBank := by
  unfold Obligations.BankPowerCommandsMoveTheBank
  refine ⟨fun c b s hruns => ⟨exec_lullRequest_of_awake hruns, fun h => exec_autoLull_of_awake hruns h,
    fun h hused => exec_offRequest_bank_of_unused hruns hused h, fun h => exec_closingComplete_of_closingLull hruns h,
    fun h => exec_closingComplete_of_closingOff hruns h, exec_lullWake_of_lull hruns, exec_onRequest_bank_of_off hruns,
    fun hused hslots => ?offCore⟩, fun c b s hhearth => ?returns⟩
  case offCore =>
    have hcore := (s.offBanks (idKey c)).core_closeCore (idKey c)
    have hdark := s.dark_offBanks (idKey c)
    refine ⟨_, exec_offRequest_core_of_unused hruns hused hslots, fun j => ?_, fun hall => ?_, fun ⟨j, hj⟩ => ?_⟩
    · rw [hcore, Core.bank_requestedOff, State.bank_offBanks, Bank.power_requestedOff]
    · rw [hcore, Core.power_requestedOff_of_dark (hdark.mpr hall)]
    · rw [hcore, ← s.corePower_offBanks]
      exact Core.requestedOff_of_not_dark fun h => hj (hdark.mp h j)
  case returns =>
    rw [← idKey_div] at hhearth
    refine ⟨fun h => ?bank, fun hruns hmarked hused => ?repair, exec_onRequest_core_of_off hhearth, fun h => ?core⟩
    case bank =>
      obtain ⟨hepoch, hback, hpoisoned, hothers⟩ := s.bankReturn_returned (idKey c) [b.val] false
      have hb := hback b.val List.mem_cons_self
      refine ⟨_, exec_bankReturn_bank_of_returning hhearth h, hepoch, ?_, ?_, hpoisoned b.val List.mem_cons_self,
        fun key hkey => hothers key (by simpa using hkey)⟩
      · rw [hb]; rfl
      · rw [hb]; rfl
    case repair =>
      obtain ⟨u, hexec, hcore, hscratch, hhealth⟩ := exec_bankRepair_of_marked hruns hmarked hused
      obtain ⟨hepoch, hback, hpoisoned, hothers⟩ := u.bankReturn_returned (idKey c) [b.val] false
      have hb := hback b.val List.mem_cons_self
      rw [hcore, Core.bank_setBank] at hb
      refine ⟨⟨_, hexec, ?_, ?_, ?_, hpoisoned b.val List.mem_cons_self, fun key hkey => ?_⟩, fun t ht => ?_⟩
      · rw [hepoch, hcore]; rfl
      · rw [hb]; rfl
      · rw [hb]; rfl
      · rw [hothers key (by simpa using hkey), State.word_of_scratch hscratch]
      · rw [hexec] at ht
        cases ht
        refine ⟨?_, ?_, ?_⟩
        · rw [hb]; rfl
        · rw [hb]; rfl
        · rw [State.hearth_bankReturn, hhealth]
          simp
    case core =>
      obtain ⟨hepoch, hback, hpoisoned, -⟩ := s.bankReturn_returned (idKey c) allBanks true
      refine ⟨_, exec_bankReturn_core_of_returning hhearth h, hepoch, s.power_bankReturn_core _ _, fun j => ?_⟩
      have hj := hback j.val (mem_allBanks j)
      refine ⟨?_, ?_, hpoisoned j.val (mem_allBanks j)⟩
      · rw [hj]; rfl
      · rw [hj]; rfl

end Sys2Proof.Machine
end

section
/-!
PROOFS. Idle hearths (R133, R146, R204, R317, R318): what HEARTH_LULL and HEARTH_OFF leave of a hearth's domain, its cores and its
words.
-/
namespace Sys2Proof.Machine

/-! ## The cores of a hearth in lull and off (R146) -/

/-- What a hearth's lull makes of a bank: an awake bank lulls, or closes while writes wait. -/
def Bank.lulled (b : Bank) : Bank :=
  if b.power = .awake then { b with power := if b.queue.isEmpty then .lull else .closingLull } else b

theorem Bank.power_lulled (b : Bank) : b.lulled.power =
    if b.power = .awake then (if b.queue = [] then .lull else .closingLull) else b.power := by
  unfold Bank.lulled
  split
  · simp only [List.isEmpty_iff]
  · rfl

theorem Bank.lulled_lulled (b : Bank) : b.lulled.lulled = b.lulled := by
  have hasleep : b.lulled.power ≠ .awake := by
    rw [Bank.power_lulled]
    split
    · split <;> decide
    · assumption
  exact if_neg hasleep

/-- One bank of a core lulls. -/
def Core.lullBank (c : Core) (b : Nat) : Core :=
  if (c.bank b).power = .awake then c.setBank b { c.bank b with power := if (c.bank b).queue.isEmpty then .lull else .closingLull }
  else c

section
variable (c : Core)

theorem Core.bank_lullBank (b : Nat) : (c.lullBank b).bank b = (c.bank b).lulled := by
  unfold Core.lullBank Bank.lulled
  split
  · exact c.bank_setBank b _
  · rfl

theorem Core.bank_lullBank_ne {b j : Nat} (h : j ≠ b) : (c.lullBank b).bank j = c.bank j := by
  unfold Core.lullBank
  split
  · exact c.bank_setBank_ne _ h
  · rfl

/-- A lull of banks leaves what no bank is part of. -/
theorem Core.view_lullBanks {β : Type} {view : Core → β} (h : ∀ (c : Core) b v, view (c.setBank b v) = view c) (l : List Nat) :
    view (l.foldl Core.lullBank c) = view c := by
  refine view_foldl (fun c b => ?_) l c
  unfold Core.lullBank
  split
  · exact h _ _ _
  · rfl

/-- A running core's lull: all of its banks, after it has lost its run and its accumulators. -/
theorem Core.lulled_of_on {c : Core} (h : c.power = .on) : c.lulled = allBanks.foldl Core.lullBank
    { c with power := .low, run := none, chainWait := none, slots := [], acc := [], sample := none } :=
  if_neg (not_not.mpr h)

theorem Core.bankPower_lulled {c : Core} (h : c.power = .on) (b : BankNo) : (c.lulled.bank b.val).power =
    if (c.bank b.val).power = .awake then (if (c.bank b.val).queue = [] then .lull else .closingLull) else (c.bank b.val).power := by
  have hbank : c.lulled.bank b.val = (c.bank b.val).lulled := by
    rw [Core.lulled_of_on h]
    exact (bank_foldl (view := Core.bank) Core.bank_lullBank (fun c _ _ hne => c.bank_lullBank_ne hne) Bank.lulled_lulled allBanks _ _).trans
      (if_pos (mem_allBanks b))
  rw [hbank, Bank.power_lulled]

theorem Core.power_lulled {c : Core} (h : c.power = .on) : c.lulled.power = .low := by
  rw [Core.lulled_of_on h, Core.view_lullBanks (view := Core.power) _ fun _ _ _ => rfl]

theorem Core.epoch_lulled {c : Core} (h : c.power = .on) : c.lulled.epoch = c.epoch := by
  rw [Core.lulled_of_on h, Core.view_lullBanks (view := Core.epoch) _ fun _ _ _ => rfl]

theorem Core.handles_lulled {c : Core} (h : c.power = .on) : c.lulled.handles = c.handles := by
  rw [Core.lulled_of_on h, Core.view_lullBanks (view := Core.handles) _ fun _ _ _ => rfl]

theorem Core.bankPower_hearthOff (b : BankNo) : (c.hearthOff.bank b.val).power = .off := by
  have hbank : c.hearthOff.bank b.val = { (c.bank b.val).kept with power := .off } :=
    (tget_map_key Bank.reset (fun b => { (c.bank b).kept with power := .off }) b.val allBanks).trans (if_pos (mem_allBanks b))
  rw [hbank]

end

/-! ## The commands (R318) -/

section
variable {h : Hearth} {s : State}

@[simp] theorem State.logicOf_setLogic (s : State) (h : Nat) (d : Domain) : (s.setLogic h d).logicOf h = d :=
  tget_tset_same _ _ _ _

@[simp] theorem State.logicOf_setLogic_ne (s : State) {h j : Nat} (d : Domain) (hne : j ≠ h) : (s.setLogic h d).logicOf j = s.logicOf j :=
  tget_tset_ne _ _ hne _

/-- The hearth's domain in lull, with its cores. -/
def State.lullHearth (s : State) (h : Nat) : State := (s.mapHearthCores h Core.lulled).setLogic h .low

theorem State.lullHearth_logic (s : State) (h : Nat) : (s.lullHearth h).logicOf h = .low ∧
    ∀ j, j ≠ h → (s.lullHearth h).logicOf j = s.logicOf j :=
  ⟨State.logicOf_setLogic _ _ _, fun _ hj => State.logicOf_setLogic_ne _ _ hj⟩

theorem exec_hearthLull_of_busy {p : Nat} (hpart : s.partOf h.val = some p)
    (hbusy : (s.part p).current.isSome = true) : exec (.hearthLull h) s = .next s := by
  simp only [exec, execHearthLull, hpart, hbusy, if_true, State.stay, ite_self]

variable (hleaven : s.leavenUp = true) (hruns : s.hearthRuns h.val = true)
include hleaven hruns

theorem exec_hearthLull_of_idle {p : Nat} (hon : s.logicOf h.val = .on) (hpart : s.partOf h.val = some p)
    (hidle : (s.part p).current = none) :
    exec (.hearthLull h) s = .next ((s.reach ((s.part p).lastRun + 1000000)).lullHearth h.val) := by
  simp [exec, execHearthLull, hleaven, hruns, hon, hpart, hidle, State.lullHearth]

theorem exec_hearthLull_of_unassigned (hon : s.logicOf h.val = .on) (hpart : s.partOf h.val = none) :
    exec (.hearthLull h) s = .next (s.lullHearth h.val) := by
  simp [exec, execHearthLull, hleaven, hruns, hon, hpart, State.lullHearth]

/-- HEARTH_OFF: 100 ms after the hearth left its partition its domain is off, and only its own words are gone. -/
theorem exec_hearthOff_of_unassigned (hpart : s.partOf h.val = none) : ∃ t, exec (.hearthOff h) s = .next t ∧
    t.power.logic = tset .on s.power.logic h.val .off ∧
    t.now = max s.now (tget 0 s.power.leftAt h.val + 100000000) ∧
    t.scratch = s.scratch.filter fun e => decide (e.1 / 458752 / 1088 ≠ h.val) := by
  refine ⟨_, by simp only [exec, execHearthOff, hleaven, hruns, hpart]; rfl, rfl, rfl, rfl⟩

end

/-- Settles O60: the commands move the hearth's domain alone, and the cores' lull and going off are functions of a core. -/
theorem idleHearthsLullAndGoOff : Obligations.IdleHearthsLullAndGoOff := by
  unfold Obligations.IdleHearthsLullAndGoOff
  intro h s hleaven hruns
  refine ⟨fun p hpart hon hidle => ?idle, fun hpart hon => ?unassigned, fun p => exec_hearthLull_of_busy,
    fun hpart => ?off, fun c => ⟨fun hon => ?lulled, rfl, rfl, rfl, c.bankPower_hearthOff⟩⟩
  case idle =>
    obtain ⟨hlow, hothers⟩ := (s.reach ((s.part p).lastRun + 1000000)).lullHearth_logic h.val
    exact ⟨_, exec_hearthLull_of_idle hleaven hruns hon hpart hidle, hlow, le_max_right _ _, hothers, rfl⟩
  case unassigned =>
    obtain ⟨hlow, hothers⟩ := s.lullHearth_logic h.val
    exact ⟨_, exec_hearthLull_of_unassigned hleaven hruns hon hpart, hlow, hothers, rfl⟩
  case off =>
    obtain ⟨t, hexec, hlogic, hnow, hscratch⟩ := exec_hearthOff_of_unassigned hleaven hruns hpart
    refine ⟨t, hexec, ?_, hnow ▸ le_max_right _ _, fun j hj => ?_, fun key => ?_⟩
    · rw [State.logicOf, hlogic]; exact tget_tset_same _ _ _ _
    · rw [State.logicOf, hlogic, tget_tset_ne _ _ hj]; rfl
    · rw [State.word, hscratch, tget_filter_key SWord.poisoned (fun j => decide (j / 458752 / 1088 ≠ h.val))]
      by_cases hkey : key / 458752 / 1088 = h.val <;> simp [hkey, State.word]
  case lulled => exact ⟨Core.power_lulled hon, Core.epoch_lulled hon, Core.handles_lulled hon, Core.bankPower_lulled hon⟩

end Sys2Proof.Machine
end

section
/-!
PROOFS. A fault of a mover's descriptor (R156, R225, R230): it leaves the mover with every later ORDERED one, is reported once, and
stops the work of their partitions; and the host fetches whose failure has no descriptor (R218, R264).
-/
namespace Sys2Proof.Machine

/-! ## Faults of partitions (R225) -/

/-- From s to t the partitions keep what they hold but for the faults they gain. -/
structure FaultsOnly (s t : State) : Prop where
  ctxs : t.ctxs = s.ctxs
  parts : ∀ p, (t.part p).fault.isSome = true ∨ t.part p = s.part p

section
variable {s t u : State}

theorem FaultsOnly.of_same (hctxs : t.ctxs = s.ctxs) (hparts : t.parts = s.parts) : FaultsOnly s t :=
  ⟨hctxs, fun p => .inr (by rw [State.part, hparts, State.part])⟩

theorem State.part_raiseFault_ne (s : State) {p q : Nat} (f : RunFault) (h : q ≠ p) : (s.raiseFault p f).part q = s.part q := by
  unfold State.raiseFault
  split
  · rfl
  · exact s.part_setPart_ne _ h

theorem State.faulted_raiseFault (s : State) (p : Nat) (f : RunFault) : ((s.raiseFault p f).part p).fault.isSome = true := by
  unfold State.raiseFault
  split
  · assumption
  · rw [State.part_setPart]; rfl

theorem FaultsOnly.raiseFault (h : FaultsOnly s u) (p : Nat) (f : RunFault) : FaultsOnly s (u.raiseFault p f) := by
  refine ⟨?_, fun q => ?_⟩
  · exact ((State.raiseFault_keeps (T := [.parts]) _ _ _ (Keeps.refl _ u) rfl).ctxs.resolve_left (by decide)).trans h.ctxs
  · by_cases hq : q = p
    · subst hq; exact .inl (u.faulted_raiseFault q f)
    · rw [State.part_raiseFault_ne _ _ hq]; exact h.parts q

/-- A partition that has gained no fault has the job it had. -/
theorem FaultsOnly.job_eq (h : FaultsOnly s u) {p : Nat} (hp : u.part p = s.part p) : u.job p = s.job p := by
  have hrunning : u.running p = s.running p := by simp only [State.running, hp, State.ctx, h.ctxs]
  unfold State.job State.mapOk
  rw [hp, hrunning]

theorem State.faulted_raiseFault_of_faulted {p q : Nat} (f : RunFault) (h : (u.part q).fault.isSome = true) :
    ((u.raiseFault p f).part q).fault.isSome = true := by
  by_cases hq : q = p
  · subst hq; exact u.faulted_raiseFault q f
  · rw [State.part_raiseFault_ne _ _ hq]; exact h

/-! ## The operations that wait on a token (R156) -/

theorem FaultsOnly.tokenFault (h : FaultsOnly s u) (d : MoverDesc) (code : Nat) : FaultsOnly s (u.tokenFault d code) := by
  unfold State.tokenFault
  split
  · exact h.raiseFault _ _
  · exact h

theorem State.faulted_tokenFault_of_faulted {q : Nat} (d : MoverDesc) (code : Nat) (h : (u.part q).fault.isSome = true) :
    ((u.tokenFault d code).part q).fault.isSome = true := by
  unfold State.tokenFault
  split
  · exact State.faulted_raiseFault_of_faulted _ h
  · exact h

theorem State.faulted_tokenFault (h : FaultsOnly s u) {d : MoverDesc} (code : Nat) (hjob : (s.job d.part).isSome = true) :
    ((u.tokenFault d code).part d.part).fault.isSome = true := by
  obtain hfault | hsame := h.parts d.part
  · exact State.faulted_tokenFault_of_faulted d code hfault
  · rw [← h.job_eq hsame] at hjob
    obtain ⟨x, hx⟩ := Option.isSome_iff_exists.mp hjob
    simp only [State.tokenFault, hx]
    exact u.faulted_raiseFault _ _

theorem State.faulted_tokenFaults (code : Nat) (ds : List MoverDesc) : ∀ {u : State}, FaultsOnly s u →
    (∀ q, (u.part q).fault.isSome = true → ((ds.foldl (fun v d => v.tokenFault d code) u).part q).fault.isSome = true) ∧
    ∀ d ∈ ds, (s.job d.part).isSome = true →
      ((ds.foldl (fun v d => v.tokenFault d code) u).part d.part).fault.isSome = true := by
  induction ds with
  | nil => exact fun _ => ⟨fun _ h => h, fun d hd => absurd hd List.not_mem_nil⟩
  | cons d ds ih =>
    intro u h
    obtain ⟨hstays, hlater⟩ := ih (h.tokenFault d code)
    refine ⟨fun q hq => hstays q (State.faulted_tokenFault_of_faulted d code hq), fun e he hjob => ?_⟩
    obtain rfl | he := List.mem_cons.mp he
    · exact hstays _ (State.faulted_tokenFault h code hjob)
    · exact hlater e he hjob

theorem State.tokenFaults_keeps (code : Nat) (ds : List MoverDesc) (u : State) :
    Keeps [.parts] u (ds.foldl (fun v d => v.tokenFault d code) u) :=
  foldl_keeps (fun _ _ h => State.tokenFault_keeps _ _ _ h rfl) (Keeps.refl _ u)

/-! ## The report of a descriptor's fault (R230) -/

theorem FaultsOnly.descFault (h : FaultsOnly s u) (d : MoverDesc) (unit : Nat) (e : CFault) : FaultsOnly s (u.descFault d unit e) := by
  unfold State.descFault
  split
  · exact FaultsOnly.raiseFault (u := u.report _) ⟨h.ctxs, h.parts⟩ _ _
  · exact ⟨h.ctxs, h.parts⟩

theorem State.waiting_descFault (u : State) (d : MoverDesc) (unit : Nat) (e : CFault) :
    ∃ rep : Report, (u.descFault d unit e).log.waiting = u.log.waiting ++ [rep] ∧ rep.code = e.code ∧ rep.address = e.address ∧
      rep.unit = unit := by
  unfold State.descFault
  split
  · rw [State.jobFault, State.log_raiseFault]
    exact ⟨_, rfl, rfl, rfl, rfl⟩
  · exact ⟨_, rfl, rfl, rfl, rfl⟩

end

/-! ## The descriptor that stops (R156) -/

/-- How a mover, the log and the partitions stand once a fault has stopped the i-th descriptor in progress. -/
structure DescStopped (s t : State) (m i : Nat) (a : Active) (unit : Nat) (e : CFault) : Prop where
  hbm : t.hbm = s.hbm
  scratch : t.scratch = s.scratch
  ports : t.ports = s.ports
  active : (t.mover m).active = (s.mover m).active.eraseIdx i
  queue : (t.mover m).queue = (s.mover m).queue.filter fun d => !d.ordered
  done : (t.mover m).done =
    (s.mover m).done ++ (a.desc.token, e.code) :: ((s.mover m).queue.filter (·.ordered)).map fun d => (d.token, e.code)
  faults : ∀ d ∈ (s.mover m).queue, d.ordered = true → (s.job d.part).isSome = true → ((t.part d.part).fault).isSome = true
  reported : ∃ rep : Report, t.log.waiting = s.log.waiting ++ [rep] ∧ rep.code = e.code ∧ rep.address = e.address ∧ rep.unit = unit

section
variable {s : State} {m i : Nat} {a : Active}

theorem State.mover_of_movers {s t : State} (h : t.movers = s.movers) (m : Nat) : t.mover m = s.mover m := by
  rw [State.mover, h, State.mover]

theorem State.doneDesc_of_active (code : Nat) (h : (s.mover m).active[i]? = some a) : s.doneDesc m i code =
    s.setMover m { s.mover m with
      active := (s.mover m).active.eraseIdx i, done := (s.mover m).done ++ [(a.desc.token, code)] } := by
  simp only [State.doneDesc, h]

theorem State.failActive_stopped (unit : Nat) (e : CFault) (h : (s.mover m).active[i]? = some a) :
    DescStopped s (s.failActive m i unit e) m i a unit e := by
  -- the channel that the descriptor held is given back first
  obtain ⟨u, hu, hkeep⟩ : ∃ u, u = (if a.desc.checks then s.freeChan (a.desc.chan m) else s) ∧ Keeps [.dict, .chanUse] s u :=
    ⟨_, rfl, Keeps.ite (State.freeChan_keeps _ _ (Keeps.refl _ s) rfl) (Keeps.refl _ s)⟩
  have hmover : u.mover m = s.mover m := State.mover_of_movers (hkeep.movers.resolve_left (by decide)) m
  have hactive : (u.mover m).active[i]? = some a := by rw [hmover, h]
  -- the mover after the descriptor and the ORDERED ones behind it have left
  let w := (u.setMover m { u.mover m with
    active := (u.mover m).active.eraseIdx i, done := (u.mover m).done ++ [(a.desc.token, e.code)] })
  let v := w.setMover m ((w.mover m).failQueue e.code)
  have hfail : s.failActive m i unit e = ((w.mover m).queue.filter (·.ordered)).foldl (fun v d => v.tokenFault d e.code)
      (v.descFault a.desc unit e) := by
    simp only [State.failActive, h, ← hu, State.doneDesc_of_active e.code hactive]
    rfl
  have hw : w.mover m = { s.mover m with
      active := (s.mover m).active.eraseIdx i, done := (s.mover m).done ++ [(a.desc.token, e.code)] } := by
    rw [State.mover_setMover, hmover]
  have hv : v.mover m = (w.mover m).failQueue e.code := State.mover_setMover _ _ _
  rw [hw] at hfail
  have hdesc := State.descFault_keeps (T := [.log, .parts]) v a.desc unit e (Keeps.refl _ v) rfl
  have htokens := State.tokenFaults_keeps e.code ((s.mover m).queue.filter (·.ordered)) (v.descFault a.desc unit e)
  have hmv : (s.failActive m i unit e).mover m = v.mover m := by
    rw [hfail, State.mover_of_movers (htokens.movers.resolve_left (by decide)), State.mover_of_movers (hdesc.movers.resolve_left (by decide))]
  have hall := State.failActive_keeps (T := [.dict, .log, .movers, .parts, .chanUse]) s m i unit e (Keeps.refl _ s) rfl
  have hfaults : FaultsOnly s (v.descFault a.desc unit e) :=
    (FaultsOnly.of_same (t := v) (hkeep.ctxs.resolve_left (by decide)) (hkeep.parts.resolve_left (by decide))).descFault _ _ _
  refine ⟨hall.hbm.resolve_left (by decide), hall.scratch.resolve_left (by decide), hall.ports.resolve_left (by decide), ?_, ?_, ?_,
    fun d hd hord hjob => ?_, ?_⟩
  · rw [hmv, hv, hw]; rfl
  · rw [hmv, hv, hw]; rfl
  · rw [hmv, hv, hw]; simp [Mover.failQueue]
  · rw [hfail]
    exact (State.faulted_tokenFaults e.code _ hfaults).2 d (List.mem_filter.mpr ⟨hd, hord⟩) hjob
  · obtain ⟨rep, hrep, hfields⟩ := State.waiting_descFault v a.desc unit e
    refine ⟨rep, ?_, hfields⟩
    rw [hfail, htokens.log.resolve_left (by decide), hrep]
    exact congrArg (·.waiting ++ [rep]) (hkeep.log.resolve_left (by decide))

/-- The fault is the same where the timekeeper has moved on first. -/
theorem DescStopped.of_reach {t : State} {n unit : Nat} {e : CFault} (h : DescStopped (s.reach n) t m i a unit e) :
    DescStopped s t m i a unit e := by
  obtain ⟨hhbm, hscratch, hports, hactive, hqueue, hdone, hfaults, hreported⟩ := h
  exact ⟨hhbm, hscratch, hports, hactive, hqueue, hdone, hfaults, hreported⟩

end

/-! ## A descriptor that begins (R155, R156) -/

section
variable {m : MoverId} {s : State} {d : MoverDesc} {rest : List MoverDesc}

theorem State.beginDesc_mover (s : State) (k : Nat) (d : MoverDesc) (rest : List MoverDesc) :
    ∃ a : Active, a.desc = d ∧
      (s.beginDesc k d rest).mover k = { s.mover k with queue := rest, active := (s.mover k).active ++ [a] } := by
  unfold State.beginDesc
  extract_lets mv waits port s₁ s₂
  refine ⟨⟨d, 0, waits, port, none, 0⟩, rfl, ?_⟩
  split <;> exact State.mover_setMover _ _ _

theorem eraseIdx_concat {α : Type} (l : List α) (x : α) : (l ++ [x]).eraseIdx l.length = l := by
  simp [List.eraseIdx_append_of_length_le (le_refl l.length)]

variable (hruns : s.moverRuns (moverKey m) = true) (hqueue : (s.mover (moverKey m)).queue = d :: rest)
  (hfirst : d.ordered = true → (s.mover (moverKey m)).active = [])
include hruns hqueue hfirst

theorem exec_moverDescriptorStart_of_head : exec (.moverDescriptorStart m) s =
    .next (if d.invalid (moverKey m) then
        (s.beginDesc (moverKey m) d rest).failActive (moverKey m) (s.mover (moverKey m)).active.length (unitMover (moverKey m))
          ⟨cDenied, .hbm, d.addr, 0, 0, 0⟩
      else (s.beginDesc (moverKey m) d rest).launch (moverKey m) (s.mover (moverKey m)).active.length) := by
  have hmay : ¬ (d.ordered = true ∧ (!(s.mover (moverKey m)).active.isEmpty) = true) := by
    rintro ⟨hord, hbusy⟩
    rw [hfirst hord] at hbusy
    exact absurd hbusy (by decide)
  simp only [exec, execMoverDescriptorStart, hruns, hqueue, if_neg hmay]
  rfl

end

/-- Settles O32: a descriptor that R156 forbids is the last in progress, and stops there. -/
theorem moversBeginTheHeadOfTheirQueue : Obligations.MoversBeginTheHeadOfTheirQueue := by
  unfold Obligations.MoversBeginTheHeadOfTheirQueue
  intro m s d rest k mv hruns hqueue hfirst
  have hexec := exec_moverDescriptorStart_of_head hruns hqueue hfirst
  refine ⟨fun hok => ?begins, fun hbad => ?denied⟩
  case begins => rw [hexec, hok]; rfl
  case denied =>
    let u := s.beginDesc k d rest
    obtain ⟨a, hdesc, hmover⟩ := s.beginDesc_mover k d rest
    have hkeep := State.beginDesc_keeps (T := [.movers, .chanUse, .net]) s k d rest (Keeps.refl _ s) rfl
    have hlast : (u.mover k).active[mv.active.length]? = some a := by
      rw [hmover]; exact List.getElem?_concat_length
    obtain ⟨hhbm, hscratch, hports, hactive, hq, hdone, hfaults, rep, hrep, hcode, haddr, hunit⟩ :=
      State.failActive_stopped (unitMover k) ⟨cDenied, .hbm, d.addr, 0, 0, 0⟩ hlast
    rw [hmover] at hactive hq hdone hfaults
    have hjob : ∀ p, u.job p = s.job p := fun p =>
      (FaultsOnly.of_same (hkeep.ctxs.resolve_left (by decide)) (hkeep.parts.resolve_left (by decide))).job_eq
        (by rw [State.part, hkeep.parts.resolve_left (by decide), State.part])
    refine ⟨_, by rw [hexec, hbad]; rfl, hhbm.trans (hkeep.hbm.resolve_left (by decide)),
      hscratch.trans (hkeep.scratch.resolve_left (by decide)), hports.trans (hkeep.ports.resolve_left (by decide)), ?_, hq, ?_,
      fun e he hord hj => hfaults e he hord (by rw [hjob]; exact hj), rep, ?_, hcode, haddr, hunit⟩
    · rw [hactive]; exact eraseIdx_concat _ _
    · rw [hdone, hdesc]; rfl
    · rw [hrep, hkeep.log.resolve_left (by decide)]

/-! ## Faults during a transfer (R264, R293) -/

section
variable {m : MoverId} {s : State} {i : Nat} {a : Active} (hactive : (s.mover (moverKey m)).active[i]? = some a)
include hactive

theorem exec_endAckTimeout_of_late (hruns : s.moverRuns (moverKey m) = true)
    (hlate : (s.mover (moverKey m)).active.findIdx? s.canTimeOut = some i) :
    exec (.endAckTimeout m) s = .next ((match a.endSent with
      | some t => s.reach (t + remoteTimeoutNs)
      | none => s).failActive (moverKey m) i (unitFinwell a.port) ⟨cLinkAckTimeout, .value, 0, (s.link a.port).expected, 0, 0⟩) := by
  simp only [exec, execEndAckTimeout, hruns, hlate, hactive]
  cases a.endSent <;> rfl

theorem exec_poisonedCompletion_of_reading (addr : Nat) (hruns : s.moverRuns (moverKey m) = true)
    (hreads : (s.mover (moverKey m)).active.findIdx? Active.readsHost = some i) :
    exec (.poisonedCompletion m addr) s =
      .next (s.failActive (moverKey m) i (unitPcie a.desc.hostPort) ⟨cPoisonRead, .host, addr, 0, 0, 0⟩) := by
  simp only [exec, execPoisonedCompletion, hruns, hreads, hactive]
  rfl

theorem exec_hostReadFailure_transfer (addr : Nat) (hleaven : s.leavenUp = true)
    (hreads : (s.mover (moverKey m)).active.findIdx? Active.readsHost = some i) :
    exec (.hostReadFailure (.transfer m addr)) s =
      .next (s.failActive (moverKey m) i (unitPcie a.desc.hostPort) ⟨cDenied, .host, addr, 0, 0, 0⟩) := by
  simp only [exec, execHostReadFailure, hleaven, hreads, hactive]
  rfl

end

/-! ## Fetches of the examination that fail (R218, R264) -/

/-- A failed fetch of context c: one ACCESS_DENIED with its host address, and the examination stands still. -/
def State.fetchFailed (s : State) (c a : Nat) : State :=
  (s.report { plainReport cDenied (unitPcie (s.ctx c).hostPort) .host a with ctx := some c }).setCtx c
    { s.ctx c with pause := .hostRead }

section
variable {s : State} (hleaven : s.leavenUp = true)
include hleaven

theorem exec_hostReadFailure_descriptor {c : CtxNo} (hmay : s.mayExamine c.val = true) :
    exec (.hostReadFailure (.descriptor c)) s = .next (s.fetchFailed c.val
      ((s.ctx c.val).submitBase + 64 * ((s.ctx c.val).nextSeq.toNat % (s.ctx c.val).ringSize))) := by
  simp only [exec, execHostReadFailure, hleaven, hmay]
  rfl

theorem exec_hostReadFailure_arguments {c : CtxNo} (addr : Nat) (hmay : s.mayExamine c.val = true) :
    exec (.hostReadFailure (.arguments c addr)) s = .next (s.fetchFailed c.val addr) := by
  simp only [exec, execHostReadFailure, hleaven, hmay]
  rfl

theorem exec_hostReadFailure_flush {p : PortNo} (addr : Nat) (hsend : s.canSend p.val = true) :
    exec (.hostReadFailure (.flush p addr)) s = .next (s.report (plainReport cDenied (unitPcie p.val) .host addr)) := by
  simp only [exec, execHostReadFailure, hleaven, hsend]
  rfl

end

/-- What a failed fetch of context c leaves: its entry in the log, and nothing else of any context but the pause. -/
theorem State.fetchFailed_effect (s : State) (c a : Nat) : ∃ rep : Report, (s.fetchFailed c a).ctx c = { s.ctx c with pause := .hostRead } ∧
    (∀ j, j ≠ c → (s.fetchFailed c a).ctx j = s.ctx j) ∧ (s.fetchFailed c a).log.waiting = s.log.waiting ++ [rep] ∧
    rep.code = 0x0F ∧ rep.addrKind = .host ∧ rep.address = a ∧ rep.ctx = some c :=
  ⟨_, State.ctx_setCtx _ _ _, fun _ hj => State.ctx_setCtx_ne _ _ hj, rfl, rfl, rfl, rfl, rfl⟩

/-- Settles O34: a fault during a transfer stops its descriptor alone, and a failed fetch pauses its context alone. -/
theorem transferAndFetchFaultsStopTheirCause : Obligations.TransferAndFetchFaultsStopTheirCause := by
  unfold Obligations.TransferAndFetchFaultsStopTheirCause
  constructor
  case left =>
    intro m addr s i a k mv stopped hactive
    have stop : ∀ {u unit e}, DescStopped s u k i a unit e → stopped (.next u) e.code := fun h => by
      obtain ⟨hhbm, hscratch, hports, herased, hqueue, hdone, hfaults, rep, hrep, hcode, -⟩ := h
      exact ⟨_, rfl, hhbm, hscratch, hports, herased, hqueue, hdone, hfaults, rep, hrep, hcode⟩
    refine ⟨fun hruns hlate => ?_, fun hruns hreads => ?_, fun hleaven hreads => ?_⟩
    · rw [exec_endAckTimeout_of_late hactive hruns hlate]
      cases a.endSent with
      | none => exact stop (State.failActive_stopped _ _ hactive)
      | some t => exact stop (DescStopped.of_reach (State.failActive_stopped (s := s.reach _) _ _ hactive))
    · rw [exec_poisonedCompletion_of_reading hactive addr hruns hreads]
      exact stop (State.failActive_stopped _ _ hactive)
    · rw [exec_hostReadFailure_transfer hactive addr hleaven hreads]
      exact stop (State.failActive_stopped _ _ hactive)
  case right =>
    intro c addr s hleaven hmay x paused
    have pauses : ∀ a, paused (.next (s.fetchFailed c.val a)) a := fun a => by
      obtain ⟨rep, hfetch⟩ := s.fetchFailed_effect c.val a
      exact ⟨_, rep, rfl, hfetch⟩
    refine ⟨?_, ?_, fun p hsend => ?_⟩
    · rw [exec_hostReadFailure_descriptor hleaven hmay]; exact pauses _
    · rw [exec_hostReadFailure_arguments hleaven addr hmay]; exact pauses _
    · refine ⟨_, _, exec_hostReadFailure_flush hleaven addr hsend, fun f hf => ?_, rfl, rfl, rfl, rfl⟩
      cases f with
      | log => exact absurd rfl hf
      | _ => rfl

end Sys2Proof.Machine
end

section
/-!
PROOFS. Descriptors in progress (R135, R144, R155, R156, R295): the row that a bank access moves, the completion, the arrival records,
and the writes that wait in a bank.
-/
namespace Sys2Proof.Machine

section
variable {m : MoverId} {s : State} {i : Nat} {a : Active} (hruns : s.moverRuns (moverKey m) = true)
  (hactive : (s.mover (moverKey m)).active[i]? = some a)
include hruns hactive

theorem exec_moverBankAccess_arrive (env : XferEnv) (hnext : (s.mover (moverKey m)).active.findIdx? (·.byAccess) = some i)
    (hback : s.dstReturning a.desc = false) :
    exec (.moverBankAccess m .arrive env) s = .next ((s.xferEnv a.desc.coreOf env).accessRow (moverKey m) i a) := by
  simp only [exec, execMoverBankAccess, hruns, hnext, hactive, hback]
  rfl

theorem exec_moverDescriptorComplete_of_due (env : XferEnv) (hwaits : a.waits = false)
    (hlocal : ¬ (a.desc.dstSpace = .finwell ∧ (a.desc.srcSpace ≠ .host ∨ a.moved ≠ 0 ∨ a.endSent.isSome = true)))
    (hback : s.dstReturning a.desc = false) (hopen : s.hostOpen a.desc = true) (hdata : env.hostData.length = a.hostBytes) :
    exec (.moverDescriptorComplete m i env) s =
      .next ((s.xferEnv a.desc.coreOf env).complete (moverKey m) a env.hostData) := by
  have hdue : ¬ (a.waits = true ∨ a.desc.dstSpace = .finwell ∧ (a.desc.srcSpace ≠ .host ∨ a.moved ≠ 0 ∨ a.endSent.isSome = true)) := by
    rintro (h | h)
    · rw [hwaits] at h; exact absurd h (by decide)
    · exact hlocal h
  have hhost : ¬ ((!s.hostOpen a.desc) = true ∨ env.hostData.length ≠ a.hostBytes) := by
    rw [hopen]; simp [hdata]
  simp only [exec, execMoverDescriptorComplete, hruns, hactive, if_neg hdue, hback, if_neg hhost]
  rfl

variable (hready : (s.mover (moverKey m)).active.findIdx? (fun a => a.waits && a.desc.window.any s.windowReady) = some i)
include hready

theorem exec_windowArrival_of_returning (hback : s.dstReturning a.desc = true) : exec (.windowArrival m) s = .next s := by
  simp only [exec, execWindowArrival, hruns, hready, hactive, hback]
  rfl

theorem exec_windowArrival_of_arrived (hback : s.dstReturning a.desc = false) :
    exec (.windowArrival m) s =
      let b := { a with waits := false }
      let u := s.setActive (moverKey m) i b
      .next (if a.desc.window.any u.windowWrong then
          u.failActive (moverKey m) i (unitMover (moverKey m)) ⟨0x0F, .hbm, a.desc.addr, 0, 0, 0⟩
        else u.complete (moverKey m) b []) := by
  simp only [exec, execWindowArrival, hruns, hready, hactive, hback]
  rfl

end

/-! ## Writes that wait in a bank (R144) -/

theorem State.core_xferEnv (s : State) (k : Option Nat) (env : XferEnv) (j : Nat) : (s.xferEnv k env).core j = s.core j :=
  (State.xferEnv_keeps (T := [.dict, .scratch, .hbmEcc, .larders]) _ _ _ (Keeps.refl _ s) rfl).core_eq rfl j

/-- The write at the head of a bank's queue, performed. -/
def State.headWrite (s : State) (k b : Nat) (w : BankWrite) (rest : List BankWrite) : State × Bool × Option CFault :=
  writeWord (s.setCore k ((s.core k).setBank b { (s.core k).bank b with queue := rest })) k b w.row w.word w.mask w.data

section
variable {s : State} {k b : Nat} {w : BankWrite} {rest : List BankWrite} (hqueue : ((s.core k).bank b).queue = w :: rest)
include hqueue

theorem State.commitWrite_of_sound (h : (s.headWrite k b w rest).2.2 = none) : s.commitWrite k b = (s.headWrite k b w rest).1 := by
  unfold State.headWrite at h ⊢
  simp only [State.commitWrite, hqueue, h]

theorem State.commitWrite_of_fault {e : CFault} {j : Nat} (h : (s.headWrite k b w rest).2.2 = some e)
    (hdesc : ((s.headWrite k b w rest).1.mover w.mover).active.findIdx? (fun a => a.desc.token = w.token) = some j) :
    s.commitWrite k b = (s.headWrite k b w rest).1.failActive w.mover j (unitCore k) e := by
  unfold State.headWrite at h hdesc ⊢
  simp only [State.commitWrite, hqueue, h, hdesc]

end

theorem exec_moverBankAccess_commit {c : CoreId} {b : BankNo} {s : State} {w : BankWrite} {rest : List BankWrite} (m : MoverId)
    (env : XferEnv) (hruns : s.coreRuns (idKey c) = true) (hqueue : ((s.core (idKey c)).bank b.val).queue = w :: rest) :
    exec (.moverBankAccess m (.commit c b) env) s = .next ((s.xferEnv (some (idKey c)) env).commitWrite (idKey c) b.val) := by
  simp only [exec, execMoverBankAccess, hruns, hqueue]
  rfl

/-- Settles O33: each command by the lemma of its step; the upsets of a transfer leave the bank's queue as it is. -/
theorem descriptorsMoveRowsAndComplete : Obligations.DescriptorsMoveRowsAndComplete := by
  unfold Obligations.DescriptorsMoveRowsAndComplete
  intro m env s i a k moved
  refine ⟨fun hruns hactive => ⟨fun hnext hback => exec_moverBankAccess_arrive hruns hactive env hnext hback,
    fun hwaits hlocal hback hopen hdata => exec_moverDescriptorComplete_of_due hruns hactive env hwaits hlocal hback hopen hdata,
    fun hready => ⟨exec_windowArrival_of_returning hruns hactive hready, exec_windowArrival_of_arrived hruns hactive hready⟩⟩, ?commits⟩
  case commits =>
    intro c b w rest hruns hqueue u r
    have hexec := exec_moverBankAccess_commit m env hruns hqueue
    have hq : ((u.core (idKey c)).bank b.val).queue = w :: rest := by rw [State.core_xferEnv]; exact hqueue
    exact ⟨fun hsound => by rw [hexec, State.commitWrite_of_sound hq hsound]; rfl,
      fun e j hfault hdesc => by rw [hexec, State.commitWrite_of_fault hq hfault hdesc]; rfl⟩

end Sys2Proof.Machine
end

section
/-!
PROOFS. Fills and CLEAN (R148, R150, R151): serving a line touches no larder's queues, a fill ends its own miss, and a write-back
reaches the bytes of its line alone.
-/
namespace Sys2Proof.Machine

/-! ## What serving a line leaves of the larders' queues (R150) -/

/-- From s to t every larder keeps its outstanding misses and the requests that wait. -/
structure QueuesKept (s t : State) : Prop where
  misses : ∀ h, (t.larder h).misses = (s.larder h).misses
  waiting : ∀ h, (t.larder h).waiting = (s.larder h).waiting

section
variable {s t u : State}

theorem QueuesKept.of_larders (h : t.larders = s.larders) : QueuesKept s t := by
  have hlarder : ∀ j, t.larder j = s.larder j := fun j => by rw [State.larder, h, State.larder]
  exact ⟨fun j => by rw [hlarder], fun j => by rw [hlarder]⟩

theorem QueuesKept.refl (s : State) : QueuesKept s s := .of_larders rfl

theorem QueuesKept.trans (h : QueuesKept s t) (g : QueuesKept t u) : QueuesKept s u :=
  ⟨fun j => (g.misses j).trans (h.misses j), fun j => (g.waiting j).trans (h.waiting j)⟩

theorem QueuesKept.setLarder {h : Nat} {v : Larder} (hm : v.misses = (s.larder h).misses) (hw : v.waiting = (s.larder h).waiting) :
    QueuesKept s (s.setLarder h v) := by
  constructor <;> intro j <;> by_cases hj : j = h
  · subst hj; rw [State.larder_setLarder, hm]
  · rw [State.larder_setLarder_ne _ _ hj]
  · subst hj; rw [State.larder_setLarder, hw]
  · rw [State.larder_setLarder_ne _ _ hj]

theorem Keeps.queuesKept {T : List StateField} (h : Keeps T s t) (hT : may T .larders = false) : QueuesKept s t :=
  .of_larders (h.larders.resolve_left (by simp [hT]))

end

section
variable (s : State) (h line : Nat)

theorem State.bumpLarder_queues (sub n : Nat) : QueuesKept s (s.bumpLarder h sub n) := .of_larders rfl

theorem State.report_queues (r : Report) : QueuesKept s (s.report r) := .of_larders rfl

theorem State.touch_queues (set way : Nat) : QueuesKept s (s.setLarder h ((s.larder h).touch set way)) :=
  QueuesKept.setLarder rfl rfl

theorem State.mend_queues (data : List Byte) (poison : List Bool) (ecc : List (Option UpsetKind)) :
    QueuesKept s (s.mend h line data poison ecc).st :=
  (State.mend_keeps (T := [.dict]) _ _ _ _ _ _ (Keeps.refl _ s) rfl).queuesKept rfl

theorem State.writeBack_queues (x : Line) : QueuesKept s (s.writeBack h x) :=
  (State.writeBack_keeps (T := [.dict, .hbm, .hbmPoison, .hbmEcc]) _ _ _ (Keeps.refl _ s) rfl).queuesKept rfl

theorem State.allocLine_queues (data : List Byte) (dirty : Bool) (poison : List Bool) :
    QueuesKept s (s.allocLine h line data dirty poison) := by
  unfold State.allocLine
  dsimp only
  split
  · exact (s.writeBack_queues h _).trans (QueuesKept.setLarder rfl rfl)
  · exact QueuesKept.setLarder rfl rfl

theorem State.bringLine_queues (sub : Nat) : QueuesKept s (s.bringLine sub h line).1 := by
  have htouch : ∀ x : Line, QueuesKept s ((s.setLarder h ((s.larder h).touch (larderSet (128 * line)) x.way)).bumpLarder h 1 1) :=
    fun x => (s.touch_queues h _ _).trans (State.bumpLarder_queues _ h 1 1)
  have hread := (State.readHbm_keeps (T := [.dict, .hbm, .hbmPoison, .hbmEcc]) s h line (Keeps.refl _ s) rfl).queuesKept rfl
  unfold State.bringLine
  split
  · next x _ =>
    dsimp only
    split
    · exact ((htouch x).trans (State.mend_queues _ h line _ _ _)).trans (QueuesKept.setLarder rfl rfl)
    · exact htouch x
  · dsimp only
    refine hread.trans (QueuesKept.trans ?_ (State.allocLine_queues _ _ _ _ _ _))
    split
    · exact QueuesKept.refl _
    · exact State.bumpLarder_queues _ h sub 1

theorem State.putLine_queues (off : Nat) (bs : List Byte) : QueuesKept s (s.putLine h line off bs) := by
  unfold State.putLine
  split
  · exact s.allocLine_queues h line bs true noFailed
  · exact (s.bringLine_queues h line 2).trans (QueuesKept.setLarder rfl rfl)

theorem State.putCopy_queues (off : Nat) (bs : List Byte) : QueuesKept s (s.putCopy h line off bs) := by
  unfold State.putCopy
  split
  · exact s.putLine_queues _ line off bs
  · exact QueuesKept.refl s

theorem State.answer_queues (source code : Nat) (bs : List Byte) : QueuesKept s (s.answer h source code bs) :=
  QueuesKept.setLarder rfl rfl

theorem State.refuseReq_queues (r : LarderReq) (code addr : Nat) : QueuesKept s (s.refuseReq h r code addr) :=
  (s.report_queues _).trans (State.answer_queues _ h r.source code [])

theorem State.serve_queues (failed : List Bool) (r : LarderReq) : QueuesKept s (s.serve h failed r) := by
  unfold State.serve
  split
  · exact QueuesKept.refl s
  · next x _ =>
    split
    · next d _ =>
      have hwrite : QueuesKept s (s.setLarder h (((s.larder h).touch (larderSet r.off) x.way).update (x.write (r.off % 128) d))) :=
        QueuesKept.setLarder rfl rfl
      exact hwrite.trans (State.putCopy_queues _ h _ _ _)
    · have htouch := s.touch_queues h (larderSet r.off) x.way
      dsimp only
      split
      · exact htouch.trans (State.refuseReq_queues _ h r _ _)
      · exact htouch.trans (State.refuseReq_queues _ h r _ _)
      · exact htouch.trans (State.answer_queues _ h _ _ _)

/-- Of the queues the end of a miss changes its own larder's misses alone: it is outstanding no more. -/
theorem State.completeMiss_queues (sub : Nat) (rs : List LarderReq) :
    QueuesKept (s.setLarder h { s.larder h with misses := (s.larder h).misses.filter fun m => decide (m.1 ≠ line) })
      (s.completeMiss sub h line rs).1 := by
  unfold State.completeMiss
  dsimp only
  refine (State.bringLine_queues _ h line sub).trans ?_
  exact List.foldlRecOn (motive := QueuesKept _) rs _ (QueuesKept.refl _) fun u hu r _ => hu.trans (u.serve_queues h _ r)

theorem State.retryWaiting_of_none (hnone : (s.larder h).waiting = []) :
    s.retryWaiting h = s.setLarder h { s.larder h with waiting := [] } := by
  rw [State.retryWaiting, hnone]; rfl

end

/-! ## A fill (R150) -/

section
variable {st : Stack} {line : Nat} {s : State} {m : Nat × List LarderReq} (halive : s.alive = true)
  (hstack : st.val ∉ s.health.stacksFailed) (hmiss : (s.larder st.val).misses.find? (fun m => m.1 = line) = some m)
include halive hstack hmiss

/-- A fill serves its miss from a state that holds the errors the controller met, and then takes in what waits. -/
theorem exec_larderFill_of_miss (own other : HbmRead) : ∃ u, QueuesKept s u ∧
    exec (.larderFill st line own other) s = .next ((u.completeMiss 0 st.val line m.2).1.retryWaiting st.val) := by
  have hready : ¬ ((!s.alive) = true ∨ st.val ∈ s.health.stacksFailed) := by simp [halive, hstack]
  have hmeets : ∀ (v : State) (h : Nat) (r : HbmRead), QueuesKept v (v.readMeets h line r) := fun v h r =>
    (State.readMeets_keeps (T := [.dict, .hbmEcc]) v h line r (Keeps.refl _ v) rfl).queuesKept rfl
  refine ⟨_, ?_, by simp only [exec, execLarderFill, if_neg hready, hmiss]; rfl⟩
  split
  · exact (hmeets s _ own).trans (hmeets _ _ other)
  · exact hmeets s _ own

theorem larderFill_ends_miss (own other : HbmRead) : ∃ t, exec (.larderFill st line own other) s = .next t ∧
    ((s.larder st.val).waiting = [] →
      (t.larder st.val).misses = (s.larder st.val).misses.filter (fun x => x.1 ≠ line) ∧ (t.larder st.val).waiting = []) := by
  obtain ⟨u, hu, hexec⟩ := exec_larderFill_of_miss halive hstack hmiss own other
  refine ⟨_, hexec, fun hnone => ?_⟩
  have hend := u.completeMiss_queues st.val line 0 m.2
  have hwaiting : ((u.completeMiss 0 st.val line m.2).1.larder st.val).waiting = [] := by
    rw [hend.waiting, State.larder_setLarder]
    exact (hu.waiting st.val).trans hnone
  rw [State.retryWaiting_of_none _ _ hwaiting, State.larder_setLarder]
  refine ⟨?_, rfl⟩
  dsimp only
  rw [hend.misses, State.larder_setLarder]
  exact congrArg (List.filter _) (hu.misses st.val)

end

/-! ## Write-backs and CLEAN (R151) -/

theorem State.hbm_hbmPutLine (s : State) (addr : Nat) (data : List Byte) (poison : List Bool) :
    (s.hbmPutLine addr data poison).hbm = memWriteBytes s.hbm addr data :=
  (foldl_keeps (T := [.hbmEcc]) (fun _ _ h => State.setEcc_keeps _ _ _ h rfl) (Keeps.refl _ _)).hbm.resolve_left (by decide)

theorem State.length_data_mend (s : State) (h line : Nat) (data : List Byte) (poison : List Bool) (ecc : List (Option UpsetKind)) :
    (s.mend h line data poison ecc).data.length = 128 := by
  simp [State.mend]

theorem State.memRead_writeBack (s : State) (h : Nat) (x : Line) {a : Nat}
    (ha : a < hbmAddr h (128 * x.line) ∨ hbmAddr h (128 * x.line) + 128 ≤ a) :
    memRead (s.writeBack h x).hbm a = memRead s.hbm a := by
  unfold State.writeBack
  split
  · have hmend := (State.mend_keeps (T := [.dict]) s h x.line x.data x.poison x.ecc (Keeps.refl _ s) rfl).hbm.resolve_left (by decide)
    rw [show ∀ (v : State), (v.bumpLarder h 4 1).hbm = v.hbm from fun _ => rfl, State.hbm_hbmPutLine,
      memRead_writeBytes_ne _ _ _ _ (by rw [State.length_data_mend]; exact ha), hmend]
  · rfl

theorem State.memRead_writeBacks (h : Nat) (xs : List Line) {a : Nat}
    (ha : ∀ x ∈ xs, a < hbmAddr h (128 * x.line) ∨ hbmAddr h (128 * x.line) + 128 ≤ a) (s : State) :
    memRead (xs.foldl (fun s x => s.writeBack h x) s).hbm a = memRead s.hbm a :=
  List.foldlRecOn (motive := fun u : State => memRead u.hbm a = memRead s.hbm a) xs _ rfl fun u hu x hx =>
    (u.memRead_writeBack h x (ha x hx)).trans hu

/-- What CLEAN makes of a line. -/
def Line.cleaned (x : Line) (ranges : List (Nat × Nat)) : Line := if x.within ranges then { x with dirty := false } else x

theorem Line.not_dirty_cleaned (x : Line) (ranges : List (Nat × Nat)) :
    ¬ ((x.cleaned ranges).dirty = true ∧ (x.cleaned ranges).within ranges = true) := by
  unfold Line.cleaned
  split
  · exact fun h => Bool.false_ne_true h.1
  · next hout => exact fun h => hout h.2

section
variable (s : State) (h : Nat) (ranges : List (Nat × Nat))

theorem State.lines_cleanRange : ((s.cleanRange h ranges).larder h).lines =
    (s.larder h).lines.map fun e => (e.1, e.2.map fun x => x.cleaned ranges) := by
  rw [State.cleanRange, State.larder_setLarder]; rfl

theorem State.memRead_cleanRange {a : Nat} (ha : ∀ e ∈ (s.larder h).lines, ∀ x ∈ e.2, x.dirty = true ∧ x.within ranges = true →
    a < hbmAddr h (128 * x.line) ∨ hbmAddr h (128 * x.line) + 128 ≤ a) :
    memRead (s.cleanRange h ranges).hbm a = memRead s.hbm a := by
  refine State.memRead_writeBacks h _ (fun x hx => ?_) s
  obtain ⟨hx, hdirty⟩ := List.mem_filter.mp hx
  obtain ⟨e, he, hxe⟩ := List.mem_flatMap.mp hx
  exact ha e he x hxe (by simpa using hdirty)

end

theorem exec_clean_of_alive {st : Stack} {s : State} (ranges : List (Nat × Nat)) (halive : s.alive = true)
    (hstack : st.val ∉ s.health.stacksFailed) : exec (.clean st ranges) s = .next (s.cleanRange st.val ranges) := by
  simp [exec, execClean, halive, hstack]

/-- Settles O31: the miss that a fill ends, and the lines and bytes that CLEAN leaves. -/
theorem fillsEndMissesAndCleanLeavesNoDirtyLine : Obligations.FillsEndMissesAndCleanLeavesNoDirtyLine := by
  unfold Obligations.FillsEndMissesAndCleanLeavesNoDirtyLine
  refine ⟨fun st line own other s m halive hstack hmiss => larderFill_ends_miss halive hstack hmiss own other,
    fun st ranges s halive hstack => ⟨_, exec_clean_of_alive ranges halive hstack, s.lines_cleanRange _ ranges, fun e he x hx => ?_,
      fun a ha => s.memRead_cleanRange _ ranges ha⟩⟩
  rw [State.lines_cleanRange] at he
  obtain ⟨e', -, rfl⟩ := List.mem_map.mp he
  obtain ⟨y, -, rfl⟩ := List.mem_map.mp hx
  exact y.not_dirty_cleaned ranges

end Sys2Proof.Machine
end

section
/-!
PROOFS. Requests to a larder (R138, R148, R150, R152, R158): a read of a present line, by the words it needs, and what a request makes
of the larder's queues and counters.
-/
namespace Sys2Proof.Machine

/-! ## Lines that a larder holds -/

/-- A line put in place of the one found is found. -/
theorem Larder.find_update {l : Larder} {line : Nat} {x y : Line} (hx : l.find line = some x) (hy : y.line = line) :
    (l.update y).find line = some y := by
  have hlines : (l.update y).setLines (larderSet (128 * line)) =
      (l.setLines (larderSet (128 * line))).map fun z => if z.line = line then y else z := by
    subst hy
    exact tget_tset_same _ _ _ _
  have htest : ((fun z : Line => decide (z.line = line)) ∘ fun z => if z.line = line then y else z) = fun z => decide (z.line = line) := by
    funext z
    by_cases hz : z.line = line <;> simp [hz, hy]
  have hline : x.line = line := by simpa using List.find?_some hx
  rw [Larder.find] at hx ⊢
  rw [hlines, List.find?_map, htest, hx]
  simp [hline]

theorem Larder.line_of_find {l : Larder} {line : Nat} {x : Line} (hx : l.find line = some x) : x.line = line := by
  simpa using List.find?_some hx

theorem Larder.behind_iff {l : Larder} {r : LarderReq} :
    l.behind r = true ↔ ∃ q ∈ l.waiting, q.source = r.source ∧ q.off / 128 = r.off / 128 := by
  simp [Larder.behind]

/-! ## A refused request (R230) -/

/-- A refused request is answered with its code, and reported once. -/
structure Refused (s t : State) (h source code addr : Nat) : Prop where
  larder : t.larder h = { s.larder h with replies := (s.larder h).replies ++ [(source, code, [])] }
  reported : ∃ rep : Report, t.log.waiting = s.log.waiting ++ [rep] ∧ rep.code = code ∧ rep.addrKind = .hbm ∧ rep.address = addr
  dict : t.dict = s.dict
  hbm : t.hbm = s.hbm

theorem State.refuseReq_refused (s : State) (h : Nat) (r : LarderReq) (code addr : Nat) :
    Refused s (s.refuseReq h r code addr) h r.source code addr where
  larder := State.larder_setLarder _ _ _
  reported := ⟨_, rfl, rfl, rfl, rfl⟩
  dict := rfl
  hbm := rfl

/-! ## A read of a line that is present (R138, R148) -/

/-- The larder has just used line x. -/
def State.touched (s : State) (h off : Nat) (x : Line) : State :=
  s.setLarder h ((s.larder h).touch (larderSet off) x.way)

/-- The three answers of a read: a word that it needs has failed, else one is poisoned, else its bytes. -/
inductive ReadAnswer (s : State) (h : Nat) (x : Line) (failed : List Bool) (r : LarderReq) (t : State) : Prop where
  | failed (w : Nat) (hw : firstWord (r.off % 128) r.len failed = some w)
      (ht : t = (s.touched h r.off x).refuseReq h r cEccUncorrectable (hbmAddr h (128 * (r.off / 128) + 8 * w)))
  | poisoned (hsound : firstWord (r.off % 128) r.len failed = none) (w : Nat) (hw : firstWord (r.off % 128) r.len x.poison = some w)
      (ht : t = (s.touched h r.off x).refuseReq h r cPoisonRead (hbmAddr h (128 * (r.off / 128) + 8 * w)))
  | bytes (hsound : firstWord (r.off % 128) r.len failed = none) (hclean : firstWord (r.off % 128) r.len x.poison = none)
      (ht : t = (s.touched h r.off x).answer h r.source 0 ((x.data.drop (r.off % 128)).take r.len))

section
variable {s t : State} {h : Nat} {r : LarderReq} {x : Line} {failed : List Bool}

theorem State.serve_read (hfind : (s.larder h).find (r.off / 128) = some x) (hread : r.data = none) :
    ReadAnswer s h x failed r (s.serve h failed r) := by
  unfold State.serve
  rw [hfind, hread]
  dsimp only
  cases hfailed : firstWord (r.off % 128) r.len failed with
  | some w => exact .failed w hfailed rfl
  | none =>
    cases hpoison : firstWord (r.off % 128) r.len x.poison with
    | some w => exact .poisoned hfailed w hpoison rfl
    | none => exact .bytes hfailed hpoison rfl

/-- What every answer of a read leaves: the dictionary, HBM, and the larder's lines and queues. -/
structure ReadFrame (s t : State) (h : Nat) : Prop where
  dict : t.dict = s.dict
  hbm : t.hbm = s.hbm
  lines : (t.larder h).lines = (s.larder h).lines
  misses : (t.larder h).misses = (s.larder h).misses
  waiting : (t.larder h).waiting = (s.larder h).waiting

theorem State.larder_touched : (s.touched h r.off x).larder h = (s.larder h).touch (larderSet r.off) x.way :=
  State.larder_setLarder _ _ _

/-- A refusal after the line's use. -/
theorem ReadFrame.refused {code addr source : Nat} (hr : Refused (s.touched h r.off x) t h source code addr) : ReadFrame s t h := by
  obtain ⟨hlarder, -, hdict, hhbm⟩ := hr
  refine ⟨hdict, hhbm, ?_, ?_, ?_⟩ <;> rw [hlarder, State.larder_touched] <;> rfl

theorem ReadAnswer.frame (ha : ReadAnswer s h x failed r t) : ReadFrame s t h := by
  cases ha with
  | failed w _ ht => subst ht; exact ReadFrame.refused (State.refuseReq_refused _ h r _ _)
  | poisoned _ w _ ht => subst ht; exact ReadFrame.refused (State.refuseReq_refused _ h r _ _)
  | bytes _ _ ht =>
    subst ht
    refine ⟨rfl, rfl, ?_, ?_, ?_⟩ <;> rw [State.answer, State.larder_setLarder, State.larder_touched] <;> rfl

/-- A read denied with a code and the address of a word, as its larder answers it and the log holds it. -/
structure Denied (s t : State) (h source code addr : Nat) : Prop where
  replies : (t.larder h).replies = (s.larder h).replies ++ [(source, code, [])]
  reported : ∃ rep : Report, t.log.waiting = s.log.waiting ++ [rep] ∧ rep.code = code ∧ rep.addrKind = .hbm ∧ rep.address = addr

theorem Denied.refused {code addr source : Nat} (hr : Refused (s.touched h r.off x) t h source code addr) :
    Denied s t h source code addr := by
  obtain ⟨hlarder, hrep, -, -⟩ := hr
  exact ⟨by rw [hlarder, State.larder_touched]; rfl, hrep⟩

theorem ReadAnswer.denied_of_failed (ha : ReadAnswer s h x failed r t) {w : Nat} (hw : firstWord (r.off % 128) r.len failed = some w) :
    Denied s t h r.source cEccUncorrectable (hbmAddr h (128 * (r.off / 128) + 8 * w)) := by
  cases ha with
  | failed v hv ht =>
    obtain rfl : v = w := Option.some.inj (hv.symm.trans hw)
    subst ht
    exact Denied.refused (State.refuseReq_refused _ h r _ _)
  | poisoned hsound _ _ _ => rw [hw] at hsound; exact absurd hsound (Option.some_ne_none w)
  | bytes hsound _ _ => rw [hw] at hsound; exact absurd hsound (Option.some_ne_none w)

theorem ReadAnswer.denied_of_poisoned (ha : ReadAnswer s h x failed r t) (hsound : firstWord (r.off % 128) r.len failed = none)
    {w : Nat} (hw : firstWord (r.off % 128) r.len x.poison = some w) :
    Denied s t h r.source cPoisonRead (hbmAddr h (128 * (r.off / 128) + 8 * w)) := by
  cases ha with
  | failed v hv _ => rw [hsound] at hv; exact absurd hv.symm (Option.some_ne_none v)
  | poisoned _ v hv ht =>
    obtain rfl : v = w := Option.some.inj (hv.symm.trans hw)
    subst ht
    exact Denied.refused (State.refuseReq_refused _ h r _ _)
  | bytes _ hclean _ => rw [hw] at hclean; exact absurd hclean (Option.some_ne_none w)

theorem ReadAnswer.bytes_of_sound (ha : ReadAnswer s h x failed r t) (hsound : firstWord (r.off % 128) r.len failed = none)
    (hclean : firstWord (r.off % 128) r.len x.poison = none) :
    (t.larder h).replies = (s.larder h).replies ++ [(r.source, 0, (x.data.drop (r.off % 128)).take r.len)] ∧ t.log = s.log := by
  cases ha with
  | failed v hv _ => rw [hsound] at hv; exact absurd hv.symm (Option.some_ne_none v)
  | poisoned _ v hv _ => rw [hclean] at hv; exact absurd hv.symm (Option.some_ne_none v)
  | bytes _ _ ht =>
    subst ht
    exact ⟨by rw [State.answer, State.larder_setLarder, State.larder_touched]; rfl, rfl⟩

end

/-! ## The line that a read brings in, where it is present (R138, R153) -/

/-- A counter of a stack's larder. -/
def State.larderCounter (s : State) (h sub : Nat) : Nat := s.obj (0x3050 + 0x100 * h) sub

theorem State.larderCounter_of_dict {s t : State} (hd : t.dict = s.dict) (h sub : Nat) : t.larderCounter h sub = s.larderCounter h sub := by
  rw [State.larderCounter, State.obj, hd]; rfl

theorem State.larderCounter_bump (s : State) (h sub : Nat) : (s.bumpLarder h sub 1).larderCounter h sub =
    min (s.larderCounter h sub + 1) (objMax (0x3050 + 0x100 * h) sub) :=
  State.obj_bumpH s 0x3050 h sub 1

theorem State.larderCounter_bump_ne (s : State) (h : Nat) {sub sub' : Nat} (hne : sub' ≠ sub) :
    (s.bumpLarder h sub 1).larderCounter h sub' = s.larderCounter h sub' :=
  State.obj_setObj_ne _ _ (by simp only [objKey]; omega)

/-- The line found and its use counted in HITS. -/
def State.hit (s : State) (h line : Nat) (x : Line) : State :=
  (s.setLarder h ((s.larder h).touch (larderSet (128 * line)) x.way)).bumpLarder h 1 1

/-- Who owns a byte, and whether it has a second copy, a counter of a larder does not say. -/
theorem State.mirrored_hit (s : State) (h line : Nat) (x : Line) (addr : Nat) : (s.hit h line x).mirrored addr = s.mirrored addr := by
  have hstate : ∀ p, p < 16 → (s.hit h line x).mirrorState p = s.mirrorState p := fun p hp =>
    State.obj_setObj_ne _ _ (by simp only [objKey]; omega)
  have howner : (s.hit h line x).hbmOwner addr = s.hbmOwner addr := rfl
  have hat : (s.hit h line x).mirrorAt addr = s.mirrorAt addr := by
    rw [State.mirrorAt, howner, State.mirrorAt]
    cases hown : s.hbmOwner addr with
    | none => rfl
    | some p => exact congrArg (fun v => (some v).getD 0) (hstate p (List.mem_range.mp (List.mem_of_find?_eq_some hown)))
  rw [State.mirrored, hat, State.mirrored]

/-- The words of a line that hold an uncorrectable error. -/
def uncorrectableWords (ecc : List (Option UpsetKind)) : List Bool :=
  (List.range 16).map fun w => decide (ecc.getD w none = some .uncorrectable)

theorem State.failed_mend_of_not_mirrored {s : State} {h line : Nat} (hm : s.mirrored (hbmAddr h (128 * line)) = false)
    (data : List Byte) (poison : List Bool) (ecc : List (Option UpsetKind)) :
    (s.mend h line data poison ecc).failed = uncorrectableWords ecc := by
  simp [State.mend, uncorrectableWords, hm]

/-- What the larder and the log hold once a read has met a present line: HITS counts it, and only lines have changed. -/
structure Brought (s t : State) (h line : Nat) (y : Line) : Prop where
  counted : t.larderCounter h 1 = min (s.larderCounter h 1 + 1) (objMax (0x3050 + 0x100 * h) 1)
  hbm : t.hbm = s.hbm
  log : t.log = s.log
  misses : (t.larder h).misses = (s.larder h).misses
  waiting : (t.larder h).waiting = (s.larder h).waiting
  replies : (t.larder h).replies = (s.larder h).replies
  found : (t.larder h).find line = some y

section
variable {s : State} {h line : Nat} {x : Line} (hfind : (s.larder h).find line = some x)
include hfind

theorem State.hit_brought : Brought s (s.hit h line x) h line x := by
  have hlarder : (s.hit h line x).larder h = (s.larder h).touch (larderSet (128 * line)) x.way := State.larder_setLarder _ _ _
  refine ⟨(State.larderCounter_bump _ h 1).trans rfl, rfl, rfl, ?_, ?_, ?_, ?_⟩
  · rw [hlarder]; rfl
  · rw [hlarder]; rfl
  · rw [hlarder]; rfl
  · rw [hlarder]; exact hfind

theorem State.bringLine_of_sound (sub : Nat) (hecc : eccBad x.ecc = false) : s.bringLine sub h line = (s.hit h line x, x, noFailed) := by
  simp only [State.bringLine, hfind, hecc]; rfl

/-- An uncorrectable word is mended in the line: the counter of mends may count, and the mended line stands in the old one's place. -/
theorem State.bringLine_of_bad (sub : Nat) (hecc : eccBad x.ecc = true) : ∃ t y,
    s.bringLine sub h line = (t, y, ((s.hit h line x).mend h line x.data x.poison x.ecc).failed) ∧ Brought s t h line y := by
  let m := (s.hit h line x).mend h line x.data x.poison x.ecc
  let y : Line := { x with
    data := m.data
    poison := m.poison
    dirty := true
    ecc := x.ecc.map fun e => if e = some .uncorrectable then none else e }
  refine ⟨m.st.setLarder h ((m.st.larder h).update y), y, by simp only [State.bringLine, hfind, hecc]; rfl, ?_⟩
  obtain ⟨hcounted, hhbm, hlog, hmisses, hwaiting, hreplies, hfound⟩ := State.hit_brought hfind
  have hkeep := State.mend_keeps (T := [.dict]) (s.hit h line x) h line x.data x.poison x.ecc (Keeps.refl _ _) rfl
  have hlarder : m.st.larder h = (s.hit h line x).larder h := by
    rw [State.larder, hkeep.larders.resolve_left (by decide), State.larder]
  have hcounter : m.st.larderCounter h 1 = (s.hit h line x).larderCounter h 1 := by
    simp only [m, State.mend]
    split
    · exact State.larderCounter_bump_ne _ h (by decide)
    · rfl
  refine ⟨hcounter.trans hcounted, (hkeep.hbm.resolve_left (by decide)).trans hhbm, (hkeep.log.resolve_left (by decide)).trans hlog,
    ?_, ?_, ?_, ?_⟩
  · rw [State.larder_setLarder, hlarder]; exact hmisses
  · rw [State.larder_setLarder, hlarder]; exact hwaiting
  · rw [State.larder_setLarder, hlarder]; exact hreplies
  · rw [State.larder_setLarder, hlarder]; exact Larder.find_update hfound (Larder.line_of_find hfind : x.line = line)

end

/-! ## What a larder does with a read (R150) -/

section
variable {s : State} {h : Nat} {r : LarderReq}

theorem State.larderTake_of_behind (hbehind : ∃ q ∈ (s.larder h).waiting, q.source = r.source ∧ q.off / 128 = r.off / 128) :
    s.larderTake h r = s.larderWait h r := by
  rw [State.larderTake, if_pos (Larder.behind_iff.mpr hbehind)]

variable (hfirst : ∀ q ∈ (s.larder h).waiting, q.source = r.source → q.off / 128 ≠ r.off / 128) (hread : r.data = none)
include hfirst hread

theorem State.larderTake_of_present {x : Line} (hfind : (s.larder h).find (r.off / 128) = some x) :
    s.larderTake h r = (s.bringLine 2 h (r.off / 128)).1.serve h (s.bringLine 2 h (r.off / 128)).2.2 r := by
  have hahead : ¬ (s.larder h).behind r = true := fun hb => by
    obtain ⟨q, hq, hsource, hline⟩ := Larder.behind_iff.mp hb
    exact hfirst q hq hsource hline
  simp [State.larderTake, hahead, hread, hfind]

/-- A read of an absent line joins the line's miss, starts one, or waits for an entry. -/
theorem State.larderTake_of_absent (hfind : (s.larder h).find (r.off / 128) = none) : s.larderTake h r =
    if (s.larder h).misses.any fun m => decide (m.1 = r.off / 128) then
      (s.setLarder h { s.larder h with misses := (s.larder h).misses.map fun m =>
        if m.1 = r.off / 128 then (m.1, m.2 ++ [r]) else m }).bumpLarder h 3 1
    else if 256 ≤ (s.larder h).misses.length then s.larderWait h r
    else (s.setLarder h { s.larder h with misses := (s.larder h).misses ++ [(r.off / 128, [r])] }).bumpLarder h 2 1 := by
  have hahead : ¬ (s.larder h).behind r = true := fun hb => by
    obtain ⟨q, hq, hsource, hline⟩ := Larder.behind_iff.mp hb
    exact hfirst q hq hsource hline
  have hkept : (if r.data.isSome then (pagesIn (hbmAddr h r.off) r.len).foldl State.capturePage s else s) = s := by rw [hread]; rfl
  have hpart : ¬ (r.off % 128 = 0 ∧ r.len = 128 ∧ r.data.isSome = true) := by simp [hread]
  unfold State.larderTake
  rw [if_neg hahead, hkept]
  dsimp only
  rw [hfind, if_neg hpart]
  rfl

/-- A read of a present line is served from the line as its use leaves it. -/
theorem State.larderTake_answer {x : Line} (hfind : (s.larder h).find (r.off / 128) = some x) : ∃ b y failed,
    Brought s b h (r.off / 128) y ∧ ReadAnswer b h y failed r (s.larderTake h r) ∧
    (eccBad x.ecc = false → y = x ∧ failed = noFailed ∧ (b.larder h).lines = (s.larder h).lines) ∧
    (eccBad x.ecc = true → s.mirrored (hbmAddr h (128 * (r.off / 128))) = false → failed = uncorrectableWords x.ecc) := by
  rw [State.larderTake_of_present hfirst hread hfind]
  cases hecc : eccBad x.ecc with
  | false =>
    rw [State.bringLine_of_sound hfind 2 hecc]
    have hb := State.hit_brought hfind
    have hlarder : (s.hit h (r.off / 128) x).larder h = (s.larder h).touch (larderSet (128 * (r.off / 128))) x.way :=
      State.larder_setLarder _ _ _
    exact ⟨_, x, noFailed, hb, State.serve_read hb.found hread, fun _ => ⟨rfl, rfl, by rw [hlarder]; rfl⟩,
      fun h => absurd h Bool.false_ne_true⟩
  | true =>
    obtain ⟨t, y, hbring, hb⟩ := State.bringLine_of_bad hfind 2 hecc
    rw [hbring]
    exact ⟨t, y, _, hb, State.serve_read hb.found hread, fun h => absurd h.symm Bool.false_ne_true,
      fun _ hm => State.failed_mend_of_not_mirrored ((s.mirrored_hit h (r.off / 128) x _).trans hm)
        x.data x.poison x.ecc⟩

end

theorem firstWord_noFailed (off n : Nat) : firstWord off n noFailed = none := by
  have hword : ∀ w ∈ List.range 16, noFailed.getD w false = false := by decide
  exact List.find?_eq_none.mpr fun w hw => by rw [hword w hw]; exact Bool.false_ne_true

theorem State.hbm_larderTake_of_read {s : State} {h : Nat} {r : LarderReq} (hread : r.data = none) :
    (s.larderTake h r).hbm = s.hbm := by
  by_cases hbehind : ∃ q ∈ (s.larder h).waiting, q.source = r.source ∧ q.off / 128 = r.off / 128
  · rw [State.larderTake_of_behind hbehind]; rfl
  · have hfirst : ∀ q ∈ (s.larder h).waiting, q.source = r.source → q.off / 128 ≠ r.off / 128 :=
      fun q hq hsource hline => hbehind ⟨q, hq, hsource, hline⟩
    cases hfind : (s.larder h).find (r.off / 128) with
    | some x =>
      obtain ⟨b, y, failed, hb, hanswer, -⟩ := State.larderTake_answer hfirst hread hfind
      exact hanswer.frame.hbm.trans hb.hbm
    | none =>
      rw [State.larderTake_of_absent hfirst hread hfind]
      split
      · rfl
      · split <;> rfl

/-! ## The command (R147, R152) -/

theorem State.hbmUpsets_keeps_rest (s : State) (us : List HbmUpset) : Keeps [.hbmEcc, .larders] s (s.hbmUpsets us) :=
  State.hbmUpsets_keeps _ _ (Keeps.refl _ s) rfl

section
variable {st : Stack} {r : LarderReq} {s : State} (halive : s.alive = true) (hstack : st.val ∉ s.health.stacksFailed)
include halive hstack

theorem exec_larderRequest_of_beyond (h : stackBytes ≤ r.off + r.len - 1) : exec (.larderRequest st r) s =
    .next ((s.hbmUpsets r.upsets).refuseReq st.val r cDenied (hbmAddr st.val r.off)) := by
  simp [exec, execLarderRequest, halive, hstack, h]

theorem exec_larderRequest_of_within (h : r.off + r.len - 1 < stackBytes) : exec (.larderRequest st r) s =
    .next ((s.hbmUpsets r.upsets).larderTake st.val r) := by
  simp [exec, execLarderRequest, halive, hstack, Nat.not_le.mpr h]

end

/-- Settles O30: a request beyond the stack is refused, and a read within it goes by what the larder holds of its line. -/
theorem larderRequestsHitMergeMissOrWait : Obligations.LarderRequestsHitMergeMissOrWait := by
  unfold Obligations.LarderRequestsHitMergeMissOrWait
  intro st r s halive hstack h u l line counter counted denied
  have hkeep := s.hbmUpsets_keeps_rest r.upsets
  have hhbm : u.hbm = s.hbm := hkeep.hbm.resolve_left (by decide)
  have hlog : u.log = s.log := hkeep.log.resolve_left (by decide)
  have hcounter : ∀ sub, u.larderCounter h sub = s.larderCounter h sub :=
    fun sub => State.larderCounter_of_dict (hkeep.dict.resolve_left (by decide)) h sub
  have counts : ∀ sub, min (u.larderCounter h sub + 1) (objMax (0x3050 + 0x100 * h) sub) =
      min (s.larderCounter h sub + 1) (objMax (0x3050 + 0x100 * h) sub) := fun sub => by rw [hcounter sub]
  have none_outstanding : (∀ m ∈ l.misses, m.1 ≠ line) → ¬ (l.misses.any fun m => decide (m.1 = line)) = true := by
    intro hno hany
    obtain ⟨m, hm, hml⟩ := List.any_eq_true.mp hany
    exact hno m hm (of_decide_eq_true hml)
  refine ⟨fun hbeyond => ?beyond, exec_larderRequest_of_within halive hstack, fun hwithin hread => ?read⟩
  case beyond =>
    obtain ⟨hlarder, ⟨rep, hrep⟩, -, hh⟩ := u.refuseReq_refused h r cDenied (hbmAddr h r.off)
    rw [hlog] at hrep
    exact ⟨_, exec_larderRequest_of_beyond halive hstack hbeyond, ⟨congrArg Larder.replies hlarder, rep, hrep⟩,
      hh.trans hhbm, (congrArg Larder.lines hlarder).trans rfl, (congrArg Larder.misses hlarder).trans rfl,
      (congrArg Larder.waiting hlarder).trans rfl⟩
  case read =>
    refine ⟨_, exec_larderRequest_of_within halive hstack hwithin, (State.hbm_larderTake_of_read hread).trans hhbm,
      fun hbehind => ?behind, fun hfirst => ⟨?present, fun hfind hmiss => ?merges, fun hfind hno hroom => ?starts,
        fun hfind hno hfull => ?waits⟩⟩
    case behind => rw [State.larderTake_of_behind hbehind]; exact State.larder_setLarder _ _ _
    case present =>
      intro x hfind bad
      obtain ⟨b, y, failed, hb, hanswer, hsound, hbad⟩ := State.larderTake_answer hfirst hread hfind
      have hframe := hanswer.frame
      have deny : ∀ {code addr}, Denied b (u.larderTake h r) h r.source code addr → denied (u.larderTake h r) code addr :=
        fun ⟨hreplies, hrep⟩ => ⟨by rw [hreplies, hb.replies], by rw [← hlog, ← hb.log]; exact hrep⟩
      refine ⟨?_, hframe.misses.trans hb.misses, hframe.waiting.trans hb.waiting, fun hecc => ?sound, fun hecc hmirror w hw => ?bad⟩
      · have hcount := (State.larderCounter_of_dict hframe.dict h 1).trans hb.counted
        rw [hcounter] at hcount
        exact hcount
      case sound =>
        obtain ⟨rfl, rfl, hlines⟩ := hsound hecc
        refine ⟨hframe.lines.trans hlines, fun hclean => ?_, fun w hw => ?_⟩
        · obtain ⟨hreplies, hl⟩ := hanswer.bytes_of_sound (firstWord_noFailed _ _) hclean
          exact ⟨by rw [hreplies, hb.replies], hl.trans (hb.log.trans hlog)⟩
        · exact deny (hanswer.denied_of_poisoned (firstWord_noFailed _ _) hw)
      case bad =>
        obtain rfl := hbad hecc hmirror
        exact deny (hanswer.denied_of_failed hw)
    all_goals rw [State.larderTake_of_absent hfirst hread hfind]
    case merges =>
      obtain ⟨m, hm, hml⟩ := hmiss
      have hany : (l.misses.any fun m => decide (m.1 = line)) = true :=
        List.any_eq_true.mpr ⟨m, hm, decide_eq_true hml⟩
      rw [if_pos hany]
      exact ⟨(State.larderCounter_bump _ h 3).trans (counts 3), State.larder_setLarder _ _ _⟩
    case starts =>
      rw [if_neg (none_outstanding hno), if_neg (Nat.not_le.mpr hroom)]
      exact ⟨(State.larderCounter_bump _ h 2).trans (counts 2), State.larder_setLarder _ _ _⟩
    case waits =>
      rw [if_neg (none_outstanding hno), if_pos hfull]
      exact State.larder_setLarder _ _ _

end Sys2Proof.Machine
end

section
/-!
PROOFS. BIND (R175, R188, R207, R217, R230): the binding that serves again, the four ends of a fresh bind, and what
unbinding and a final record leave of the log and of a context's items.
-/
namespace Sys2Proof.Machine

/-! ## What failing health words and an unbinding leave -/

theorem Keeps.ctx_eq {T : List StateField} {a s : State} (h : Keeps T a s) (hT : may T .ctxs = false) (c : Nat) :
    s.ctx c = a.ctx c := by
  rw [State.ctx, h.ctxs.resolve_left (by simp [hT]), State.ctx]

theorem State.ctx_badHealth (s : State) (bad : List HealthWord) (c : Nat) : (s.badHealth bad).ctx c = s.ctx c :=
  (State.badHealth_keeps (T := [.log]) s bad (Keeps.refl _ s) rfl).ctx_eq rfl c

/-- Stopping the units of a binding and moving its pins touch no context. -/
theorem State.ctx_clearRun_pinBinding (s : State) (p : Nat) (b : Binding) (pin : Bool) (c : Nat) :
    ((s.clearRun p b).pinBinding b pin).ctx c = s.ctx c :=
  (State.pinBinding_keeps (T := [.dict, .log, .cores, .hbm, .hbmPoison, .hbmEcc, .larders, .movers, .folds, .chanUse]) _ b pin
    (State.clearRun_keeps s p b (Keeps.refl _ s) rfl) rfl).ctx_eq rfl c

/-- Unpinning fetches no line, so no line's words can fail and be reported. -/
theorem State.log_setPinned_false (s : State) (addr bytes : Nat) : (s.setPinned false addr bytes).log = s.log := by
  unfold State.setPinned
  refine view_foldl (view := State.log) (fun u _ => ?_) _ s
  dsimp only
  split
  · rfl
  · split <;> rfl

theorem State.log_pinBinding_false (s : State) (b : Binding) : (s.pinBinding b false).log = s.log := by
  unfold State.pinBinding
  refine view_foldl (view := State.log) (fun u i => ?_) _ s
  split
  · dsimp only
    split
    · exact State.log_setPinned_false _ _ _
    · rfl
  · rfl

theorem State.log_unbind (s : State) (p : Nat) : (s.unbind p).log = s.log := by
  unfold State.unbind
  split
  · rfl
  · next b _ =>
    have hclear := State.clearRun_keeps (T := [.dict, .cores, .movers, .folds, .chanUse]) s p b (Keeps.refl _ s) rfl
    exact (State.log_pinBinding_false _ b).trans (hclear.log.resolve_left (by decide))

/-- The context of a binding that goes keeps its carried state besides its items, which stay (R207). -/
theorem State.items_unbind (s : State) (p c : Nat) : ((s.unbind p).ctx c).items = (s.ctx c).items := by
  unfold State.unbind
  split
  · rfl
  · next b _ =>
    change ((State.setCtx _ b.ctx _).ctx c).items = _
    by_cases hc : c = b.ctx
    · subst hc
      rw [State.ctx_setCtx, State.ctx_clearRun_pinBinding, Context.keep]
    · rw [State.ctx_setCtx_ne _ _ hc, State.ctx_clearRun_pinBinding]

/-! ## Final records (R221) -/

/-- Once an item has ended, what its context's queue holds under its number has the final record. -/
theorem State.final_of_mem_finish {s : State} {c : Nat} {i j : Item} {status code sub off : Nat} {rec : Bool}
    (hj : j ∈ ((s.finish c i status code sub off rec).ctx c).items) (hseq : j.seq = i.seq) :
    ∃ z, j.final = some z ∧ z.status = status ∧ z.code = code ∧ z.subcode = sub ∧ z.offset = off := by
  unfold State.finish at hj
  rw [State.ctx_setCtx] at hj
  obtain ⟨k, -, hk⟩ := List.mem_map.mp hj
  split at hk
  · subst hk; exact ⟨_, rfl, rfl, rfl, rfl, rfl⟩
  · next hne => subst hk; exact absurd hseq hne

/-- A loader refusal frees the partition and gives the item its final record, FAILED with the refusal's code (R188). -/
theorem State.rejectItem_ends (s : State) (p c : Nat) (i : Item) (f : LoadFail) :
    ((s.rejectItem p c i f).part p).current = none ∧ ∀ j ∈ ((s.rejectItem p c i f).ctx c).items, j.seq = i.seq →
      ∃ z, j.final = some z ∧ z.status = 4 ∧ z.code = f.code ∧ z.subcode = f.sub ∧ z.offset = f.off :=
  ⟨congrArg Part.current (State.part_setPart _ _ _), fun _ hj hseq => State.final_of_mem_finish hj hseq⟩

/-- An image that cannot be read faults the attempt and is reported once; no item changes (R230). -/
theorem State.imageFault_effect (s : State) (p c : Nat) (i : Item) (e : CFault) :
    ((s.imageFault p c i e).part p).fault = some ⟨e.code, 0, false, true, false⟩ ∧
    (s.imageFault p c i e).ctx c = s.ctx c ∧
    ∃ rep, (s.imageFault p c i e).log.waiting = s.log.waiting ++ [rep] ∧ rep.code = e.code ∧ rep.address = e.address :=
  ⟨congrArg Part.fault (State.part_setPart _ _ _), rfl, _, rfl, rfl, rfl⟩

/-! ## A fresh bind, by what it comes to -/

section
variable {s : State} {p c : Nat} {i : Item} {bad : List HealthWord} (ns : Nat)

theorem State.bindFresh_of_bound {b : Binding} (h : (s.unbind p).tryBind p c i.desc i.train bad = .bound b) :
    s.bindFresh p c i bad ns =
      let r := ((s.unbind p).estimate c i b ns).install p c i b
      r.1.startRun p c i r.2 false := by
  simp only [State.bindFresh, h]

theorem State.bindFresh_of_reject {f : LoadFail} (h : (s.unbind p).tryBind p c i.desc i.train bad = .reject f) :
    s.bindFresh p c i bad ns = (s.unbind p).rejectItem p c i f := by
  simp only [State.bindFresh, h]

theorem State.bindFresh_of_capacity {off : Nat} (h : (s.unbind p).tryBind p c i.desc i.train bad = .capacity off) :
    s.bindFresh p c i bad ns = ((s.unbind p).returnItems c cCapacity unitLoader off .program).release p := by
  simp only [State.bindFresh, h]

theorem State.bindFresh_of_broken {e : CFault} (h : (s.unbind p).tryBind p c i.desc i.train bad = .broken e) :
    s.bindFresh p c i bad ns = (s.unbind p).imageFault p c i e := by
  simp only [State.bindFresh, h]

end

/-! ## The command -/

section
variable {p : PartNo} (bad : List HealthWord) (ns : Nat) {s : State} {c : Nat} {i : Item}
  (hleaven : s.leavenUp = true) (hmap : s.mapOk p.val = true) (hrun : s.running p.val = some (c, i))
  (hstate : i.state = .binding) (hbound : i.bound = false) (hfault : (s.part p.val).fault = none)
include hleaven hmap hrun hstate hbound hfault

theorem exec_bind_of_serves {b : Binding} (hb : ((s.badHealth bad).part p.val).binding = some b) (hserves : b.serves c i = true) :
    exec (.bind p bad ns) s = .next (((s.badHealth bad).estimate c i b ns).startRun p.val c i b false) := by
  simp [exec, execBind, hrun, hleaven, hmap, hstate, hbound, hfault, hb, hserves]

theorem exec_bind_afresh (hnone : ∀ b, ((s.badHealth bad).part p.val).binding = some b → b.serves c i = false) :
    exec (.bind p bad ns) s = .next ((s.badHealth bad).bindFresh p.val c i bad ns) := by
  cases hb : ((s.badHealth bad).part p.val).binding with
  | none => simp [exec, execBind, hrun, hleaven, hmap, hstate, hbound, hfault, hb]
  | some b => simp [exec, execBind, hrun, hleaven, hmap, hstate, hbound, hfault, hb, hnone b hb]

end

/-- Settles O43: a binding that serves runs again, and a fresh bind ends by what its attempt comes to on the unbound partition. -/
theorem bindStartsOrEndsTheItem : Obligations.BindStartsOrEndsTheItem := by
  unfold Obligations.BindStartsOrEndsTheItem
  intro p bad ns s c i hleaven hmap hrun hstate hbound hfault s0 u go
  refine ⟨fun b hb hserves => exec_bind_of_serves bad ns hleaven hmap hrun hstate hbound hfault hb hserves, fun hnone => ?afresh⟩
  have hexec : exec (.bind p bad ns) s = .next (s0.bindFresh p.val c i bad ns) :=
    exec_bind_afresh bad ns hleaven hmap hrun hstate hbound hfault hnone
  refine ⟨fun b hb => ?bound, fun f hf => ?reject, fun off hoff => ?capacity, fun e he => ?broken⟩
  case bound => exact hexec.trans (congrArg _ (State.bindFresh_of_bound ns hb))
  case reject =>
    rw [State.bindFresh_of_reject ns hf] at hexec
    exact ⟨_, hexec, State.rejectItem_ends _ _ _ _ _⟩
  case capacity =>
    rw [State.bindFresh_of_capacity ns hoff] at hexec
    exact ⟨_, hexec, congrArg Part.current (State.part_setPart _ _ _), hexec⟩
  case broken =>
    rw [State.bindFresh_of_broken ns he] at hexec
    obtain ⟨hpart, hctx, rep, hwaiting, hrep⟩ := u.imageFault_effect p.val c i e
    have hitems : (u.ctx c).items = (s.ctx c).items := by rw [State.items_unbind, State.ctx_badHealth]
    refine ⟨_, hexec, hpart, by rw [hctx, hitems], rep, ?_, hrep⟩
    rw [hwaiting, State.log_unbind]

end Sys2Proof.Machine
end

section
/-!
PROOFS. Training (R194, R198, R199, R201, R203): the start of a training item, which fixes its samples and runs its head item, and
what the settlement of a group and the doldrums watch make of its record.
-/
namespace Sys2Proof.Machine

/-! ## The offsets a training item takes, and the samples they leave (R201 to R203) -/

theorem State.obj_bump_ne (s : State) {i sub j sub' : Nat} (n : Nat) (h : objKey j sub' ≠ objKey i sub) :
    (s.bump i sub n).obj j sub' = s.obj j sub' :=
  State.obj_setObj_ne _ _ h

/-- The offsets that wait take effect, then the records that fail in both copies are dropped (R201, R203). -/
def State.recordsRead (s : State) (x : Job) (bad : List (Nat × List Stack)) : State :=
  bad.foldl (fun s e => s.badRecord x e) { s with train := s.train.applyPending x.ctx }

/-- The offset with which each group starts (R201). -/
def State.takeOffsets (s : State) (x : Job) : State × Table Int :=
  x.bd.prog.groups.foldl (fun acc g => ((acc.1.startGroup x g).1, tset 0 acc.2 g (acc.1.startGroup x g).2)) (s, [])

/-- The binding of a training item: its offsets, and RAISE_BELOW and DOLDRUMS_RUN as they stand at the start (R202). -/
def State.sampled (s : State) (b : Binding) (offsets : Table Int) : Binding :=
  { b with
    deltas := offsets
    raiseBelow := s.obj cTrain 1
    doldrumsRun := s.obj cTrain 2 }

/-- From s to t only training records, the journal, the log and the counters SCALE_AT_LIMIT and SCALE_RESTARTS have changed. -/
structure SamplesKept (s t : State) : Prop where
  parts : t.parts = s.parts
  ctxs : t.ctxs = s.ctxs
  samples : ∀ sub, sub < 8 → t.obj cTrain sub = s.obj cTrain sub

section
variable {s t u : State}

theorem SamplesKept.refl (s : State) : SamplesKept s s := ⟨rfl, rfl, fun _ _ => rfl⟩

theorem SamplesKept.trans (h : SamplesKept s t) (g : SamplesKept t u) : SamplesKept s u :=
  ⟨g.parts.trans h.parts, g.ctxs.trans h.ctxs, fun sub hsub => (g.samples sub hsub).trans (h.samples sub hsub)⟩

theorem SamplesKept.of_keeps (h : Keeps [.log, .journal, .train] s t) : SamplesKept s t :=
  ⟨h.parts.resolve_left (by decide), h.ctxs.resolve_left (by decide),
    fun sub _ => by rw [State.obj, h.dict.resolve_left (by decide), State.obj]⟩

theorem SamplesKept.bump (s : State) {sub : Nat} (n : Nat) (hsub : 8 ≤ sub) : SamplesKept s (s.bump cTrain sub n) :=
  ⟨rfl, rfl, fun sub' h => s.obj_bump_ne n (by simp only [objKey]; omega)⟩

end

theorem State.badRecord_samples (s : State) (x : Job) (e : Nat × List Stack) : SamplesKept s (s.badRecord x e) :=
  .of_keeps (State.badRecord_keeps s x e (Keeps.refl _ s) rfl)

theorem State.recordsRead_samples (s : State) (x : Job) (bad : List (Nat × List Stack)) : SamplesKept s (s.recordsRead x bad) :=
  List.foldlRecOn (motive := SamplesKept s) bad _ ⟨rfl, rfl, fun _ _ => rfl⟩ fun u hu e _ => hu.trans (u.badRecord_samples x e)

/-- A group starts from its record, from a preset, or afresh; only the counters of the last two move (R201, R203). -/
theorem State.startGroup_samples (s : State) (x : Job) (g : Nat) : SamplesKept s (s.startGroup x g).1 := by
  have htrain : ∀ t : Training, SamplesKept s { s with train := t } := fun _ => ⟨rfl, rfl, fun _ _ => rfl⟩
  unfold State.startGroup
  dsimp only
  split
  · exact .refl s
  · split
    · exact .refl s
    · split
      · split
        · exact (htrain _).trans (.bump _ 1 (by decide))
        · exact htrain _
      · exact .bump s 1 (by decide)

theorem State.takeOffsets_samples (s : State) (x : Job) : SamplesKept s (s.takeOffsets x).1 :=
  List.foldlRecOn (motive := fun acc : State × Table Int => SamplesKept s acc.1) x.bd.prog.groups _ (SamplesKept.refl s)
    fun acc hacc g _ => hacc.trans (acc.1.startGroup_samples x g)

/-! ## The start (R194, R201) -/

/-- An item whose run starts. -/
def Item.started (i : Item) : Item :=
  { i with
    state := .running
    bound := false }

theorem State.startTraining_eq (s : State) (x : Job) (bad : List (Nat × List Stack)) :
    s.startTraining x bad =
      let r := (s.recordsRead x bad).takeOffsets x
      ((r.1.setBinding x.part fun b => r.1.sampled b r.2).mapHead x.ctx Item.started).abortLate x.part x.ctx x.item := rfl

theorem State.ctx_abortLate (s : State) (p c : Nat) (i : Item) (j : Nat) : (s.abortLate p c i).ctx j = s.ctx j :=
  (State.abortLate_keeps (T := [.parts]) s p c i (Keeps.refl _ s) rfl).ctx_eq rfl j

/-- A late item's fault leaves the binding in place. -/
theorem State.binding_abortLate (s : State) (p c : Nat) (i : Item) : ((s.abortLate p c i).part p).binding = (s.part p).binding := by
  unfold State.abortLate
  split
  · rw [State.part_setPart]
  · rfl

theorem State.binding_setBinding (s : State) (p : Nat) (f : Binding → Binding) :
    ((s.setBinding p f).part p).binding = (s.part p).binding.map f := by
  rw [State.setBinding, State.part_setPart]

theorem Context.head?_mapHead (y : Context) (f : Item → Item) : (y.mapHead f).items.head? = y.items.head?.map f := by
  unfold Context.mapHead
  split
  · next h => simp [h]
  · next h => simp [h]

theorem State.startTraining_effect (s : State) (x : Job) (bad : List (Nat × List Stack)) :
    ((s.startTraining x bad).ctx x.ctx).items.head? = (s.ctx x.ctx).items.head?.map Item.started ∧
    (∀ j, j ≠ x.ctx → (s.startTraining x bad).ctx j = s.ctx j) ∧
    ∃ offsets, ((s.startTraining x bad).part x.part).binding = (s.part x.part).binding.map fun b => s.sampled b offsets := by
  rw [State.startTraining_eq]
  let r := (s.recordsRead x bad).takeOffsets x
  obtain ⟨hparts, hctxs, hsamples⟩ := (s.recordsRead_samples x bad).trans (State.takeOffsets_samples _ x)
  have hctx : ∀ j, (r.1.setBinding x.part fun b => r.1.sampled b r.2).ctx j = s.ctx j := fun j => by
    rw [State.ctx, State.ctx, ← hctxs]; rfl
  have hsampled : ∀ b, r.1.sampled b r.2 = s.sampled b r.2 := fun b => by
    rw [State.sampled, hsamples 1 (by decide), hsamples 2 (by decide), State.sampled]
  refine ⟨?_, fun j hj => ?_, r.2, ?_⟩
  · rw [State.ctx_abortLate, State.mapHead, State.ctx_setCtx, hctx, Context.head?_mapHead]
  · rw [State.ctx_abortLate, State.mapHead, State.ctx_setCtx_ne _ _ hj, hctx]
  · rw [State.binding_abortLate]
    change ((r.1.setBinding x.part fun b => r.1.sampled b r.2).part x.part).binding = _
    rw [State.binding_setBinding, State.part, hparts, ← State.part]
    exact congrArg (Option.map · _) (funext hsampled)

/-! ## The command -/

theorem State.binding_of_boundJob {s : State} {p : Nat} {x : Job} (h : s.boundJob p = some x) :
    x.part = p ∧ (s.part p).binding = some x.bd := by
  unfold State.boundJob at h
  split at h
  · next hb _ =>
    split at h
    · cases h; exact ⟨rfl, hb⟩
    · cases h
  · cases h

theorem exec_trainingItemStart_of_bound {p : PartNo} {s : State} {x : Job} (bad : List (Nat × List Stack)) (hleaven : s.leavenUp = true)
    (hbound : s.boundJob p.val = some x) (htrain : x.bd.train = true) :
    exec (.trainingItemStart p bad) s = .next (s.startTraining x bad) := by
  simp [exec, execTrainingItemStart, hbound, hleaven, htrain]

/-! ## The settlement of a group (R198) -/

/-- With a range that is not empty, it does not matter which of its ends an offset meets first. -/
theorem clampIn_eq {lo hi : Int} (h : lo ≤ hi) (d : Int) : clampIn (lo, hi) d = max lo (min hi d) := by
  simp only [clampIn]
  omega

theorem clampIn_within {lo hi : Int} (h : lo ≤ hi) (d : Int) : lo ≤ clampIn (lo, hi) d ∧ clampIn (lo, hi) d ≤ hi := by
  simp only [clampIn]
  omega

/-- R198: 1, 2, 4 and then 8. -/
theorem min_two_pow_eight (n : Nat) : min (2 ^ n) 8 = if n = 0 then 1 else if n = 1 then 2 else if n = 2 then 4 else 8 := by
  match n with
  | 0 | 1 | 2 => rfl
  | n + 3 =>
    have hpow : 8 ≤ 2 ^ (n + 3) := Nat.pow_le_pow_right (n := 2) (by decide) (Nat.le_add_left 3 n)
    rw [min_eq_right hpow, if_neg (by omega), if_neg (by omega), if_neg (by omega)]

section
variable (r : ScaleRec) (g : GroupStats)

theorem ScaleRec.settleSkip_of_flagged (h : 0 < g.flagged) :
    (r.settleSkip g).1 = { (r.move (r.delta + (min (2 ^ r.skips) 8 : Nat))).1 with skips := r.skips + 1 } := by
  rw [ScaleRec.settleSkip, if_neg (by omega)]

theorem ScaleRec.settleSkip_of_unflagged (h : g.flagged = 0) : (r.settleSkip g).1 = r := by
  rw [ScaleRec.settleSkip, if_pos h]

/-- The last 16 peaks with that of this item. -/
def ScaleRec.peaks : List Nat := (r.hist ++ [g.peak]).drop (r.hist.length + 1 - 16)

/-- A record that holds this item's peak, before its offset is judged. -/
def ScaleRec.peaked : ScaleRec :=
  { r with
    skips := 0
    hist := r.peaks g
    peakLast := g.peak }

theorem ScaleRec.settleCommit_eq (below : Nat) : r.settleCommit g below =
    if (r.peaks g).length = 16 ∧ (r.peaks g).foldl max 0 ≤ below then (r.peaked g).move (r.delta - 1) else (r.peaked g, false) := by
  simp only [ScaleRec.settleCommit, List.length_append, List.length_singleton]
  rfl

theorem foldl_max_zero_le_iff (l : List Nat) (n : Nat) : l.foldl max 0 ≤ n ↔ ∀ v ∈ l, v ≤ n := by
  rw [foldl_max_le_iff, and_iff_right (Nat.zero_le n)]

theorem ScaleRec.settleCommit_of_low {below : Nat} (hlen : (r.peaks g).length = 16) (hlow : ∀ v ∈ r.peaks g, v ≤ below) :
    (r.settleCommit g below).1 = ((r.peaked g).move (r.delta - 1)).1 := by
  rw [ScaleRec.settleCommit_eq, if_pos ⟨hlen, (foldl_max_zero_le_iff _ _).mpr hlow⟩]

theorem ScaleRec.settleCommit_of_not_low {below : Nat} (h : ¬ ((r.peaks g).length = 16 ∧ ∀ v ∈ r.peaks g, v ≤ below)) :
    (r.settleCommit g below).1 = r.peaked g := by
  rw [ScaleRec.settleCommit_eq, if_neg (by rwa [foldl_max_zero_le_iff])]

/-- Whatever a committed group's peaks come to, its offset lies in the range or is the one it had. -/
theorem ScaleRec.settleCommit_frame (below : Nat) :
    let done := (r.settleCommit g below).1
    (done.skips = 0 ∧ done.peakLast = g.peak ∧ done.run = r.run) ∧
      (done.delta = r.delta ∨ done.delta = clampIn (r.dmin, r.dmax) (r.delta - 1)) := by
  by_cases h : (r.peaks g).length = 16 ∧ ∀ v ∈ r.peaks g, v ≤ below
  · rw [r.settleCommit_of_low g h.1 h.2]; exact ⟨⟨rfl, rfl, rfl⟩, .inr rfl⟩
  · rw [r.settleCommit_of_not_low g h]; exact ⟨⟨rfl, rfl, rfl⟩, .inl rfl⟩

theorem ScaleRec.settleSkip_delta : (r.settleSkip g).1.delta = r.delta ∨
    ∃ d, (r.settleSkip g).1.delta = clampIn (r.dmin, r.dmax) d := by
  rcases Nat.eq_zero_or_pos g.flagged with h | h
  · rw [r.settleSkip_of_unflagged g h]; exact .inl rfl
  · rw [r.settleSkip_of_flagged g h]; exact .inr ⟨_, rfl⟩

/-! ## The doldrums watch (R199) -/

/-- DOLDRUMS is due where the count has grown, to a multiple of `every`; a count at its largest value does not grow. -/
theorem ScaleRec.watch_due_iff (every : Nat) (hrun : r.run < 2 ^ 32) :
    (r.watch g every).2 = true ↔ g.zeroStep = true ∧ r.run < 2 ^ 32 - 1 ∧ (r.run + 1) % every = 0 := by
  simp only [ScaleRec.watch, Bool.and_eq_true, decide_eq_true_eq, and_assoc]
  refine and_congr_right fun hzero => ?_
  rw [if_pos hzero]
  rcases Nat.lt_or_ge r.run (2 ^ 32 - 1) with hlt | hge
  · rw [min_eq_left (by omega)]
    exact and_congr_left' ⟨fun _ => hlt, fun _ => by omega⟩
  · have hmax : min (r.run + 1) (2 ^ 32 - 1) = r.run := by omega
    exact ⟨fun h => absurd hmax h.1, fun h => absurd h.1 (by omega)⟩

end

/-- Settles O44: the start keeps the samples it read, and a group's record settles by whether it overflowed or stayed low. -/
theorem trainingItemsStartAndScaleRecordsSettle : Obligations.TrainingItemsStartAndScaleRecordsSettle := by
  unfold Obligations.TrainingItemsStartAndScaleRecordsSettle
  refine ⟨fun p bad s x hleaven hbound htrain => ?start, fun r g below every hrange hrun => ?settle⟩
  case start =>
    obtain ⟨hpart, hbinding⟩ := State.binding_of_boundJob hbound
    obtain ⟨hhead, hothers, offsets, hsampled⟩ := s.startTraining_effect x bad
    rw [hpart, hbinding] at hsampled
    exact ⟨_, exec_trainingItemStart_of_bound bad hleaven hbound htrain, hhead, hothers, _, hsampled, rfl, rfl⟩
  case settle =>
    intro clamp skip done hist watched
    obtain ⟨hdone, hdelta⟩ := r.settleCommit_frame g below
    refine ⟨fun hflagged => ?skipped, r.settleSkip_of_unflagged g, fun hlen hlow => ?low, fun h => ?notLow, hdone,
      fun hlo hhi => ?within, rfl, r.watch_due_iff g every hrun, rfl⟩
    case skipped =>
      have hskip : skip = _ := r.settleSkip_of_flagged g hflagged
      rw [hskip]
      refine ⟨(clampIn_eq hrange _).trans ?_, rfl, rfl, rfl⟩
      rw [min_two_pow_eight]
      push_cast
      rfl
    case low =>
      have hlowered : done = _ := r.settleCommit_of_low g hlen hlow
      rw [hlowered]
      exact ⟨clampIn_eq hrange _, rfl⟩
    case notLow =>
      have hkept : done = _ := r.settleCommit_of_not_low g h
      rw [hkept]
      exact ⟨rfl, rfl⟩
    case within =>
      have hskip : r.dmin ≤ skip.delta ∧ skip.delta ≤ r.dmax := by
        rcases r.settleSkip_delta g with h | ⟨d, h⟩
        · rw [h]; exact ⟨hlo, hhi⟩
        · rw [h]; exact clampIn_within hrange d
      have hcommit : r.dmin ≤ done.delta ∧ done.delta ≤ r.dmax := by
        rcases hdelta with h | h
        · rw [h]; exact ⟨hlo, hhi⟩
        · rw [h]; exact clampIn_within hrange _
      exact ⟨hskip.1, hskip.2, hcommit⟩

end Sys2Proof.Machine
end

section
/-!
PROOFS. Commit marks (R174, R197, R207, R218): which contexts a mark can give way to, and what the mark of a phase before the last
leaves of its context and of the log.
-/
namespace Sys2Proof.Machine

/-! ## The contexts that are not at their reset value -/

theorem mem_keys_tinsert_ne {α : Type} {k j : Nat} (v : α) (h : j ≠ k) :
    ∀ m : Table α, j ∈ (tinsert k v m).map (·.1) ↔ j ∈ m.map (·.1) := by
  intro m
  induction m with
  | nil => simp [tinsert, h]
  | cons e m ih =>
    simp only [tinsert]
    split
    · simp [h]
    · split
      · next hk => subst hk; simp
      · rw [List.map_cons, List.mem_cons, ih, List.map_cons, List.mem_cons]

theorem mem_keys_tset_ne {α : Type} [DecidableEq α] (d : α) {k j : Nat} (v : α) (h : j ≠ k) (m : Table α) :
    j ∈ (tset d m k v).map (·.1) ↔ j ∈ m.map (·.1) := by
  unfold tset
  split
  · simp only [List.mem_map, List.mem_filter, decide_eq_true_eq]
    exact ⟨fun ⟨e, ⟨he, _⟩, hj⟩ => ⟨e, he, hj⟩, fun ⟨e, he, hj⟩ => ⟨e, ⟨he, hj ▸ h⟩, hj⟩⟩
  · exact mem_keys_tinsert_ne v h m

theorem State.mem_ctxIds_setCtx_ne (s : State) {c d : Nat} (v : Context) (h : d ≠ c) : d ∈ (s.setCtx c v).ctxIds ↔ d ∈ s.ctxIds :=
  mem_keys_tset_ne _ v h _

/-! ## What a preemption turns on (R207) -/

theorem Context.priority_mapHead (y : Context) (f : Item → Item) : (y.mapHead f).priority = y.priority := by
  unfold Context.mapHead
  split <;> rfl

theorem State.preemptor_iff (s : State) (p c : Nat) :
    s.preemptor p c = true ↔ ∃ d ∈ s.ctxIds, d ≠ c ∧ s.offers p d = true ∧ (s.ctx c).priority < (s.ctx d).priority := by
  simp [State.preemptor, and_assoc]

/-- A context is preempted for its priority and for what the others offer; its own items have no part in it. -/
theorem State.preemptor_congr {s t : State} (p : Nat) {c : Nat} (hids : ∀ d, d ≠ c → (d ∈ t.ctxIds ↔ d ∈ s.ctxIds))
    (hctx : ∀ d, d ≠ c → t.ctx d = s.ctx d) (hpriority : (t.ctx c).priority = (s.ctx c).priority) :
    t.preemptor p c = s.preemptor p c := by
  have hoffers : ∀ d, d ≠ c → t.offers p d = s.offers p d := fun d hd => by simp only [State.offers, hctx d hd]
  rw [Bool.eq_iff_iff, State.preemptor_iff, State.preemptor_iff]
  refine exists_congr fun d => ?_
  by_cases hd : d = c
  · simp [hd]
  · rw [hids d hd, hoffers d hd, hctx d hd, hpriority]

/-- Marking a context's head item leaves it as open to preemption as it was. -/
theorem State.preemptor_of_mapHead {s t : State} (p : Nat) {c : Nat} {f : Item → Item} (h : t.ctxs = (s.mapHead c f).ctxs) :
    t.preemptor p c = s.preemptor p c := by
  have hctx : ∀ d, t.ctx d = (s.mapHead c f).ctx d := fun d => by rw [State.ctx, h, State.ctx]
  refine State.preemptor_congr p (fun d hd => ?_) (fun d hd => (hctx d).trans (s.ctx_setCtx_ne _ hd)) ?_
  · rw [State.ctxIds, h]; exact s.mem_ctxIds_setCtx_ne _ hd
  · rw [hctx, State.mapHead, State.ctx_setCtx, Context.priority_mapHead]

theorem Context.items_mapHead_cons {y : Context} {i : Item} {rest : List Item} (f : Item → Item) (h : y.items = i :: rest) :
    (y.mapHead f).items = f i :: rest := by
  simp only [Context.mapHead, h]

/-! ## The mark of a phase (R218) -/

/-- An item once the mark of a phase is recorded: one mark more, the resume phase behind it, and no counted replays. -/
def Item.marked (i : Item) (ph : Nat) : Item :=
  { i with
    marks := i.marks + 1
    resumePhase := ph + 1
    counted := 0 }

theorem State.ctxs_recordMark (s : State) (x : Job) (ph : Nat) (ck : List Nat) :
    (s.recordMark x ph ck).ctxs = (s.mapHead x.ctx (Item.marked · ph)).ctxs := rfl

section
variable {s : State} {x : Job} {ph : Nat}

/-- The checkpoint copied, the larders clean and the MARK record in the journal: what a mark has done when it is recorded. -/
def State.markSaved (s : State) (x : Job) (ph : Nat) : State :=
  ((s.checkpoint x ph).1.cleanBinding x.bd).journalAppend x.ctx x.item.seq (.mark (x.item.marks + 1) ph none)

theorem State.markSaved_keeps (s : State) (x : Job) (ph : Nat) :
    Keeps [.dict, .hbm, .hbmPoison, .hbmEcc, .larders, .journal] (s.checkpoint x ph).1 (s.markSaved x ph) :=
  State.journalAppend_keeps _ _ _ _ (State.cleanBinding_keeps _ _ (Keeps.refl _ _) rfl) rfl

theorem State.ctxs_markSaved (s : State) (x : Job) (ph : Nat) : (s.markSaved x ph).ctxs = s.ctxs := by
  have hcheckpoint := State.checkpoint_keeps
    (T := [.dict, .log, .health, .cores, .scratch, .hbm, .hbmPoison, .hbmEcc, .larders, .parts]) s x ph (Keeps.refl _ s) rfl
  exact ((s.markSaved_keeps x ph).ctxs.resolve_left (by decide)).trans (hcheckpoint.ctxs.resolve_left (by decide))

/-- A mark before the last phase that neither faults nor preempts is recorded, and nothing follows it. -/
theorem State.commit_of_interval (hlast : ph + 1 ≠ x.bd.prog.phases) (hfault : (s.checkpoint x ph).2 = none)
    (hpreempt : s.preemptor x.part x.ctx = false) :
    s.commit x ph = (s.markSaved x ph).recordMark x ph (x.toCheckpoint ph) := by
  have hkept : ((s.markSaved x ph).recordMark x ph (x.toCheckpoint ph)).preemptor x.part x.ctx = false := by
    have hctxs : ((s.markSaved x ph).recordMark x ph (x.toCheckpoint ph)).ctxs = (s.mapHead x.ctx (Item.marked · ph)).ctxs := by
      rw [State.ctxs_recordMark, State.mapHead, State.mapHead, State.setCtx, State.setCtx, State.ctx, State.ctx, s.ctxs_markSaved x ph]
    rw [State.preemptor_of_mapHead x.part hctxs, hpreempt]
  unfold State.markSaved at hkept ⊢
  simp [State.commit, hlast, hfault, hkept]

theorem State.recordMark_effect (s : State) (x : Job) (ph : Nat) (ck : List Nat) {i : Item} {rest : List Item}
    (hitems : (s.ctx x.ctx).items = i :: rest) :
    ((s.recordMark x ph ck).ctx x.ctx).items = i.marked ph :: rest ∧
    (∀ j, j ≠ x.ctx → (s.recordMark x ph ck).ctx j = s.ctx j) ∧ (s.recordMark x ph ck).log = s.log := by
  have hctx : ∀ j, (s.recordMark x ph ck).ctx j = (s.mapHead x.ctx (Item.marked · ph)).ctx j := fun _ => rfl
  refine ⟨?_, fun j hj => ?_, rfl⟩
  · rw [hctx, State.mapHead, State.ctx_setCtx]; exact Context.items_mapHead_cons _ hitems
  · rw [hctx, State.mapHead, State.ctx_setCtx_ne _ _ hj]

end

/-! ## The command -/

theorem exec_commitMark_of_ready {p : PartNo} {s : State} {x : Job} {ph : Nat} (hleaven : s.leavenUp = true)
    (hjob : s.job p.val = some x) (hmark : x.nextMark = some ph) (hready : s.markReady x ph = true) :
    exec (.commitMark p) s = .next (if x.bd.train && x.bd.overflowed then s.skipStep x else s.commit x ph).reclaim := by
  simp [exec, execCommitMark, hjob, hmark, hleaven, hready]

/-- Settles O45: a ready mark skips the step or is recorded, and one before the last phase goes on in its context. -/
theorem commitMarksOpenANewInterval : Obligations.CommitMarksOpenANewInterval := by
  unfold Obligations.CommitMarksOpenANewInterval
  intro p s x ph hleaven hjob hmark hready
  have hexec := exec_commitMark_of_ready hleaven hjob hmark hready
  have hcommit : ¬ (x.bd.train = true ∧ x.bd.overflowed = true) → exec (.commitMark p) s = .next (s.commit x ph).reclaim :=
    fun h => by rw [hexec, if_neg (by rwa [Bool.and_eq_true])]
  refine ⟨fun htrain hover => ?skip, hcommit, fun i rest hnot hlast hfault hpreempt hitems => ?interval⟩
  case skip => rw [hexec, if_pos (by rw [htrain, hover]; rfl)]
  case interval =>
    have hsaved : ∀ j, (s.markSaved x ph).ctx j = s.ctx j := fun j => by rw [State.ctx, s.ctxs_markSaved x ph, State.ctx]
    obtain ⟨hhead, hothers, hlog⟩ :=
      (s.markSaved x ph).recordMark_effect x ph (x.toCheckpoint ph) (by rw [hsaved]; exact hitems)
    rw [State.commit_of_interval hlast hfault hpreempt] at hcommit
    exact ⟨_, hcommit hnot, hhead, fun j hj => (hothers j hj).trans (hsaved j),
      hlog.trans ((s.markSaved_keeps x ph).log.resolve_left (by decide))⟩

end Sys2Proof.Machine
end

section
/-!
PROOFS. ITEM_CHOOSE (R204, R207, R214, R227): which context a partition chooses, and what its choice makes of that context's head
item.
-/
namespace Sys2Proof.Machine

/-! ## What a change that leaves a part of the state leaves of it -/

theorem Keeps.part_eq {T : List StateField} {a s : State} (h : Keeps T a s) (hT : may T .parts = false) (p : Nat) :
    s.part p = a.part p := by
  rw [State.part, h.parts.resolve_left (by simp [hT]), State.part]

theorem Keeps.log_eq {T : List StateField} {a s : State} (h : Keeps T a s) (hT : may T .log = false) : s.log = a.log :=
  h.log.resolve_left (by simp [hT])

/-! ## A final record (R221) -/

section
variable (s : State) (c : Nat) (i : Item) (status code sub off : Nat) (rec : Bool)

theorem State.part_finish (p : Nat) : (s.finish c i status code sub off rec).part p = s.part p :=
  (State.finish_keeps (T := [.log, .ctxs, .journal]) s c i status code sub off rec (Keeps.refl _ s) rfl).part_eq rfl p

theorem State.ctx_finish_ne {j : Nat} (h : j ≠ c) : (s.finish c i status code sub off rec).ctx j = s.ctx j := by
  unfold State.finish
  rw [State.ctx_setCtx_ne _ _ h]
  split <;> split <;> rfl

end

/-! ## The choice (R207) -/

section
variable {s : State} {p c : Nat}

theorem le_foldl_max {l : List Nat} {n : Nat} (h : n ∈ l) : n ≤ l.foldl max 0 :=
  ((foldl_max_le_iff l).mp le_rfl).2 n h

/-- The contexts that offer an item to the partition. -/
def State.offering (s : State) (p : Nat) : List Nat := s.ctxIds.filter (s.offers p)

/-- The highest PRIORITY among them. -/
def State.topPriority (s : State) (p : Nat) : Nat := ((s.offering p).map fun c => (s.ctx c).priority).foldl max 0

/-- Whichever turn it takes, the chosen context offers an item with the highest PRIORITY. -/
theorem State.chooseCtx_mem (h : s.chooseCtx p = some c) : c ∈ s.offering p ∧ (s.ctx c).priority = s.topPriority p := by
  have hmem : c ∈ (s.offering p).filter fun c => decide ((s.ctx c).priority = s.topPriority p) := by
    unfold State.chooseCtx at h
    split at h
    · exact List.mem_of_head? h
    · obtain h | ⟨-, h⟩ := Option.or_eq_some_iff.mp h
      · exact List.mem_of_find?_eq_some h
      · exact List.mem_of_head? h
  rwa [List.mem_filter, decide_eq_true_eq] at hmem

theorem State.offers_of_chooseCtx (h : s.chooseCtx p = some c) : s.offers p c = true :=
  (List.mem_filter.mp (State.chooseCtx_mem h).1).2

theorem State.priority_le_of_chooseCtx (h : s.chooseCtx p = some c) {d : Nat} (hd : d ∈ s.ctxIds) (hoffers : s.offers p d = true) :
    (s.ctx d).priority ≤ (s.ctx c).priority := by
  rw [(State.chooseCtx_mem h).2]
  exact le_foldl_max (List.mem_map_of_mem (List.mem_filter.mpr ⟨hd, hoffers⟩))

end

/-! ## The chosen item (R214, R227) -/

/-- An item that a partition has chosen. -/
def Item.chosen (i : Item) : Item :=
  { i with
    state := .binding
    bound := false }

section
variable {s : State} {c : Nat} {i : Item} {rest : List Item} (p : Nat) (hitems : (s.ctx c).items = i :: rest)
include hitems

theorem State.choose_of_tooLate (hlate : s.tooLate c i = true) : s.choose p c = s.finish c i 2 0 0 0 true := by
  simp [State.choose, hitems, hlate]

theorem State.choose_of_inTime (hlate : s.tooLate c i = false) :
    s.choose p c = (s.mapHead c Item.chosen).setPart p { s.part p with
      current := some c
      lastCtx := some c
      fault := none } := by
  simp only [State.choose, hitems, hlate, Bool.false_eq_true, if_false]
  rfl

theorem State.choose_effect (hlate : s.tooLate c i = false) :
    ((s.choose p c).part p).current = some c ∧ ((s.choose p c).part p).lastCtx = some c ∧
    ((s.choose p c).ctx c).items = i.chosen :: rest ∧ (s.choose p c).log = s.log ∧
    ∀ j, j ≠ c → (s.choose p c).ctx j = s.ctx j := by
  rw [State.choose_of_inTime p hitems hlate]
  have hctx : ∀ j v, ((s.mapHead c Item.chosen).setPart p v).ctx j = (s.mapHead c Item.chosen).ctx j := fun _ _ => rfl
  refine ⟨?_, ?_, ?_, rfl, fun j hj => ?_⟩
  · rw [State.part_setPart]
  · rw [State.part_setPart]
  · rw [hctx, State.mapHead, State.ctx_setCtx, Context.items_mapHead_cons _ hitems]
  · rw [hctx, State.mapHead, State.ctx_setCtx_ne _ _ hj]

end

/-! ## The command -/

theorem exec_itemChoose_of_chooseCtx {p : PartNo} {s : State} {c : Nat} (hleaven : s.leavenUp = true) (hready : s.isReady = true)
    (hfree : (s.part p.val).current = none) (hchoose : s.chooseCtx p.val = some c) :
    exec (.itemChoose p) s = .next (if s.mapOk p.val then s.choose p.val c else s.mapFault p.val) := by
  simp [exec, execItemChoose, hleaven, hready, hfree, hchoose]

/-- Settles O42: the choice is among the contexts of the highest PRIORITY that offer an item, and the head item of the chosen one
enters BINDING or, too late, has its final record. -/
theorem thePartitionTakesTheHighestPriority : Obligations.ThePartitionTakesTheHighestPriority := by
  unfold Obligations.ThePartitionTakesTheHighestPriority
  intro p c i rest s hleaven hready hfree hchoose hitems
  have hexec := exec_itemChoose_of_chooseCtx hleaven hready hfree hchoose
  refine ⟨fun hmap => ?mapFails, State.offers_of_chooseCtx hchoose, fun d => State.priority_le_of_chooseCtx hchoose,
    fun hmap hlate => ?inTime, fun hmap hlate => ?tooLate⟩
  case mapFails => rw [hexec, if_neg (by simp [hmap])]
  case inTime =>
    rw [if_pos hmap] at hexec
    exact ⟨_, hexec, State.choose_effect p.val hitems hlate⟩
  case tooLate =>
    rw [if_pos hmap, State.choose_of_tooLate p.val hitems hlate] at hexec
    refine ⟨_, hexec, by rw [State.part_finish, hfree], fun j hj hseq => ?_, fun j hj => State.ctx_finish_ne _ _ _ _ _ _ _ _ hj⟩
    obtain ⟨z, hz, hstatus, -⟩ := State.final_of_mem_finish hj hseq
    exact ⟨z, hz, hstatus⟩

end Sys2Proof.Machine
end

section
/-!
PROOFS. ITEM_COMPLETE and DEADLINE_MISSED (R214, R221, R226, R227, R320): what a completion leaves of the contexts, and what a
firing of the comparator logs, notes or latches.
-/
namespace Sys2Proof.Machine

/-! ## A completion (R221) -/

theorem State.ctx_reclaim (s : State) (c : Nat) : s.reclaim.ctx c = s.ctx c := rfl

/-- A context whose head item has completed. -/
def Context.completed (y : Context) (i : Item) : Context :=
  { y with
    items := y.items.drop 1
    lastCompleted := i.seq
    mode := if y.mode = .draining ∧ (y.items.drop 1).isEmpty then .stopped else y.mode }

/-- The completion entry and the vector go to the host before the context changes. -/
theorem State.completeItem_effect (s : State) (c : Nat) (i : Item) (f : Final) :
    (s.completeItem c i f).ctx c = (s.ctx c).completed i ∧
    (∀ j, j ≠ c → (s.completeItem c i f).ctx j = s.ctx j) ∧ (s.completeItem c i f).log = s.log := by
  refine ⟨?_, fun j hj => ?_,
    (State.completeItem_keeps (T := [.ports, .ctxs, .journal]) s c i f (Keeps.refl _ s) rfl).log_eq rfl⟩
  · unfold State.completeItem
    rw [State.ctx_reclaim, State.ctx_setCtx, Context.completed]
  · unfold State.completeItem
    rw [State.ctx_reclaim, State.ctx_setCtx_ne _ _ hj]
    have hsend (m : HostMsg) : Keeps [.ports] s (s.send (s.ctx c).hostPort m) := State.send_keeps s _ m (Keeps.refl _ s) rfl
    exact (Keeps.ite (hsend _) (State.raise_keeps _ _ _ (hsend _) rfl)).ctx_eq rfl j

theorem exec_itemComplete_of_final {c : CtxNo} {s : State} {i : Item} {rest : List Item} {f : Final} (hleaven : s.leavenUp = true)
    (hitems : (s.ctx c.val).items = i :: rest) (hfinal : i.final = some f) :
    exec (.itemComplete c) s = .next (s.completeItem c.val i f) := by
  simp [exec, execItemComplete, hleaven, hitems, hfinal]

/-! ## A missed deadline (R226, R227) -/

/-- A context in which the miss of the items with a number is noted; under FINISH they are flagged as late. -/
def Context.missNoted (y : Context) (seq : Nat) : Context :=
  { y with items := y.items.map fun i => if i.seq = seq then
      { i with
        missed := true
        flags := if y.finishPolicy then i.flags ||| 8 else i.flags }
    else i }

/-- Besides the note, a miss can change a partition's fault alone. -/
theorem State.ctxs_missItem (s : State) (c seq : Nat) :
    (s.missItem c seq).ctxs = (s.setCtx c ((s.ctx c).missNoted seq)).ctxs := by
  unfold State.missItem
  dsimp only
  split
  · split <;> rfl
  · rfl

theorem State.missed_of_mem_missItem {s : State} {c seq : Nat} {j : Item} (hj : j ∈ ((s.missItem c seq).ctx c).items)
    (hseq : j.seq = seq) : j.missed = true := by
  rw [State.ctx, s.ctxs_missItem c seq, ← State.ctx, State.ctx_setCtx] at hj
  obtain ⟨k, -, hk⟩ := List.mem_map.mp hj
  split at hk
  · subst hk; rfl
  · next hne => subst hk; exact absurd hseq hne

/-- The miss is logged once, with the context and the number of its item. -/
theorem State.waiting_logMissed (s : State) (c : Nat) (i : Item) : ∃ rep, (s.logMissed c i).log.waiting = s.log.waiting ++ [rep] ∧
    rep.code = 0x0C ∧ rep.ctx = some c ∧ rep.item = some (c, i.seq) :=
  ⟨_, rfl, rfl, rfl, rfl⟩

theorem State.log_missItem (s : State) (c seq : Nat) : (s.missItem c seq).log = s.log :=
  (State.missItem_keeps (T := [.parts, .ctxs]) s c seq (Keeps.refl _ s) rfl).log_eq rfl

section
variable {s : State} {d c seq : Nat} (hearliest : earliest s.deadlines = some (d, c, seq)) (hsupply : s.power.vaux33 = true)
  (hpassed : d < s.now)
include hearliest hsupply hpassed

theorem exec_deadlineMissed_of_leaven {i : Item} (hleaven : s.leavenUp = true)
    (hitem : (s.ctx c).items.find? (fun i => i.seq = seq) = some i) :
    exec .deadlineMissed s = .next ((s.logMissed c i).missItem c seq) := by
  have htime : ¬ s.now ≤ d := by omega
  simp [exec, execDeadlineMissed, hearliest, hsupply, htime, hleaven, hitem]

theorem exec_deadlineMissed_without_leaven (hleaven : s.leavenUp = false) :
    exec .deadlineMissed s = if s.power.latched.any (fun e => decide (e.1 = 0)) then .next s
      else .next { s with power := { s.power with latched := s.power.latched ++ [(0, s.now)] } } := by
  have htime : ¬ s.now ≤ d := by omega
  simp only [exec, execDeadlineMissed, hearliest, hsupply, htime, hleaven, Bool.not_true, Bool.false_eq_true, or_self, if_false]

end

/-- Settles O46: a completion takes the head item and its number; a miss is logged and noted, or latched where none is. -/
theorem completionsAndDeadlinesComeOnce : Obligations.CompletionsAndDeadlinesComeOnce := by
  unfold Obligations.CompletionsAndDeadlinesComeOnce
  refine ⟨fun c i rest f s hleaven hitems hfinal => ?complete, fun s d c seq hearliest hsupply hpassed =>
    ⟨fun i hleaven hitem => ?logged, fun hleaven hlatched => ?latched, fun hleaven hfree => ?latches⟩⟩
  case complete =>
    obtain ⟨hctx, hothers⟩ := s.completeItem_effect c.val i f
    refine ⟨_, exec_itemComplete_of_final hleaven hitems hfinal, ?_, hothers⟩
    rw [hctx, Context.completed, hitems, List.drop_one, List.tail_cons]
  case logged =>
    obtain ⟨rep, hwaiting, hcode, hctx, hrep⟩ := s.waiting_logMissed c i
    refine ⟨_, rep, exec_deadlineMissed_of_leaven hearliest hsupply hpassed hleaven hitem, ?_, hcode, hctx, hrep,
      fun j => State.missed_of_mem_missItem⟩
    rw [State.log_missItem, hwaiting]
  case latched => rw [exec_deadlineMissed_without_leaven hearliest hsupply hpassed hleaven, if_pos hlatched]
  case latches =>
    exact ⟨_, (exec_deadlineMissed_without_leaven hearliest hsupply hpassed hleaven).trans (if_neg (by simp [hfree])), rfl, rfl, rfl⟩

end Sys2Proof.Machine
end

section
/-!
PROOFS. CONTROL of a context (R206): START, STOP and RESET as writes of its CONTROL object, what a reset leaves of every context, and
the end of a reset.
-/
namespace Sys2Proof.Machine

/-! ## Writes of CONTROL -/

section
variable {i : Instr} {s t : State} {x : Session} {index sub : Nat} {data : List Byte}

theorem AdmittedWrite.denied_object (h : AdmittedWrite i s x index sub data) (he : s.objEffect x index sub data = (s, cDenied)) :
    ∃ rep : Report, exec i s = .next (s.report rep) ∧ rep.code = 0x0F ∧ rep.addrKind = .object := by
  refine ⟨refusedAccess x index sub cDenied data.length, ?_, rfl, rfl⟩
  rw [h.writes, State.access, h.served, if_pos rfl, State.odWrite, h.objWrite_eq, he, if_neg (show cDenied ≠ 0 by decide)]

/-- A write whose effect changes one context and no entry of the log. -/
theorem AdmittedWrite.becomes {c : Nat} (h : AdmittedWrite i s x index sub data) (he : s.objEffect x index sub data = (t, 0))
    (hothers : ∀ j, j ≠ c → t.ctx j = s.ctx j) (hlog : t.log = s.log) :
    ∃ u, exec i s = .next u ∧ u.ctx c = t.ctx c ∧ (∀ j, j ≠ c → u.ctx j = s.ctx j) ∧ u.log = s.log :=
  ⟨_, h.next he, State.ctx_touchPrivilege _ _ _, fun j hj => (State.ctx_touchPrivilege _ _ _).trans (hothers j hj),
    (State.log_touchPrivilege _ _).trans hlog⟩

variable (c : CtxNo)

theorem control_admitted {v : Byte} (hserved : s.served = true)
    (hwrites : exec i s = s.access x (0x5000 + c.val) 0x0A (s.odWrite x (0x5000 + c.val) 0x0A [v]).1) :
    AdmittedWrite i s x (0x5000 + c.val) 0x0A [v] where
  served := hserved
  writes := hwrites
  admits := ⟨objWo .u8, (objInfo_context c.isLt 0x0A).trans (by decide), .inr (.inl rfl), rfl, nofun, nofun, rfl, Nat.zero_le _,
    Nat.le_sub_one_of_lt (fromBytes_lt [v])⟩
  present := s.objMissing_of_ne x (by omega) (by omega)

theorem State.objEffect_control (s : State) (x : Session) (v : Byte) :
    s.objEffect x (0x5000 + c.val) 0x0A [v] = s.writeContext c.val 0x0A v.toNat := by
  simp only [State.objEffect, objFamily_context c.isLt, Nat.add_sub_cancel_left, fromBytes_singleton]

end

/-! ## START and STOP -/

section
variable {s : State} {c : Nat}

theorem State.ctxStart_of_stopped (h : (s.ctx c).mode = .stopped) :
    s.ctxStart c = (s.setCtx c { s.ctx c with mode := .running, pause := .none }, 0) := by
  simp [State.ctxStart, h]

theorem State.ctxStart_of_not_stopped (h : (s.ctx c).mode ≠ .stopped) : s.ctxStart c = (s, cDenied) := by
  simp [State.ctxStart, h]

theorem State.ctxStop_of_still (h : (s.ctx c).mode = .stopped ∨ (s.ctx c).mode = .draining) : s.ctxStop c = (s, 0) := by
  obtain h | h := h <;> simp [State.ctxStop, h]

/-- The mode of a context that takes no more work: STOPPED, or DRAINING while it holds an item. -/
def Context.idleMode (y : Context) : CtxMode := if y.items.isEmpty then .stopped else .draining

theorem Context.idleMode_eq (y : Context) : (if y.busy then CtxMode.draining else .stopped) = y.idleMode := by
  unfold Context.busy Context.idleMode
  cases y.items.isEmpty <;> rfl

theorem State.ctxStop_of_running (h : (s.ctx c).mode = .running) :
    s.ctxStop c = (s.setCtx c { s.ctx c with mode := (s.ctx c).idleMode, pause := .none }, 0) := by
  simp only [State.ctxStop, h, Context.idleMode_eq]

theorem State.ctxStop_of_resetting (h : (s.ctx c).mode = .resetting) :
    s.ctxStop c = (s.setCtx c { s.ctx c with stopInReset := true }, 0) := by
  simp only [State.ctxStop, h]

theorem State.ctxStop_of_faulted (h : (s.ctx c).mode = .faulted) :
    s.ctxStop c = (s.setCtx c { s.ctx c with mode := .stopped }, 0) := by
  simp only [State.ctxStop, h]

end

/-! ## What unbinding and rolling back leave of the contexts -/

/-- From s to t the log stays, and every context keeps its mode, the mode it is reset from, and the numbers of its items. -/
structure ModesKept (s t : State) : Prop where
  log : t.log = s.log
  mode : ∀ j, (t.ctx j).mode = (s.ctx j).mode
  resetFrom : ∀ j, (t.ctx j).resetFrom = (s.ctx j).resetFrom
  seqs : ∀ j, (t.ctx j).items.map (·.seq) = (s.ctx j).items.map (·.seq)

section
variable {s t u : State}

theorem ModesKept.refl (s : State) : ModesKept s s := ⟨rfl, fun _ => rfl, fun _ => rfl, fun _ => rfl⟩

theorem ModesKept.trans (h : ModesKept s t) (g : ModesKept t u) : ModesKept s u where
  log := g.log.trans h.log
  mode j := (g.mode j).trans (h.mode j)
  resetFrom j := (g.resetFrom j).trans (h.resetFrom j)
  seqs j := (g.seqs j).trans (h.seqs j)

theorem ModesKept.of_ctx (hlog : t.log = s.log) (hctx : ∀ j, t.ctx j = s.ctx j) : ModesKept s t where
  log := hlog
  mode j := by rw [hctx]
  resetFrom j := by rw [hctx]
  seqs j := by rw [hctx]

theorem ModesKept.touchPrivilege (h : ModesKept s t) (x : Session) : ModesKept s (t.touchPrivilege x) :=
  h.trans (.of_ctx (State.log_touchPrivilege _ _) (State.ctx_touchPrivilege _ _))

end

/-- A context has at most its kept state from an unbinding. -/
theorem State.ctx_unbind (s : State) (p j : Nat) : ∃ kept, (s.unbind p).ctx j = { s.ctx j with kept := kept } := by
  unfold State.unbind
  split
  · exact ⟨_, rfl⟩
  · next b _ =>
    change ∃ kept, (State.setCtx _ b.ctx _).ctx j = _
    by_cases hj : j = b.ctx
    · subst hj
      rw [State.ctx_setCtx, State.ctx_clearRun_pinBinding]
      exact ⟨_, rfl⟩
    · rw [State.ctx_setCtx_ne _ _ hj, State.ctx_clearRun_pinBinding]
      exact ⟨_, rfl⟩

theorem State.unbind_modesKept (s : State) (p : Nat) : ModesKept s (s.unbind p) where
  log := s.log_unbind p
  mode j := by obtain ⟨_, h⟩ := s.ctx_unbind p j; rw [h]
  resetFrom j := by obtain ⟨_, h⟩ := s.ctx_unbind p j; rw [h]
  seqs j := by rw [s.items_unbind p j]

theorem Context.resetFrom_mapHead (y : Context) (f : Item → Item) : (y.mapHead f).resetFrom = y.resetFrom := by
  unfold Context.mapHead
  split <;> rfl

theorem Context.mode_mapHead (y : Context) (f : Item → Item) : (y.mapHead f).mode = y.mode := by
  unfold Context.mapHead
  split <;> rfl

theorem Context.seqs_mapHead (y : Context) {f : Item → Item} (hf : ∀ i, (f i).seq = i.seq) :
    (y.mapHead f).items.map (·.seq) = y.items.map (·.seq) := by
  unfold Context.mapHead
  split
  · rfl
  · next h => rw [h, List.map_cons, List.map_cons, hf]

theorem State.mapHead_modesKept (s : State) (c : Nat) {f : Item → Item} (hf : ∀ i, (f i).seq = i.seq) :
    ModesKept s (s.mapHead c f) := by
  have hctx (j : Nat) : (s.mapHead c f).ctx j = if j = c then (s.ctx c).mapHead f else s.ctx j := by
    split
    · next hj => rw [hj, State.mapHead, State.ctx_setCtx]
    · next hj => rw [State.mapHead, State.ctx_setCtx_ne _ _ hj]
  refine ⟨rfl, fun j => ?_, fun j => ?_, fun j => ?_⟩
  all_goals
    rw [hctx]
    split
    next hj => simp only [hj, Context.mode_mapHead, Context.resetFrom_mapHead, Context.seqs_mapHead _ hf]
    next => rfl

theorem State.rollItem_modesKept (s : State) (c : Nat) : ModesKept s (s.rollItem c) :=
  s.mapHead_modesKept c fun i => by split <;> [rfl; split <;> rfl]

theorem State.log_clearRun (s : State) (p : Nat) (b : Binding) : (s.clearRun p b).log = s.log :=
  (State.clearRun_keeps (T := [.dict, .cores, .movers, .folds, .chanUse]) s p b (Keeps.refl _ s) rfl).log_eq rfl

theorem State.log_discardBinding (s : State) (c : Nat) : (s.discardBinding c).log = s.log := by
  unfold State.discardBinding
  refine view_foldl (view := State.log) (fun u p => ?_) _ s
  split
  · split
    · exact (State.log_pinBinding_false _ _).trans (State.log_clearRun _ _ _)
    · rfl
  · rfl

theorem State.discardBinding_modesKept (s : State) (c : Nat) : ModesKept s (s.discardBinding c) :=
  .of_ctx (s.log_discardBinding c) ((State.discardBinding_keeps
    (T := [.dict, .log, .cores, .hbm, .hbmPoison, .hbmEcc, .larders, .movers, .folds, .parts, .chanUse]) s c (Keeps.refl _ s)
    rfl).ctx_eq rfl)

/-! ## RESET -/

/-- A context whose reset begins. -/
def Context.resetBegun (y : Context) : Context :=
  { y with
    mode := .resetting
    resetFrom := y.mode }

/-- The reset of a context with work, once it is in the journal. -/
def State.resetBegun (s : State) (c : Nat) : State :=
  (s.journalAppend c (((s.ctx c).items.head?.map (·.seq)).getD (s.ctx c).nextSeq.toNat) .ctxReset).setCtx c (s.ctx c).resetBegun

/-- From s to t context c began its reset, nothing was logged, and no item of any context was dropped. -/
structure BeganReset (c : Nat) (s t : State) : Prop where
  log : t.log = s.log
  mode : (t.ctx c).mode = .resetting
  resetFrom : (t.ctx c).resetFrom = (s.ctx c).mode
  seqs : ∀ j, (t.ctx j).items.map (·.seq) = (s.ctx j).items.map (·.seq)
  others : ∀ j, j ≠ c → (t.ctx j).mode = (s.ctx j).mode

section
variable {s t u : State} {c p : Nat}

theorem BeganReset.trans (h : BeganReset c s t) (g : ModesKept t u) : BeganReset c s u where
  log := g.log.trans h.log
  mode := (g.mode c).trans h.mode
  resetFrom := (g.resetFrom c).trans h.resetFrom
  seqs j := (g.seqs j).trans (h.seqs j)
  others j hj := (g.mode j).trans (h.others j hj)

/-- The context alone is changed, to one that is being reset and holds the same items. -/
theorem BeganReset.setCtx (h : ModesKept s t) {y : Context} (hmode : y.mode = .resetting) (hfrom : y.resetFrom = (s.ctx c).mode)
    (hitems : y.items = (t.ctx c).items) : BeganReset c s (t.setCtx c y) where
  log := h.log
  mode := by rw [State.ctx_setCtx, hmode]
  resetFrom := by rw [State.ctx_setCtx, hfrom]
  seqs j := by
    by_cases hj : j = c
    · rw [hj, State.ctx_setCtx, hitems, h.seqs]
    · rw [State.ctx_setCtx_ne _ _ hj, h.seqs]
  others j hj := by rw [State.ctx_setCtx_ne _ _ hj, h.mode]

theorem State.journalAppend_modesKept (s : State) (c seq : Nat) (b : RecBody) : ModesKept s (s.journalAppend c seq b) :=
  .of_ctx rfl fun _ => rfl

theorem State.resetBegun_began (s : State) (c : Nat) : BeganReset c s (s.resetBegun c) :=
  .setCtx (s.journalAppend_modesKept _ _ _) rfl rfl rfl

/-- A context whose item a partition works on: the item is to roll back, and one in BINDING loses its binding at once. -/
theorem State.ctxReset_of_partRunning (hmode : (s.ctx c).mode = .running ∨ (s.ctx c).mode = .draining)
    (hrun : s.partRunning c = some p) :
    s.ctxReset c = ((if (s.ctx c).items.head?.any fun i => decide (i.state = .binding) then (s.resetBegun c).unbind p
      else s.resetBegun c).rollItem c, 0) := by
  unfold State.ctxReset State.resetBegun Context.resetBegun
  obtain hmode | hmode := hmode
  all_goals
    simp only [hmode]
    split
    · next q hq => cases hq.symm.trans hrun; rfl
    · next hq => exact absurd (hq.symm.trans hrun) nofun

/-- A context of which no item runs: its resident bindings are unbound. -/
theorem State.ctxReset_of_not_partRunning (hmode : (s.ctx c).mode = .running ∨ (s.ctx c).mode = .draining)
    (hrun : s.partRunning c = none) :
    s.ctxReset c = ((List.range 16).foldl (fun s p => if (s.part p).binding.any (fun b => decide (b.ctx = c)) then s.unbind p else s)
      (s.resetBegun c), 0) := by
  unfold State.ctxReset State.resetBegun Context.resetBegun
  obtain hmode | hmode := hmode
  all_goals
    simp only [hmode]
    split
    · next hq => exact absurd (hq.symm.trans hrun) nofun
    · rfl

/-- A context with work begins its reset; where a partition works on its item in BINDING, that partition is unbound. -/
theorem State.ctxReset_of_working (hmode : (s.ctx c).mode = .running ∨ (s.ctx c).mode = .draining) :
    ∃ t, s.ctxReset c = (t, 0) ∧ BeganReset c s t ∧ ∀ p, s.partRunning c = some p →
      (∃ i ∈ (s.ctx c).items.head?, i.state = .binding) → (t.part p).binding = none := by
  have hbegan := s.resetBegun_began c
  cases hrun : s.partRunning c with
  | none =>
    refine ⟨_, State.ctxReset_of_not_partRunning hmode hrun, hbegan.trans ?_, nofun⟩
    refine List.foldlRecOn (motive := ModesKept (s.resetBegun c)) _ _ (.refl _) fun u hu p _ => ?_
    split
    · exact hu.trans (u.unbind_modesKept p)
    · exact hu
  | some p =>
    refine ⟨_, State.ctxReset_of_partRunning hmode hrun, BeganReset.trans ?_ (State.rollItem_modesKept _ c), ?_⟩
    · split
      · exact hbegan.trans (State.unbind_modesKept _ p)
      · exact hbegan
    · rintro _ ⟨⟩ ⟨i, hi, hstate⟩
      rw [if_pos ((Option.any_eq_true _ _).mpr ⟨i, hi, decide_eq_true hstate⟩),
        (State.rollItem_keeps (T := [.ctxs]) _ c (Keeps.refl _ _) rfl).part_eq rfl]
      exact (State.part_unbind _ p).1

theorem State.ctxReset_of_refused (hmode : (s.ctx c).mode = .stopped ∨ (s.ctx c).mode = .resetting) :
    s.ctxReset c = (s, cDenied) := by
  obtain hmode | hmode := hmode <;> simp only [State.ctxReset, hmode]

/-- A reset out of FAULTED in the journal, with no binding of the context left. -/
def State.resetDiscards (s : State) (c : Nat) : State := (s.journalAppend c (s.ctx c).nextSeq.toNat .ctxReset).discardBinding c

/-- A FAULTED context whose reset begins, without its kept state. -/
def Context.faultReset (y : Context) : Context :=
  { y with
    mode := .resetting
    resetFrom := .faulted
    kept := [] }

theorem State.ctxReset_of_faulted (hmode : (s.ctx c).mode = .faulted) :
    s.ctxReset c = ((s.resetDiscards c).setCtx c ((s.resetDiscards c).ctx c).faultReset, 0) := by
  simp only [State.ctxReset, hmode]
  rfl

theorem State.resetDiscards_modesKept (s : State) (c : Nat) : ModesKept s (s.resetDiscards c) :=
  (s.journalAppend_modesKept _ _ _).trans (State.discardBinding_modesKept _ c)

theorem State.faultReset_began (hmode : (s.ctx c).mode = .faulted) :
    BeganReset c s ((s.resetDiscards c).setCtx c ((s.resetDiscards c).ctx c).faultReset) :=
  BeganReset.setCtx (s.resetDiscards_modesKept c) (by rw [Context.faultReset]) (by rw [Context.faultReset, hmode])
    (by rw [Context.faultReset])

end

/-! ## The end of a reset -/

section
variable {s : State} {c : CtxNo}

theorem State.resuming_eq_false
    (h : s.partRunning c.val = none ∨ ∀ i ∈ (s.ctx c.val).items.head?, i.state ≠ .rollingBack ∧ i.state ≠ .binding) :
    s.resuming c.val = false := by
  obtain h | h := h
  · simp [State.resuming, h]
  · rw [State.resuming, Bool.and_eq_false_iff, Option.any_eq_false]
    exact .inr fun i hi => by simp [h i hi]

theorem Context.endReset_eq (y : Context) : y.endReset = { y with
    stopInReset := false
    pause := if y.pause = .hostRead then .none else y.pause
    mode := if y.resetFrom = .faulted then .stopped
      else if y.resetFrom = .running ∧ y.stopInReset = false then .running else y.idleMode } := by
  cases hfrom : y.resetFrom
  all_goals
    cases hstop : y.stopInReset <;> simp [Context.endReset, hfrom, hstop, y.idleMode_eq]

theorem exec_contextResetComplete_of_resetting (hleaven : s.leavenUp = true) (hmode : (s.ctx c.val).mode = .resetting)
    (hresuming : s.resuming c.val = false) : exec (.contextResetComplete c) s = .next (s.setCtx c.val (s.ctx c.val).endReset) := by
  simp [exec, execContextResetComplete, hleaven, hmode, hresuming]

theorem State.leavenUp_of_served (h : s.served = true) : s.leavenUp = true := by
  simp only [State.served, Bool.and_eq_true] at h
  obtain ⟨⟨hleaven, -⟩, -⟩ := h
  exact hleaven

end

/-! ## O36 -/

/-- Settles O36: each mode decides what the CONTROL object's own rule makes of the context, and a reset only unbinds and rolls back. -/
theorem contextControlFollowsItsMode : Obligations.ContextControlFollowsItsMode := by
  unfold Obligations.ContextControlFollowsItsMode
  intro x c s hserved y others becomes refused resets idle
  have hstart : AdmittedWrite (.start x c) s x (0x5000 + c.val) 0x0A [1] := control_admitted c hserved rfl
  have hstop : AdmittedWrite (.stop x c) s x (0x5000 + c.val) 0x0A [2] := control_admitted c hserved rfl
  have hreset : AdmittedWrite (.reset x c) s x (0x5000 + c.val) 0x0A [3] := control_admitted c hserved rfl
  have startRule : s.objEffect x (0x5000 + c.val) 0x0A [1] = s.ctxStart c.val := State.objEffect_control c s x 1
  have stopRule : s.objEffect x (0x5000 + c.val) 0x0A [2] = s.ctxStop c.val := State.objEffect_control c s x 2
  have resetRule : s.objEffect x (0x5000 + c.val) 0x0A [3] = s.ctxReset c.val := State.objEffect_control c s x 3
  have one {i : Instr} {v : Byte} {z : Context} (h : AdmittedWrite i s x (0x5000 + c.val) 0x0A [v])
      (he : s.objEffect x (0x5000 + c.val) 0x0A [v] = (s.setCtx c.val z, 0)) : becomes i z := by
    obtain ⟨u, hexec, hctx, hrest⟩ := h.becomes he (fun j hj => s.ctx_setCtx_ne z hj) rfl
    exact ⟨u, hexec, hctx.trans (s.ctx_setCtx _ _), hrest⟩
  have began {t : State} (he : s.ctxReset c.val = (t, 0)) (h : BeganReset c.val s t) : resets (t.touchPrivilege x) := by
    have h := h.trans ((ModesKept.refl t).touchPrivilege x)
    exact ⟨hreset.next (resetRule.trans he), h.mode, h.resetFrom, h.seqs c.val, h.log, fun j => ⟨h.seqs j, h.others j⟩⟩
  refine ⟨fun hmode => one hstart (startRule.trans (State.ctxStart_of_stopped hmode)),
    fun hmode => hstart.denied_object (startRule.trans (State.ctxStart_of_not_stopped hmode)),
    fun hmode => hstop.becomes (stopRule.trans (State.ctxStop_of_still hmode)) (fun _ _ => rfl) rfl,
    fun hmode => one hstop (stopRule.trans (State.ctxStop_of_running hmode)),
    fun hmode => one hstop (stopRule.trans (State.ctxStop_of_resetting hmode)),
    fun hmode => one hstop (stopRule.trans (State.ctxStop_of_faulted hmode)),
    fun hmode => hreset.denied_object (resetRule.trans (State.ctxReset_of_refused hmode)),
    fun hmode => ?working, fun hmode p hrun hbinding => ?binding, fun hmode => ?faulted, fun hmode hresumed => ?ends⟩
  case working =>
    obtain ⟨t, he, h, -⟩ := State.ctxReset_of_working hmode
    exact ⟨_, began he h⟩
  case binding =>
    obtain ⟨t, he, h, hunbound⟩ := State.ctxReset_of_working hmode
    exact ⟨_, began he h, by rw [State.part_touchPrivilege, hunbound p hrun hbinding]⟩
  case faulted =>
    refine ⟨_, began (State.ctxReset_of_faulted hmode) (State.faultReset_began hmode), ?_⟩
    rw [State.ctx_touchPrivilege, State.ctx_setCtx, Context.faultReset]
  case ends =>
    rw [exec_contextResetComplete_of_resetting (State.leavenUp_of_served hserved) hmode (State.resuming_eq_false hresumed),
      Context.endReset_eq]
    rfl

end Sys2Proof.Machine
end

section
/-!
PROOFS. Examination (R204, R208, R211, R212): a descriptor judged in a state with room in the journal is accepted or refused, and one
without room waits.
-/
namespace Sys2Proof.Machine

/-! ## A partition map whose pair fails (R204) -/

/-- The use of a partition's map noted: logged where its pair fails. -/
def State.mapNoted (s : State) (p : Nat) : State := if s.mapOk p then s else s.mapFault p

theorem State.ctx_mapNoted (s : State) (p c : Nat) : (s.mapNoted p).ctx c = s.ctx c :=
  (Keeps.ite (Keeps.refl [.log] s) (State.mapFault_keeps s p (Keeps.refl _ s) rfl)).ctx_eq rfl c

/-! ## Acceptance and refusal (R211, R212) -/

section
variable (s : State) (c : Nat)

/-- A context that has taken in a descriptor as its newest item. -/
def Context.accepted (y : Context) (d : Desc) (a : Args) : Context :=
  { y with
    nextSeq := y.nextSeq + 1
    lastAccepted := y.nextSeq.toNat
    items := y.items ++ [newItem y.nextSeq.toNat d a] }

theorem State.acceptDesc_eq (d : Desc) (a : Args) :
    s.acceptDesc c d a = ((((s.journalAppend c (s.ctx c).nextSeq.toNat (.accept d a)).setCtx c ((s.ctx c).accepted d a)).trackSeed
      d).writeAccept c (s.ctx c).nextSeq.toNat 0 0) := rfl

theorem State.acceptDesc_effect (d : Desc) (a : Args) :
    (s.acceptDesc c d a).log = s.log ∧ (s.acceptDesc c d a).ctx c = (s.ctx c).accepted d a ∧
    ∀ j, j ≠ c → (s.acceptDesc c d a).ctx j = s.ctx j := by
  rw [State.acceptDesc_eq]
  have hkeeps (u : State) (n : Nat) : Keeps [.ports, .dict, .seeds] u ((u.trackSeed d).writeAccept c n 0 0) :=
    State.writeAccept_keeps _ _ _ _ _ (State.trackSeed_keeps _ _ (Keeps.refl _ u) rfl) rfl
  refine ⟨(hkeeps _ _).log_eq rfl, ?_, fun j hj => ?_⟩
  · rw [(hkeeps _ _).ctx_eq rfl, State.ctx_setCtx]
  · rw [(hkeeps _ _).ctx_eq rfl, State.ctx_setCtx_ne _ _ hj]
    rfl

/-- A context one of whose descriptors was refused: it has consumed its number. -/
def Context.refused (y : Context) : Context := { y with nextSeq := y.nextSeq + 1 }

theorem State.refuseDesc_eq (e : Refuse) :
    s.refuseDesc c e = ((((s.journalAppend c (s.ctx c).nextSeq.toNat (.refuse e.code e.sub)).report (State.refuseReport
      (s.journalAppend c (s.ctx c).nextSeq.toNat (.refuse e.code e.sub)) c (s.ctx c).nextSeq.toNat e)).setCtx c
      (s.ctx c).refused).writeAccept c (s.ctx c).nextSeq.toNat e.code e.sub) := rfl

/-- Whichever unit a refusal names, its report carries the refusal's code and subcode. -/
theorem State.refuseReport_code (seq : Nat) (e : Refuse) :
    (s.refuseReport c seq e).code = e.code ∧ (s.refuseReport c seq e).subcode = e.sub := by
  refine ⟨?_, rfl⟩
  unfold State.refuseReport
  dsimp only
  split
  · rfl
  · split <;> rfl

theorem State.refuseDesc_effect (e : Refuse) :
    (s.refuseDesc c e).ctx c = (s.ctx c).refused ∧ (∀ j, j ≠ c → (s.refuseDesc c e).ctx j = s.ctx j) ∧
    ∃ rep, (s.refuseDesc c e).log.waiting = s.log.waiting ++ [rep] ∧ rep.code = e.code ∧ rep.subcode = e.sub := by
  rw [State.refuseDesc_eq]
  have hkeeps (u : State) (n : Nat) : Keeps [.ports] u (u.writeAccept c n e.code e.sub) :=
    State.writeAccept_keeps _ _ _ _ _ (Keeps.refl _ u) rfl
  obtain ⟨hcode, hsub⟩ := State.refuseReport_code (s.journalAppend c (s.ctx c).nextSeq.toNat (.refuse e.code e.sub)) c
    (s.ctx c).nextSeq.toNat e
  refine ⟨?_, fun j hj => ?_, _, congrArg Log.waiting ((hkeeps _ _).log_eq rfl), hcode, hsub⟩
  · rw [(hkeeps _ _).ctx_eq rfl, State.ctx_setCtx]
  · rw [(hkeeps _ _).ctx_eq rfl, State.ctx_setCtx_ne _ _ hj]
    rfl

end

/-! ## One examination (R212) -/

section
variable (s : State) (c : Nat) (d : Desc) (a : Args)

/-- The journal has room, beyond the reserve, for the record of the verdict. -/
def State.HasRoom (q : State) : Prop :=
  journalReserve + (if (q.judgeDesc c d a).isNone then recUnits 256 else recUnits 3) ≤ q.journal.free

/-- The state in which a descriptor is judged. -/
def State.judging : State := s.reclaim.mapNoted (s.ctx c).partition

theorem State.ctx_judging (j : Nat) : (s.judging c).ctx j = s.ctx j := State.ctx_mapNoted _ _ _

theorem State.examine_of_not_room (h : ¬ (s.judging c).HasRoom c d a) :
    s.examine c d a = (s.judging c).setCtx c { s.ctx c with pause := .journal d a } := by
  rw [← s.ctx_judging c c]
  exact if_pos (Nat.lt_of_not_le h)

variable {s c d a} (hroom : (s.judging c).HasRoom c d a)
include hroom

theorem State.examine_of_accepted (h : (s.judging c).judgeDesc c d a = none) : s.examine c d a = (s.judging c).acceptDesc c d a := by
  refine (if_neg (Nat.not_lt.mpr hroom)).trans ?_
  split
  · rfl
  · next hr => exact absurd (hr.symm.trans h) nofun

theorem State.examine_of_refused {e : Refuse} (h : (s.judging c).judgeDesc c d a = some e) :
    s.examine c d a = (s.judging c).refuseDesc c e := by
  refine (if_neg (Nat.not_lt.mpr hroom)).trans ?_
  split
  · next hr => exact absurd (hr.symm.trans h) nofun
  · next r hr => cases hr.symm.trans h; rfl

/-- With room the verdict is carried out, and no other context changes. -/
theorem State.examine_effect :
    (∀ j, j ≠ c → (s.examine c d a).ctx j = s.ctx j) ∧
    ((s.judging c).judgeDesc c d a = none → (s.examine c d a).log = (s.judging c).log ∧
      (s.examine c d a).ctx c = (s.ctx c).accepted d a) ∧
    (∀ e, (s.judging c).judgeDesc c d a = some e → (s.examine c d a).ctx c = (s.ctx c).refused ∧
      ∃ rep, (s.examine c d a).log.waiting = (s.judging c).log.waiting ++ [rep] ∧ rep.code = e.code ∧ rep.subcode = e.sub) := by
  have haccepted := (s.judging c).acceptDesc_effect c d a
  have hrefused := (s.judging c).refuseDesc_effect c
  simp only [State.ctx_judging] at haccepted hrefused
  refine ⟨?_, fun h => ?_, fun e h => ?_⟩
  · cases h : (s.judging c).judgeDesc c d a with
    | none => rw [State.examine_of_accepted hroom h]; exact haccepted.2.2
    | some e => rw [State.examine_of_refused hroom h]; exact (hrefused e).2.1
  · rw [State.examine_of_accepted hroom h]; exact ⟨haccepted.1, haccepted.2.1⟩
  · rw [State.examine_of_refused hroom h]; exact ⟨(hrefused e).1, (hrefused e).2.2⟩

end

/-! ## The commands -/

section
variable {c : CtxNo} {desc : BitVec 512} {args : BitVec 1536} {s : State}

theorem exec_descriptorExamine_of_mayExamine (hleaven : s.leavenUp = true) (hmay : s.mayExamine c.val = true) :
    exec (.descriptorExamine c desc args) s = .next (s.examine c.val desc args) := by
  simp [exec, execDescriptorExamine, hleaven, hmay]

/-- The context goes on with its examination. -/
def State.unpaused (s : State) (c : Nat) : State := s.reclaim.setCtx c { s.ctx c with pause := .none }

theorem exec_examinationResume_of_paused (hleaven : s.leavenUp = true) (hpause : (s.ctx c.val).pause = .journal desc args)
    (hmode : (s.ctx c.val).mode = .running) (hjournal : s.health.journalLost = false)
    (hfree : journalReserve + recUnits 256 ≤ s.reclaim.journal.free) :
    exec (.examinationResume c) s = .next ((s.unpaused c.val).examine c.val desc args) := by
  have hstands : ¬ (s.reclaim.journal.free < journalReserve + recUnits 256 ∨ (s.ctx c.val).mode ≠ .running ∨
      s.health.journalLost = true) := by
    rw [hmode, hjournal]
    simpa using hfree
  simp only [exec, execExaminationResume, hleaven, hpause, Bool.not_true, Bool.false_eq_true, if_false, if_neg hstands]
  rfl

theorem State.pause_of_mayExamine {n : Nat} (h : s.mayExamine n = true) : (s.ctx n).pause = .none := by
  simp only [State.mayExamine, Bool.and_eq_true, decide_eq_true_eq] at h
  obtain ⟨⟨⟨⟨⟨⟨-, hpause⟩, -⟩, -⟩, -⟩, -⟩, -⟩ := h
  exact hpause

end

/-- Settles O41: with room the verdict on the descriptor is carried out; without, the context waits with it, and goes on with it. -/
theorem descriptorsAreAcceptedOrRefusedOnce : Obligations.DescriptorsAreAcceptedOrRefusedOnce := by
  unfold Obligations.DescriptorsAreAcceptedOrRefusedOnce
  intro c desc args s hleaven y room noted examined now
  refine ⟨fun hmay hroom => ?examine, fun hmay hroom => ?pause, fun hpause hmode hjournal hfree => ?resume⟩
  case examine =>
    have hy : y = { y with pause := .none } := by rw [← State.pause_of_mayExamine hmay]
    obtain ⟨hothers, haccepted, hrefused⟩ := State.examine_effect (s := s) (c := c.val) (d := desc) (a := args) hroom
    rw [show s.ctx c.val = _ from hy] at haccepted hrefused
    exact ⟨_, exec_descriptorExamine_of_mayExamine hleaven hmay, hothers, haccepted, hrefused⟩
  case pause =>
    have hexec := exec_descriptorExamine_of_mayExamine (desc := desc) (args := args) hleaven hmay
    rw [State.examine_of_not_room s c.val desc args hroom] at hexec
    refine ⟨_, hexec, rfl, State.ctx_setCtx _ _ _, fun j hj => ?_⟩
    rw [State.ctx_setCtx_ne _ _ hj, State.ctx_judging]
  case resume =>
    intro q hroom
    have hctx : (s.unpaused c.val).ctx c.val = { y with pause := .none } := State.ctx_setCtx _ _ _
    have hq : (s.unpaused c.val).judging c.val = q := by rw [State.judging, hctx]; rfl
    have heffect := State.examine_effect (s := s.unpaused c.val) (c := c.val) (d := desc) (a := args) (by rw [hq]; exact hroom)
    rw [hq, hctx] at heffect
    obtain ⟨hothers, haccepted, hrefused⟩ := heffect
    exact ⟨_, exec_examinationResume_of_paused hleaven hpause hmode hjournal hfree,
      fun j hj => (hothers j hj).trans (State.ctx_setCtx_ne _ _ hj), haccepted, hrefused⟩

end Sys2Proof.Machine
end

section
/-!
PROOFS. ITEM_REPLAY (R219, R225, R227, R244): an item that ends, one whose ACCEPT record is read for its replay, and the replay that has
used up REPLAY_LIMIT.
-/
namespace Sys2Proof.Machine

/-! ## An item that ends, and its partition with it (R221) -/

section
variable {s : State} (p c : Nat) (i : Item) (status code sub off : Nat) (rec : Bool)

/-- The partition has no item in progress, and the item has its final record. -/
theorem State.finish_release_ends :
    let t := (s.finish c i status code sub off rec).release p
    (t.part p).current = none ∧ (t.part p).fault = none ∧ ∀ j ∈ (t.ctx c).items, j.seq = i.seq →
      ∃ f, j.final = some f ∧ f.status = status ∧ f.code = code ∧ f.offset = off := by
  refine ⟨congrArg Part.current (State.part_setPart _ _ _), congrArg Part.fault (State.part_setPart _ _ _), fun j hj hseq => ?_⟩
  obtain ⟨f, hf, hstatus, hcode, -, hoff⟩ := State.final_of_mem_finish hj hseq
  exact ⟨f, hf, hstatus, hcode, hoff⟩

end

/-! ## What the ACCEPT record is read from (R219) -/

/-- Rolling back, reading the ACCEPT record and the words of the health map touch no context. -/
theorem State.ctx_replayed (s : State) (p c : Nat) (i : Item) (bad : List Stack) (words : List HealthWord) (j : Nat) :
    ((((s.rollback p).readAccept c i bad).1).badHealth words).ctx j = s.ctx j := by
  have hroll := State.rollback_keeps (T := [.dict, .log, .cores, .hbm, .hbmPoison, .hbmEcc, .larders, .movers, .folds, .parts, .chanUse])
    s p (Keeps.refl _ s) rfl
  rw [State.ctx_badHealth, (State.readAccept_keeps _ c i bad hroll rfl).ctx_eq rfl]

/-! ## The replay (R225) -/

/-- A counted fault under the binding of before, with no counted replay left: the item fails. -/
theorem State.replayItem_of_used {s : State} {p c : Nat} {i : Item} {g : RunFault} {r : ReplayStart} {old b : Binding}
    (hold : (s.part p).binding = some old)
    (hbound : (s.badHealth r.badHealth).tryBind p c i.desc old.training r.badHealth = .bound b) (hsame : old.same b = true)
    (hcounts : g.counts = true) (hused : (s.badHealth r.badHealth).replaysUsed c i = true) :
    s.replayItem p c i (some g) r = (s.badHealth r.badHealth).failItem p c i g := by
  simp [State.replayItem, hold, hbound, hsame, hcounts, hused]

/-! ## The command -/

section
variable {r : ReplayStart} {s : State} {c : Nat} {i : Item} (hleaven : s.leavenUp = true) (hmap : s.mapOk r.part.val = true)
  (hrun : s.running r.part.val = some (c, i)) (hfinal : i.final = none) (hport : i.awaitsPort = false)
include hleaven hmap hrun hfinal hport

theorem exec_itemReplay_of_deadline {g : RunFault} (hfault : (s.part r.part.val).fault = some g) (hdeadline : g.deadline = true) :
    exec (.itemReplay r) s = .next (((s.rollback r.part.val).finish c i 2 0 0 0 true).release r.part.val) := by
  simp [exec, execItemReplay, hleaven, hmap, hrun, hfinal, hport, hfault, hdeadline]

theorem exec_itemReplay_of_permanent {g : RunFault} (hfault : (s.part r.part.val).fault = some g) (hdeadline : g.deadline = false)
    (hpermanent : g.permanent = true) :
    exec (.itemReplay r) s = .next ((s.rollback r.part.val).failItem r.part.val c i g) := by
  simp [exec, execItemReplay, hleaven, hmap, hrun, hfinal, hport, hfault, hdeadline, hpermanent]

/-- Any other fault, and a failure that rolled the item back. -/
theorem exec_itemReplay_of_replay
    (hcause : (∃ g, (s.part r.part.val).fault = some g ∧ g.deadline = false ∧ g.permanent = false) ∨
      ((s.part r.part.val).fault = none ∧ i.state = .rollingBack)) :
    exec (.itemReplay r) s =
      let a := (s.rollback r.part.val).readAccept c i r.badCopies
      .next (if a.2 then a.1.loseJournal else a.1.replayItem r.part.val c i (s.part r.part.val).fault r) := by
  obtain ⟨g, hfault, hdeadline, hpermanent⟩ | ⟨hfault, hstate⟩ := hcause
  · simp [exec, execItemReplay, hleaven, hmap, hrun, hfinal, hport, hfault, hdeadline, hpermanent]
  · simp [exec, execItemReplay, hleaven, hmap, hrun, hfinal, hport, hfault, hstate]

end

/-- Settles O47: the fault's kind decides whether the rolled-back item ends or is replayed, and a replay past REPLAY_LIMIT ends it. -/
theorem rolledBackItemsEndOrReplay : Obligations.RolledBackItemsEndOrReplay := by
  unfold Obligations.RolledBackItemsEndOrReplay
  intro r s c i hleaven hmap hrun hfinal hport p ended a replayed
  have ends {u : State} {status code off : Nat}
      (hexec : exec (.itemReplay r) s = .next ((u.finish c i status code 0 off true).release p)) : ended status code off :=
    ⟨_, hexec, State.finish_release_ends p c i status code 0 off true⟩
  have replays (hcause : (∃ g, (s.part p).fault = some g ∧ g.deadline = false ∧ g.permanent = false) ∨
      ((s.part p).fault = none ∧ i.state = .rollingBack)) : replayed := by
    have hexec := exec_itemReplay_of_replay hleaven hmap hrun hfinal hport hcause
    exact ⟨fun h => hexec.trans (congrArg _ (if_neg (ne_true_of_eq_false h))), fun h => hexec.trans (congrArg _ (if_pos h))⟩
  refine ⟨fun g hfault hdeadline => ?deadline, fun g hfault hdeadline hpermanent => ?permanent,
    fun g hfault hdeadline hpermanent => ⟨?replay, fun old b hread hold hbound hsame hcounts hlimit => ?used⟩,
    fun hfault hstate => ?rolledBack⟩
  case deadline => exact ends (exec_itemReplay_of_deadline hleaven hmap hrun hfinal hport hfault hdeadline)
  case permanent => exact ends (exec_itemReplay_of_permanent hleaven hmap hrun hfinal hport hfault hdeadline hpermanent)
  case replay => exact replays (.inl ⟨g, hfault, hdeadline, hpermanent⟩)
  case used =>
    have hexec := (replays (.inl ⟨g, hfault, hdeadline, hpermanent⟩)).1 hread
    have hused : (a.1.badHealth r.badHealth).replaysUsed c i = true := by
      rw [State.replaysUsed, State.ctx_replayed, decide_eq_true hlimit]
    rw [hfault, State.replayItem_of_used hold hbound hsame hcounts hused] at hexec
    exact ends hexec
  case rolledBack => exact replays (.inr ⟨hfault, hstate⟩)

end Sys2Proof.Machine
end

section
/-!
PROOFS. Failures of units (R219, R225, R241 to R243): a unit's mark, its place in the persistent record and its one report, and that
what a failure does to work and to the boot leaves them as they are.
-/
namespace Sys2Proof.Machine

/-! ## The health maps and the persistent record, as a change leaves them -/

theorem State.unitFaulty_congr {s t : State} (h : t.health = s.health) (u : Nat) : t.unitFaulty u = s.unitFaulty u := by
  unfold State.unitFaulty State.hearth
  rw [h]

/-- From s to t no unit is marked or cleared, and the persistent record stays. -/
structure SameRecord (s t : State) : Prop where
  faulty : ∀ u, t.unitFaulty u = s.unitFaulty u
  persistent : t.boot.persistent = s.boot.persistent

section
variable {s t u : State}

theorem SameRecord.refl (s : State) : SameRecord s s := ⟨fun _ => rfl, rfl⟩

theorem SameRecord.trans (h : SameRecord s t) (g : SameRecord t u) : SameRecord s u :=
  ⟨fun n => (g.faulty n).trans (h.faulty n), g.persistent.trans h.persistent⟩

theorem SameRecord.of_health (hhealth : t.health = s.health) (hpersistent : t.boot.persistent = s.boot.persistent) : SameRecord s t :=
  ⟨State.unitFaulty_congr hhealth, hpersistent⟩

theorem SameRecord.of_keeps {T : List StateField} (h : Keeps T s t) (hhealth : may T .health = false) (hboot : may T .boot = false) :
    SameRecord s t :=
  .of_health (h.health.resolve_left (by simp [hhealth])) (congrArg Boot.persistent (h.boot.resolve_left (by simp [hboot])))

theorem SameRecord.ite {c : Prop} {_ : Decidable c} (ht : SameRecord s t) (hu : SameRecord s u) : SameRecord s (if c then t else u) := by
  split <;> assumption

theorem SameRecord.foldl {β : Type} {f : State → β → State} (hf : ∀ u y, SameRecord u (f u y)) (l : List β) (s : State) :
    SameRecord s (l.foldl f s) :=
  List.foldlRecOn l f (SameRecord.refl s) fun u hu y _ => hu.trans (hf u y)

/-- A hearth's words other than its marks. -/
theorem SameRecord.setHearth (s : State) (h : Nat) {v : HearthHealth} (hfaulty : v.faulty = (s.hearth h).faulty)
    (hlogic : v.logicFailed = (s.hearth h).logicFailed) : SameRecord s (s.setHearth h v) := by
  have hfaulty' (j : Nat) : ((s.setHearth h v).hearth j).faulty = (s.hearth j).faulty := by
    by_cases hj : j = h
    · rw [hj, State.hearth_setHearth, hfaulty]
    · rw [State.hearth_setHearth_ne _ _ hj]
  have hlogic' (j : Nat) : ((s.setHearth h v).hearth j).logicFailed = (s.hearth j).logicFailed := by
    by_cases hj : j = h
    · rw [hj, State.hearth_setHearth, hlogic]
    · rw [State.hearth_setHearth_ne _ _ hj]
  refine ⟨fun u => ?_, rfl⟩
  simp only [State.unitFaulty, hfaulty', hlogic']
  rfl

end

/-! ## Marking a unit (R241, R242) -/

section
variable (s : State) (u cause : Nat)

theorem State.noteCause_sameRecord : SameRecord s (s.noteCause u cause) := by
  unfold State.noteCause
  split
  · exact .setHearth s _ rfl rfl
  · exact .setHearth s _ rfl rfl
  · exact .ite (.setHearth s _ rfl rfl) (.refl s)
  · exact .refl s

theorem State.generation_setFaulty (v : Bool) : (s.setFaulty u v).health.generation = s.health.generation := by
  unfold State.setFaulty
  dsimp only
  split <;> rfl

theorem State.generation_noteCause : (s.noteCause u cause).health.generation = s.health.generation := by
  unfold State.noteCause
  split
  · rfl
  · rfl
  · split <;> rfl
  · rfl

theorem State.health_persist : (s.persist u cause).health = s.health := by
  unfold State.persist
  split <;> rfl

theorem State.mem_persistent_persist (h : cause ≠ 3) : (u, cause) ∈ (s.persist u cause).boot.persistent := by
  rw [State.persist, if_neg h]
  exact List.mem_cons_self

end

/-- A core, a logic die, a stack, a proofer or a PCIe port. -/
def CanFail (u : Nat) : Prop := unitClass u = 16 ∨ unitClass u = 1 ∨ unitClass u = 3 ∨ unitClass u = 5 ∨ unitClass u = 8

theorem State.unitFaulty_setFaulty (s : State) {u : Nat} (h : CanFail u) : (s.setFaulty u true).unitFaulty u = true := by
  obtain h | h | h | h | h := h <;> simp [State.setFaulty, State.unitFaulty, h, setMember]

/-- A unit is marked faulty, and the persistent record holds it with its cause unless that is 3. -/
structure State.Marked (s : State) (u cause : Nat) : Prop where
  faulty : s.unitFaulty u = true
  recorded : cause ≠ 3 → (u, cause) ∈ s.boot.persistent

/-- GENERATION has risen by one, and one UNIT_FAILED with the cause, the unit and that generation waits. -/
structure FailureReported (u cause : Nat) (s t : State) : Prop where
  generation : t.health.generation = min (s.health.generation + 1) (2 ^ 32 - 1)
  logged : ∃ rep : Report, t.log = { s.log with waiting := s.log.waiting ++ [rep] } ∧ rep.code = 0x1B ∧ rep.unit = u ∧
    rep.d0 = cause ∧ rep.address = min (s.health.generation + 1) (2 ^ 32 - 1) ∧ rep.time = s.now

section
variable {s t : State} {u cause : Nat}

theorem State.Marked.mono (h : s.Marked u cause) (g : SameRecord s t) : t.Marked u cause :=
  ⟨(g.faulty u).trans h.faulty, fun hc => g.persistent ▸ h.recorded hc⟩

theorem FailureReported.trans {v : State} (h : FailureReported u cause s t) (hlog : v.log = t.log)
    (hgeneration : v.health.generation = t.health.generation) : FailureReported u cause s v :=
  ⟨hgeneration.trans h.generation, hlog ▸ h.logged⟩

variable (s cause)

theorem State.markFaulty_marked (h : CanFail u) : (s.markFaulty u cause).Marked u cause := by
  have hnoted : ((s.setFaulty u true).noteCause u cause).unitFaulty u = true :=
    ((State.noteCause_sameRecord _ u cause).faulty u).trans (s.unitFaulty_setFaulty h)
  exact ⟨(State.unitFaulty_congr (State.health_persist _ u cause) u).trans hnoted,
    State.mem_persistent_persist ((s.setFaulty u true).noteCause u cause) u cause⟩

theorem State.markFaulty_reported : FailureReported u cause s (s.markFaulty u cause) := by
  have hkeeps : Keeps [.boot, .health] s (((s.setFaulty u true).noteCause u cause).persist u cause) :=
    State.persist_keeps _ u cause (State.noteCause_keeps _ u cause (State.setFaulty_keeps _ u true (Keeps.refl _ s) rfl) rfl) rfl
  have hgeneration : (s.markFaulty u cause).health.generation = min (s.health.generation + 1) (2 ^ 32 - 1) := by
    change min ((((s.setFaulty u true).noteCause u cause).persist u cause).health.generation + 1) _ = _
    rw [State.health_persist, State.generation_noteCause, State.generation_setFaulty]
  have hlog := hkeeps.log_eq rfl
  have htime : (((s.setFaulty u true).noteCause u cause).persist u cause).now = s.now :=
    congrArg TimeBase.now (hkeeps.time.resolve_left (by decide))
  refine ⟨hgeneration, { plainReport cUnitFailed u .value (s.markFaulty u cause).health.generation with
    d0 := cause
    time := (((s.setFaulty u true).noteCause u cause).persist u cause).now }, ?_, rfl, rfl, rfl, hgeneration, htime⟩
  rw [← hlog]
  rfl

variable {s cause}

/-- The journal's own mark leaves every other unit's. -/
theorem State.Marked.markJournal (h : s.Marked u cause) (hu : CanFail u) (cause' : Nat) :
    (s.markFaulty unitJournal cause').Marked u cause := by
  have hset : (s.setFaulty unitJournal true).unitFaulty u = s.unitFaulty u := by
    obtain hu | hu | hu | hu | hu := hu
    all_goals
      simp only [State.unitFaulty, hu]
      rfl
  have hnoted := (State.noteCause_sameRecord (s.setFaulty unitJournal true) unitJournal cause').faulty u
  refine ⟨(State.unitFaulty_congr (State.health_persist _ unitJournal cause') u).trans (hnoted.trans (hset.trans h.faulty)),
    fun hc => ?_⟩
  have hother : u ≠ unitJournal := by
    rintro rfl
    exact absurd hu (by unfold CanFail; decide)
  change (u, cause) ∈ (State.persist _ unitJournal cause').boot.persistent
  unfold State.persist
  split
  · exact h.recorded hc
  · exact List.mem_cons_of_mem _ (List.mem_filter.mpr ⟨h.recorded hc, decide_eq_true hother⟩)

end

/-! ## What a failure does to work -/

section
variable (s : State)

theorem State.log_loseBinding (p : Nat) : (s.loseBinding p).log = s.log := by
  have hroll (t : State) (c : Nat) : (t.rollItem c).log = t.log := (t.rollItem_modesKept c).log
  unfold State.loseBinding
  split
  · split
    · rw [hroll, State.log_unbind]
    · exact hroll s _
  · exact s.log_unbind p

theorem State.log_loseWhere (f : Binding → Bool) : (s.loseWhere f).log = s.log := by
  unfold State.loseWhere
  refine view_foldl (view := State.log) (fun u p => ?_) _ s
  split
  · exact u.log_loseBinding p
  · rfl

theorem State.health_loseWhere (f : Binding → Bool) : (s.loseWhere f).health = s.health :=
  (State.loseWhere_keeps (T := [.dict, .log, .cores, .hbm, .hbmPoison, .hbmEcc, .larders, .movers, .folds, .parts, .ctxs, .chanUse])
    s f (Keeps.refl _ s) rfl).health.resolve_left (by decide)

theorem State.loseWhere_sameRecord (f : Binding → Bool) : SameRecord s (s.loseWhere f) :=
  .of_keeps (State.loseWhere_keeps
    (T := [.dict, .log, .cores, .hbm, .hbmPoison, .hbmEcc, .larders, .movers, .folds, .parts, .ctxs, .chanUse]) s f (Keeps.refl _ s)
    rfl) rfl rfl

/-- The counts of spares and columns are the only words of the health maps that a recount writes. -/
theorem State.reportGrid_sameRecord (b : Binding) : SameRecord s (s.reportGrid b) := by
  unfold State.reportGrid
  refine .foldl (fun u g => ?_) b.grids s
  exact .setHearth u g.hearth rfl rfl

theorem State.recountSpares_sameRecord : SameRecord s s.recountSpares := by
  refine .foldl (fun u p => ?_) _ s
  split
  · exact u.reportGrid_sameRecord _
  · exact .refl u

theorem State.generation_recountSpares : s.recountSpares.health.generation = s.health.generation := by
  unfold State.recountSpares
  refine view_foldl (view := fun u : State => u.health.generation) (fun u p => ?_) _ s
  split
  · exact List.foldlRecOn (motive := fun v : State => v.health.generation = u.health.generation) _ _ rfl fun v hv _ _ => hv
  · rfl

end

/-! ## A core, a logic die, a PCIe port -/

section
variable (s : State) (u cause : Nat)

theorem State.coreFails_marked (h : CanFail u) : (s.coreFails u cause).Marked u cause :=
  (s.markFaulty_marked cause h).mono ((State.loseWhere_sameRecord _ _).trans (State.recountSpares_sameRecord _))

theorem State.coreFails_reported : FailureReported u cause s (s.coreFails u cause) := by
  unfold State.coreFails
  exact ((s.markFaulty_reported cause).trans (State.log_loseWhere _ _) (by rw [State.health_loseWhere])).trans
    ((State.recountSpares_keeps (T := [.health]) _ (Keeps.refl _ _) rfl).log_eq rfl) (State.generation_recountSpares _)

theorem State.logicFails_marked (h : CanFail u) : (s.logicFails u cause).Marked u cause :=
  (s.markFaulty_marked cause h).mono (State.loseWhere_sameRecord _ _)

theorem State.logicFails_reported : FailureReported u cause s (s.logicFails u cause) :=
  (s.markFaulty_reported cause).trans (State.log_loseWhere _ _) (by rw [State.logicFails, State.health_loseWhere])

/-- After its mark, the failure of a PCIe port touches the ports and the contexts alone. -/
theorem State.pcieFails_keeps_rest (p : Nat) : Keeps [.ports, .ctxs] (s.markFaulty (unitPcie p) cause) (s.pcieFails p cause) := by
  refine foldl_keeps (fun v q hv => ?_) (State.setPort_keeps _ _ _ (Keeps.refl _ _) rfl)
  split
  · exact Keeps.ite (State.rollItem_keeps _ _ hv rfl) hv
  · exact hv

theorem State.pcieFails_marked (p : Nat) (h : CanFail (unitPcie p)) : (s.pcieFails p cause).Marked (unitPcie p) cause :=
  (s.markFaulty_marked cause h).mono (.of_keeps (s.pcieFails_keeps_rest cause p) rfl rfl)

theorem State.pcieFails_reported (p : Nat) : FailureReported (unitPcie p) cause s (s.pcieFails p cause) :=
  (s.markFaulty_reported cause).trans ((s.pcieFails_keeps_rest cause p).log_eq rfl)
    (congrArg Health.generation ((s.pcieFails_keeps_rest cause p).health.resolve_left (by decide)))

end

/-! ## A stack (R154, R219, R224) -/

section
variable {s : State} {u cause : Nat}

/-- The journal's copies and, where both are gone, its own mark. -/
theorem State.Marked.journalStackFails (h : s.Marked u cause) (hu : CanFail u) (st cause' : Nat) :
    (s.journalStackFails st cause').Marked u cause := by
  have hjournal (j : Journal) : ({ s with journal := j } : State).Marked u cause := h.mono ⟨fun _ => rfl, rfl⟩
  unfold State.journalStackFails
  dsimp only
  split
  · split
    · exact hjournal _
    · exact h
  · split
    · split
      · exact h
      · exact h.markJournal hu cause'
    · split
      · exact hjournal _
      · exact h

theorem State.stackFails_marked (s : State) (st cause : Nat) (hu : CanFail (unitStack st)) :
    (s.stackFails st cause).Marked (unitStack st) cause := by
  have hmarked := ((s.markFaulty_marked cause hu).journalStackFails hu st cause)
  refine hmarked.mono (.of_keeps (T := [.dict, .log, .cores, .hbm, .hbmPoison, .hbmEcc, .larders, .movers, .folds,
    .parts, .ctxs, .journal, .chanUse]) ?_ rfl rfl)
  refine foldl_keeps (fun v p hv => State.loseBinding_keeps v p hv rfl)
    (foldl_keeps (fun v e hv => State.returnLost_keeps v _ _ _ hv rfl) ?_)
  exact State.degradeMirrors_keeps _ st (State.dropLarder_keeps _ st (Keeps.refl _ _) rfl) rfl

end

/-! ## A proofer (R320, R330) -/

section
variable (s : State)

/-- An entry put in the ring and counted, before the error vector is raised. -/
def State.entryPut (s : State) (r : Report) : State :=
  let s := { s with health := s.health.retireLogged r }
  let s := if s.log.overwrites then s.bump 0x7000 3 1 else s
  { s with log := s.log.put r }.bump 0x7010 r.code 1

theorem State.logEntry_eq (r : Report) : s.logEntry r =
    if !isEvent r.code ∨ (s.entryPut r).obj 0x7000 5 = 1 then (s.entryPut r).raiseBoth 2047 else s.entryPut r := rfl

theorem State.health_entryPut (r : Report) : (s.entryPut r).health = s.health.retireLogged r := by
  change State.health (ite _ _ _) = _
  split <;> rfl

theorem State.health_logEntry (r : Report) : (s.logEntry r).health = s.health.retireLogged r := by
  rw [State.logEntry_eq]
  split
  · have hraise := State.raiseBoth_keeps (T := [.ports]) (s.entryPut r) 2047 (Keeps.refl _ _) rfl
    rw [hraise.health.resolve_left (by decide), State.health_entryPut]
  · exact s.health_entryPut r

/-- The entry of a RETIRE ends the repair; no unit is marked or cleared by it. -/
theorem State.logEntry_sameRecord (r : Report) : SameRecord s (s.logEntry r) := by
  have hretired (u : Nat) : ({ s with health := s.health.retireLogged r } : State).unitFaulty u = s.unitFaulty u := by
    unfold Health.retireLogged
    split <;> rfl
  have hkeeps := State.logEntry_keeps (T := [.ports, .dict, .log, .health]) s r (Keeps.refl _ s) rfl
  exact ⟨fun u => (State.unitFaulty_congr (s.health_logEntry r) u).trans (hretired u),
    congrArg Boot.persistent (hkeeps.boot.resolve_left (by decide))⟩

theorem State.setDev_sameRecord (d : DevState) : SameRecord s (s.setDev d) := by
  unfold State.setDev
  split
  · exact .refl s
  · exact SameRecord.trans (t := { s with boot := { s.boot with dev := d, stateTime := s.now } }) ⟨fun _ => rfl, rfl⟩
      (.of_keeps (State.raiseBoth_keeps (T := [.ports]) _ 2045 (Keeps.refl _ _) rfl) rfl rfl)

theorem State.enter_sameRecord (d : DevState) : SameRecord s (s.enter d) :=
  .ite (.refl s) ((s.setDev_sameRecord d).trans (.of_keeps (State.sendReport_keeps (T := [.links, .net]) _ (Keeps.refl _ _) rfl) rfl rfl))

theorem State.logSupply_sameRecord (n t : Nat) : SameRecord s (s.logSupply n t) := s.logEntry_sameRecord _

theorem State.logLatched_sameRecord (t : Nat) : SameRecord s (s.logLatched t) :=
  .of_keeps (State.logLatched_keeps (T := [.log, .parts, .ctxs]) s t (Keeps.refl _ s) rfl) rfl rfl

theorem State.logLatches_sameRecord : SameRecord s s.logLatches := by
  have hcleared : SameRecord s { s with
      power := { s.power with latched := [] }
      boot := { s.boot with supplyCell := none } } := ⟨fun _ => rfl, rfl⟩
  have hsupplies (l : List (Nat × Nat)) (v : State) : SameRecord v (l.foldl (fun v e => v.logSupply 4 e.2) v) := by
    refine .foldl (fun u e => ?_) l v
    exact u.logSupply_sameRecord 4 e.2
  have hlatches (l : List (Nat × Nat)) (v : State) : SameRecord v (l.foldl (fun v e => v.logLatched e.2) v) := by
    refine .foldl (fun u e => ?_) l v
    exact u.logLatched_sameRecord e.2
  unfold State.logLatches
  dsimp only
  split
  · exact (hcleared.trans (hsupplies _ _)).trans ((State.logSupply_sameRecord _ 5 _).trans (hlatches _ _))
  · exact (hcleared.trans (hsupplies _ _)).trans (hlatches _ _)

theorem State.leavenStarts_sameRecord (p : Nat) : SameRecord s (s.leavenStarts p) := by
  have hstarted : SameRecord s _ := SameRecord.trans
    (t := { s with boot := { s.boot with leavenRuns := true, controlProofer := p } }) ⟨fun _ => rfl, rfl⟩
    ((State.logLatches_sameRecord _).trans (State.enter_sameRecord _ .leavenUp))
  exact .ite (hstarted.trans (.of_keeps (State.trainPorts_keeps (T := [.links]) _ (Keeps.refl _ _) rfl) rfl rfl)) hstarted

theorem State.bootDecide_sameRecord : SameRecord s s.bootDecide := by
  unfold State.bootDecide
  split
  · exact .refl s
  · split
    · exact s.leavenStarts_sameRecord 0
    · exact s.leavenStarts_sameRecord 1
    · exact s.setDev_sameRecord _
    · exact .refl s

theorem State.takeOver_sameRecord (p : Nat) : SameRecord s (s.takeOver p) :=
  .ite (.refl s) (.ite ⟨fun _ => rfl, rfl⟩ ⟨fun _ => rfl, rfl⟩)

/-- After its mark, the failure of a proofer moves Leaven, ends what goes over the proofer and rolls work back. -/
theorem State.prooferFails_marked (p cause : Nat) (hu : CanFail (unitProofer p)) :
    (s.prooferFails p cause).Marked (unitProofer p) cause := by
  have hcontrol (v : State) : SameRecord v v.abortSegments.loseMessages :=
    .of_keeps (T := [.ports, .mboxes, .dict, .log]) (State.loseMessages_keeps _ (State.abortSegments_keeps v (Keeps.refl _ v) rfl) rfl)
      rfl rfl
  have hsession (v : State) (x : Session) : SameRecord v (v.endSession x) :=
    .of_keeps (T := [.sessions]) (State.endSession_keeps v x (Keeps.refl _ v) rfl) rfl rfl
  have hi3c (v : State) : SameRecord v v.loseI3c :=
    .of_keeps (T := [.sessions, .net]) (State.loseI3c_keeps v (Keeps.refl _ v) rfl) rfl rfl
  have hkey (v : State) (k : Option (Nat × List Byte)) : SameRecord v { v with boot := { v.boot with keyPending := k } } :=
    .of_health rfl rfl
  have hlinks (v : State) : SameRecord v (v.dropLinks p).portsChanged.rollAll :=
    .of_keeps (T := [.time, .ctxs, .links, .net]) (State.rollAll_keeps _ (State.portsChanged_keeps _
      (State.dropLinks_keeps v p (Keeps.refl _ v) rfl) rfl) rfl) rfl rfl
  refine (s.markFaulty_marked cause hu).mono ?_
  unfold State.prooferFails
  dsimp only
  exact (State.takeOver_sameRecord _ p).trans (.trans (.ite (hcontrol _) (.refl _)) ((hsession _ (portSession p)).trans
    (.trans (.ite (hi3c _) (.refl _)) ((hkey _ _).trans ((hlinks _).trans (State.bootDecide_sameRecord _))))))

end

/-! ## The failure of a unit (R225, R241) -/

section
variable {s : State} {u : Nat} (cause : Nat)

theorem State.unitFails_of_faulty (hfaulty : s.unitFaulty u = true)
    (h : cause = 4 ∨ ∀ r ∈ s.log.waiting, ¬ (r.code = 0x1B ∧ r.unit = u ∧ r.d0 = 4 ∧ r.time = s.now)) :
    s.unitFails u cause = s := by
  rw [State.unitFails, if_pos hfaulty, State.amendCause, if_neg]
  rintro ⟨hcause, hany⟩
  obtain ⟨r, hr, hhit⟩ := List.any_eq_true.mp hany
  simp only [Bool.and_eq_true, decide_eq_true_eq] at hhit
  obtain ⟨⟨⟨hcode, hunit⟩, hd0⟩, htime⟩ := hhit
  exact h.elim hcause fun h => h r hr ⟨hcode, hunit, hd0, htime⟩

theorem eq_of_unitClass {n : Nat} (h : unitClass u = n) (hn : n ≠ 16) : 2048 * n + unitIndex u = u := by
  unfold unitClass at h
  unfold unitIndex
  split at h <;> omega

theorem unitStack_unitIndex (h : unitClass u = 3) : unitStack (unitIndex u) = u := eq_of_unitClass h (by decide)

theorem unitProofer_unitIndex (h : unitClass u = 5) : unitProofer (unitIndex u) = u := eq_of_unitClass h (by decide)

theorem unitPcie_unitIndex (h : unitClass u = 8) : unitPcie (unitIndex u) = u := eq_of_unitClass h (by decide)

variable (hsound : s.unitFaulty u = false)
include hsound

theorem State.unitFails_of_sound :
    (unitClass u = 16 → s.unitFails u cause = s.coreFails u cause) ∧
    (unitClass u = 1 → s.unitFails u cause = s.logicFails u cause) ∧
    (unitClass u = 3 → s.unitFails u cause = s.stackFails (unitIndex u) cause) ∧
    (unitClass u = 5 → s.unitFails u cause = s.prooferFails (unitIndex u) cause) ∧
    (unitClass u = 8 → s.unitFails u cause = s.pcieFails (unitIndex u) cause) := by
  refine ⟨fun h => ?_, fun h => ?_, fun h => ?_, fun h => ?_, fun h => ?_⟩
  all_goals simp only [State.unitFails, hsound, h, Bool.false_eq_true, if_false]

theorem State.unitFails_marked (hu : CanFail u) : (s.unitFails u cause).Marked u cause := by
  obtain ⟨hcore, hlogic, hstack, hproofer, hpcie⟩ := State.unitFails_of_sound cause hsound
  obtain h | h | h | h | h := id hu
  · rw [hcore h]; exact s.coreFails_marked u cause hu
  · rw [hlogic h]; exact s.logicFails_marked u cause hu
  · have hmarked := s.stackFails_marked (unitIndex u) cause
    rw [unitStack_unitIndex h, ← hstack h] at hmarked
    exact hmarked hu
  · have hmarked := s.prooferFails_marked (unitIndex u) cause
    rw [unitProofer_unitIndex h, ← hproofer h] at hmarked
    exact hmarked hu
  · have hmarked := s.pcieFails_marked cause (unitIndex u)
    rw [unitPcie_unitIndex h, ← hpcie h] at hmarked
    exact hmarked hu

theorem State.unitFails_reported (hu : unitClass u = 16 ∨ unitClass u = 1 ∨ unitClass u = 8) :
    FailureReported u cause s (s.unitFails u cause) := by
  obtain ⟨hcore, hlogic, -, -, hpcie⟩ := State.unitFails_of_sound cause hsound
  obtain h | h | h := hu
  · rw [hcore h]; exact s.coreFails_reported u cause
  · rw [hlogic h]; exact s.logicFails_reported u cause
  · have hreported := s.pcieFails_reported cause (unitIndex u)
    rwa [unitPcie_unitIndex h, ← hpcie h] at hreported

end

/-! ## The commands -/

section
variable {i : Instr} {u cause : Nat} (h : failureOf i = some (u, cause))
include h

theorem exec_of_failureOf {s : State} (hleaven : s.leavenUp = true) (halive : s.alive = true) :
    exec i s = .next (s.unitFails u cause) := by
  unfold failureOf at h
  split at h
  case h_1 => cases h; simp [exec, execCoreFailure, hleaven]
  case h_2 _ logicDie _ =>
    cases h
    cases logicDie <;> simp [exec, execHearthFailure, hleaven]
  case h_3 => cases h; simp [exec, execHbmStackFailure, hleaven]
  case h_4 => cases h; simp [exec, execProoferFailure, halive]
  case h_5 => cases h; simp [exec, execPciePortFailure, hleaven]
  case h_6 => cases h

theorem canFail_of_failureOf : CanFail u := by
  have hearth : ∀ n : Hearth, unitClass (unitHearth n.val) = 1 := by decide
  have hstack : ∀ n : Stack, unitClass (unitStack n.val) = 3 := by decide
  have hproofer : ∀ p : PortNo, unitClass (unitProofer p.val) = 5 := by decide
  have hpcie : ∀ p : PortNo, unitClass (unitPcie p.val) = 8 := by decide
  unfold failureOf at h
  split at h
  case h_1 c _ =>
    cases h
    exact .inl (if_pos (by unfold unitCore; omega))
  case h_2 n logicDie _ =>
    cases h
    cases logicDie
    · exact .inr (.inr (.inl (hstack n)))
    · exact .inr (.inl (hearth n))
  case h_3 st _ => cases h; exact .inr (.inr (.inl (hstack st)))
  case h_4 p _ => cases h; exact .inr (.inr (.inr (.inl (hproofer p))))
  case h_5 p _ => cases h; exact .inr (.inr (.inr (.inr (hpcie p))))
  case h_6 => cases h

end

theorem exec_journalRelocation_of_lost {s : State} (hleaven : s.leavenUp = true) (hjournal : s.health.journalLost = false)
    {t : Nat} (htarget : s.journal.target = some t) (hstate : s.journal.state = 1) :
    exec .journalRelocation s = .next { s with journal := { s.journal with state := 2 } } := by
  simp [exec, execJournalRelocation, hleaven, hjournal, htarget, hstate]

theorem exec_journalRelocationComplete_of_copied {s : State} (hleaven : s.leavenUp = true) (hjournal : s.health.journalLost = false)
    {t : Nat} (htarget : s.journal.target = some t) (hstate : s.journal.state = 2) :
    exec .journalRelocationComplete s = .next { s with journal := s.journal.relocated t } := by
  simp [exec, execJournalRelocationComplete, hleaven, hjournal, htarget, hstate]

/-- Settles O48: a unit that is faulty already stays, any other is marked and recorded, and its one report is that of its mark. -/
theorem aFailureMarksItsUnitOnce : Obligations.AFailureMarksItsUnitOnce := by
  unfold Obligations.AFailureMarksItsUnitOnce
  intro i u cause s hleaven halive hfailure gen
  have hexec := exec_of_failureOf hfailure hleaven halive
  refine ⟨fun hfaulty h => ?faulty, fun hsound => ?sound, fun hjournal t htarget => ⟨fun hstate => ?begins, fun hstate => ?ends⟩⟩
  case faulty => rw [hexec, State.unitFails_of_faulty cause hfaulty h]
  case sound =>
    obtain ⟨hmarked, hrecorded⟩ := State.unitFails_marked cause hsound (canFail_of_failureOf hfailure)
    refine ⟨_, hexec, hmarked, hrecorded, fun hclass => ?_⟩
    obtain ⟨hgeneration, hlogged⟩ := State.unitFails_reported cause hsound hclass
    exact ⟨hgeneration, hlogged⟩
  case begins => exact exec_journalRelocation_of_lost hleaven hjournal htarget hstate
  case ends => exact exec_journalRelocationComplete_of_copied hleaven hjournal htarget hstate

end Sys2Proof.Machine
end

section
/-!
PROOFS. The window of the error log (R235, R236, R314): what every command but a cold reset keeps, carried from the commands to a
step, and where a cold reset puts HEAD and ACK.
-/
namespace Sys2Proof.Machine

/-! ## Every command but a cold reset -/

/-- A command other than a cold reset changes its own parts alone, and of them keeps what Keeps says. -/
theorem exec_ends (i : Instr) (s : State) (hcold : ∀ env, i ≠ .coldReset env) : Ends (touches i) s (exec i s) := by
  cases i with
  | arrayStep c env => exact execArrayStep_ends c env s
  | swapStep c => exact execSwapStep_ends c s
  | shadowCheck c => exact execShadowCheck_ends c s
  | matmul c => exact execMatmul_ends c s
  | convert c env => exact execConvert_ends c env s
  | poolMax c env => exact execPoolMax_ends c env s
  | transfer p op => exact execTransfer_ends p op s
  | halo c env => exact execHalo_ends c env s
  | accRead c => exact execAccRead_ends c s
  | accSpill c => exact execAccSpill_ends c s
  | accFill c env => exact execAccFill_ends c env s
  | mark p op => exact execMark_ends p op s
  | chainIssue c => exact execChainIssue_ends c s
  | slotDrain c slot env => exact execSlotDrain_ends c slot env s
  | topkReferenceComplete c => exact execTopkReferenceComplete_ends c s
  | operationEnd p op => exact execOperationEnd_ends p op s
  | phaseToken u => exact execPhaseToken_ends u s
  | phaseBegin u => exact execPhaseBegin_ends u s
  | foldPair h k => exact execFoldPair_ends h k s
  | foldClose h fold => exact execFoldClose_ends h fold s
  | foldEmit h fold => exact execFoldEmit_ends h fold s
  | scrubRead c b row word found rewritten => exact execScrubRead_ends c b row word found rewritten s
  | bankRepair c b => exact execBankRepair_ends c b s
  | handleWrite c entry value comp => exact execHandleWrite_ends c entry value comp s
  | lullRequest c b => exact execLullRequest_ends c b s
  | autoLull c b => exact execAutoLull_ends c b s
  | offRequest c t => exact execOffRequest_ends c t s
  | closingComplete c b => exact execClosingComplete_ends c b s
  | lullWake c b => exact execLullWake_ends c b s
  | onRequest c t => exact execOnRequest_ends c t s
  | bankReturn c t => exact execBankReturn_ends c t s
  | moverBankAccess m act env => exact execMoverBankAccess_ends m act env s
  | larderRequest st r => exact execLarderRequest_ends st r s
  | larderFill st line own partner => exact execLarderFill_ends st line own partner s
  | clean st ranges => exact execClean_ends st ranges s
  | moverDescriptorStart m => exact execMoverDescriptorStart_ends m s
  | moverDescriptorComplete m k env => exact execMoverDescriptorComplete_ends m k env s
  | bind p badHealth transferNs => exact execBind_ends p badHealth transferNs s
  | trainingItemStart p badRecords => exact execTrainingItemStart_ends p badRecords s
  | start x c => exact execStart_ends x c s
  | stop x c => exact execStop_ends x c s
  | reset x c => exact execReset_ends x c s
  | contextResetComplete c => exact execContextResetComplete_ends c s
  | doorbell port c d => exact execDoorbell_ends port c d s
  | descriptorExamine c desc args => exact execDescriptorExamine_ends c desc args s
  | examinationResume c => exact execExaminationResume_ends c s
  | hostReadFailure k => exact execHostReadFailure_ends k s
  | itemChoose p => exact execItemChoose_ends p s
  | commitMark p => exact execCommitMark_ends p s
  | itemComplete c => exact execItemComplete_ends c s
  | deadlineMissed => exact execDeadlineMissed_ends s
  | itemReplay p => exact execItemReplay_ends p s
  | coreFailure c cause => exact execCoreFailure_ends c cause s
  | hearthFailure h logicDie cause => exact execHearthFailure_ends h logicDie cause s
  | hbmStackFailure st cause => exact execHbmStackFailure_ends st cause s
  | journalRelocation => exact execJournalRelocation_ends s
  | prooferFailure p cause => exact execProoferFailure_ends p cause s
  | pciePortFailure p cause => exact execPciePortFailure_ends p cause s
  | errorLogEntry k => exact execErrorLogEntry_ends k s
  | ack x v => exact execAck_ends x v s
  | elogAckHi port v => exact execElogAckHi_ends port v s
  | elogHeadLo port => exact execElogHeadLo_ends port s
  | nowLo port => exact execNowLo_ends port s
  | read port index sub => exact execRead_ends port index sub s
  | write port index sub len => exact execWrite_ends port index sub len s
  | segRead port index sub => exact execSegRead_ends port index sub s
  | segWrite port index sub => exact execSegWrite_ends port index sub s
  | abort port => exact execAbort_ends port s
  | segmentGapTimeout port => exact execSegmentGapTimeout_ends port s
  | dictionaryWrite x index sub data => exact execDictionaryWrite_ends x index sub data s
  | challenge x => exact execChallenge_ends x s
  | response x data => exact execResponse_ends x data s
  | lockoutExpiry x => exact execLockoutExpiry_ends x s
  | lock x v => exact execLock_ends x v s
  | idleLock x => exact execIdleLock_ends x s
  | key x data => exact execKey_ends x data s
  | keyFlashComplete => exact execKeyFlashComplete_ends s
  | retest x => exact execRetest_ends x s
  | retestDone passed => exact execRetestDone_ends passed s
  | retire x => exact execRetire_ends x s
  | forget x => exact execForget_ends x s
  | forgetDone => exact execForgetDone_ends s
  | advance x v => exact execAdvance_ends x v s
  | partitionMapWrite x p value comp => exact execPartitionMapWrite_ends x p value comp s
  | nextSeqWrite x c v => exact execNextSeqWrite_ends x c v s
  | delta x v => exact execDelta_ends x v s
  | running x ch v => exact execRunning_ends x ch v s
  | enable x port v => exact execEnable_ends x port v s
  | finwellGroupOff g => exact execFinwellGroupOff_ends g s
  | mctpRead m => exact execMctpRead_ends m s
  | mctpWrite m => exact execMctpWrite_ends m s
  | remoteTimeout tag => exact execRemoteTimeout_ends tag s
  | report node state time => exact execReport_ends node state time s
  | reportResend => exact execReportResend_ends s
  | idle port f => exact execIdle_ends port f s
  | writeFlit port f => exact execWriteFlit_ends port f s
  | endFlit port f => exact execEndFlit_ends port f s
  | endAck port f => exact execEndAck_ends port f s
  | endAckTimeout m => exact execEndAckTimeout_ends m s
  | mgmt port f => exact execMgmt_ends port f s
  | mgmtFragmentTimeout node => exact execMgmtFragmentTimeout_ends node s
  | hello port f => exact execHello_ends port f s
  | nodeMap port f => exact execNodeMap_ends port f s
  | linkUp port => exact execLinkUp_ends port s
  | linkAckTimeout port => exact execLinkAckTimeout_ends port s
  | retrainEnd port ok => exact execRetrainEnd_ends port ok s
  | time port f t4 => exact execTime_ends port f t4 s
  | ppsIn t => exact execPpsIn_ends t s
  | ppsLoss => exact execPpsLoss_ends s
  | windowArrival m => exact execWindowArrival_ends m s
  | go port m ctrl => exact execGo_ends port m ctrl s
  | taken m => exact execTaken_ends m s
  | echo m => exact execEcho_ends m s
  | mailboxTimeout m => exact execMailboxTimeout_ends m s
  | deviceMessagePost m words => exact execDeviceMessagePost_ends m words s
  | dtake m => exact execDtake_ends m s
  | dlost m => exact execDlost_ends m s
  | registerWrite port off v => exact execRegisterWrite_ends port off v s
  | unassignedAccess port off => exact execUnassignedAccess_ends port off s
  | bar2Read port off len => exact execBar2Read_ends port off len s
  | bar2Write port off data poisoned => exact execBar2Write_ends port off data poisoned s
  | functionLevelReset port => exact execFunctionLevelReset_ends port s
  | d3hot port => exact execD3hot_ends port s
  | busMasterEnable port => exact execBusMasterEnable_ends port s
  | perstN port level => exact execPerstN_ends port level s
  | pcieLinkSettle port width gts flitMode => exact execPcieLinkSettle_ends port width gts flitMode s
  | poisonedCompletion m addr => exact execPoisonedCompletion_ends m addr s
  | controlInterval r => exact execControlInterval_ends r s
  | throttle h tj => exact execThrottle_ends h tj s
  | thermTripN h tj => exact execThermTripN_ends h tj s
  | vin48Excursion => exact execVin48Excursion_ends s
  | vaux33Excursion => exact execVaux33Excursion_ends s
  | warmReset => exact execWarmReset_ends s
  | sysRstNRelease lowNs => exact execSysRstNRelease_ends lowNs s
  | coldReset env => exact absurd rfl (hcold env)
  | bootImageVerify p slot0 slot1 => exact execBootImageVerify_ends p slot0 slot1 s
  | readiness failed => exact execReadiness_ends failed s
  | hearthLull h => exact execHearthLull_ends h s
  | hearthOff h => exact execHearthOff_ends h s
  | journalRelocationComplete => exact execJournalRelocationComplete_ends s
  | ref100 present => exact execRef100_ends present s
  | i3cDynamicAddress addr => exact execI3cDynamicAddress_ends addr s
  | hotReset port => exact execHotReset_ends port s

theorem exec_keeps {i : Instr} {s t : State} (hcold : ∀ env, i ≠ .coldReset env) (h : exec i s = .next t) : Keeps (touches i) s t :=
  (exec_ends i s hcold).keeps t h

/-! ## A cold reset (R321) -/

theorem exec_coldReset_of_trip {s : State} (env : ColdEnv) (h : s.tripHolds = true) : exec (.coldReset env) s = .next s := by
  simp [exec, execColdReset, h, State.stay]

/-- The log of a cold reset is that of the state after reset: no entry, HEAD and ACK 0. -/
theorem State.log_cold (s : State) (env : ColdEnv) : (s.cold env).log = State.reset.log := by
  simp only [State.cold, State.setPort_same]
  exact (State.endSessions_keeps (T := [.sessions]) _ (Keeps.refl _ _) rfl).log_eq rfl

/-! ## The window over a step -/

/-- From s to t the log's window moves: neither HEAD nor ACK falls, and ACK does not pass HEAD. -/
structure WindowMoves (s t : State) : Prop where
  head : s.log.head ≤ t.log.head
  ack : s.log.ack ≤ t.log.ack
  window : LogWindow s → LogWindow t

section
variable {s t : State}

theorem WindowMoves.of_log (h : t.log = s.log) : WindowMoves s t :=
  ⟨h ▸ Nat.le_refl _, h ▸ Nat.le_refl _, fun hw => by rw [LogWindow, h]; exact hw⟩

theorem Keeps.windowMoves {T : List StateField} (h : Keeps T s t) : WindowMoves s t := ⟨h.head, h.ack, h.window⟩

theorem State.log_idleTick (s : State) : s.idleTick.log = s.log := by
  unfold State.idleTick
  dsimp only
  split <;> split <;> rfl

/-- Every step but a cold reset: an empty queue leaves the log, and a command keeps its window. -/
theorem step_windowMoves (hcold : ∀ env, s.pending.head? ≠ some (.coldReset env)) (h : step s = .next t) : WindowMoves s t := by
  unfold step at h
  split at h
  case h_1 i rest hpending =>
    have hi (env : ColdEnv) : i ≠ .coldReset env := fun he => hcold env (by rw [hpending, he]; rfl)
    obtain ⟨hhead, hack, hwindow⟩ := (exec_keeps hi h).windowMoves
    exact ⟨hhead, hack, hwindow⟩
  case h_2 =>
    cases h
    exact .of_log s.log_idleTick

/-- A cold reset empties the log, or does nothing where a trip holds it off. -/
theorem step_coldReset_log {env : ColdEnv} (hfront : s.pending.head? = some (.coldReset env)) (h : step s = .next t) :
    (s.tripHolds = false → t.log = State.reset.log) ∧ (s.tripHolds = true → t.log = s.log) := by
  obtain ⟨rest, hpending⟩ := List.head?_eq_some_iff.mp hfront
  rw [step, hpending] at h
  refine ⟨fun htrip => ?_, fun htrip => ?_⟩
  · cases (exec_coldReset_of_no_trip (s := { s with pending := rest }) env htrip).symm.trans h
    exact State.log_cold _ env
  · cases (exec_coldReset_of_trip (s := { s with pending := rest }) env htrip).symm.trans h
    rfl

end

/-! ## O6 -/

/-- Settles O6: each command moves the window on, an empty queue leaves it, and a cold reset leaves the log or empties it. -/
theorem everyStepKeepsTheLogWindow : Obligations.EveryStepKeepsTheLogWindow := by
  unfold Obligations.EveryStepKeepsTheLogWindow
  intro s t hwindow hstep
  refine ⟨?window, fun hcold => ?moves, fun env hfront => ?cold⟩
  case window =>
    by_cases hcold : ∃ env, s.pending.head? = some (.coldReset env)
    · obtain ⟨env, hfront⟩ := hcold
      obtain ⟨hempty, hheld⟩ := step_coldReset_log hfront hstep
      cases htrip : s.tripHolds with
      | false => rw [LogWindow, hempty htrip]; exact Nat.le_refl 0
      | true => rw [LogWindow, hheld htrip]; exact hwindow
    · exact (step_windowMoves (not_exists.mp hcold) hstep).window hwindow
  case moves =>
    have hmoves := step_windowMoves hcold hstep
    exact ⟨hmoves.head, hmoves.ack⟩
  case cold =>
    obtain ⟨hempty, hheld⟩ := step_coldReset_log hfront hstep
    refine ⟨fun htrip => ?_, hheld⟩
    rw [hempty htrip]
    exact ⟨rfl, rfl⟩

end Sys2Proof.Machine
end

section
/-!
PROOFS. The error log (R231 to R236): what an entry put in the ring leaves of it, which waiting report may be logged next, and the
registers of Table 13-5 and NOW.
-/
namespace Sys2Proof.Machine

/-! ## The ring (R231) -/

section
variable (l : Log) (r : Report)

theorem Log.entry_put_head : (l.put r).entry l.head = some r := by
  have hslot : (l.put r).slot l.head = (l.head, r) := tget_tset_same _ _ _ _
  rw [Log.entry, hslot, if_pos ⟨rfl, Nat.lt_succ_self l.head⟩]

/-- The slots of fewer than 1,024 entries in a row are distinct. -/
theorem Log.entry_put_of_within {n : Nat} (hlo : n < l.head) (hhi : l.head < n + logSize) : (l.put r).entry n = l.entry n := by
  have hother : n % logSize ≠ l.head % logSize := by
    unfold logSize at hhi ⊢
    omega
  have hslot : (l.put r).slot n = l.slot n := tget_tset_ne _ _ hother _
  have hbelow : n < (l.put r).head ↔ n < l.head := iff_of_true (Nat.lt_succ_of_lt hlo) hlo
  simp only [Log.entry, hslot, hbelow]

end

/-! ## ERROR_LOG_ENTRY (R233, R234) -/

section
variable (s : State) (r : Report)

theorem State.log_entryPut : (s.entryPut r).log = s.log.put r := by
  change Log.put (State.log (ite _ _ _)) r = _
  split <;> rfl

/-- Of the log, writing an entry changes the ring and HEAD. -/
theorem State.log_logEntry : (s.logEntry r).log = s.log.put r := by
  rw [State.logEntry_eq]
  split
  · have hraise := State.raiseBoth_keeps (T := [.ports]) (s.entryPut r) 2047 (Keeps.refl _ _) rfl
    rw [hraise.log_eq rfl, State.log_entryPut]
  · exact s.log_entryPut r

end

section
variable {s : State} {k : Nat} {r o : Report}

/-- A report that stays behind and was detected more than 100 µs earlier goes first. -/
theorem Log.admits_of_earlier {l : Log} (ho : o ∈ l.waiting.eraseIdx k) (hearlier : o.time + 100000 < r.time) :
    l.admits k r = false := by
  rw [Log.admits, List.all_eq_false]
  exact ⟨o, ho, by simp [hearlier]⟩

theorem exec_errorLogEntry_of_admitted (hleaven : s.leavenUp = true) (hwaits : s.log.waiting[k]? = some r)
    (hadmits : s.log.admits k r = true) :
    exec (.errorLogEntry k) s = .next (State.logEntry { s with log := { s.log with waiting := s.log.waiting.eraseIdx k } } r) := by
  simp [exec, execErrorLogEntry, hleaven, hwaits, hadmits]

theorem exec_errorLogEntry_of_not_admitted (hleaven : s.leavenUp = true) (hwaits : s.log.waiting[k]? = some r)
    (hadmits : s.log.admits k r = false) : exec (.errorLogEntry k) s = .next s := by
  simp [exec, execErrorLogEntry, hleaven, hwaits, hadmits, State.stay]

end

/-! ## ELOG_ACK_HI (R236) -/

section
variable {s : State} {port : PortNo}

/-- The 64-bit ACK that a write of ELOG_ACK_HI forms with the held ACK_LO. -/
def PortState.ackWith (f : PortState) (hi : W32) : Nat := 2 ^ 32 * hi.toNat + f.ackLo.toNat

theorem State.elogAckHi_of_within {p : Nat} {hi : W32} (hlo : s.log.ack ≤ (s.port p).ackWith hi)
    (hhi : (s.port p).ackWith hi ≤ s.log.head) :
    s.elogAckHi p hi = { s with log := { s.log with ack := (s.port p).ackWith hi } } := by
  rw [State.elogAckHi, ← PortState.ackWith, State.writeAck_of_within hlo hhi, if_pos rfl]

theorem State.elogAckHi_of_outside {p : Nat} {hi : W32}
    (h : (s.port p).ackWith hi < s.log.ack ∨ s.log.head < (s.port p).ackWith hi) :
    s.elogAckHi p hi = s.deny (unitPcie p) .bar0 0x2000C := by
  rw [State.elogAckHi, ← PortState.ackWith, State.writeAck_of_outside h, if_neg (show cDenied ≠ 0 by decide)]
  rfl

theorem exec_elogAckHi_of_silent (h : s.portAnswers port.val = false) (hi : W32) : exec (.elogAckHi port hi) s = .next s := by
  simp [exec, execElogAckHi, h]

/-! ## ELOG_HEAD_LO and NOW_LO (Tables 13-4, 13-5) -/

theorem exec_elogHeadLo_of_answers (h : s.portAnswers port.val = true) :
    exec (.elogHeadLo port) s = .next (s.readHeadLo port.val) := by
  simp [exec, execElogHeadLo, h]

theorem exec_elogHeadLo_of_silent (h : s.portAnswers port.val = false) : exec (.elogHeadLo port) s = .next s := by
  simp [exec, execElogHeadLo, h]

theorem exec_nowLo_of_answers (h : s.portAnswers port.val = true) : exec (.nowLo port) s = .next (s.readNowLo port.val) := by
  simp [exec, execNowLo, h]

theorem exec_nowLo_of_silent (h : s.portAnswers port.val = false) : exec (.nowLo port) s = .next s := by
  simp [exec, execNowLo, h]

end

/-- A read that latches: the function takes its latch and the data, and neither the log nor the other function changes. -/
theorem State.answerRead_setPort (s : State) (p : Nat) (f : PortState) (data : List Byte) :
    (((s.setPort p f).answerRead p data).port p = { f with readData := f.readData ++ [data] }) ∧
    ((s.setPort p f).answerRead p data).log = s.log ∧
    ∀ q, q ≠ p → ((s.setPort p f).answerRead p data).port q = s.port q := by
  refine ⟨?_, rfl, fun q hq => ?_⟩
  · rw [State.answerRead, State.port_setPort, State.port_setPort]
  · rw [State.answerRead, State.port_setPort_ne _ _ hq, State.port_setPort_ne _ _ hq]

/-! ## O49 -/

/-- Settles O49: an entry changes one slot of the ring and HEAD, and each register's access is the rule of its own. -/
theorem theErrorLogIsWrittenAtHeadAndAcknowledged : Obligations.TheErrorLogIsWrittenAtHeadAndAcknowledged := by
  unfold Obligations.TheErrorLogIsWrittenAtHeadAndAcknowledged
  intro s port p f
  refine ⟨fun hleaven k r hwaits hadmits => ?entry, fun hleaven k r o hwaits ho hearlier => ?order,
    fun hanswers hi => ⟨fun hlo hhi => ?ack, fun hout => ?denied⟩, fun hanswers => ⟨?head, ?now⟩, fun hsilent => ?silent⟩
  case entry =>
    refine ⟨_, exec_errorLogEntry_of_admitted hleaven hwaits hadmits, ?_⟩
    rw [State.log_logEntry]
    exact ⟨rfl, rfl, rfl, Log.entry_put_head _ r, fun n hlo hhi => Log.entry_put_of_within _ r hlo hhi⟩
  case order => exact exec_errorLogEntry_of_not_admitted hleaven hwaits (Log.admits_of_earlier ho hearlier)
  case ack => exact (exec_elogAckHi_of_answers hanswers hi).trans (congrArg _ (State.elogAckHi_of_within hlo hhi))
  case denied =>
    obtain ⟨rep, hexec, hcode, -, hkind, haddress⟩ := denied_of_exec_eq_deny
      ((exec_elogAckHi_of_answers hanswers hi).trans (congrArg _ (State.elogAckHi_of_outside hout)))
    exact ⟨rep, hexec, hcode, hkind, haddress⟩
  case head => exact ⟨_, exec_elogHeadLo_of_answers hanswers, s.answerRead_setPort p _ _⟩
  case now => exact ⟨_, exec_nowLo_of_answers hanswers, s.answerRead_setPort p _ _⟩
  case silent =>
    exact ⟨exec_elogHeadLo_of_silent hsilent, exec_nowLo_of_silent hsilent, exec_elogAckHi_of_silent hsilent⟩

end Sys2Proof.Machine
end

section
/-!
PROOFS. Repair (R245, R246): the judgement of 0x4031 ACTION and what each action does, and how a retest and a FORGET end.
-/
namespace Sys2Proof.Machine

/-! ## A write of ACTION -/

section
variable {i : Instr} {s t : State} {x : Session} {index sub : Nat} {data : List Byte}

/-- An effect that itself refuses: what it noted stays, and one ACCESS_DENIED waits. -/
theorem AdmittedWrite.refused (h : AdmittedWrite i s x index sub data) (he : s.objEffect x index sub data = (t, cDenied)) :
    exec i s = .next (t.report (refusedAccess x index sub cDenied data.length)) := by
  rw [h.writes, State.access, h.served, if_pos rfl, State.odWrite, h.objWrite_eq, he, if_neg (show cDenied ≠ 0 by decide)]

theorem action_admitted {v : Byte} (hserved : s.served = true) (hpriv : (s.session x).privileged = true)
    (hwrites : exec i s = s.access x 0x4031 2 (s.odWrite x 0x4031 2 [v]).1) (hlo : 1 ≤ v.toNat) (hhi : v.toNat ≤ 3) :
    AdmittedWrite i s x 0x4031 2 [v] where
  served := hserved
  writes := hwrites
  admits := ⟨objRwp .u8 0 1 3, by decide, .inr (.inr ⟨rfl, hpriv⟩), rfl, nofun, nofun, rfl, fromBytes_singleton v ▸ hlo,
    fromBytes_singleton v ▸ hhi⟩
  present := s.objMissing_of_ne x (by decide) (by decide)

theorem State.objEffect_action (s : State) (x : Session) (v : Byte) : s.objEffect x 0x4031 2 [v] = s.writeAction v.toNat := by
  have hfamily : objFamily 0x4031 = 0x4031 := by decide
  simp only [State.objEffect, hfamily, fromBytes_singleton]

theorem State.health_touchPrivilege (s : State) (x : Session) : (s.touchPrivilege x).health = s.health :=
  (s.touchPrivilege_keeps_rest x).health.resolve_left (by decide)

end

/-! ## The judgement of ACTION (R245) -/

/-- 0x4031 may act on the unit of TARGET, and no action is in progress. -/
def State.RepairFree (s : State) : Prop := repairable s.health.repairTarget = true ∧ s.health.repair = none

/-- A refused action leaves RESULT 4. -/
def State.actionRefused (s : State) : State := { s with health := { s.health with repairResult := 4 } }

section
variable {s : State}

theorem State.actionBarred_iff (v : Nat) :
    ((!repairable s.health.repairTarget) = true ∨ s.health.repair.isSome = true ∨
      (v = 1 ∧ ((!s.unitFaulty s.health.repairTarget) = true ∨ s.unitInUse s.health.repairTarget = true))) ↔
    ¬ (s.RepairFree ∧ (v = 1 → s.unitFaulty s.health.repairTarget = true ∧ s.unitInUse s.health.repairTarget = false)) := by
  have hrepair : s.health.repair.isSome = true ↔ ¬ s.health.repair = none := Option.isSome_iff_ne_none
  simp only [State.RepairFree, hrepair, Bool.not_eq_true', ← Bool.not_eq_true]
  tauto

theorem State.writeAction_of_barred {v : Nat} (h : ¬ (s.RepairFree ∧
    (v = 1 → s.unitFaulty s.health.repairTarget = true ∧ s.unitInUse s.health.repairTarget = false))) :
    s.writeAction v = (s.actionRefused, cDenied) :=
  if_pos ((State.actionBarred_iff v).mpr h)

/-- RETEST begins; for a hearth's logic die its RETESTING shows it. -/
theorem State.writeAction_retest (hfree : s.RepairFree) (hfaulty : s.unitFaulty s.health.repairTarget = true)
    (huse : s.unitInUse s.health.repairTarget = false) :
    ∃ t : State, s.writeAction 1 = (t.setRepair (some (.retest s.health.repairTarget)) 1, 0) :=
  ⟨_, if_neg fun h => (State.actionBarred_iff 1).mp h ⟨hfree, fun _ => ⟨hfaulty, huse⟩⟩⟩

theorem State.writeAction_retire (hfree : s.RepairFree) :
    s.writeAction 2 = (if s.unitFaulty s.health.repairTarget then s.setRepair none 2
      else (s.setRepair (some (.retire s.health.repairTarget)) 1).unitFails s.health.repairTarget 4, 0) :=
  if_neg fun h => (State.actionBarred_iff 2).mp h ⟨hfree, nofun⟩

theorem State.writeAction_forget (hfree : s.RepairFree) :
    s.writeAction 3 = (s.setRepair (some (.forget s.health.repairTarget)) 1, 0) :=
  if_neg fun h => (State.actionBarred_iff 3).mp h ⟨hfree, nofun⟩

end

/-! ## A unit that is cleared (R246) -/

/-- A core, a logic die, a stack, a PCIe port or a Finwell port. -/
theorem unitClass_of_repairable {u : Nat} (h : repairable u = true) :
    unitClass u = 16 ∨ unitClass u = 1 ∨ unitClass u = 3 ∨ unitClass u = 8 ∨ unitClass u = 9 := by
  unfold repairable at h
  split at h
  case h_1 hclass => exact .inl hclass
  case h_2 hclass => exact .inr (.inl hclass)
  case h_3 hclass => exact .inr (.inr (.inl hclass))
  case h_4 hclass => exact .inr (.inr (.inr (.inl hclass)))
  case h_5 hclass => exact .inr (.inr (.inr (.inr hclass)))
  case h_6 => cases h

section
variable (s : State) {u : Nat}

theorem State.nextGeneration_sameRecord : SameRecord s s.nextGeneration := ⟨fun _ => rfl, rfl⟩

theorem State.report_sameRecord (r : Report) : SameRecord s (s.report r) := ⟨fun _ => rfl, rfl⟩

theorem State.unitFaulty_setFaulty_false (h : repairable u = true) : (s.setFaulty u false).unitFaulty u = false := by
  obtain hclass | hclass | hclass | hclass | hclass := unitClass_of_repairable h <;>
    simp [State.setFaulty, State.unitFaulty, hclass, setMember]

theorem State.clearFaulty_cleared (h : repairable u = true) : (s.clearFaulty u).unitFaulty u = false := by
  have hrecord : SameRecord (s.setFaulty u false) (s.clearFaulty u) := (State.nextGeneration_sameRecord _).trans
    ((State.recountSpares_sameRecord _).trans (State.report_sameRecord _ _))
  exact (hrecord.faulty u).trans (s.unitFaulty_setFaulty_false h)

variable (u)

theorem State.clearFaulty_reported : ∃ rep : Report, (s.clearFaulty u).log.waiting = s.log.waiting ++ [rep] ∧
    rep.code = 0x1C ∧ rep.unit = u := by
  have hkeeps : Keeps [.health] s (s.setFaulty u false).nextGeneration.recountSpares :=
    State.recountSpares_keeps _ (State.nextGeneration_keeps _ (State.setFaulty_keeps s u false (Keeps.refl _ s) rfl) rfl) rfl
  have hlog := hkeeps.log_eq rfl
  refine ⟨{ plainReport cUnitRestored u .value (s.setFaulty u false).nextGeneration.recountSpares.health.generation with
    time := (s.setFaulty u false).nextGeneration.recountSpares.now }, ?_, rfl, rfl⟩
  rw [← hlog]
  rfl

/-- Its return leaves the health maps and the log. -/
theorem State.unitReturns_keeps_rest : Keeps [.ports, .cores, .scratch, .hbm, .hbmPoison, .larders, .links] s (s.unitReturns u) :=
  State.unitReturns_keeps s u (Keeps.refl _ s) rfl

/-- RETESTING of a hearth clears with its retest. -/
def State.retestOver (s : State) (u : Nat) : State :=
  if unitClass u = 1 then s.setHearth (unitIndex u) { s.hearth (unitIndex u) with retesting := false } else s

theorem State.retestOver_sameRecord : SameRecord s (s.retestOver u) := .ite (.setHearth s _ rfl rfl) (.refl s)

theorem State.log_retestOver : (s.retestOver u).log = s.log := by
  unfold State.retestOver
  split <;> rfl

theorem State.setRepair_sameRecord (a : Option RepairAction) (n : Nat) : SameRecord s (s.setRepair a n) := ⟨fun _ => rfl, rfl⟩

end

/-! ## RETEST_DONE and FORGET_DONE -/

section
variable {s : State} {w : Nat} (hleaven : s.leavenUp = true)
include hleaven

theorem exec_retestDone_passed (hrepair : s.health.repair = some (.retest w)) :
    exec (.retestDone true) s = .next ((((s.retestOver w).setRepair none 2).clearFaulty w).unitReturns w) := by
  simp [exec, execRetestDone, State.retestOver, hrepair, hleaven]

theorem exec_retestDone_failed (hrepair : s.health.repair = some (.retest w)) :
    exec (.retestDone false) s = .next ((s.retestOver w).setRepair none 3) := by
  simp [exec, execRetestDone, State.retestOver, hrepair, hleaven]

theorem exec_forgetDone_of_forget (hrepair : s.health.repair = some (.forget w)) :
    exec .forgetDone s = .next (State.setRepair { s with boot := { s.boot with
      persistent := s.boot.persistent.filter fun e => decide (e.1 ≠ w) } } none 2) := by
  simp [exec, execForgetDone, hrepair, hleaven]

end

/-! ## O39 -/

/-- Settles O39: ACTION's row admits its three values, so its own judgement decides; a unit that passed is cleared before it
returns. -/
theorem repairActionsFollowTheirTarget : Obligations.RepairActionsFollowTheirTarget := by
  unfold Obligations.RepairActionsFollowTheirTarget
  intro x s hserved hpriv u free started refused
  have hleaven := State.leavenUp_of_served hserved
  have hretest : AdmittedWrite (.retest x) s x 0x4031 2 [1] := action_admitted hserved hpriv rfl (by decide) (by decide)
  have hretire : AdmittedWrite (.retire x) s x 0x4031 2 [2] := action_admitted hserved hpriv rfl (by decide) (by decide)
  have hforget : AdmittedWrite (.forget x) s x 0x4031 2 [3] := action_admitted hserved hpriv rfl (by decide) (by decide)
  have hrefused {i : Instr} {v : Byte} (hi : AdmittedWrite i s x 0x4031 2 [v])
      (hbarred : s.writeAction v.toNat = (s.actionRefused, cDenied)) : refused i :=
    ⟨_, _, hi.refused ((s.objEffect_action x v).trans hbarred), rfl, rfl, rfl⟩
  have hstarted {i : Instr} {v : Byte} {a : RepairAction} {t : State} (hi : AdmittedWrite i s x 0x4031 2 [v])
      (htaken : s.writeAction v.toNat = (t.setRepair (some a) 1, 0)) : started i a :=
    ⟨_, hi.next ((s.objEffect_action x v).trans htaken), by rw [State.health_touchPrivilege]; exact ⟨rfl, rfl⟩⟩
  refine ⟨fun hfree hfaulty huse => ?retest, fun hbarred => ?retestRefused, fun hfree hfaulty => ?retireFaulty,
    fun hfree hsound => ?retireSound, fun hbarred => ⟨?retireRefused, ?forgetRefused⟩, fun hfree => ?forget,
    fun w hrepair => ?forgetDone, fun w hrepair => ⟨?failed, fun hunits => ?passed⟩⟩
  case retest =>
    obtain ⟨t, ht⟩ := State.writeAction_retest hfree hfaulty huse
    exact hstarted hretest ht
  case retestRefused => exact hrefused hretest (State.writeAction_of_barred fun ⟨hfree, htested⟩ => hbarred ⟨hfree, htested rfl⟩)
  case retireFaulty =>
    have heffect := (s.objEffect_action x 2).trans (State.writeAction_retire hfree)
    rw [if_pos hfaulty] at heffect
    exact ⟨_, hretire.next heffect, State.health_touchPrivilege _ x⟩
  case retireSound =>
    have heffect := (s.objEffect_action x 2).trans (State.writeAction_retire hfree)
    rw [if_neg (by rw [hsound]; decide)] at heffect
    exact hretire.next heffect
  case retireRefused => exact hrefused hretire (State.writeAction_of_barred fun ⟨hfree, _⟩ => hbarred hfree)
  case forgetRefused => exact hrefused hforget (State.writeAction_of_barred fun ⟨hfree, _⟩ => hbarred hfree)
  case forget => exact hstarted hforget (State.writeAction_forget hfree)
  case forgetDone => exact ⟨_, exec_forgetDone_of_forget hleaven hrepair, rfl, rfl, rfl⟩
  case failed =>
    have hrecord := (s.retestOver_sameRecord w).trans (State.setRepair_sameRecord _ none 3)
    exact ⟨_, exec_retestDone_failed hleaven hrepair, rfl, rfl, hrecord.faulty⟩
  case passed =>
    obtain ⟨rep, hwaiting, hcode, hunit⟩ := ((s.retestOver w).setRepair none 2).clearFaulty_reported w
    have hreturns := (((s.retestOver w).setRepair none 2).clearFaulty w).unitReturns_keeps_rest w
    refine ⟨_, rep, exec_retestDone_passed hleaven hrepair, ?_, ?_, hcode, hunit⟩
    · exact (State.unitFaulty_congr (hreturns.health.resolve_left (by decide)) w).trans (State.clearFaulty_cleared _ hunits)
    · rw [hreturns.log_eq rfl, hwaiting, ← s.log_retestOver w]
      rfl

end Sys2Proof.Machine
end

section
/-!
PROOFS. The step: the command at the front of the queue or the idle tick, the frame of every command, and what every step keeps of
the memories, the straps, the fused minimum and the timekeeper.
-/
namespace Sys2Proof.Machine

/-! ## The two kinds of step -/

section
variable {s t : State}

theorem step_of_front {c : Instr} {rest : List Instr} (h : s.pending = c :: rest) : step s = exec c { s with pending := rest } := by
  rw [step, h]

theorem step_of_empty (h : s.pending = []) : step s = .next s.idleTick := by rw [step, h]

/-- A step is the idle tick, or a cold reset at the front, or another command, which keeps what Keeps says. -/
theorem step_cases (h : step s = .next t) :
    (s.pending = [] ∧ t = s.idleTick) ∨
    (∃ env rest, s.pending = .coldReset env :: rest ∧ exec (.coldReset env) { s with pending := rest } = .next t) ∨
    (∃ c rest, s.pending = c :: rest ∧ (∀ env, c ≠ .coldReset env) ∧ Keeps (touches c) { s with pending := rest } t) := by
  cases hpending : s.pending with
  | nil =>
    rw [step_of_empty hpending] at h
    cases h
    exact .inl ⟨rfl, rfl⟩
  | cons c rest =>
    rw [step_of_front hpending] at h
    by_cases hcold : ∃ env, c = .coldReset env
    · obtain ⟨env, rfl⟩ := hcold
      exact .inr (.inl ⟨env, rest, rfl, h⟩)
    · exact .inr (.inr ⟨c, rest, rfl, not_exists.mp hcold, exec_keeps (not_exists.mp hcold) h⟩)

end

/-! ## The frame of a command -/

theorem Keeps.same {T : List StateField} {s t : State} (h : Keeps T s t) {f : StateField} (hf : f ∉ T) : f.same s t := by
  have hmay : ¬ may T f = true := by simpa [may] using hf
  cases f with
  | time => exact h.time.resolve_left hmay
  | power => exact h.power.resolve_left hmay
  | boot => exact h.boot.resolve_left hmay
  | ports => exact h.ports.resolve_left hmay
  | mboxes => exact h.mboxes.resolve_left hmay
  | sessions => exact h.sessions.resolve_left hmay
  | dict => exact h.dict.resolve_left hmay
  | log => exact h.log.resolve_left hmay
  | health => exact h.health.resolve_left hmay
  | cores => exact h.cores.resolve_left hmay
  | scratch => exact h.scratch.resolve_left hmay
  | hbm => exact h.hbm.resolve_left hmay
  | hbmPoison => exact h.hbmPoison.resolve_left hmay
  | hbmEcc => exact h.hbmEcc.resolve_left hmay
  | larders => exact h.larders.resolve_left hmay
  | movers => exact h.movers.resolve_left hmay
  | folds => exact h.folds.resolve_left hmay
  | parts => exact h.parts.resolve_left hmay
  | ctxs => exact h.ctxs.resolve_left hmay
  | journal => exact h.journal.resolve_left hmay
  | train => exact h.train.resolve_left hmay
  | seeds => exact h.seeds.resolve_left hmay
  | chanUse => exact h.chanUse.resolve_left hmay
  | links => exact h.links.resolve_left hmay
  | net => exact h.net.resolve_left hmay
  | paceHist => exact h.paceHist.resolve_left hmay
  | freeCtr => exact h.freeCtr.resolve_left hmay

/-- A cold reset may change every part, so its frame is the queue alone. -/
theorem mem_touches_coldReset (env : ColdEnv) (f : StateField) : f ∈ touches (.coldReset env) := by
  cases f <;> simp [touches]

/-! ## A cold reset, part by part (Table 15-8) -/

/-- The state of a cold reset before its sessions end and its ports take their straps. -/
theorem State.cold_keeps (s : State) (env : ColdEnv) : ∃ u : State, Keeps [.sessions, .ports] u (s.cold env) ∧
    u.pending = s.pending ∧ u.boot = s.boot.cold env ∧ u.time = s.time.cold s.power.vaux33 env.ref100 ∧ u.hbm = [] ∧ u.scratch = [] := by
  refine ⟨_, State.setPort_keeps _ _ _ (State.setPort_keeps _ _ _ (State.endSessions_keeps _ (Keeps.refl _ _) rfl) rfl) rfl,
    rfl, rfl, rfl, rfl, rfl⟩

/-- What a cold reset that no trip holds off leaves of the queue, the straps and the fuses, the timekeeper and the memories. -/
structure ColdReset (env : ColdEnv) (s t : State) : Prop where
  pending : t.pending = s.pending
  boot : t.boot = s.boot.cold env
  time : t.time = s.time.cold s.power.vaux33 env.ref100
  hbm : t.hbm = []
  scratch : t.scratch = []

theorem State.cold_coldReset (s : State) (env : ColdEnv) : ColdReset env s (s.cold env) := by
  obtain ⟨u, hkeeps, hpending, hboot, htime, hhbm, hscratch⟩ := s.cold_keeps env
  exact ⟨hkeeps.pending.trans hpending, (hkeeps.boot.resolve_left (by decide)).trans hboot,
    (hkeeps.time.resolve_left (by decide)).trans htime, (hkeeps.hbm.resolve_left (by decide)).trans hhbm,
    (hkeeps.scratch.resolve_left (by decide)).trans hscratch⟩

theorem coldReset_cases {env : ColdEnv} {s t : State} (h : exec (.coldReset env) s = .next t) :
    (s.tripHolds = true ∧ t = s) ∨ (s.tripHolds = false ∧ ColdReset env s t) := by
  cases htrip : s.tripHolds with
  | true =>
    cases (exec_coldReset_of_trip env htrip).symm.trans h
    exact .inl ⟨rfl, rfl⟩
  | false =>
    cases (exec_coldReset_of_no_trip env htrip).symm.trans h
    exact .inr ⟨rfl, s.cold_coldReset env⟩

/-! ## The idle tick (R319) -/

section
variable (s : State)

/-- The idle tick moves the timekeeper and the baker's lull alone. -/
theorem State.idleTick_eq : s.idleTick = { s with
    time := if s.power.vaux33 then s.time.tick else s.time
    power := { s.power with bakerLull := s.power.bakerLull || s.leavenUp } } := by
  unfold State.idleTick
  have hleaven : ∀ tb, State.leavenUp { s with time := tb } = s.leavenUp := fun _ => rfl
  cases hvaux : s.power.vaux33 <;> cases hup : s.leavenUp <;> simp [hleaven, hup]

theorem State.same_idleTick {f : StateField} (htime : f ≠ .time) (hpower : f ≠ .power) : f.same s s.idleTick := by
  rw [s.idleTick_eq]
  cases f with
  | time => exact absurd rfl htime
  | power => exact absurd rfl hpower
  | _ => rfl

theorem TimeBase.tick_of_ref100 {b : TimeBase} (h : b.ref100 = true) : b.tick = { b with now := (b.now + 1) % 2 ^ 64 } := by
  simp [TimeBase.tick, h]

theorem TimeBase.tick_of_xtal {b : TimeBase} (h : b.ref100 = false) :
    b.tick = { b with now := (b.now + 30517 + (b.frac + 37) / 64) % 2 ^ 64, frac := (b.frac + 37) % 64 } := by
  simp [TimeBase.tick, h]

/-- One unit of either time base moves the timekeeper on by at most 30,518 ns. -/
theorem TimeBase.le_tick {b : TimeBase} (hnow : b.now + 30518 < 2 ^ 64) (hfrac : b.frac < 64) : b.now ≤ b.tick.now := by
  cases href : b.ref100 with
  | true => rw [TimeBase.tick_of_ref100 href]; dsimp only; omega
  | false => rw [TimeBase.tick_of_xtal href]; dsimp only; omega

end

/-! ## O1 to O5, O7, O8 -/

/-- Settles O1: by the definition of a step. -/
theorem stepRunsTheFrontCommand : Obligations.StepRunsTheFrontCommand := by
  unfold Obligations.StepRunsTheFrontCommand
  exact fun _ _ _ => step_of_front

/-- Settles O2: the tick, field by field. -/
theorem emptyQueueTicksTheTimekeeper : Obligations.EmptyQueueTicksTheTimekeeper := by
  unfold Obligations.EmptyQueueTicksTheTimekeeper
  intro s hempty
  refine ⟨s.idleTick, step_of_empty hempty, ?_, fun f => s.same_idleTick, ?_, fun hvaux => ?_, fun hvaux href => ?_, fun hvaux href => ?_⟩
    <;> rw [s.idleTick_eq]
  · exact hempty
  · simp [hvaux]
  · simp [hvaux, TimeBase.tick_of_ref100 href]
  · simp [hvaux, TimeBase.tick_of_xtal href]

/-- Settles O3: a cold reset may change everything but the queue; of any other command it is what Keeps says. -/
theorem commandsChangeOnlyTheirParts : Obligations.CommandsChangeOnlyTheirParts := by
  unfold Obligations.CommandsChangeOnlyTheirParts
  intro c s t hexec
  by_cases hcold : ∃ env, c = .coldReset env
  · obtain ⟨env, rfl⟩ := hcold
    refine ⟨?_, fun f hf => absurd (mem_touches_coldReset env f) hf⟩
    obtain ⟨-, rfl⟩ | ⟨-, hreset⟩ := coldReset_cases hexec
    · rfl
    · exact hreset.pending
  · have hkeeps := exec_keeps (not_exists.mp hcold) hexec
    exact ⟨hkeeps.pending, fun f => hkeeps.same⟩

/-- Settles O4: at reset no byte and no word is written, and the log is empty. -/
theorem resetMeetsTheInvariants : Obligations.ResetMeetsTheInvariants := by
  unfold Obligations.ResetMeetsTheInvariants
  exact ⟨⟨rfl, rfl⟩, Nat.le_refl 0, rfl, rfl⟩

theorem memOk_nil : memOk [] [] := ⟨rfl, rfl⟩

/-- Settles O5: a cold reset empties the memories, and every other command keeps their form. -/
theorem everyStepKeepsTheMemoryForm : Obligations.EveryStepKeepsTheMemoryForm := by
  unfold Obligations.EveryStepKeepsTheMemoryForm
  intro s t hform hstep
  obtain ⟨-, rfl⟩ | ⟨env, rest, -, hexec⟩ | ⟨c, rest, -, -, hkeeps⟩ := step_cases hstep
  case inl => rw [s.idleTick_eq]; exact hform
  case inr.inl =>
    obtain ⟨-, rfl⟩ | ⟨-, hreset⟩ := coldReset_cases hexec
    · exact hform
    · rw [MemoryForm, hreset.hbm, hreset.scratch]
      exact memOk_nil
  case inr.inr => exact hkeeps.mem hform

theorem State.objRead_role (s : State) (x : Session) : s.objRead x 0x1001 3 = (s, .ok [if s.boot.manager then 1 else 0]) := by
  change (s, Except.ok (toBytes 1 (boolNat s.boot.manager))) = _
  cases s.boot.manager <;> rfl

theorem State.objRead_nodeId (s : State) (x : Session) : s.objRead x 0x1001 4 = (s, .ok [BitVec.ofNat 8 s.boot.nodeStrap]) := by
  change (s, Except.ok (toBytes 1 s.boot.nodeStrap)) = _
  simp [toBytes]

/-- Settles O7: the straps are among what Keeps keeps, and a cold reset takes them from its environment. -/
theorem strapsAreSampledByAColdResetAlone : Obligations.StrapsAreSampledByAColdResetAlone := by
  unfold Obligations.StrapsAreSampledByAColdResetAlone
  refine ⟨fun s t hstep => ?_, fun s x => ⟨s.objRead_role x, s.objRead_nodeId x⟩⟩
  obtain ⟨hempty, rfl⟩ | ⟨env, rest, hfront, hexec⟩ | ⟨c, rest, hfront, hother, hkeeps⟩ := step_cases hstep
  case inl => exact ⟨fun _ => by rw [s.idleTick_eq]; exact ⟨rfl, rfl⟩, fun env h => by simp [hempty] at h⟩
  case inr.inl =>
    refine ⟨fun h => absurd (by rw [hfront]; rfl) (h env), fun env' h => ?_⟩
    cases (Instr.coldReset.inj (Option.some.inj (by rw [hfront] at h; exact h)) : env = env')
    obtain ⟨htrip, rfl⟩ | ⟨htrip, hreset⟩ := coldReset_cases hexec
    · exact ⟨fun hfree => absurd (htrip.symm.trans hfree) (by decide), fun _ => rfl⟩
    · refine ⟨fun _ => ?_, fun hheld => absurd (htrip.symm.trans hheld) (by decide)⟩
      rw [hreset.boot]
      exact ⟨rfl, rfl⟩
  case inr.inr =>
    refine ⟨fun _ => ⟨hkeeps.manager, hkeeps.strap⟩, fun env h => absurd ?_ (hother env)⟩
    rw [hfront] at h
    exact Option.some.inj h

/-- Settles O8: a cold reset keeps the fuses and a powered timekeeper, the tick only raises it, and no other command lowers either. -/
theorem theFusedMinimumAndTheTimekeeperNeverFall : Obligations.TheFusedMinimumAndTheTimekeeperNeverFall := by
  unfold Obligations.TheFusedMinimumAndTheTimekeeperNeverFall
  refine ⟨fun s t hstep => ?fuse, fun s t hvaux hnow hfrac hstep => ?now⟩
  case fuse =>
    obtain ⟨-, rfl⟩ | ⟨env, rest, -, hexec⟩ | ⟨c, rest, -, -, hkeeps⟩ := step_cases hstep
    case inl => rw [s.idleTick_eq]
    case inr.inl =>
      obtain ⟨-, rfl⟩ | ⟨-, hreset⟩ := coldReset_cases hexec
      · exact Nat.le_refl _
      · rw [hreset.boot]
        exact Nat.le_refl _
    case inr.inr => exact hkeeps.fuse
  case now =>
    obtain ⟨-, rfl⟩ | ⟨env, rest, -, hexec⟩ | ⟨c, rest, -, -, hkeeps⟩ := step_cases hstep
    case inl =>
      rw [s.idleTick_eq]
      simpa only [if_pos hvaux] using TimeBase.le_tick hnow hfrac
    case inr.inl =>
      obtain ⟨-, rfl⟩ | ⟨-, hreset⟩ := coldReset_cases hexec
      · exact Nat.le_refl _
      · rw [hreset.time]
        simp [TimeBase.cold, hvaux]
    case inr.inr => exact hkeeps.now

end Sys2Proof.Machine
end

section
/-!
PROOFS. Writes of the dictionary (R249, R250, R335), each judged in the order of R335; and the sessions (R253 to R255): challenge,
response, lock, key, lockout and idle lock.
-/
namespace Sys2Proof.Machine

/-! ## The order of R335 -/

section
variable {o : ObjInfo} {privileged : Bool} {data : List Byte}

/-- R335 step 2: the access right, with the session's privilege, bars a write. -/
def ObjInfo.Barred (o : ObjInfo) (privileged : Bool) : Prop :=
  o.acc = .ro ∨ o.acc = .const ∨ (o.acc = .rwp ∧ privileged = false)

/-- R335 step 4: the pair of a CU32 matches. -/
def ObjInfo.Paired (o : ObjInfo) (data : List Byte) : Prop :=
  o.ty = .cu32 → isCompl 32 (fromBytes data % 2 ^ 32) (fromBytes data / 2 ^ 32) = true

/-- R335 step 4: the value lies outside what the object's row admits. -/
def ObjInfo.Outside (o : ObjInfo) (v : Nat) : Prop :=
  (o.ty = .bool ∧ 1 < v) ∨ (o.counter = true ∧ v ≠ 0) ∨ (o.ty.isDomain = false ∧ o.acc ≠ .wo ∧ (v < o.lo ∨ o.hi < v))

theorem ObjInfo.barred_iff : (o.acc = .ro ∨ o.acc = .const ∨ (o.acc = .rwp ∧ !privileged)) ↔ o.Barred privileged := by
  simp [ObjInfo.Barred]

theorem ObjInfo.unpaired_iff :
    (o.ty = .cu32 ∧ !isCompl 32 (fromBytes data % 2 ^ 32) (fromBytes data / 2 ^ 32)) ↔ ¬ o.Paired data := by
  simp [ObjInfo.Paired]

theorem ObjInfo.judge_of_barred (h : o.Barred privileged) : o.judge privileged data = cDenied := by
  rw [ObjInfo.judge, if_pos (barred_iff.mpr h)]

theorem ObjInfo.judge_of_length (hadmitted : ¬ o.Barred privileged) (h : data.length ≠ o.ty.len) :
    o.judge privileged data = cTypeMismatch := by
  rw [ObjInfo.judge, if_neg (barred_iff.not.mpr hadmitted), if_pos h]

theorem ObjInfo.judge_of_unpaired (hadmitted : ¬ o.Barred privileged) (hlength : data.length = o.ty.len) (h : ¬ o.Paired data) :
    o.judge privileged data = cComplement := by
  rw [ObjInfo.judge, if_neg (barred_iff.not.mpr hadmitted), if_neg (not_not.mpr hlength), if_pos (unpaired_iff.mpr h)]

theorem ObjInfo.judge_of_paired (hadmitted : ¬ o.Barred privileged) (hlength : data.length = o.ty.len) (h : o.Paired data) :
    (o.Outside (fromBytes data) → o.judge privileged data = cDenied) ∧ (¬ o.Outside (fromBytes data) → o.judge privileged data = 0) := by
  rw [ObjInfo.judge, if_neg (barred_iff.not.mpr hadmitted), if_neg (not_not.mpr hlength), if_neg (not_not.mpr h ∘ unpaired_iff.mp)]
  have houtside : o.Outside (fromBytes data) ↔
      ((o.ty = .bool ∧ 1 < fromBytes data) ∨ (o.counter ∧ fromBytes data ≠ 0)) ∨
        (!o.ty.isDomain ∧ o.acc ≠ .wo ∧ (fromBytes data < o.lo ∨ o.hi < fromBytes data)) := by
    simp [ObjInfo.Outside, or_assoc]
  rw [houtside]
  split
  case isTrue hvalue => exact ⟨fun _ => rfl, fun hinside => absurd (.inl hvalue) hinside⟩
  case isFalse hvalue =>
    split
    case isTrue hrange => exact ⟨fun _ => rfl, fun hinside => absurd (.inr hrange) hinside⟩
    case isFalse hrange => exact ⟨fun hout => absurd hout (not_or.mpr ⟨hvalue, hrange⟩), fun _ => rfl⟩

end

section
variable {i : Instr} {s : State} {x : Session} {idx sub : Nat} {data : List Byte}

/-- A command that is a write of one object is that access of its session. -/
theorem exec_of_objectWritten (h : objectWritten i = some (x, idx, sub, data)) :
    exec i s = s.access x idx sub (s.odWrite x idx sub data).1 := by
  unfold objectWritten at h
  split at h
  all_goals cases h
  all_goals rfl

theorem State.objMissing_iff : s.objMissing x idx sub = true ↔
    (idx = 0x6041 ∧ 3 ≤ sub ∧ s.selectedRec (s.session x).scaleSelect = none) ∨
      (idx = 0x7000 ∧ sub = 7 ∧ s.log.entry (s.session x).logSelect = none) := by
  simp [State.objMissing, and_assoc]

theorem State.writeRefused_of_missing (h : objInfo idx sub = none ∨ s.objMissing x idx sub = true) :
    s.writeRefused x idx sub data = cNoObject := by
  unfold State.writeRefused
  cases hinfo : objInfo idx sub with
  | none => rfl
  | some o => exact if_pos (h.resolve_left (by simp [hinfo]))

theorem State.writeRefused_of_present {o : ObjInfo} (hinfo : objInfo idx sub = some o) (h : s.objMissing x idx sub = false) :
    s.writeRefused x idx sub data = o.judge (s.session x).privileged data := by
  simp [State.writeRefused, hinfo, h]

theorem State.objWrite_of_refused {code : Nat} (h : s.writeRefused x idx sub data = code) (hcode : code ≠ 0) :
    s.objWrite x idx sub data = (s, code) := by
  rw [State.objWrite, h, if_pos hcode]

theorem State.objWrite_of_admitted (h : s.writeRefused x idx sub data = 0) :
    s.objWrite x idx sub data = s.objEffect x idx sub data := by
  rw [State.objWrite, h, if_neg (not_not.mpr rfl)]

theorem State.access_of_served (h : s.served = true) (t : State) : s.access x idx sub t = .next t := if_pos h

theorem exec_write_of_refused (h : objectWritten i = some (x, idx, sub, data)) (hserved : s.served = true) {code : Nat}
    (hcode : code ≠ 0) (hrefused : s.writeRefused x idx sub data = code) :
    exec i s = .next (s.report (refusedAccess x idx sub code data.length)) := by
  rw [exec_of_objectWritten h, State.access_of_served hserved, State.odWrite, State.objWrite_of_refused hrefused hcode, if_neg hcode]

theorem exec_write_of_admitted (h : objectWritten i = some (x, idx, sub, data)) (hserved : s.served = true)
    (hadmitted : s.writeRefused x idx sub data = 0) : exec i s =
      .next (if (s.objEffect x idx sub data).2 = 0 then (s.objEffect x idx sub data).1.touchPrivilege x
        else (s.objEffect x idx sub data).1.report (refusedAccess x idx sub (s.objEffect x idx sub data).2 data.length)) := by
  rw [exec_of_objectWritten h, State.access_of_served hserved, State.odWrite, State.objWrite_of_admitted hadmitted]
  split <;> rfl

end

/-! ## O35 -/

/-- Settles O35: the row and the object's own presence give the code of the first failure; with none, the object's rule decides. -/
theorem dictionaryWritesAreJudgedInOrder : Obligations.DictionaryWritesAreJudgedInOrder := by
  unfold Obligations.DictionaryWritesAreJudgedInOrder
  intro i x idx sub data s hwritten v refused missing
  have hmissing : missing ↔ objInfo idx sub = none ∨ s.objMissing x idx sub = true := by rw [State.objMissing_iff]
  refine ⟨fun hserved => ⟨fun hboot => ?aborted, fun hboot => ?unheard⟩, fun hserved hgone => ?missing, fun o hserved hinfo hpresent => ?judged⟩
  case aborted =>
    refine ⟨refusedAccess x idx sub cNoObject 0, ?_, rfl, rfl, rfl, nofun⟩
    rw [exec_of_objectWritten hwritten, State.access, if_neg (by simp [hserved]), if_pos hboot]
  case unheard =>
    rw [exec_of_objectWritten hwritten, State.access, if_neg (by simp [hserved]), if_neg (by simp [hboot]), State.stay]
  case missing =>
    exact ⟨_, exec_write_of_refused hwritten hserved (by decide) (State.writeRefused_of_missing (hmissing.mp hgone)), rfl, rfl, rfl, nofun⟩
  case judged =>
    have hjudge : s.writeRefused x idx sub data = o.judge (s.session x).privileged data :=
      State.writeRefused_of_present hinfo (Bool.eq_false_iff.mpr fun h => hpresent (hmissing.mpr (.inr h)))
    have hrefuse {code : Nat} (hcode : code ≠ 0) (h : o.judge (s.session x).privileged data = code) :=
      exec_write_of_refused hwritten hserved hcode (hjudge.trans h)
    intro barred pair outside
    refine ⟨fun hbarred => ?barred, fun hadmitted hlength => ?length, fun hadmitted hlength hpair => ?pair,
      fun hadmitted hlength hpair hout => ?outside, fun hadmitted hlength hpair hinside => ?effect⟩
    case barred => exact ⟨_, hrefuse (by decide) (ObjInfo.judge_of_barred hbarred), rfl, rfl, rfl, nofun⟩
    case length =>
      exact ⟨_, hrefuse (by decide) (ObjInfo.judge_of_length hadmitted hlength), rfl, rfl, rfl, fun _ => ⟨rfl, by
        simp [refusedAccess, hinfo]⟩⟩
    case pair => exact ⟨_, hrefuse (by decide) (ObjInfo.judge_of_unpaired hadmitted hlength hpair), rfl, rfl, rfl, nofun⟩
    case outside => exact ⟨_, hrefuse (by decide) ((ObjInfo.judge_of_paired hadmitted hlength hpair).1 hout), rfl, rfl, rfl, nofun⟩
    case effect =>
      have heffect := exec_write_of_admitted hwritten hserved (hjudge.trans ((ObjInfo.judge_of_paired hadmitted hlength hpair).2 hinside))
      refine ⟨fun hdone => ?_, fun hdenied => ⟨refusedAccess x idx sub (s.objEffect x idx sub data).2 data.length, ?_, rfl, rfl⟩⟩
      · rw [heffect, if_pos hdone]
      · rw [heffect, if_neg hdenied]

/-! ## Sessions -/

section
variable (s : State) (x : Session)

theorem sessCode_injective {x y : Session} (h : sessCode x = sessCode y) : x = y := by
  revert h
  cases x <;> cases y <;> decide

theorem State.session_setSession_ne {y : Session} (v : SessionState) (h : y ≠ x) : (s.setSession x v).session y = s.session y :=
  tget_tset_ne _ _ (fun hc => h (sessCode_injective hc)) _

@[simp] theorem State.session_report (r : Report) (y : Session) : (s.report r).session y = s.session y := rfl

@[simp] theorem State.session_bump (i sub n : Nat) (y : Session) : (s.bump i sub n).session y = s.session y := rfl

@[simp] theorem State.session_reach (t : Nat) (y : Session) : (s.reach t).session y = s.session y := rfl

@[simp] theorem State.session_boot (b : Boot) (y : Session) : State.session { s with boot := b } y = s.session y := rfl

@[simp] theorem State.session_endPrivilege : (s.endPrivilege x).session x = { s.session x with privileged := false } :=
  s.session_setSession x _

theorem State.session_endPrivilege_ne {y : Session} (h : y ≠ x) : (s.endPrivilege x).session y = s.session y :=
  s.session_setSession_ne x _ h

/-- A session without privilege is not touched. -/
theorem State.touchPrivilege_of_unprivileged {s : State} {x : Session} (h : (s.session x).privileged = false) :
    s.touchPrivilege x = s := by
  simp [State.touchPrivilege, h]

theorem State.touchPrivilege_of_privileged {s : State} {x : Session} (h : (s.session x).privileged = true) :
    s.touchPrivilege x = s.setSession x { s.session x with lastPriv := s.now } := by
  simp [State.touchPrivilege, h]

end

section
variable {s : State} {x : Session} {data : List Byte}

/-! ### CHALLENGE and RESPONSE (R254) -/

/-- R254: in a lockout, or while a key is being written, a response is refused unexamined. -/
def State.ResponseHeld (s : State) (x : Session) : Prop :=
  (∃ t, (s.session x).lockoutEnd = some t ∧ s.now < t) ∨ s.boot.keyPending ≠ none

theorem State.responseHeld_iff :
    ((s.session x).lockoutEnd.any (fun t => decide (s.now < t)) ∨ s.boot.keyPending.isSome) ↔ s.ResponseHeld x := by
  simp [State.ResponseHeld, Option.any_eq_true, Option.isSome_iff_ne_none]

theorem State.responseMatches_iff : s.responseMatches x data = true ↔ ∃ ch k, (s.session x).challenge = some ch ∧ s.boot.key = some k ∧
    hmacSha384 k (ch ++ toBytes 1 (sessCode x) ++ toBytes 2 (if x = .lane then 0 else 0xFFFF)) = data := by
  unfold State.responseMatches
  cases (s.session x).challenge <;> cases s.boot.key <;> simp

theorem objInfo_response : objInfo 0x1010 2 = some (objWo (.domain 48)) := rfl

theorem objInfo_lock : objInfo 0x1010 4 = some (objWo .bool) := by decide

theorem objInfo_key : objInfo 0x1010 7 = some (objWo (.domain 48)) := rfl

/-- The row of RESPONSE and of KEY admits any 48 bytes. -/
theorem admits_domain48 (privileged : Bool) (hlength : data.length = 48) : (objWo (.domain 48)).Admits privileged data where
  access := .inr (.inl rfl)
  length := hlength
  complement := nofun
  bool := nofun
  counter := rfl
  range := ⟨Nat.zero_le _, Nat.le_sub_one_of_lt (hlength ▸ fromBytes_lt data)⟩

theorem response_admitted (hserved : s.served = true) (hlength : data.length = 48) :
    AdmittedWrite (.response x data) s x 0x1010 2 data where
  served := hserved
  writes := rfl
  admits := ⟨_, objInfo_response, admits_domain48 _ hlength⟩
  present := s.objMissing_of_ne x (by decide) (by decide)

theorem key_admitted (hserved : s.served = true) (hlength : data.length = 48) : AdmittedWrite (.key x data) s x 0x1010 7 data where
  served := hserved
  writes := rfl
  admits := ⟨_, objInfo_key, admits_domain48 _ hlength⟩
  present := s.objMissing_of_ne x (by decide) (by decide)

theorem lock_admitted (hserved : s.served = true) : AdmittedWrite (.lock x 1) s x 0x1010 4 [1] where
  served := hserved
  writes := rfl
  admits := ⟨objWo .bool, objInfo_lock, .inr (.inl rfl), rfl, nofun, by decide, rfl, by decide⟩
  present := s.objMissing_of_ne x (by decide) (by decide)

theorem objFamily_session : objFamily 0x1010 = 0x1010 := by decide

theorem State.objEffect_response : s.objEffect x 0x1010 2 data = s.writeResponse x data := by
  simp only [State.objEffect, objFamily_session]

theorem State.objEffect_lock : s.objEffect x 0x1010 4 [1] = (s.endPrivilege x, 0) := by
  simp only [State.objEffect, objFamily_session, fromBytes_singleton, show (1 : Byte).toNat = 1 from rfl, if_pos]

theorem State.objEffect_key : s.objEffect x 0x1010 7 data = s.writeKey x data := by
  simp only [State.objEffect, objFamily_session]

theorem AdmittedWrite.next_of_failed {i : Instr} {index sub code : Nat} {t : State} (h : AdmittedWrite i s x index sub data)
    (he : s.objEffect x index sub data = (t, code)) (hcode : code ≠ 0) :
    exec i s = .next (t.report (refusedAccess x index sub code data.length)) := by
  rw [h.writes, State.access, h.served, if_pos rfl, State.odWrite, h.objWrite_eq, he, if_neg hcode]

theorem State.writeResponse_of_held (h : s.ResponseHeld x) : s.writeResponse x data = (s.failResponse x false, cDenied) :=
  if_pos (State.responseHeld_iff.mpr h)

theorem State.writeResponse_of_match (hfree : ¬ s.ResponseHeld x) (h : s.responseMatches x data = true) :
    s.writeResponse x data = (s.setSession x { s.session x with
      challenge := none, privileged := true, failRun := 0, lastPriv := s.now }, 0) := by
  rw [State.writeResponse, if_neg (State.responseHeld_iff.not.mpr hfree), if_pos h]

theorem State.writeResponse_of_mismatch (hfree : ¬ s.ResponseHeld x) (h : ¬ s.responseMatches x data = true) :
    s.writeResponse x data = (s.failResponse x true, cDenied) := by
  rw [State.writeResponse, if_neg (State.responseHeld_iff.not.mpr hfree), if_neg h]

/-- The session after a failed response: the challenge is consumed, and one that counts adds to the run or begins a lockout. -/
def SessionState.failed (e : SessionState) (counts : Bool) (now : Nat) : SessionState :=
  match counts with
  | false => { e with challenge := none }
  | true =>
    if e.failRun + 1 = 8 then { e with challenge := none, failRun := 0, lockoutEnd := some (now + 60000000000) }
    else { e with challenge := none, failRun := e.failRun + 1 }

theorem State.failResponse_eq (counts : Bool) :
    s.failResponse x counts = (s.bump 0x1010 5 1).setSession x ((s.session x).failed counts s.now) := by
  cases counts with
  | false => rfl
  | true =>
    dsimp only [State.failResponse, SessionState.failed]
    rw [if_neg (show ¬ (!true) = true by decide)]
    split <;> rfl

/-- A failed response counts in FAILURES and is logged; no other session changes. -/
theorem exec_response_of_failed (hserved : s.served = true) (hlength : data.length = 48) {counts : Bool}
    (h : s.writeResponse x data = (s.failResponse x counts, cDenied)) : ∃ t rep, exec (.response x data) s = .next t ∧
      t.session x = (s.session x).failed counts s.now ∧ (∀ y, y ≠ x → t.session y = s.session y) ∧
      t.obj 0x1010 5 = min (s.obj 0x1010 5 + 1) (2 ^ 32 - 1) ∧ t.log.waiting = s.log.waiting ++ [rep] ∧ rep.code = 0x0F := by
  have hexec := (response_admitted hserved hlength).next_of_failed (State.objEffect_response.trans h) (by decide)
  rw [State.failResponse_eq] at hexec
  refine ⟨_, _, hexec, ?_, fun y hy => ?_, ?_, rfl, rfl⟩
  · simp
  · rw [State.session_report, State.session_setSession_ne _ _ _ hy, State.session_bump]
  · exact (s.obj_setObj 0x1010 5 _).trans (congrArg (min _) (by decide : objMax 0x1010 5 = 2 ^ 32 - 1))

theorem exec_response_of_match (hserved : s.served = true) (hlength : data.length = 48) (hfree : ¬ s.ResponseHeld x)
    (h : s.responseMatches x data = true) : ∃ t, exec (.response x data) s = .next t ∧ t.log = s.log ∧
      t.session x = { s.session x with challenge := none, privileged := true, failRun := 0, lastPriv := s.now } := by
  refine ⟨_, (response_admitted hserved hlength).next (State.objEffect_response.trans (State.writeResponse_of_match hfree h)),
    State.log_touchPrivilege _ _, ?_⟩
  rw [State.touchPrivilege_of_privileged (by simp)]
  simp [State.now]

/-- A challenge is 32 drawn bytes, and only its own session changes. -/
theorem exec_challenge_of_served (hserved : s.served = true) : ∃ t ch, exec (.challenge x) s = .next t ∧ ch.length = 32 ∧
    t.session x = { s.session x with challenge := some ch } ∧ ∀ y, y ≠ x → t.session y = s.session y := by
  refine ⟨_, (s.draw Config.freeByte 32).1, State.access_of_served hserved _, by simp [State.draw], ?_, fun y hy => ?_⟩
  · exact State.session_setSession _ x _
  · exact State.session_setSession_ne _ x _ hy

/-! ### LOCK and KEY (R255) -/

theorem State.session_endPrivileges (xs : List Session) {y : Session} (hy : y ∈ xs) :
    ((xs.foldl State.endPrivilege s).session y).privileged = false := by
  have hstays (u : State) (x : Session) (h : (u.session y).privileged = false) : ((u.endPrivilege x).session y).privileged = false := by
    by_cases hx : y = x
    · rw [hx, State.session_endPrivilege]
    · rw [State.session_endPrivilege_ne _ _ hx, h]
  have hkept (xs : List Session) : ∀ u : State, (u.session y).privileged = false →
      ((xs.foldl State.endPrivilege u).session y).privileged = false := by
    induction xs with
    | nil => exact fun _ h => h
    | cons x xs ih => exact fun u h => ih _ (hstays u x h)
  induction xs generalizing s with
  | nil => exact absurd hy (by simp)
  | cons x xs ih =>
    obtain rfl | hy := List.mem_cons.mp hy
    · exact hkept xs _ (by rw [State.session_endPrivilege])
    · exact ih hy

theorem mem_allSessions (y : Session) : y ∈ allSessions := by cases y <;> decide

theorem State.boot_endPrivileges (xs : List Session) : (xs.foldl State.endPrivilege s).boot = s.boot := by
  induction xs generalizing s with
  | nil => rfl
  | cons x xs ih => exact ih.trans rfl

theorem State.writeKey_of_admitted (hpending : s.boot.keyPending = none) (h : s.boot.key = none ∨ (s.session x).privileged = true) :
    s.writeKey x data = (allSessions.foldl State.endPrivilege
      { s with boot := { s.boot with keyPending := some (s.boot.controlProofer, data) } }, 0) := by
  refine if_neg ?_
  obtain h | h := h <;> simp [hpending, h]

theorem State.writeKey_of_refused (h : s.boot.keyPending ≠ none ∨ (s.boot.key ≠ none ∧ (s.session x).privileged = false)) :
    s.writeKey x data = (s, cDenied) := by
  refine if_pos ?_
  simpa [Option.isSome_iff_ne_none] using h

theorem exec_lock_one (hserved : s.served = true) : exec (.lock x 1) s = .next (s.endPrivilege x) := by
  rw [(lock_admitted hserved).next State.objEffect_lock, State.touchPrivilege_of_unprivileged (by simp)]

theorem exec_key_of_admitted (hserved : s.served = true) (hlength : data.length = 48) (hpending : s.boot.keyPending = none)
    (h : s.boot.key = none ∨ (s.session x).privileged = true) : ∃ t, exec (.key x data) s = .next t ∧ t.boot.key = s.boot.key ∧
      t.boot.keyPending = some (s.boot.controlProofer, data) ∧ ∀ y, (t.session y).privileged = false := by
  have hlocked {u : State} (y : Session) := u.session_endPrivileges allSessions (mem_allSessions y)
  have hexec := (key_admitted hserved hlength).next (State.objEffect_key.trans (State.writeKey_of_admitted hpending h))
  rw [State.touchPrivilege_of_unprivileged (hlocked x)] at hexec
  refine ⟨_, hexec, ?_, ?_, hlocked⟩ <;> rw [State.boot_endPrivileges]

theorem exec_keyFlashComplete_of_pending (hserved : s.served = true) {q : Nat} {k : List Byte} (h : s.boot.keyPending = some (q, k)) :
    exec .keyFlashComplete s = .next { s with boot := { s.boot with key := some k, keyPending := none } } := by
  simp [exec, execKeyFlashComplete, h, State.leavenUp_of_served hserved]

/-! ### Lockout and idle lock (R254, R255) -/

theorem State.le_now_reach (t : Nat) : t ≤ (s.reach t).now ∧ s.now ≤ (s.reach t).now := ⟨Nat.le_max_right _ _, Nat.le_max_left _ _⟩

theorem exec_lockoutExpiry_of_lockout {t : Nat} (h : (s.session x).lockoutEnd = some t) (hvaux : s.power.vaux33 = true) :
    exec (.lockoutExpiry x) s = .next ((s.reach t).setSession x { s.session x with lockoutEnd := none }) := by
  simp [exec, execLockoutExpiry, h, hvaux]

theorem exec_idleLock_of_privileged (hleaven : s.leavenUp = true) (h : (s.session x).privileged = true) : exec (.idleLock x) s =
    .next ((s.reach ((s.session x).lastPriv + 1000000000 * s.obj 0x1010 6)).endPrivilege x) := by
  simp [exec, execIdleLock, h, hleaven]

end

/-! ## O37 -/

/-- Settles O37: each command by the rule of its object; of RESPONSE, whether it is held, matches, or fails. -/
theorem sessionsGainLoseAndOutlivePrivilege : Obligations.SessionsGainLoseAndOutlivePrivilege := by
  unfold Obligations.SessionsGainLoseAndOutlivePrivilege
  refine ⟨fun x data s hserved => ?commands, fun x s => ⟨fun t hlockout hvaux => ?lockout, fun hleaven hprivileged => ?idle⟩⟩
  case commands =>
    intro e held matching failed
    have hmatching : matching ↔ s.responseMatches x data = true := State.responseMatches_iff.symm
    have hfailed {counts : Bool} (hlength : data.length = 48) (h : s.writeResponse x data = (s.failResponse x counts, cDenied)) :
        failed (e.failed counts s.now) := exec_response_of_failed hserved hlength h
    refine ⟨exec_challenge_of_served hserved, fun hlength hfree hmatch => ?admitted, fun hlength hfree hmatch => ?mismatch,
      fun hlength hheld => ?held, ?lock, fun hlength hpending h => ?key, fun hlength h => ?keyRefused, fun q k => ?flash⟩
    case admitted => exact exec_response_of_match hserved hlength hfree (hmatching.mp hmatch)
    case mismatch => exact hfailed hlength (State.writeResponse_of_mismatch hfree (hmatching.not.mp hmatch))
    case held => exact hfailed hlength (State.writeResponse_of_held hheld)
    case lock => exact ⟨_, exec_lock_one hserved, State.session_endPrivilege s x, rfl⟩
    case key => exact exec_key_of_admitted hserved hlength hpending h
    case keyRefused =>
      exact ⟨_, (key_admitted hserved hlength).next_of_failed (State.objEffect_key.trans (State.writeKey_of_refused h)) (by decide), rfl⟩
    case flash => exact exec_keyFlashComplete_of_pending hserved
  case lockout =>
    obtain ⟨hreached, hforward⟩ := s.le_now_reach t
    exact ⟨_, exec_lockoutExpiry_of_lockout hlockout hvaux, hreached, hforward, State.session_setSession _ x _,
      fun y hy => State.session_setSession_ne _ x _ hy⟩
  case idle =>
    obtain ⟨hreached, hforward⟩ := s.le_now_reach ((s.session x).lastPriv + 1000000000 * s.obj 0x1010 6)
    exact ⟨_, exec_idleLock_of_privileged hleaven hprivileged, hreached, hforward, State.session_endPrivilege _ x,
      fun y hy => State.session_endPrivilege_ne _ x hy⟩

end Sys2Proof.Machine
end

section
/-!
PROOFS. Doorbells (R264, R277) and the messages of a mailbox in both directions (R271 to R276).
-/
namespace Sys2Proof.Machine

/-! ## Doorbells (R277) -/

theorem newTarget_eq (t d : W32) : newTarget t d = if 1 ≤ (d - t).toNat ∧ (d - t).toNat ≤ 2 ^ 31 - 1 then d else t := by
  have hbound : ((d - t).toNat < 2 ^ 31) = ((d - t).toNat ≤ 2 ^ 31 - 1) := propext ⟨fun h => by omega, fun h => by omega⟩
  simp only [newTarget, hbound]

theorem exec_doorbell_of_silent {port : PortNo} {s : State} (h : s.portAnswers port.val = false) (c : CtxNo) (d : W32) :
    exec (.doorbell port c d) s = .next s := by
  simp [exec, execDoorbell, h]

section
variable {s : State} {c : Nat}

theorem State.doorbell_of_not_running (h : (s.ctx c).mode ≠ .running) (d : W32) :
    s.doorbell c d = s.setCtx c { s.ctx c with target := newTarget (s.ctx c).target d } := if_pos h

/-- In RUNNING a doorbell moves the target, ends the pause of a failed read, and wakes hearths. -/
theorem State.doorbell_of_running (h : (s.ctx c).mode = .running) (d : W32) :
    Keeps [.power, .cores] (s.setCtx c { s.ctx c with
      target := newTarget (s.ctx c).target d, pause := if (s.ctx c).pause = .hostRead then .none else (s.ctx c).pause }) (s.doorbell c d) := by
  rw [State.doorbell, if_neg (not_not.mpr h)]
  exact State.wakePart_keeps _ _ (Keeps.refl _ _) rfl

end

/-- Settles O40: outside RUNNING the doorbell is an update of the context; in RUNNING the hearths it wakes hold no context. -/
theorem doorbellsOnlyAdvanceTheTarget : Obligations.DoorbellsOnlyAdvanceTheTarget := by
  unfold Obligations.DoorbellsOnlyAdvanceTheTarget
  intro port c d s y ahead target
  have htarget : newTarget y.target d = target := newTarget_eq _ _
  refine ⟨fun hanswers hmode => ?running, fun hanswers hmode => ?still, fun hsilent => exec_doorbell_of_silent hsilent c d⟩
  case running =>
    have hwakes := State.doorbell_of_running hmode d
    rw [htarget] at hwakes
    refine ⟨_, exec_doorbell_of_answers hanswers c d, hwakes.log_eq rfl, ?_, fun j hj => ?_⟩
    · rw [hwakes.ctx_eq rfl, State.ctx_setCtx]
    · rw [hwakes.ctx_eq rfl, State.ctx_setCtx_ne _ _ hj]
  case still => rw [exec_doorbell_of_answers hanswers, State.doorbell_of_not_running hmode, htarget]

/-! ## What a mailbox's updates leave of mailboxes and log -/

theorem Keeps.mbox_eq {T : List StateField} {a s : State} (h : Keeps T a s) (hT : may T .mboxes = false) (m : Nat) :
    s.mbox m = a.mbox m := by
  rw [State.mbox, State.mbox, h.mboxes.resolve_left (by simp [hT])]

section
variable (s : State) (m j : Nat)

@[simp] theorem State.mbox_denyMbox (off : Nat) : (s.denyMbox m off).mbox j = s.mbox j := rfl

@[simp] theorem State.mbox_logMboxTimeout (ns receiver : Nat) : (s.logMboxTimeout m ns receiver).mbox j = s.mbox j := rfl

@[simp] theorem State.mbox_setPower (p : Power) : State.mbox { s with power := p } j = s.mbox j := rfl

theorem State.raiseMbox_keeps_rest : Keeps [.ports] s (s.raiseMbox m) := State.raiseMbox_keeps _ _ (Keeps.refl _ _) rfl

@[simp] theorem State.mbox_raiseMbox : (s.raiseMbox m).mbox j = s.mbox j := (s.raiseMbox_keeps_rest m).mbox_eq rfl j

theorem State.mboxEmptied_keeps_rest : Keeps [.ports] s (s.mboxEmptied m) := .ite (s.raiseMbox_keeps_rest m) (.refl _ s)

@[simp] theorem State.mbox_mboxEmptied : (s.mboxEmptied m).mbox j = s.mbox j := (s.mboxEmptied_keeps_rest m).mbox_eq rfl j

@[simp] theorem State.log_mboxEmptied : (s.mboxEmptied m).log = s.log := (s.mboxEmptied_keeps_rest m).log_eq rfl

@[simp] theorem State.time_mboxEmptied : (s.mboxEmptied m).time = s.time := (s.mboxEmptied_keeps_rest m).time.resolve_left (by decide)

@[simp] theorem State.dict_mboxEmptied : (s.mboxEmptied m).dict = s.dict := (s.mboxEmptied_keeps_rest m).dict.resolve_left (by decide)

end

/-- From s to t mailbox m becomes b, and no other mailbox changes. -/
structure MboxBecomes (m : Nat) (b : Mbox) (s t : State) : Prop where
  mbox : t.mbox m = b
  others : ∀ j, j ≠ m → t.mbox j = s.mbox j

section
variable {s t : State} {m : Nat} {b : Mbox}

theorem MboxBecomes.setMbox (s : State) (m : Nat) (b : Mbox) : MboxBecomes m b s (s.setMbox m b) :=
  ⟨s.mbox_setMbox m b, fun _ => s.mbox_setMbox_ne b⟩

/-- What leaves every mailbox as it is may follow. -/
theorem MboxBecomes.trans (h : MboxBecomes m b s t) {u : State} (hu : ∀ j, u.mbox j = t.mbox j) : MboxBecomes m b s u :=
  ⟨(hu m).trans h.mbox, fun j hj => (hu j).trans (h.others j hj)⟩

/-- What leaves every mailbox as it is may come before. -/
theorem MboxBecomes.of_same {u : State} (h : MboxBecomes m b u t) (hu : ∀ j, u.mbox j = s.mbox j) : MboxBecomes m b s t :=
  ⟨h.mbox, fun j hj => (h.others j hj).trans (hu j)⟩

theorem MboxBecomes.again {b' : Mbox} {u : State} (h : MboxBecomes m b s t) (g : MboxBecomes m b' t u) : MboxBecomes m b' s u :=
  ⟨g.mbox, fun j hj => (g.others j hj).trans (h.others j hj)⟩

end

/-! ## The host's message (R272, R273) -/

section
variable {s : State} {port : PortNo} {m : MboxNo} {v : W32}

/-- The mailbox after the interrupt enables of a CTRL write. -/
def Mbox.enables (b : Mbox) (v : W32) : Mbox := { b with irqEmpty := v.getLsbD 3, irqRx := v.getLsbD 7 }

theorem State.ctrlFlags_of_no_take (hdtake : v.getLsbD 5 = false) (hdlost : v.getLsbD 6 = false) (m : Nat) :
    s.ctrlFlags m v = s.setMbox m ((s.mbox m).enables v) := by
  simp only [State.ctrlFlags, hdtake, hdlost, Bool.false_eq_true, if_false]
  rfl

theorem State.ctrlWrite_of_go {m : Nat} (hgo : v.getLsbD 0 = true) (hdtake : v.getLsbD 5 = false) (hdlost : v.getLsbD 6 = false)
    (h : (s.mbox m).go = true) : s.ctrlWrite m v = (s.setMbox m ((s.mbox m).enables v)).denyMbox m (offCtrl m) := by
  have hstands : ((s.mbox m).enables v).go = true := h
  simp only [State.ctrlWrite, State.ctrlFlags_of_no_take hdtake hdlost, State.mbox_setMbox, hstands, hgo, if_true]

/-- A CTRL write with GO on an empty mailbox posts what the mailbox then holds. -/
theorem State.ctrlWrite_of_free {m : Nat} (hgo : v.getLsbD 0 = true) (hdtake : v.getLsbD 5 = false) (hdlost : v.getLsbD 6 = false)
    (h : (s.mbox m).go = false) : s.ctrlWrite m v =
      ((s.setMbox m ((s.mbox m).enables v)).setMbox m { (s.mbox m).enables v with len := v.toNat / 256 % 32 }).postHost m := by
  have hempty : ((s.mbox m).enables v).go = false := h
  simp only [State.ctrlWrite, State.ctrlFlags_of_no_take hdtake hdlost, State.mbox_setMbox, hempty, hgo, if_true]
  rfl

theorem State.postHost_of_fits {m : Nat} (h : 1 ≤ (s.mbox m).len ∧ (s.mbox m).len ≤ 16) : MboxBecomes m { s.mbox m with
    go := true, taken := false, timeout := false, err := 0, hostUs := s.mboxUs m, hostPost := s.now, hostLost := false } s (s.postHost m) := by
  rw [State.postHost, if_neg (by omega)]
  exact (MboxBecomes.setMbox s m _).trans fun j => State.mbox_setPower _ j _

theorem State.postHost_of_misfit {m : Nat} (h : (s.mbox m).len = 0 ∨ 16 < (s.mbox m).len) :
    s.postHost m = (s.setMbox m { s.mbox m with err := cDenied }).denyMbox m (offCtrl m) := if_pos h

theorem exec_go_of_set (h : s.portAnswers port.val = true) (hgo : v.getLsbD 0 = true) :
    exec (.go port m v) s = .next (s.ctrlWrite m.val v) := by
  rw [exec_go_of_answers h, or_one_of_getLsbD_zero hgo]

/-! ## Leaven takes the message (R273, R274) -/

theorem State.taken_becomes (m err : Nat) : MboxBecomes m { s.mbox m with go := false, taken := true, err := err } s (s.taken m err) := by
  unfold State.taken
  dsimp only
  split <;> exact ((MboxBecomes.setMbox _ m _).trans fun j => State.mbox_mboxEmptied _ m j).of_same fun _ => rfl

theorem State.log_taken_of_denied (m : Nat) : ∃ rep : Report, (s.taken m cDenied).log.waiting = s.log.waiting ++ [rep] ∧ rep.code = 0x0F := by
  refine ⟨_, congrArg Log.waiting (State.log_mboxEmptied _ m), rfl⟩

theorem State.time_taken_of_ok (m : Nat) : (s.taken m 0).time = s.time := State.time_mboxEmptied _ m

theorem State.dict_taken_of_ok (m : Nat) : (s.taken m 0).dict = s.dict := State.dict_mboxEmptied _ m

theorem State.postDevice_becomes (m : Nat) (words : List W32) : MboxBecomes m { s.mbox m with
    rx := words, dlen := words.length, dready := true, devUs := s.mboxUs m, devPost := s.now, devLost := false } s (s.postDevice m words) := by
  unfold State.postDevice
  dsimp only
  split
  · exact (MboxBecomes.setMbox s m _).trans fun j => State.mbox_raiseMbox _ m j
  · exact MboxBecomes.setMbox s m _

theorem exec_echo_of_canTake (htake : s.canTake m.val = true) (hecho : (s.mbox m.val).isEcho = true) :
    exec (.echo m) s = .next (s.echo m.val) := by
  simp [exec, execEcho, htake, hecho]

theorem exec_taken_of_canTake (htake : s.canTake m.val = true) (hecho : (s.mbox m.val).isEcho = false) :
    exec (.taken m) s = .next (s.takeMessage m.val) := by
  simp [exec, execTaken, htake, hecho]

theorem State.takeMessage_of_unheld {m : Nat} (h : (s.mbox m).seg = none) : s.takeMessage m = s.taken m cDenied := by
  simp [State.takeMessage, h]

/-- However a message is taken, GO clears and TAKEN sets. -/
theorem State.takeMessage_taken (m : Nat) : ((s.takeMessage m).mbox m).go = false ∧ ((s.takeMessage m).mbox m).taken = true := by
  have htaken : ((s.taken m cDenied).mbox m).go = false ∧ ((s.taken m cDenied).mbox m).taken = true := by
    rw [(s.taken_becomes m cDenied).mbox]
    exact ⟨rfl, rfl⟩
  unfold State.takeMessage
  dsimp only
  split
  · exact htaken
  · split
    · rw [State.mbox_mboxEmptied, State.mbox_setMbox]
      exact ⟨rfl, rfl⟩
    · exact htaken

/-! ## Timeouts and device messages (R273, R276) -/

theorem exec_mailboxTimeout_of_go (halive : s.alive = true) (h : (s.mbox m.val).go = true) :
    exec (.mailboxTimeout m) s = .next (s.expireHost m.val) := by
  simp [exec, execMailboxTimeout, halive, h]

theorem exec_deviceMessagePost_of_free {words : List W32} (hserved : s.served = true) (hfree : (s.mbox m.val).free = true)
    (hseg : (s.mbox m.val).seg = none) (hwords : words ≠ []) (hlength : words.length ≤ 16) :
    exec (.deviceMessagePost m words) s = .next (s.postDevice m.val words) := by
  simp [exec, execDeviceMessagePost, hserved, hfree, hseg, hwords, Nat.not_lt.mpr hlength]

theorem exec_dtake_of_alive (halive : s.alive = true) : exec (.dtake m) s = .next (s.takeDevice m.val) := by
  simp [exec, execDtake, halive]

theorem State.takeDevice_of_ready {m : Nat} (hready : (s.mbox m).dready = true) (hlost : (s.mbox m).devLost = false)
    (hseg : (s.mbox m).seg = none) : s.takeDevice m = s.setMbox m { s.mbox m with dready := false, dlen := 0 } := by
  simp [State.takeDevice, hready, hlost, hseg]

theorem State.takeDevice_of_nothing {m : Nat} (h : (s.mbox m).dready = false ∨ (s.mbox m).devLost = true) : s.takeDevice m = s := by
  obtain h | h := h <;> simp [State.takeDevice, h]

theorem exec_dlost_of_ready (halive : s.alive = true) (h : (s.mbox m.val).dready = true) :
    exec (.dlost m) s = .next (s.expireDevice m.val) := by
  simp [exec, execDlost, halive, h]

theorem State.expireDevice_of_unheld {m : Nat} (h : (s.mbox m).seg = none) : s.expireDevice m =
    ((s.reach ((s.mbox m).devPost + 1000 * (s.mbox m).devUs)).setMbox m { s.mbox m with
      dready := false, dlen := 0, dlost := true, devLost := false }).logMboxTimeout m (1000 * (s.mbox m).devUs) (unitPcie (m / 32)) := by
  simp [State.expireDevice, h]

end

/-! ## O50 -/

/-- Settles O50: each command by what it makes of its mailbox, and by the reports and the time that come with it. -/
theorem mailboxesCarryMessagesBothWays : Obligations.MailboxesCarryMessagesBothWays := by
  unfold Obligations.MailboxesCarryMessagesBothWays
  intro port m s b us leaves refused late
  have hleaves {i : Instr} {b' : Mbox} {t : State} (hexec : exec i s = .next t) (h : MboxBecomes m.val b' s t) : leaves i b' :=
    ⟨t, hexec, h.mbox, h.others⟩
  have hrefused {i : Instr} {b' : Mbox} {t : State} (hexec : exec i s = .next t) (h : MboxBecomes m.val b' s t)
      (hlog : ∃ rep : Report, t.log.waiting = s.log.waiting ++ [rep] ∧ rep.code = 0x0F) : refused i b' := by
    obtain ⟨rep, hwaiting, hcode⟩ := hlog
    exact ⟨t, rep, hexec, h.mbox, h.others, hwaiting, hcode⟩
  refine ⟨fun v hanswers hgo hdtake hdlost => ⟨fun hempty hlo hhi => ?post, fun hempty hlen => ?misfit, fun hstands => ?stands⟩,
    fun htake hecho hfree => ?echo, fun htake hecho hfull => ?echoRefused, fun htake hecho hseg => ?unknown, fun htake hecho => ?taken,
    fun halive hgo => ?timeout, fun words hserved hfree hseg hwords hlength => ?device, fun halive hready hlost hseg => ?dtake,
    fun halive hnothing => ?dtakeNothing, fun halive hready hseg => ?dlost⟩
  case post =>
    refine hleaves ((exec_go_of_set hanswers hgo).trans (congrArg _ (State.ctrlWrite_of_free hgo hdtake hdlost hempty))) ?_
    have hposted := State.postHost_of_fits (s := (s.setMbox m.val (b.enables v)).setMbox m.val
      { b.enables v with len := v.toNat / 256 % 32 }) (m := m.val) (by rw [State.mbox_setMbox]; exact ⟨hlo, hhi⟩)
    rw [State.mbox_setMbox] at hposted
    exact ((MboxBecomes.setMbox s m.val _).again (.setMbox _ _ _)).again hposted
  case misfit =>
    refine hrefused ((exec_go_of_set hanswers hgo).trans (congrArg _ ((State.ctrlWrite_of_free hgo hdtake hdlost hempty).trans
      (State.postHost_of_misfit (by rw [State.mbox_setMbox]; exact hlen))))) ?_ ⟨_, rfl, rfl⟩
    rw [State.mbox_setMbox]
    exact (((MboxBecomes.setMbox s m.val _).again (.setMbox _ _ _)).again (.setMbox _ _ _)).trans fun j => State.mbox_denyMbox _ _ j _
  case stands =>
    exact hrefused ((exec_go_of_set hanswers hgo).trans (congrArg _ (State.ctrlWrite_of_go hgo hdtake hdlost hstands)))
      ((MboxBecomes.setMbox s m.val _).trans fun j => State.mbox_denyMbox _ _ j _) ⟨_, rfl, rfl⟩
  case echo =>
    have htaken := s.taken_becomes m.val 0
    have hposted := (s.taken m.val 0).postDevice_becomes m.val b.message
    rw [htaken.mbox, State.mboxUs, State.obj, State.dict_taken_of_ok, State.now, State.time_taken_of_ok] at hposted
    refine hleaves ((exec_echo_of_canTake htake hecho).trans (congrArg _ (if_pos hfree))) (htaken.again hposted)
  case echoRefused =>
    exact hrefused ((exec_echo_of_canTake htake hecho).trans (congrArg _ (if_neg (Bool.eq_false_iff.mp hfull)))) (s.taken_becomes _ _)
      (State.log_taken_of_denied _)
  case unknown =>
    exact hrefused ((exec_taken_of_canTake htake hecho).trans (congrArg _ (State.takeMessage_of_unheld hseg))) (s.taken_becomes _ _)
      (State.log_taken_of_denied _)
  case taken => exact ⟨_, exec_taken_of_canTake htake hecho, State.takeMessage_taken m.val⟩
  case timeout =>
    refine ⟨_, _, exec_mailboxTimeout_of_go halive hgo, ?_, ?_, congrArg Log.waiting (State.log_mboxEmptied _ m.val), rfl, rfl⟩
    · rw [State.expireHost, State.mbox_mboxEmptied, State.mbox_logMboxTimeout, State.mbox_setMbox]
      rfl
    · rw [State.expireHost, State.now, State.time_mboxEmptied]
      exact (s.le_now_reach _).1
  case device => exact hleaves (exec_deviceMessagePost_of_free hserved hfree hseg hwords hlength) (s.postDevice_becomes m.val words)
  case dtake => rw [exec_dtake_of_alive halive, State.takeDevice_of_ready hready hlost hseg]
  case dtakeNothing => rw [exec_dtake_of_alive halive, State.takeDevice_of_nothing hnothing]
  case dlost =>
    refine ⟨_, _, (exec_dlost_of_ready halive hready).trans (congrArg _ (State.expireDevice_of_unheld hseg)), ?_, (s.le_now_reach _).1, rfl,
      rfl, rfl⟩
    rw [State.mbox_logMboxTimeout, State.mbox_setMbox]

end Sys2Proof.Machine
end

section
/-!
PROOFS. The dictionary window of a port (R256, R257, R259): what a GO starts on an idle window, how a transfer ends, and the
segments that its mailbox carries.
-/
namespace Sys2Proof.Machine

/-! ## What sending messages leaves of a port -/

/-- A port but for the messages that it sends, holds and keeps pending. -/
def PortState.unsent (f : PortState) : PortState := { f with held := [], sent := [], msixPending := [] }

/-- The registers of a window, which no message changes. -/
theorem PortState.registers_of_unsent {f g : PortState} (h : f.unsent = g.unsent) : f.busy = g.busy ∧ f.xfer = g.xfer ∧ f.code = g.code ∧
    f.done = g.done ∧ f.err = g.err ∧ f.length = g.length ∧ f.dataLo = g.dataLo ∧ f.dataHi = g.dataHi ∧ f.segTotal = g.segTotal := by
  simp only [PortState.unsent, PortState.mk.injEq] at h
  tauto

theorem Keeps.port_eq {T : List StateField} {a s : State} (h : Keeps T a s) (hT : may T .ports = false) (p : Nat) :
    s.port p = a.port p := by
  rw [State.port, State.port, h.ports.resolve_left (by simp [hT])]

section
variable (s : State) (p q : Nat)

theorem State.unsent_setPort {f : PortState} (h : f.unsent = (s.port p).unsent) : ((s.setPort p f).port q).unsent = (s.port q).unsent := by
  by_cases hq : q = p
  · rw [hq, State.port_setPort, h]
  · rw [State.port_setPort_ne _ _ hq]

theorem State.unsent_send (m : HostMsg) : ((s.send p m).port q).unsent = (s.port q).unsent := by
  unfold State.send
  dsimp only
  split <;> exact s.unsent_setPort p q rfl

theorem State.unsent_raise (v : Nat) : ((s.raise p v).port q).unsent = (s.port q).unsent := by
  unfold State.raise
  dsimp only
  split
  · split
    · rfl
    · exact s.unsent_setPort p q rfl
  · exact (State.unsent_send _ p q _).trans (s.unsent_setPort p q rfl)

end

/-! ## The end of a transfer (R256) -/

/-- In t the window of port p has ended with a code, and its LENGTH and data are those of f. -/
structure WindowEnded (t : State) (p code : Nat) (f : PortState) : Prop where
  busy : (t.port p).busy = false
  xfer : (t.port p).xfer = none
  hasCode : (t.port p).code = code
  done_of_ok : code = 0 → (t.port p).done = true
  err_of_code : code ≠ 0 → (t.port p).err = true
  length : (t.port p).length = f.length
  dataLo : (t.port p).dataLo = f.dataLo
  dataHi : (t.port p).dataHi = f.dataHi

section
variable (s : State) (p : Nat)

/-- A port whose transfer has ended with a code. -/
def PortState.ended (f : PortState) (code : Nat) : PortState := { f with
  busy := false, xfer := none, code := code, done := f.done || decide (code = 0), err := f.err || decide (code ≠ 0) }

/-- A window's transfer gives up the mailbox it holds. -/
def State.freeSegMbox : State :=
  if (s.mbox (s.port p).segMbox).seg = some p then
    s.setMbox (s.port p).segMbox { s.mbox (s.port p).segMbox with seg := none }
  else s

@[simp] theorem State.port_freeSegMbox (q : Nat) : (s.freeSegMbox p).port q = s.port q := by
  unfold State.freeSegMbox
  split <;> rfl

@[simp] theorem State.log_freeSegMbox : (s.freeSegMbox p).log = s.log := by
  unfold State.freeSegMbox
  split <;> rfl

/-- The mailbox of a window's segments is not held by it any more. -/
theorem State.seg_freeSegMbox : ((s.freeSegMbox p).mbox (s.port p).segMbox).seg ≠ some p := by
  unfold State.freeSegMbox
  split
  · rw [State.mbox_setMbox]
    exact nofun
  · assumption

theorem State.endWindow_eq (code : Nat) :
    s.endWindow p code = ((s.freeSegMbox p).setPort p ((s.port p).ended code)).raise p 2046 := by
  unfold State.endWindow State.freeSegMbox
  dsimp only
  split <;> rfl

theorem State.unsent_endWindow (code : Nat) : ((s.endWindow p code).port p).unsent = ((s.port p).ended code).unsent := by
  rw [s.endWindow_eq, State.unsent_raise, State.port_setPort]

theorem State.endWindow_ended (code : Nat) : WindowEnded (s.endWindow p code) p code (s.port p) := by
  obtain ⟨hbusy, hxfer, hcode, hdone, herr, hlength, hlo, hhi, -⟩ := PortState.registers_of_unsent (s.unsent_endWindow p code)
  exact ⟨hbusy, hxfer, hcode, fun hok => hdone.trans (by simp [PortState.ended, hok]), fun hne => herr.trans (by simp [PortState.ended, hne]),
    hlength, hlo, hhi⟩

theorem State.abortWindow_ended (code got : Nat) : WindowEnded (s.abortWindow p code got) p code (s.port p) :=
  State.endWindow_ended _ p code

/-- A read ends with its value's length and, in the data registers, its low and high words. -/
theorem State.endRead_ended (data : List Byte) : WindowEnded (s.endRead p data) p 0 { s.port p with
    length := data.length, dataLo := BitVec.ofNat 32 (fromBytes data), dataHi := BitVec.ofNat 32 (fromBytes data / 2 ^ 32) } := by
  have h := State.endWindow_ended (s.setPort p { s.port p with
    dataLo := BitVec.ofNat 32 (fromBytes data), dataHi := BitVec.ofNat 32 (fromBytes data / 2 ^ 32), length := data.length }) p 0
  rw [State.port_setPort] at h
  exact h

end

/-! ## What a GO starts (R256) -/

/-- The port after OD_CMD is written. -/
def PortState.commanded (f : PortState) (index sub op len : Nat) : PortState :=
  { f with odIndex := index, odSub := sub, odOp := op, odLen := len }

/-- The port as its transfer begins. -/
def PortState.begun (f : PortState) : PortState := { f with busy := true, length := 0 }

/-- The state in which the transfer of a GO begins. -/
def State.gone (s : State) (p index sub op len : Nat) : State :=
  (s.setPort p ((s.port p).commanded index sub op len)).setPort p ((s.port p).commanded index sub op len).begun

section
variable (s : State) (p index sub op len : Nat)

@[simp] theorem State.port_gone : (s.gone p index sub op len).port p = ((s.port p).commanded index sub op len).begun :=
  State.port_setPort _ p _

@[simp] theorem State.mbox_gone (m : Nat) : (s.gone p index sub op len).mbox m = s.mbox m := rfl

@[simp] theorem State.served_gone : (s.gone p index sub op len).served = s.served := rfl

@[simp] theorem State.isSelf_gone (node : Nat) : (s.gone p index sub op len).isSelf node = s.isSelf node := rfl

@[simp] theorem State.boot_gone : (s.gone p index sub op len).boot = s.boot := rfl

theorem State.setCmd_begun : (s.setCmd p index sub op len).setPort p
    { (s.setCmd p index sub op len).port p with busy := true, length := 0 } = s.gone p index sub op len := by
  simp only [State.setCmd, State.port_setPort]
  rfl

end

section
variable {s : State} {p index sub len : Nat}

theorem State.windowGo_of_busy (h : (s.port p).busy = true) {op : Nat} (hop : op ≠ 5) :
    s.windowGo p index sub op len = s.denyBar0 unitWindow offWindow := by
  simp [State.windowGo, h, hop]

theorem State.windowGo_abort_of_busy (h : (s.port p).busy = true) : s.windowGo p index sub 5 len = s.windowAbort p := by
  simp [State.windowGo, h]

theorem State.windowGo_abort_of_idle (h : (s.port p).busy = false) :
    s.windowGo p index sub 5 len = s.setPort p ((s.port p).commanded index sub 5 len) := by
  rw [State.windowGo, if_neg (Bool.eq_false_iff.mp h)]
  rfl

theorem State.windowGo_read_of_idle (h : (s.port p).busy = false) :
    s.windowGo p index sub 1 len = (s.gone p index sub 1 len).windowRead p := by
  rw [State.windowGo, if_neg (Bool.eq_false_iff.mp h), ← State.setCmd_begun]
  rfl

theorem State.windowGo_write_of_idle (h : (s.port p).busy = false) :
    s.windowGo p index sub 2 len = (s.gone p index sub 2 len).windowWrite p := by
  rw [State.windowGo, if_neg (Bool.eq_false_iff.mp h), ← State.setCmd_begun]
  rfl

theorem State.windowGo_segRead_of_idle (h : (s.port p).busy = false) :
    s.windowGo p index sub 3 len = (s.gone p index sub 3 len).windowSegRead p := by
  rw [State.windowGo, if_neg (Bool.eq_false_iff.mp h), ← State.setCmd_begun]
  rfl

theorem State.windowGo_segWrite_of_idle (h : (s.port p).busy = false) :
    s.windowGo p index sub 4 len = (s.gone p index sub 4 len).windowSegWrite p := by
  rw [State.windowGo, if_neg (Bool.eq_false_iff.mp h), ← State.setCmd_begun]
  rfl

end

/-! ## The commands of a port that answers, and of one that does not -/

section
variable {s : State} {port : PortNo} (index : BitVec 16) (sub : Byte) (len : BitVec 4)

/-- The GO that a command of the window writes: index, subindex, operation and length. -/
def windowCommand : Instr → Option (PortNo × Nat × Nat × Nat × Nat)
  | .read port index sub => some (port, index.toNat, sub.toNat, 1, 0)
  | .write port index sub len => some (port, index.toNat, sub.toNat, 2, len.toNat)
  | .segRead port index sub => some (port, index.toNat, sub.toNat, 3, 0)
  | .segWrite port index sub => some (port, index.toNat, sub.toNat, 4, 0)
  | .abort port => some (port, 0, 0, 5, 0)
  | _ => none

theorem exec_of_windowCommand {i : Instr} {idx sb op n : Nat} (h : windowCommand i = some (port, idx, sb, op, n)) :
    (s.portAnswers port.val = true → exec i s = .next (s.windowGo port.val idx sb op n)) ∧
    (s.portAnswers port.val = false → exec i s = .next s) := by
  have hexec : exec i s = .next (if s.portAnswers port.val then s.windowGo port.val idx sb op n else s) := by
    unfold windowCommand at h
    split at h
    all_goals cases h
    all_goals rfl
  rw [hexec]
  exact ⟨fun hanswers => by rw [if_pos hanswers], fun hsilent => by rw [if_neg (Bool.eq_false_iff.mp hsilent)]⟩

/-- The four commands that begin a transfer. -/
theorem windowCommand_of_transfer {i : Instr}
    (h : i ∈ [Instr.read port index sub, .write port index sub len, .segRead port index sub, .segWrite port index sub]) :
    ∃ idx sb op n, windowCommand i = some (port, idx, sb, op, n) ∧ op ≠ 5 := by
  simp only [List.mem_cons, List.not_mem_nil, or_false] at h
  obtain rfl | rfl | rfl | rfl := h <;> exact ⟨_, _, _, _, rfl, by decide⟩

end

/-! ## Expedited transfers -/

section
variable {s t : State} {p : Nat}

/-- ABORT of a transfer in progress. -/
theorem State.windowAbort_eq : s.windowAbort p = (s.freeSegMbox p).setPort p { s.port p with busy := false, xfer := none } := by
  rw [← s.port_freeSegMbox p p]
  rfl

theorem State.mbox_windowAbort : ((s.windowAbort p).mbox (s.port p).segMbox).seg ≠ some p := by
  rw [State.windowAbort_eq]
  exact s.seg_freeSegMbox p

end

/-- What a transfer needs of its window: the function answers, the window is idle, and Leaven serves. -/
structure WindowReady (s : State) (p : Nat) : Prop where
  answers : s.portAnswers p = true
  idle : (s.port p).busy = false
  served : s.served = true

theorem State.objRead_keeps_rest (s : State) (x : Session) (i sub : Nat) : Keeps [.sessions, .freeCtr] s (s.objRead x i sub).1 :=
  State.objRead_keeps _ _ _ _ (Keeps.refl _ _) rfl

/-- From s command i ends the window's transfer with a code and LENGTH 0. -/
def EndsEmpty (i : Instr) (s : State) (p code : Nat) : Prop :=
  ∃ t f, exec i s = .next t ∧ WindowEnded t p code f ∧ f.length = 0

section
variable {s t : State} {port : PortNo} {index : BitVec 16} {sub : Byte} {len : BitVec 4} (h : WindowReady s port.val)
include h

theorem exec_read_of_value {b : List Byte} (hself : s.isSelf (s.port port.val).odNode = true)
    (hread : (s.gone port.val index.toNat sub.toNat 1 0).objRead (portSession port.val) index.toNat sub.toNat = (t, .ok b))
    (hdomain : isDomainObj index.toNat sub.toNat = false) : exec (.read port index sub) s = .next (t.endRead port.val b) := by
  rw [(exec_of_windowCommand rfl).1 h.answers, State.windowGo_read_of_idle h.idle]
  simp [State.windowRead, h.served, hself, PortState.begun, PortState.commanded, hread, hdomain]

theorem exec_read_of_domain {b : List Byte} (hself : s.isSelf (s.port port.val).odNode = true)
    (hread : (s.gone port.val index.toNat sub.toNat 1 0).objRead (portSession port.val) index.toNat sub.toNat = (t, .ok b))
    (hdomain : isDomainObj index.toNat sub.toNat = true) : EndsEmpty (.read port index sub) s port.val cTypeMismatch := by
  refine ⟨(s.gone port.val index.toNat sub.toNat 1 0).abortWindow port.val cTypeMismatch 0, _, ?_, State.abortWindow_ended _ _ _ _,
    congrArg PortState.length (s.port_gone _ _ _ _ _)⟩
  rw [(exec_of_windowCommand rfl).1 h.answers, State.windowGo_read_of_idle h.idle]
  simp [State.windowRead, h.served, hself, PortState.begun, PortState.commanded, hread, hdomain]

theorem exec_read_of_error {c : Nat} (hself : s.isSelf (s.port port.val).odNode = true)
    (hread : (s.gone port.val index.toNat sub.toNat 1 0).objRead (portSession port.val) index.toNat sub.toNat = (t, .error c)) :
    EndsEmpty (.read port index sub) s port.val c := by
  have hkeeps := (s.gone port.val index.toNat sub.toNat 1 0).objRead_keeps_rest (portSession port.val) index.toNat sub.toNat
  rw [hread] at hkeeps
  refine ⟨t.abortWindow port.val c 0, _, ?_, State.abortWindow_ended _ _ _ _,
    congrArg PortState.length ((hkeeps.port_eq rfl _).trans (s.port_gone _ _ _ _ _))⟩
  rw [(exec_of_windowCommand rfl).1 h.answers, State.windowGo_read_of_idle h.idle]
  simp [State.windowRead, h.served, hself, PortState.begun, PortState.commanded, hread]

/-- R259: a worker refuses the window's requests for other nodes. -/
theorem exec_read_of_far (hfar : s.isSelf (s.port port.val).odNode = false) (hworker : s.boot.manager = false) :
    EndsEmpty (.read port index sub) s port.val cDenied := by
  refine ⟨(s.gone port.val index.toNat sub.toNat 1 0).abortWindow port.val cDenied 0, _, ?_, State.abortWindow_ended _ _ _ _,
    congrArg PortState.length (s.port_gone _ _ _ _ _)⟩
  rw [(exec_of_windowCommand rfl).1 h.answers, State.windowGo_read_of_idle h.idle]
  simp [State.windowRead, State.windowRemote, h.served, hfar, PortState.begun, PortState.commanded, hworker]

theorem exec_write_of_far (hfar : s.isSelf (s.port port.val).odNode = false) (hworker : s.boot.manager = false) :
    EndsEmpty (.write port index sub len) s port.val cDenied := by
  refine ⟨(s.gone port.val index.toNat sub.toNat 2 len.toNat).abortWindow port.val cDenied 0, _, ?_, State.abortWindow_ended _ _ _ _,
    congrArg PortState.length (s.port_gone _ _ _ _ _)⟩
  rw [(exec_of_windowCommand rfl).1 h.answers, State.windowGo_write_of_idle h.idle]
  simp [State.windowWrite, State.windowRemote, h.served, hfar, PortState.begun, PortState.commanded, hworker]

/-- A write of a local object ends its transfer with the code of the write. -/
theorem exec_write_ended (hself : s.isSelf (s.port port.val).odNode = true) : ∃ t f, exec (.write port index sub len) s = .next t ∧
    WindowEnded t port.val ((s.gone port.val index.toNat sub.toNat 2 len.toNat).objWrite (portSession port.val) index.toNat sub.toNat
      (((s.port port.val).data ++ List.replicate 8 0).take len.toNat)).2 f := by
  rw [(exec_of_windowCommand rfl).1 h.answers, State.windowGo_write_of_idle h.idle]
  generalize hr : (s.gone port.val index.toNat sub.toNat 2 len.toNat).objWrite (portSession port.val) index.toNat sub.toNat
    (((s.port port.val).data ++ List.replicate 8 0).take len.toNat) = r
  have hwrite : (s.gone port.val index.toNat sub.toNat 2 len.toNat).windowWrite port.val =
      if r.2 = 0 then (r.1.touchPrivilege (portSession port.val)).endWindow port.val 0
      else r.1.abortWindow port.val r.2 (((s.port port.val).data ++ List.replicate 8 0).take len.toNat).length := by
    rw [← hr, State.windowWrite, if_neg (by simp [h.served])]
    dsimp only
    rw [State.port_gone, if_neg (by simpa [PortState.begun, PortState.commanded] using hself)]
    rfl
  rw [hwrite]
  split
  case isTrue hok => rw [hok]; exact ⟨_, _, rfl, State.endWindow_ended _ _ 0⟩
  case isFalse hcode => exact ⟨_, _, rfl, State.abortWindow_ended _ _ _ _⟩

end

/-! ## Segmented transfers (R257) -/

section
variable {s : State} {p : Nat}

/-- Posting on a mailbox sends at most its vector. -/
theorem State.unsent_postDevice (s : State) (m : Nat) (words : List W32) (q : Nat) :
    ((s.postDevice m words).port q).unsent = (s.port q).unsent := by
  unfold State.postDevice
  dsimp only
  split
  · exact State.unsent_raise _ _ q _
  · rfl

/-- A port whose segmented read sends an object's bytes, its first segment posted or not. -/
def PortState.segRead (f : PortState) (data : List Byte) (posted : Bool) : PortState :=
  { f with segTotal := data.length, xfer := some (.segRead data 0 posted) }

theorem State.startSegments_of_free {data : List Byte} (hdata : data ≠ []) (hfree : (s.mbox (s.port p).segMbox).free = true) :
    s.startSegments p data = ((s.setPort p ((s.port p).segRead data false)).setPort p ((s.port p).segRead data true)).postDevice
      (s.port p).segMbox (segmentWords data 0) := by
  have hkept : ((s.setPort p ((s.port p).segRead data false)).mbox ((s.port p).segRead data false).segMbox).free = true := hfree
  have hstart : s.startSegments p data = (s.setPort p ((s.port p).segRead data false)).postSegment p := by
    simp only [State.startSegments, List.isEmpty_iff, if_neg hdata]
    rfl
  rw [hstart, State.postSegment, State.port_setPort]
  exact if_pos hkept

/-- The bytes of a read begin to go out: the port notes their number, and the first segment is posted on its free mailbox. -/
theorem State.startSegments_posts {data : List Byte} (hdata : data ≠ []) (hfree : (s.mbox (s.port p).segMbox).free = true) :
    ((s.startSegments p data).port p).unsent = ((s.port p).segRead data true).unsent ∧
    ((s.startSegments p data).mbox (s.port p).segMbox).seg = (s.mbox (s.port p).segMbox).seg ∧
    ((s.startSegments p data).mbox (s.port p).segMbox).dready = true ∧
    ((s.startSegments p data).mbox (s.port p).segMbox).rx = segmentWords data 0 := by
  have hmbox := (State.postDevice_becomes (s := (s.setPort p ((s.port p).segRead data false)).setPort p ((s.port p).segRead data true))
    (s.port p).segMbox (segmentWords data 0)).mbox
  rw [State.startSegments_of_free hdata hfree]
  refine ⟨?_, (congrArg Mbox.seg hmbox :), (congrArg Mbox.dready hmbox :), (congrArg Mbox.rx hmbox :)⟩
  rw [State.unsent_postDevice, State.port_setPort]

theorem exec_segmentGapTimeout_of_segWrite {port : PortNo} {got : List Byte} {n last : Nat} (hleaven : s.leavenUp = true)
    (h : (s.port port.val).xfer = some (.segWrite got n last)) : exec (.segmentGapTimeout port) s =
      .next (((s.reach (last + 100000000)).logMboxTimeout (s.port port.val).segMbox 100000000 unitLeaven).endWindow port.val
        cMailboxTimeout) := by
  simp only [exec, execSegmentGapTimeout, h, hleaven]
  rfl

end

/-- A window that takes its mailbox holds it. -/
theorem State.mbox_holdMbox {s : State} {p m : Nat} (hm : (s.port p).segMbox = m) :
    (s.holdMbox p).mbox m = { s.mbox m with seg := some p } := by
  rw [State.holdMbox, hm, State.mbox_setMbox]

section
variable {s t : State} {port : PortNo} {index : BitVec 16} {sub : Byte} (h : WindowReady s port.val)
  (hself : s.isSelf (s.port port.val).odNode = true) (hheld : (s.mbox (s.port port.val).segMbox).seg = none)
include h hself hheld

theorem exec_segRead_of_value {b : List Byte}
    (hread : (s.gone port.val index.toNat sub.toNat 3 0).objRead (portSession port.val) index.toNat sub.toNat = (t, .ok b)) :
    exec (.segRead port index sub) s = .next ((t.holdMbox port.val).startSegments port.val b) := by
  rw [(exec_of_windowCommand rfl).1 h.answers, State.windowGo_segRead_of_idle h.idle]
  simp [State.windowSegRead, h.served, hself, hheld, PortState.begun, PortState.commanded, hread]

theorem exec_segWrite_of_local : exec (.segWrite port index sub) s =
    .next (((s.gone port.val index.toNat sub.toNat 4 0).holdMbox port.val).setPort port.val
      { ((s.port port.val).commanded index.toNat sub.toNat 4 0).begun with xfer := some (.segWrite [] 0 s.now) }) := by
  rw [(exec_of_windowCommand rfl).1 h.answers, State.windowGo_segWrite_of_idle h.idle, State.windowSegWrite, if_neg (by simp [h.served])]
  dsimp only
  rw [State.port_gone, if_neg (by simp [hself, hheld, PortState.begun, PortState.commanded])]
  rfl

/-- A read of a local object holds its mailbox and posts its first segment there. -/
theorem exec_segRead_posts {b : List Byte} (hfree : (s.mbox (s.port port.val).segMbox).free = true) (hb : b ≠ [])
    (hread : (s.gone port.val index.toNat sub.toNat 3 0).objRead (portSession port.val) index.toNat sub.toNat = (t, .ok b)) :
    ∃ u, exec (.segRead port index sub) s = .next u ∧ (u.port port.val).busy = true ∧ (u.port port.val).segTotal = b.length ∧
      (u.mbox (s.port port.val).segMbox).seg = some port.val ∧ (u.mbox (s.port port.val).segMbox).dready = true ∧
      (u.mbox (s.port port.val).segMbox).rx = segmentWords b 0 := by
  have hkeeps := (s.gone port.val index.toNat sub.toNat 3 0).objRead_keeps_rest (portSession port.val) index.toNat sub.toNat
  rw [hread] at hkeeps
  have hport : t.port port.val = ((s.port port.val).commanded index.toNat sub.toNat 3 0).begun :=
    (hkeeps.port_eq rfl _).trans (s.port_gone _ _ _ _ _)
  have hmbox (m : Nat) : t.mbox m = s.mbox m := hkeeps.mbox_eq rfl m
  have hseg : (t.port port.val).segMbox = (s.port port.val).segMbox := (congrArg PortState.segMbox hport :)
  have hold : (t.holdMbox port.val).mbox (s.port port.val).segMbox = { s.mbox (s.port port.val).segMbox with seg := some port.val } := by
    rw [State.mbox_holdMbox hseg, hmbox]
  have hsegHeld : ((t.holdMbox port.val).port port.val).segMbox = (s.port port.val).segMbox := hseg
  obtain ⟨hunsent, hkept, hready, hrx⟩ := State.startSegments_posts (s := t.holdMbox port.val) (p := port.val) hb
    (by rw [hsegHeld, hold]; exact hfree)
  rw [hsegHeld] at hkept hready hrx
  obtain ⟨hbusy, -, -, -, -, -, -, -, htotal⟩ := PortState.registers_of_unsent hunsent
  exact ⟨_, exec_segRead_of_value h hself hheld hread, hbusy.trans (congrArg PortState.busy hport :), htotal,
    hkept.trans (congrArg Mbox.seg hold), hready, hrx⟩

end

/-! ## O51 -/

theorem State.endWindow_keeps_rest (s : State) (p code : Nat) : Keeps [.ports, .mboxes] s (s.endWindow p code) :=
  State.endWindow_keeps _ _ _ (Keeps.refl _ _) rfl

/-- Settles O51: a busy window takes ABORT alone, and of an idle one each command goes by what it starts and how that ends. -/
theorem theWindowRunsOneTransferAtATime : Obligations.TheWindowRunsOneTransferAtATime := by
  unfold Obligations.TheWindowRunsOneTransferAtATime
  intro port index sub len s p f cmds cmd gone ended
  refine ⟨fun hsilent => ⟨fun i hi => ?silent, (exec_of_windowCommand rfl).2 hsilent⟩,
    fun hanswers hbusy => ⟨fun i hi => ?busy, ?abort⟩, fun hanswers hidle => ?abortIdle,
    fun hanswers hidle hserved hself => ⟨fun b hb hexpedited => ?read, fun b hb hdomain => ?readDomain, fun c hc hread => ?readError, ?write,
      fun hheld => ⟨fun b hb hne hfree => ?segRead, ?segWrite⟩⟩,
    fun hanswers hidle hserved hfar hworker => ⟨?readFar, ?writeFar⟩, fun hleaven got n last hxfer => ?gap⟩
  case silent =>
    obtain ⟨idx, sb, op, m, hcommand, -⟩ := windowCommand_of_transfer index sub len hi
    exact (exec_of_windowCommand hcommand).2 hsilent
  case busy =>
    obtain ⟨idx, sb, op, m, hcommand, hop⟩ := windowCommand_of_transfer index sub len hi
    exact ⟨_, ((exec_of_windowCommand hcommand).1 hanswers).trans (congrArg _ (State.windowGo_of_busy hbusy hop)), rfl, rfl, rfl⟩
  case abort =>
    refine ⟨_, ((exec_of_windowCommand rfl).1 hanswers).trans (congrArg _ (State.windowGo_abort_of_busy hbusy)), ?_, ?_, State.mbox_windowAbort⟩
    · rw [State.windowAbort_eq, State.port_setPort]
    · rw [State.windowAbort_eq]
      exact s.log_freeSegMbox p
  case abortIdle => exact ((exec_of_windowCommand rfl).1 hanswers).trans (congrArg _ (State.windowGo_abort_of_idle hidle))
  case read =>
    have h := State.endRead_ended ((s.gone p index.toNat sub.toNat 1 0).objRead (portSession p) index.toNat sub.toNat).1 p b
    exact ⟨_, exec_read_of_value ⟨hanswers, hidle, hserved⟩ hself (Prod.ext rfl hb) hexpedited, h.busy, h.xfer, h.hasCode, h.done_of_ok,
      h.err_of_code, h.length, h.dataLo, h.dataHi⟩
  case readDomain =>
    obtain ⟨t, g, hexec, h, hlength⟩ := exec_read_of_domain ⟨hanswers, hidle, hserved⟩ hself (Prod.ext rfl hb) hdomain
    exact ⟨t, hexec, h.busy, h.xfer, h.hasCode, h.done_of_ok, h.err_of_code, h.length.trans hlength⟩
  case readError =>
    obtain ⟨t, g, hexec, h, hlength⟩ := exec_read_of_error ⟨hanswers, hidle, hserved⟩ hself (Prod.ext rfl hread)
    exact ⟨t, hexec, h.busy, h.xfer, h.hasCode, h.done_of_ok, h.err_of_code, h.length.trans hlength⟩
  case write =>
    obtain ⟨t, g, hexec, h⟩ := exec_write_ended (len := len) ⟨hanswers, hidle, hserved⟩ hself
    exact ⟨t, hexec, h.busy, h.xfer, h.hasCode, h.done_of_ok, h.err_of_code, trivial⟩
  case segRead => exact exec_segRead_posts ⟨hanswers, hidle, hserved⟩ hself hheld hfree hne (Prod.ext rfl hb)
  case segWrite =>
    refine ⟨_, exec_segWrite_of_local ⟨hanswers, hidle, hserved⟩ hself hheld, ?_, State.port_setPort _ _ _⟩
    have hm : ((s.gone p index.toNat sub.toNat 4 0).port p).segMbox = f.segMbox := by
      rw [State.port_gone]
      rfl
    exact congrArg Mbox.seg (State.mbox_holdMbox hm)
  case readFar =>
    obtain ⟨t, g, hexec, h, hlength⟩ := exec_read_of_far (index := index) (sub := sub) ⟨hanswers, hidle, hserved⟩ hfar hworker
    exact ⟨t, hexec, h.busy, h.xfer, h.hasCode, h.done_of_ok, h.err_of_code, h.length.trans hlength⟩
  case writeFar =>
    obtain ⟨t, g, hexec, h, -⟩ := exec_write_of_far (index := index) (sub := sub) (len := len) ⟨hanswers, hidle, hserved⟩ hfar hworker
    exact ⟨t, hexec, h.busy, h.xfer, h.hasCode, h.done_of_ok, h.err_of_code, trivial⟩
  case gap =>
    have hend := State.endWindow_ended ((s.reach (last + 100000000)).logMboxTimeout f.segMbox 100000000 unitLeaven) p cMailboxTimeout
    have hkeeps := State.endWindow_keeps_rest ((s.reach (last + 100000000)).logMboxTimeout f.segMbox 100000000 unitLeaven) p cMailboxTimeout
    refine ⟨_, _, exec_segmentGapTimeout_of_segWrite hleaven hxfer, hend.busy, hend.err_of_code (by decide), hend.hasCode, ?_,
      congrArg Log.waiting (hkeeps.log_eq rfl), rfl⟩
    rw [State.now, hkeeps.time.resolve_left (by decide)]
    exact (s.le_now_reach _).1

end Sys2Proof.Machine
end

section
/-!
PROOFS. Messages over I3C and the management lane (R258 to R260, R298, R299): what sending flits leaves unchanged, the turns in
which MCTP requests are answered, and the ends of reports, fragments and forwarded requests.
-/
namespace Sys2Proof.Machine

/-! ## Sending flits (R283, R291) -/

/-- From s to t only flits went out: nothing but the links, and the ports that transfers and messages take, has changed. -/
def OnlySends (s t : State) : Prop := ∃ links flows, t = { s with links := links, net := { s.net with flows := flows } }

theorem OnlySends.refl (s : State) : OnlySends s s := ⟨s.links, s.net.flows, rfl⟩

theorem OnlySends.of_links (s : State) (links : Table Link) : OnlySends s { s with links := links } := ⟨links, s.net.flows, rfl⟩

theorem OnlySends.trans {s t u : State} (h : OnlySends s t) (g : OnlySends t u) : OnlySends s u := by
  obtain ⟨_, _, rfl⟩ := h
  obtain ⟨links, flows, rfl⟩ := g
  exact ⟨links, flows, rfl⟩

theorem OnlySends.foldl {β : Type} {f : State → β → State} (hf : ∀ u y, OnlySends u (f u y)) (l : List β) (s : State) :
    OnlySends s (l.foldl f s) :=
  List.foldlRecOn l f (OnlySends.refl s) fun u hu y _ => hu.trans (hf u y)

section
variable (s : State)

theorem State.setLink_onlySends (p : Nat) (l : Link) : OnlySends s (s.setLink p l) := OnlySends.of_links s _

theorem State.sendOn_onlySends (p : Nat) (f : Flit) : OnlySends s (s.sendOn p f) := by
  unfold State.sendOn
  split
  · exact OnlySends.refl s
  · exact s.setLink_onlySends p _

theorem State.dropFlow_onlySends (src dst ty tag : Nat) : OnlySends s (s.dropFlow src dst ty tag) := ⟨s.links, _, rfl⟩

theorem State.keepFlow_onlySends (src dst ty tag p : Nat) : OnlySends s (s.keepFlow src dst ty tag p) := ⟨s.links, _, rfl⟩

theorem State.sendTo_onlySends (f : Flit) : OnlySends s (s.sendTo f) := by
  unfold State.sendTo
  split
  · refine OnlySends.trans ?flow (State.sendOn_onlySends _ _ _)
    split
    · exact s.keepFlow_onlySends _ _ _ _ _
    · exact s.dropFlow_onlySends _ _ _ _
  · exact OnlySends.refl s

theorem State.sendFragments_onlySends (ty cls dst tag : Nat) (bs : List Byte) : OnlySends s (s.sendFragments ty cls dst tag bs) :=
  OnlySends.foldl (fun _ _ => State.sendTo_onlySends _ _) _ _

theorem State.sendLane_onlySends (dst : Nat) (m : MctpMsg) : OnlySends s (s.sendLane dst m) := s.sendFragments_onlySends _ _ _ _ _

end

/-! ## The turns of MCTP requests (R258) -/

section
variable {s : State} {f : MctpFrame}

theorem State.flushMctp_of_waiting (h : ∀ e ∈ s.net.mctpQueue.head?, e.reply = none) : s.flushMctp = s := by
  have hnone : (s.net.mctpQueue.takeWhile fun e => e.reply.isSome) = [] ∧
      (s.net.mctpQueue.dropWhile fun e => e.reply.isSome) = s.net.mctpQueue := by
    cases hqueue : s.net.mctpQueue with
    | nil => exact ⟨rfl, rfl⟩
    | cons e rest => simp [h e (by simp [hqueue])]
  obtain ⟨hready, hrest⟩ := hnone
  rw [State.flushMctp, hready, hrest, List.filterMap_nil, List.append_nil]

theorem State.queueMctp_of_waiting {e : MctpTurn} (h : ∀ x ∈ (s.net.mctpQueue ++ [e]).head?, x.reply = none) :
    s.queueMctp e = { s with net := { s.net with mctpQueue := s.net.mctpQueue ++ [e] } } :=
  State.flushMctp_of_waiting h

/-- With no request before it, an answer goes out at once. -/
theorem State.net_answerMctp_of_first (m : MctpMsg) (code : Nat) (data : List Byte) (h : s.net.mctpQueue = []) :
    (s.answerMctp m code data).net = { s.net with mctpOut := s.net.mctpOut ++ [mctpReply m code data], mctpQueue := [] } := by
  simp [State.answerMctp, State.queueMctp, State.flushMctp, h]

/-- Behind a request that has no answer yet, an answer waits. -/
theorem State.net_answerMctp_of_waiting (m : MctpMsg) (code : Nat) (data : List Byte) {e : MctpTurn} {rest : List MctpTurn}
    (h : s.net.mctpQueue = e :: rest) (he : e.reply = none) :
    (s.answerMctp m code data).net =
      { s.net with mctpQueue := s.net.mctpQueue ++ [⟨none, some (mctpReply m code data)⟩] } := by
  rw [State.answerMctp, State.queueMctp_of_waiting (by simp [h, he])]

/-- In t the request m is answered in its turn, as seen from t'. -/
structure Answers (t' t : State) (m : MctpMsg) (code : Nat) (data : List Byte) : Prop where
  log : t.log = t'.log
  first : t'.net.mctpQueue = [] → t.net.mctpOut = t'.net.mctpOut ++ [mctpReply m code data] ∧ t.net.mctpQueue = []
  waits : ∀ e rest, t'.net.mctpQueue = e :: rest → e.reply = none → t.net.mctpOut = t'.net.mctpOut ∧
    t.net.mctpQueue = t'.net.mctpQueue ++ [⟨none, some (mctpReply m code data)⟩]

theorem State.answerMctp_answers (t' : State) (m : MctpMsg) (code : Nat) (data : List Byte) :
    Answers t' (t'.answerMctp m code data) m code data where
  log := rfl
  first hqueue := by simp [State.net_answerMctp_of_first m code data hqueue]
  waits e rest hqueue he := by simp [State.net_answerMctp_of_waiting m code data hqueue he]

/-! ## Dictionary messages over I3C (R258, R259) -/

/-- A dictionary message that Leaven takes. -/
structure Takes (s : State) (f : MctpFrame) : Prop where
  served : s.served = true
  sound : 0 ∉ s.health.proofersFailed
  addressed : s.net.i3c ≠ 0
  ours : isOurs f = true

theorem isOurs_iff (f : MctpFrame) : isOurs f = true ↔ f.mtype = 0x7F ∧ f.enterprise = Config.mctpEnterprise.toNat := by
  simp [isOurs]

theorem exec_mctp {i : Instr} (hi : i ∈ [Instr.mctpRead f, .mctpWrite f]) : exec i s = .next (s.mctp f) := by
  simp only [List.mem_cons, List.not_mem_nil, or_false] at hi
  obtain rfl | rfl := hi <;> rfl

theorem State.mctp_of_not_takes (h : ¬ Takes s f) : s.mctp f = s := by
  unfold State.mctp
  refine if_pos ?_
  by_contra hno
  simp only [Bool.not_eq_true', not_or, Bool.not_eq_false] at hno
  obtain ⟨hserved, hsound, haddressed, hours⟩ := hno
  exact h ⟨hserved, hsound, haddressed, hours⟩

theorem State.mctp_of_takes (h : Takes s f) :
    s.mctp f =
      if malformed f.body then (s.refuseMsg .mctp f.body).answerMctp f.body cDenied []
      else if s.isSelf f.body.node then
        (s.serveObject .mctp f.body).1.answerMctp f.body (s.serveObject .mctp f.body).2.1 (s.serveObject .mctp f.body).2.2
      else if s.boot.manager then (s.forward .mctp f.body).queueMctp ⟨some s.net.tag, none⟩
      else (s.refuseMsg .mctp f.body).answerMctp f.body cDenied [] := by
  refine if_neg ?_
  simp [h.served, h.sound, h.addressed, h.ours]

theorem State.mctp_of_malformed (h : Takes s f) (hbad : malformed f.body = true) :
    s.mctp f = (s.refuseMsg .mctp f.body).answerMctp f.body cDenied [] := by
  rw [State.mctp_of_takes h, if_pos hbad]

theorem State.mctp_of_worker (h : Takes s f) (hgood : malformed f.body = false) (hother : s.isSelf f.body.node = false)
    (hworker : s.boot.manager = false) : s.mctp f = (s.refuseMsg .mctp f.body).answerMctp f.body cDenied [] := by
  simp [State.mctp_of_takes h, hgood, hother, hworker]

theorem State.mctp_of_manager (h : Takes s f) (hgood : malformed f.body = false) (hother : s.isSelf f.body.node = false)
    (hmanager : s.boot.manager = true) : s.mctp f = (s.forward .mctp f.body).queueMctp ⟨some s.net.tag, none⟩ := by
  simp [State.mctp_of_takes h, hgood, hother, hmanager]

theorem State.mctp_of_served (h : Takes s f) (hgood : malformed f.body = false) (hself : s.isSelf f.body.node = true) {t : State}
    {code : Nat} {data : List Byte} (hserve : s.serveObject .mctp f.body = (t, code, data)) :
    s.mctp f = t.answerMctp f.body code data := by
  simp [State.mctp_of_takes h, hgood, hself, hserve]

end

section
variable {s : State} {x : Session} {m : MctpMsg}

theorem State.serveObject_of_read (hread : laneOp m = 1) {t : State} {b : List Byte} (h : s.odRead x m.index m.sub = (t, .ok b)) :
    s.serveObject x m = (t, 0, (b.drop m.offset).take m.length) := by
  rw [State.serveObject, if_pos (show laneOp m = cmdRead from hread), h]

theorem State.serveObject_of_readFails (hread : laneOp m = 1) {t : State} {c : Nat}
    (h : s.odRead x m.index m.sub = (t, .error c)) : s.serveObject x m = (t, c, []) := by
  rw [State.serveObject, if_pos (show laneOp m = cmdRead from hread), h]

theorem State.serveObject_of_write (hwrite : laneOp m = 2) (hwhole : m.offset = 0) :
    s.serveObject x m = ((s.odWrite x m.index m.sub m.data).1, (s.odWrite x m.index m.sub m.data).2, []) := by
  simp [State.serveObject, hwrite, hwhole, cmdRead]

theorem State.serveObject_of_piece (hwrite : laneOp m = 2) (hpiece : m.offset ≠ 0) :
    s.serveObject x m = (s.report (refusedAccess x m.index m.sub (s.writeRefused x m.index m.sub []) m.length),
      s.writeRefused x m.index m.sub [], []) := by
  simp [State.serveObject, hwrite, hpiece, cmdRead]

/-- A request that is forwarded, before its flits go out (R259). -/
def State.forwarding (s : State) (x : Session) (m : MctpMsg) : State :=
  { s with net := { s.net with
    tag := (s.net.tag + 1) % 256
    forwards := s.net.forwards ++ [⟨s.net.tag, x, s.now, m, (s.route s.net.node m.node).getD 16⟩] } }

theorem State.forward_onlySends : OnlySends (s.forwarding x m) (s.forward x m) := State.sendLane_onlySends _ _ _

/-- A forwarded MCTP request takes its turn and waits for its answer. -/
theorem State.net_forward_queued (hwaits : ∀ e ∈ s.net.mctpQueue.head?, e.reply = none) :
    let t := (s.forward .mctp m).queueMctp ⟨some s.net.tag, none⟩
    t.net.forwards = s.net.forwards ++ [⟨s.net.tag, .mctp, s.now, m, (s.route s.net.node m.node).getD 16⟩] ∧
      t.net.mctpOut = s.net.mctpOut ∧ t.net.mctpQueue = s.net.mctpQueue ++ [⟨some s.net.tag, none⟩] := by
  obtain ⟨links, flows, hforward⟩ := State.forward_onlySends (s := s) (x := .mctp) (m := m)
  rw [hforward, State.queueMctp_of_waiting]
  · exact ⟨rfl, rfl, rfl⟩
  · simp only [State.forwarding]
    cases hqueue : s.net.mctpQueue with
    | nil => simp
    | cons e rest => simpa using hwaits e (by simp [hqueue])

end

/-! ## Reports (R260, R299) -/

section
variable {s : State}

theorem State.takeReport_onlySends (node st : Nat) (m : MctpMsg) :
    OnlySends { s with net := { s.net with reports := tset (0, 0) s.net.reports node (st, s.now) } } (s.takeReport node st m) :=
  State.sendLane_onlySends _ _ _

theorem State.refuseLane_onlySends (src : Nat) (m : MctpMsg) : OnlySends (s.refuseMsg .lane m) (s.refuseLane src m) :=
  State.sendLane_onlySends _ _ _

theorem exec_report_of_manager (hserved : s.served = true) (hmanager : s.boot.manager = true) (node : BitVec 16) (d : Byte)
    (time : W64) : exec (.report node d time) s = .next (s.takeReport node.toNat d.toNat (reportMsg d.toNat time.toNat)) := by
  simp [exec, execReport, hserved, hmanager]

theorem exec_report_of_worker (hserved : s.served = true) (hworker : s.boot.manager = false) (node : BitVec 16) (d : Byte)
    (time : W64) : exec (.report node d time) s = .next (s.refuseLane node.toNat (reportMsg d.toNat time.toNat)) := by
  simp [exec, execReport, hserved, hworker]

theorem exec_reportResend_onlySends (hserved : s.served = true) (hopen : s.net.reportOpen ≠ []) :
    ∃ t, exec .reportResend s = .next t ∧ OnlySends s t :=
  ⟨_, if_neg (by simp [hserved, hopen]), OnlySends.foldl (fun _ _ => State.sendLane_onlySends _ _ _) _ _⟩

end

/-! ## What is not answered in time (R259, R298) -/

section
variable {s : State}

theorem exec_mgmtFragmentTimeout_of_lane (hleaven : s.leavenUp = true) {node : BitVec 16} {l : Lane}
    (hlane : (s.net.lanes.find? fun l => l.node = node.toNat) = some l) :
    exec (.mgmtFragmentTimeout node) s = .next { s.reach (l.firstAt + 100000) with
      net := { s.net with lanes := s.net.lanes.filter fun o => decide (o.node ≠ node.toNat) } } := by
  simp only [exec, execMgmtFragmentTimeout, hlane, hleaven]
  rfl

/-- The report of a forwarded request that is not answered (R259). -/
def State.unanswered (s : State) (w : Forward) : Report :=
  { plainReport cLinkAckTimeout (if w.port < 16 then unitFinwell w.port else unitMgmt 2) .value 0 with d0 := (s.link w.port).expected }

theorem exec_remoteTimeout_of_forward (hleaven : s.leavenUp = true) {tag : Nat} {w : Forward}
    (hforward : (s.net.forwards.find? fun w => w.tag = tag) = some w) :
    exec (.remoteTimeout tag) s =
      .next (((s.reach (w.sentAt + 2000000)).report (s.unanswered w)).endForward w cLinkAckTimeout []) := by
  simp only [exec, execRemoteTimeout, hforward, hleaven]
  rfl

theorem State.endForward_of_mctp {w : Forward} (h : w.sess = .mctp) (code : Nat) (data : List Byte) :
    s.endForward w code data =
      { s with net := { s.net with forwards := s.net.forwards.filter fun o => decide (o ≠ w) } }.fillMctp w.tag
        (mctpReply w.req code data) := by
  simp only [State.endForward, h]

theorem State.forwards_fillMctp (t : Nat) (f : MctpFrame) : (s.fillMctp t f).net.forwards = s.net.forwards := rfl

/-- The answer to the request at the front of the queue goes out alone where the next one still waits for its own. -/
theorem State.mctpOut_fillMctp_front {t : Nat} {f : MctpFrame} {rest : List MctpTurn}
    (hfront : s.net.mctpQueue = ⟨some t, none⟩ :: rest) (hnext : ∀ e ∈ rest.head?, e.reply = none ∧ e.fwd ≠ some t) :
    (s.fillMctp t f).net.mctpOut = s.net.mctpOut ++ [f] := by
  simp only [State.fillMctp, State.flushMctp, hfront]
  cases rest with
  | nil => simp
  | cons e more =>
    obtain ⟨hreply, hfwd⟩ := hnext e rfl
    simp [hreply, hfwd]

theorem exec_i3cDynamicAddress_of_some (hsound : 0 ∉ s.health.proofersFailed) (a : Byte) :
    exec (.i3cDynamicAddress (some a)) s = .next { s with net := { s.net with i3c := a.toNat } } := by
  simp [exec, execI3cDynamicAddress, hsound]

theorem exec_i3cDynamicAddress_of_none (hsound : 0 ∉ s.health.proofersFailed) :
    exec (.i3cDynamicAddress none) s = .next s.loseI3c := by
  simp [exec, execI3cDynamicAddress, hsound]

theorem State.session_loseI3c : s.loseI3c.session .mctp = (s.session .mctp).ended := State.session_setSession _ _ _

theorem State.session_loseI3c_ne {x : Session} (h : x ≠ .mctp) : s.loseI3c.session x = s.session x :=
  State.session_setSession_ne _ _ _ h

end

/-- Settles O53: a message is refused, served or forwarded, and its answer takes its turn; sending flits changes nothing but the
links and the ports that messages take. -/
theorem managementMessagesAreServedForwardedOrDropped : Obligations.ManagementMessagesAreServedForwardedOrDropped := by
  unfold Obligations.ManagementMessagesAreServedForwardedOrDropped
  intro s reply answered taken
  have htakes : ∀ f, taken f ↔ Takes s f := fun f =>
    ⟨fun ⟨hserved, hsound, haddressed, hours⟩ => ⟨hserved, hsound, haddressed, (isOurs_iff f).2 hours⟩,
      fun h => ⟨h.served, h.sound, h.addressed, (isOurs_iff f).1 h.ours⟩⟩
  have hanswered : ∀ f t' code data, s.mctp f = State.answerMctp t' f.body code data → answered f t' code data := by
    intro f t' code data hmctp i hi
    obtain ⟨hlog, hfirst, hwaits⟩ := t'.answerMctp_answers f.body code data
    exact ⟨_, (exec_mctp hi).trans (congrArg _ hmctp), hlog, hfirst, hwaits⟩
  refine ⟨?notTaken, ?takes, ?report, ?resend, ?fragment, ?remote, ?address⟩
  case notTaken =>
    intro f hnot i hi
    rw [exec_mctp hi, State.mctp_of_not_takes fun h => hnot ((htakes f).2 h)]
  case takes =>
    intro f htaken m
    have h := (htakes f).1 htaken
    refine ⟨fun hbad => ⟨_, rfl, hanswered f _ _ _ (State.mctp_of_malformed h hbad)⟩, ?self, ?worker, ?manager⟩
    case self =>
      intro hgood hself
      exact ⟨fun hread t b hobject => hanswered f _ _ _ (State.mctp_of_served h hgood hself (State.serveObject_of_read hread hobject)),
        fun hread t c hobject => hanswered f _ _ _ (State.mctp_of_served h hgood hself (State.serveObject_of_readFails hread hobject)),
        fun hwrite hwhole => hanswered f _ _ _ (State.mctp_of_served h hgood hself (State.serveObject_of_write hwrite hwhole)),
        fun hwrite hpiece => ⟨_, rfl, hanswered f _ _ _ (State.mctp_of_served h hgood hself (State.serveObject_of_piece hwrite hpiece))⟩⟩
    case worker =>
      intro hgood hother hworker
      exact ⟨_, rfl, hanswered f _ _ _ (State.mctp_of_worker h hgood hother hworker)⟩
    case manager =>
      intro hgood hother hmanager hwaits i hi
      exact ⟨_, (exec_mctp hi).trans (congrArg _ (State.mctp_of_manager h hgood hother hmanager)), State.net_forward_queued hwaits⟩
  case report =>
    intro hserved node d time
    constructor
    · intro hmanager
      obtain ⟨links, flows, htake⟩ := State.takeReport_onlySends (s := s) node.toNat d.toNat (reportMsg d.toNat time.toNat)
      exact ⟨_, (exec_report_of_manager hserved hmanager node d time).trans (congrArg _ htake), tget_tset_same _ _ _ _,
        fun n hn => tget_tset_ne _ _ hn _, rfl⟩
    · intro hworker
      obtain ⟨links, flows, hrefuse⟩ := State.refuseLane_onlySends (s := s) node.toNat (reportMsg d.toNat time.toNat)
      exact ⟨_, _, (exec_report_of_worker hserved hworker node d time).trans (congrArg _ hrefuse), rfl, rfl, rfl⟩
  case resend =>
    intro hserved hopen
    obtain ⟨t, hexec, links, flows, rfl⟩ := exec_reportResend_onlySends hserved hopen
    exact ⟨_, hexec, rfl, rfl, rfl⟩
  case fragment =>
    intro hleaven node l hlane
    refine ⟨_, exec_mgmtFragmentTimeout_of_lane hleaven hlane, (s.le_now_reach _).1, ?_, ?_, rfl⟩
    · intro x hx
      simpa using (List.mem_filter.1 hx).2
    · intro x hx
      simp [hx]
  case remote =>
    intro hleaven tag w hforward
    have hnow := (State.endForward_keeps (T := [.ports, .mboxes, .log, .links, .net])
      ((s.reach (w.sentAt + 2000000)).report (s.unanswered w)) w cLinkAckTimeout [] (Keeps.refl _ _) rfl).now
    refine ⟨_, exec_remoteTimeout_of_forward hleaven hforward, (s.le_now_reach _).1.trans hnow, ?_⟩
    intro hmctp
    rw [State.endForward_of_mctp hmctp]
    refine ⟨?_, ⟨_, rfl, rfl, rfl, fun hport => if_pos hport⟩, fun rest hfront hnext => State.mctpOut_fillMctp_front hfront hnext⟩
    rw [State.forwards_fillMctp]
    simp
  case address =>
    intro hsound
    refine ⟨exec_i3cDynamicAddress_of_some hsound, _, exec_i3cDynamicAddress_of_none hsound, rfl, rfl, ?_, ?_,
      fun x hx => State.session_loseI3c_ne hx⟩ <;> rw [State.session_loseI3c] <;> rfl

end Sys2Proof.Machine
end

section
/-!
PROOFS. A port's function resets, its power states, PERST_N and the attempts of its link (R263, R265, R270, R278, R321).
-/
namespace Sys2Proof.Machine

/-! ## A function reset (R265) -/

/-- What a function reset leaves at reset, whatever the port held. -/
theorem PortState.functionReset_quiet (f : PortState) : f.functionReset.busy = false ∧ f.functionReset.xfer = none ∧
    f.functionReset.busMaster = false ∧ f.functionReset.bar2Stack = 0 ∧ ∀ v, f.functionReset.masked v = true :=
  ⟨rfl, rfl, rfl, rfl, fun _ => rfl⟩

/-- In t the function of port p has been reset: but for the levels of PERST_N and of the link its port is at reset, its session has
ended, and other ports, the log and the memory are those of s. -/
structure FunctionWiped (s t : State) (p : Nat) : Prop where
  port : t.port p = { (s.port p).functionReset with perst := (t.port p).perst, linkUp := (t.port p).linkUp }
  privileged : (t.session (portSession p)).privileged = false
  challenge : (t.session (portSession p)).challenge = none
  others : ∀ q, q ≠ p → t.port q = s.port q
  log : t.log = s.log
  hbm : t.hbm = s.hbm

section
variable (s : State) (p : Nat)

theorem State.functionReset_eq : s.functionReset p =
    (((s.freeSegMbox p).setPort p (s.port p).functionReset).endSession (portSession p)).rollPort p := rfl

theorem State.rollPort_keeps_rest : Keeps [.ctxs] s (s.rollPort p) := State.rollPort_keeps s p (Keeps.refl _ s) rfl

theorem State.port_functionReset (q : Nat) :
    (s.functionReset p).port q = ((s.freeSegMbox p).setPort p (s.port p).functionReset).port q := by
  rw [State.functionReset_eq, (State.rollPort_keeps_rest _ p).port_eq rfl]
  rfl

@[simp] theorem State.port_functionReset_same : (s.functionReset p).port p = (s.port p).functionReset := by
  rw [State.port_functionReset, State.port_setPort]

theorem State.port_functionReset_ne {q : Nat} (h : q ≠ p) : (s.functionReset p).port q = s.port q := by
  rw [State.port_functionReset, State.port_setPort_ne _ _ h, State.port_freeSegMbox]

theorem State.session_functionReset :
    (s.functionReset p).session (portSession p) = (s.session (portSession p)).ended := by
  rw [State.functionReset_eq, State.session, (State.rollPort_keeps_rest _ p).sessions.resolve_left (by decide)]
  unfold State.freeSegMbox
  split <;> exact State.session_setSession _ _ _

theorem State.functionReset_wiped : FunctionWiped s (s.functionReset p) p where
  port := by rw [State.port_functionReset_same]
  privileged := by rw [State.session_functionReset]; rfl
  challenge := by rw [State.session_functionReset]; rfl
  others _ hq := s.port_functionReset_ne p hq
  log := (State.functionReset_keeps (T := [.ports, .mboxes, .sessions, .ctxs]) s p (Keeps.refl _ s) rfl).log_eq rfl
  hbm := (State.functionReset_keeps (T := [.ports, .mboxes, .sessions, .ctxs]) s p (Keeps.refl _ s) rfl).hbm.resolve_left (by decide)

end

/-- The levels of PERST_N and of the link may change after the reset. -/
theorem FunctionWiped.setLevels {s t : State} {p : Nat} (h : FunctionWiped s t p) (perst linkUp : Bool) :
    FunctionWiped s (t.setPort p { t.port p with perst := perst, linkUp := linkUp }) p where
  port := by rw [State.port_setPort, h.port]
  privileged := h.privileged
  challenge := h.challenge
  others q hq := (State.port_setPort_ne _ _ hq).trans (h.others q hq)
  log := h.log
  hbm := h.hbm

/-! ## What a returning function sends (R265) -/

section
variable (s : State) (p : Nat)

/-- What goes out changes nothing of the port but its messages. -/
theorem State.unsent_releaseHeld : ((s.releaseHeld p).port p).unsent = (s.port p).unsent := by
  unfold State.releaseHeld
  refine List.foldlRecOn (motive := fun u : State => (u.port p).unsent = (s.port p).unsent) _ _ (s.unsent_setPort p p rfl)
    fun u hu m _ => ?_
  cases m with
  | msix v => exact (u.unsent_raise p p v).trans hu
  | write addr bytes => exact (u.unsent_send p p _).trans hu

/-- With no message held, nothing goes out. -/
theorem State.releaseHeld_of_none (h : (s.port p).held = []) : s.releaseHeld p = s.setPort p { s.port p with held := [] } := by
  rw [State.releaseHeld, h, List.foldl_nil]

theorem State.port_releaseHeld_of_none (h : (s.port p).held = []) (q : Nat) : (s.releaseHeld p).port q = s.port q := by
  rw [State.releaseHeld_of_none _ _ h, ← h]
  by_cases hq : q = p
  · rw [hq, State.port_setPort]
  · rw [State.port_setPort_ne _ _ hq]

end

/-! ## The commands -/

section
variable {port : PortNo} {s : State}

theorem exec_functionLevelReset_of_configures (h : s.configures port.val = true) :
    exec (.functionLevelReset port) s = .next (s.functionReset port.val) := if_pos h

theorem exec_hotReset_of_configures (h : s.configures port.val = true) :
    exec (.hotReset port) s =
      .next ((s.functionReset port.val).setPort port.val { (s.functionReset port.val).port port.val with linkUp := false }) := if_pos h

theorem exec_d3hot_of_configures (h : s.configures port.val = true) :
    exec (.d3hot port) s = .next (s.setPort port.val { s.port port.val with d0 := false }) := if_pos h

theorem exec_busMasterEnable_of_configures (h : s.configures port.val = true) :
    exec (.busMasterEnable port) s = .next (s.portReturns port.val) := if_pos h

theorem exec_pcieLinkSettle_of_trains (h : s.trains port.val = true) (width gts : Nat) (flit : Bool) :
    exec (.pcieLinkSettle port width gts flit) s =
      .next (s.linkSettles port.val (decide (width = 16) && decide (gts = 64) && flit)) := if_pos h

theorem exec_perstN_low : exec (.perstN port false) s = .next ((s.functionReset port.val).setPort port.val
    { (s.functionReset port.val).port port.val with perst := false, linkUp := false }) := by
  simp [exec, execPerstN, State.perstLevel]

theorem exec_perstN_high : exec (.perstN port true) s = .next (s.setPort port.val { s.port port.val with perst := true }) := by
  simp [exec, execPerstN, State.perstLevel]

end

section
variable {s : State} {p : Nat}

/-- The state in which the function is in D0 and masters the bus, before what it held goes out. -/
def State.mastering (s : State) (p : Nat) : State :=
  (s.setPort p { s.port p with d0 := true, busMaster := true }).mapPortItems p fun i => { i with awaitsPort := false }

theorem State.portReturns_eq (s : State) (p : Nat) : s.portReturns p = (s.mastering p).releaseHeld p := rfl

theorem State.port_mastering (s : State) (p : Nat) : (s.mastering p).port p = { s.port p with d0 := true, busMaster := true } :=
  State.port_setPort _ p _

theorem State.port_mastering_ne {q : Nat} (h : q ≠ p) : (s.mastering p).port q = s.port q := State.port_setPort_ne _ _ h

/-- The port has counted an attempt that settled below. -/
def State.attemptCounted (s : State) (p : Nat) : State :=
  s.setPort p { s.port p with linkTries := (s.port p).linkTries + 1, linkUp := false }

theorem State.linkSettles_bad (s : State) (p : Nat) :
    s.linkSettles p false = if 3 ≤ (s.port p).linkTries + 1 then
      (s.attemptCounted p).unitFails (unitPcie p) (Config.linkFailureCause (unitPcie p)) else s.attemptCounted p := rfl

theorem State.linkSettles_below (h : (s.port p).linkTries < 2) : s.linkSettles p false = s.attemptCounted p := by
  rw [State.linkSettles_bad, if_neg (by omega)]

theorem PortState.levels_of_unsent {f g : PortState} (h : f.unsent = g.unsent) :
    f.d0 = g.d0 ∧ f.busMaster = g.busMaster ∧ f.linkTries = g.linkTries ∧ f.linkUp = g.linkUp := by
  simp only [PortState.unsent, PortState.mk.injEq] at h
  tauto

theorem unitClass_unitPcie (hp : p < 2) : unitClass (unitPcie p) = 8 := by
  unfold unitClass unitPcie
  split <;> omega

theorem unitIndex_unitPcie (hp : p < 2) : unitIndex (unitPcie p) = p := by
  unfold unitIndex unitPcie
  omega

theorem State.unitFaulty_pcie (s : State) (hp : p < 2) : s.unitFaulty (unitPcie p) = decide (p ∈ s.health.pcieFailed) := by
  simp [State.unitFaulty, unitClass_unitPcie hp, unitIndex_unitPcie hp]

/-- A failed port's link is down. -/
theorem State.linkUp_pcieFails (s : State) (p cause : Nat) : ((s.pcieFails p cause).port p).linkUp = false := by
  have hkeeps : Keeps [.ctxs] ((s.markFaulty (unitPcie p) cause).setPort p
      { (s.markFaulty (unitPcie p) cause).port p with linkUp := false }) (s.pcieFails p cause) := by
    refine foldl_keeps (fun t q ht => ?_) (Keeps.refl _ _)
    split
    · exact .ite (State.rollItem_keeps _ _ ht rfl) ht
    · exact ht
  rw [hkeeps.port_eq rfl, State.port_setPort]

/-- The third attempt that settles below makes the port failed. -/
theorem State.linkSettles_fails (hp : p < 2) (hsound : s.portFailed p = false) (h : 2 ≤ (s.port p).linkTries) :
    (s.linkSettles p false).unitFaulty (unitPcie p) = true ∧ ((s.linkSettles p false).port p).linkUp = false := by
  simp only [State.portFailed, Bool.or_eq_false_iff] at hsound
  obtain ⟨hpcie, -⟩ := hsound
  have hcounted : (s.attemptCounted p).unitFaulty (unitPcie p) = false := (State.unitFaulty_pcie _ hp).trans hpcie
  obtain ⟨-, -, -, -, hfails⟩ := State.unitFails_of_sound (Config.linkFailureCause (unitPcie p)) hcounted
  have hsettles : s.linkSettles p false = (s.attemptCounted p).pcieFails p (Config.linkFailureCause (unitPcie p)) := by
    rw [State.linkSettles_bad, if_pos (by omega), hfails (unitClass_unitPcie hp), unitIndex_unitPcie hp]
  rw [hsettles]
  exact ⟨(State.pcieFails_marked _ _ p (.inr (.inr (.inr (.inr (unitClass_unitPcie hp)))))).faulty, State.linkUp_pcieFails _ p _⟩

end

/-- Settles O54: a function reset leaves the port's window at reset and ends its session; what is held goes out without another change
of the port; the third attempt below x16 marks the port. -/
theorem functionsResetReturnAndFail : Obligations.FunctionsResetReturnAndFail := by
  unfold Obligations.FunctionsResetReturnAndFail
  intro port s p f wiped
  have hwiped : ∀ t, FunctionWiped s t p → wiped t := fun t h =>
    ⟨h.port, f.functionReset_quiet, h.privileged, h.challenge, h.others, h.log, h.hbm⟩
  have hreset := s.functionReset_wiped p
  refine ⟨?configures, ?trains, ?low, exec_perstN_high⟩
  case configures =>
    intro hconfigures
    refine ⟨?flr, ?hot, exec_d3hot_of_configures hconfigures, ?quiet, ?returns⟩
    case flr =>
      refine ⟨_, exec_functionLevelReset_of_configures hconfigures, hwiped _ hreset, ?_, ?_⟩ <;>
        rw [State.port_functionReset_same] <;> rfl
    case hot =>
      refine ⟨_, exec_hotReset_of_configures hconfigures, hwiped _ (hreset.setLevels _ false), ?_, ?_⟩ <;> rw [State.port_setPort]
      rw [State.port_functionReset_same]
      rfl
    case quiet =>
      intro hheld
      have hnone : ((s.mastering p).port p).held = [] := by rw [State.port_mastering]; exact hheld
      refine ⟨_, exec_busMasterEnable_of_configures hconfigures, ?_, fun q hq => ?_⟩
      · rw [State.portReturns_eq, State.port_releaseHeld_of_none _ _ hnone, State.port_mastering]
      · rw [State.portReturns_eq, State.port_releaseHeld_of_none _ _ hnone, State.port_mastering_ne hq]
    case returns =>
      have hport := (s.mastering p).unsent_releaseHeld p
      rw [State.port_mastering] at hport
      obtain ⟨hd0, hmaster, -, -⟩ := PortState.levels_of_unsent hport
      exact ⟨_, exec_busMasterEnable_of_configures hconfigures, hd0, hmaster⟩
  case trains =>
    intro htrains
    refine ⟨?quiet, ?up, ?below⟩
    case quiet =>
      intro hheld
      have hnone : ((s.setPort p { s.port p with linkTries := 0, linkUp := true }).port p).held = [] := by
        rw [State.port_setPort]; exact hheld
      refine ⟨_, exec_pcieLinkSettle_of_trains htrains 16 64 true, ?_, fun q hq => ?_⟩
      · exact (State.port_releaseHeld_of_none _ _ hnone p).trans (State.port_setPort _ _ _)
      · exact (State.port_releaseHeld_of_none _ _ hnone q).trans (State.port_setPort_ne _ _ hq)
    case up =>
      have hport := (s.setPort p { s.port p with linkTries := 0, linkUp := true }).unsent_releaseHeld p
      rw [State.port_setPort] at hport
      obtain ⟨-, -, htries, hup⟩ := PortState.levels_of_unsent hport
      exact ⟨_, exec_pcieLinkSettle_of_trains htrains 16 64 true, htries, hup⟩
    case below =>
      intro width gts flit hbelow
      have hbad : (decide (width = 16) && decide (gts = 64) && flit) = false := by
        rw [Bool.eq_false_iff]
        simpa [and_assoc] using hbelow
      have hexec := exec_pcieLinkSettle_of_trains htrains width gts flit
      rw [hbad] at hexec
      have hsound : s.portFailed p = false := by
        simp only [State.trains, Bool.and_eq_true, Bool.not_eq_true'] at htrains
        exact htrains.2
      exact ⟨fun hfew => hexec.trans (congrArg _ (State.linkSettles_below hfew)),
        fun hmany => ⟨_, hexec, State.linkSettles_fails port.isLt hsound hmany⟩⟩
  case low =>
    refine ⟨_, exec_perstN_low, hwiped _ (hreset.setLevels false false), ?_, ?_⟩ <;> rw [State.port_setPort]

end Sys2Proof.Machine
end

section
/-!
PROOFS. The link layer's receiving end (R282, R283, R285, R291): what is made of a flit that is discarded, refused or taken.
-/
namespace Sys2Proof.Machine

/-! ## Receiving a flit (R283) -/

/-- The link of p expects the flit after f, and its NAK is forgotten. -/
def State.inOrder (s : State) (p : Nat) : State :=
  s.setLink p { s.link p with expected := ((s.link p).expected + 1) % 4096, nakSent := false }

/-- A flit in order that is refused: it is acknowledged, and ACCESS_DENIED waits. -/
def State.flitRefused (s : State) (p : Nat) (f : Flit) : State :=
  ((s.inOrder p).setLink p (((s.inOrder p).link p).sendIdle false 1 (Flit.cls f))).deny (unitFinwell p) .value 0

theorem State.link_flitRefused (s : State) (p : Nat) (f : Flit) : (s.flitRefused p f).link p =
    { s.link p with expected := ((s.link p).expected + 1) % 4096, nakSent := false }.sendIdle false 1 (Flit.cls f) := by
  rw [← State.link_setLink s p { s.link p with expected := ((s.link p).expected + 1) % 4096, nakSent := false }]
  exact State.link_setLink _ p _

theorem State.waiting_flitRefused (s : State) (p : Nat) (f : Flit) : (s.flitRefused p f).log.waiting =
    s.log.waiting ++ [{ plainReport cDenied (unitFinwell p) .value 0 with time := s.now }] := rfl

/-- The state in which a taken flit acts: it was the next in order, and its acknowledgement is applied. -/
def State.flitTaken (s : State) (p : Nat) (f : Flit) : State := (s.inOrder p).applyAck p f

section
variable {s : State} {p ty : Nat} {f : Flit} {routed : Bool} {h : State → State}

theorem State.rxFlit_of_discarded (hbad : Flit.crcOk f = false ∨ (Flit.ty f ≠ 0 ∧ Flit.seq f ≠ (s.link p).expected)) :
    s.rxFlit p f = (if (s.link p).nakSent then s else s.setLink p ({ s.link p with nakSent := true }.sendIdle true 0 0), false) := by
  refine if_pos (hbad.imp ?_ id)
  simp

theorem State.rxFlit_of_inOrder (hcrc : Flit.crcOk f = true) (hty : Flit.ty f ≠ 0) (hseq : Flit.seq f = (s.link p).expected) :
    s.rxFlit p f = if 7 < Flit.ty f ∨ Flit.rsvd f ≠ 0 then (s.flitRefused p f, false)
      else (s.flitTaken p f, true) := by
  have hgood : ¬ (!Flit.crcOk f ∨ (Flit.ty f ≠ tIdle ∧ Flit.seq f ≠ (s.link p).expected)) := by simp [hcrc, hseq]
  have hbusy : ¬ Flit.ty f = tIdle := hty
  simp only [State.rxFlit, if_neg hgood, if_neg hbusy]
  rfl

theorem State.rxFlit_of_reserved (hcrc : Flit.crcOk f = true) (hty : Flit.ty f ≠ 0) (hseq : Flit.seq f = (s.link p).expected)
    (hrsvd : Flit.rsvd f ≠ 0) : s.rxFlit p f = (s.flitRefused p f, false) := by
  rw [State.rxFlit_of_inOrder hcrc hty hseq, if_pos (Or.inr hrsvd)]

theorem State.rxFlit_of_taken (hcrc : Flit.crcOk f = true) (hty : Flit.ty f ≠ 0) (hseq : Flit.seq f = (s.link p).expected)
    (hknown : Flit.ty f ≤ 7) (hrsvd : Flit.rsvd f = 0) : s.rxFlit p f = (s.flitTaken p f, true) := by
  rw [State.rxFlit_of_inOrder hcrc hty hseq, if_neg (by omega)]

theorem State.rxFlit_of_idle (hcrc : Flit.crcOk f = true) (hty : Flit.ty f = 0) (hrsvd : Flit.rsvd f = 0) :
    s.rxFlit p f = (s.applyAck p f, false) := by
  have hgood : ¬ (!Flit.crcOk f ∨ (Flit.ty f ≠ tIdle ∧ Flit.seq f ≠ (s.link p).expected)) := by simp [hcrc, hty, tIdle]
  simp only [State.rxFlit, if_neg hgood, if_pos (show Flit.ty f = tIdle from hty), if_neg (not_not.2 hrsvd)]

section
variable (hup : (s.link p).state = .up) (hheld : s.power.rst ≠ .warmHeld)
include hup hheld

theorem State.receive_of_up (hours : Flit.crcOk f = true → Flit.ty f = ty) :
    s.receive p ty routed f h = .next (if (s.rxFlit p f).2 then
      (if routed && s.relays f then (s.rxFlit p f).1.sendTo f else h (s.rxFlit p f).1).ackFlit p f else (s.rxFlit p f).1) := by
  have hopen : ¬ ((s.link p).state ≠ .up ∨ s.power.rst = .warmHeld) := by simp [hup, hheld]
  rw [State.receive, if_neg hopen, if_neg fun hc => hc.2 (hours hc.1)]

theorem State.receive_of_discarded (hours : Flit.crcOk f = true → Flit.ty f = ty)
    (hbad : Flit.crcOk f = false ∨ (Flit.ty f ≠ 0 ∧ Flit.seq f ≠ (s.link p).expected)) :
    s.receive p ty routed f h = .next (s.rxFlit p f).1 := by
  rw [State.receive_of_up hup hheld hours, State.rxFlit_of_discarded hbad]
  rfl

variable (hcrc : Flit.crcOk f = true) (hty : Flit.ty f = ty) (hnotIdle : ty ≠ 0) (hseq : Flit.seq f = (s.link p).expected)
include hcrc hty hnotIdle hseq

theorem State.receive_of_reserved (hrsvd : Flit.rsvd f ≠ 0) : s.receive p ty routed f h = .next (s.flitRefused p f) := by
  rw [State.receive_of_up hup hheld fun _ => hty, State.rxFlit_of_reserved hcrc (hty ▸ hnotIdle) hseq hrsvd]
  rfl

/-- A taken flit goes on towards another node or acts here, and is acknowledged. -/
theorem State.receive_of_taken (hknown : ty ≤ 7) (hrsvd : Flit.rsvd f = 0) : s.receive p ty routed f h =
    .next ((if routed && s.relays f then (s.flitTaken p f).sendTo f else h (s.flitTaken p f)).ackFlit p f) := by
  rw [State.receive_of_up hup hheld fun _ => hty, State.rxFlit_of_taken hcrc (hty ▸ hnotIdle) hseq (hty ▸ hknown) hrsvd]
  rfl

end
end

theorem State.relays_of_other {s : State} {f : Flit} (hdst : Flit.dst f ≠ 0xFFFF) (hnode : s.net.node ≠ 0xFFFF)
    (hother : Flit.dst f ≠ s.net.node) : s.relays f = true := by
  simp [State.relays, hdst, hnode, hother]

/-! ## The commands of received flits -/

/-- A command of a flit other than IDLE receives it; those of the routed types relay it besides. -/
theorem exec_of_flitCommand {i : Instr} {port : FwNo} {f : Flit} {ty : Nat} (hi : flitCommand i = some (port, f, ty))
    (hnotIdle : ty ≠ 0) (s : State) :
    ty ≤ 7 ∧ ∃ routed h, exec i s = s.receive port.val ty routed f h ∧ (ty ∈ [1, 2, 3, 4, 7] → routed = true) := by
  unfold flitCommand at hi
  split at hi
  case h_1 => cases hi; exact absurd rfl hnotIdle
  case h_2 => cases hi; exact ⟨by decide, true, fun s => s.acceptWrite port.val f, rfl, fun _ => rfl⟩
  case h_3 => cases hi; exact ⟨by decide, true, fun s => s.acceptEnd port.val f, rfl, fun _ => rfl⟩
  case h_4 => cases hi; exact ⟨by decide, true, fun s => s.endAcked f, rfl, fun _ => rfl⟩
  case h_5 => cases hi; exact ⟨by decide, true, fun s => if s.served then s.takeFragment f else s, rfl, fun _ => rfl⟩
  case h_6 t4 => cases hi; exact ⟨by decide, false, fun s => s.takeTime port.val f t4.toNat, rfl, by decide⟩
  case h_7 => cases hi; exact ⟨by decide, false, fun s => s.hear port.val f, rfl, by decide⟩
  case h_8 => cases hi; exact ⟨by decide, true, fun s => s.takeMapFragment f, rfl, fun _ => rfl⟩
  case h_9 => cases hi

theorem eq_idle_of_flitCommand {i : Instr} {port : FwNo} {f : Flit} (hi : flitCommand i = some (port, f, 0)) : i = .idle port f := by
  unfold flitCommand at hi
  split at hi <;> cases hi
  rfl

section
variable {s : State} {port : FwNo} {f : Flit} (hup : (s.link port.val).state = .up)
include hup

theorem exec_idle_of_damaged (hcrc : Flit.crcOk f = false) : exec (.idle port f) s = .next (s.rxFlit port.val f).1 := by
  simp [exec, execIdle, hup, hcrc]

theorem exec_idle_of_idle (hty : Flit.ty f = 0) : exec (.idle port f) s = .next (s.rxFlit port.val f).1 := by
  simp [exec, execIdle, hup, hty, tIdle]

end

/-- A flit that is damaged or out of order is discarded by the link layer. -/
theorem exec_of_discarded {i : Instr} {port : FwNo} {f : Flit} {ty : Nat} {s : State} (hi : flitCommand i = some (port, f, ty))
    (hup : (s.link port.val).state = .up) (hheld : s.power.rst ≠ .warmHeld)
    (hbad : Flit.crcOk f = false ∨ ((Flit.crcOk f = true ∧ Flit.ty f = ty) ∧ ty ≠ 0 ∧ Flit.seq f ≠ (s.link port.val).expected)) :
    exec i s = .next (if (s.link port.val).nakSent then s
      else s.setLink port.val ({ s.link port.val with nakSent := true }.sendIdle true 0 0)) := by
  have hlost : Flit.crcOk f = false ∨ (Flit.ty f ≠ 0 ∧ Flit.seq f ≠ (s.link port.val).expected) :=
    hbad.imp id fun ⟨hfine, hty, hseq⟩ => ⟨hfine.2 ▸ hty, hseq⟩
  have hours : Flit.crcOk f = true → Flit.ty f = ty := fun hcrc => hbad.elim (fun h => absurd (hcrc.symm.trans h) (by decide)) (·.1.2)
  have hrx : exec i s = .next (s.rxFlit port.val f).1 := by
    by_cases hidle : ty = 0
    · subst hidle
      rw [eq_idle_of_flitCommand hi, exec_idle_of_damaged hup (hbad.resolve_right fun h => h.2.1 rfl)]
    · obtain ⟨-, routed, h, hexec, -⟩ := exec_of_flitCommand hi hidle s
      rw [hexec, State.receive_of_discarded hup hheld hours hlost]
  rw [hrx, State.rxFlit_of_discarded hlost]

/-- Settles O55: by what the link layer makes of a flit that is discarded, refused, taken or IDLE. -/
theorem flitsAreTakenInOrderAndRelayed : Obligations.FlitsAreTakenInOrderAndRelayed := by
  unfold Obligations.FlitsAreTakenInOrderAndRelayed
  intro i port f ty s hi hup hheld p l fine next
  refine ⟨?discarded, ?reserved, ?taken, ?idle⟩
  case discarded =>
    intro hbad
    rw [exec_of_discarded hi hup hheld hbad]
    exact ⟨fun hnak => by rw [if_pos hnak], fun hnak => by rw [if_neg (by rw [hnak]; decide)]⟩
  case reserved =>
    intro ⟨hcrc, hty⟩ hnotIdle hseq hrsvd
    obtain ⟨-, routed, h, hexec, -⟩ := exec_of_flitCommand hi hnotIdle s
    rw [State.receive_of_reserved hup hheld hcrc hty hnotIdle hseq hrsvd] at hexec
    have hlink := s.link_flitRefused p f
    refine ⟨_, _, hexec, ?_, ?_, s.waiting_flitRefused p f, rfl, rfl⟩ <;> rw [hlink] <;> rfl
  case taken =>
    intro ⟨hcrc, hty⟩ hnotIdle hseq hrsvd
    obtain ⟨hknown, routed, h, hexec, hrouted⟩ := exec_of_flitCommand hi hnotIdle s
    rw [State.receive_of_taken hup hheld hcrc hty hnotIdle hseq hknown hrsvd] at hexec
    refine ⟨⟨_, hexec⟩, fun hroutes hdst hnode hother => ?_⟩
    rw [hexec, hrouted hroutes, State.relays_of_other hdst hnode hother]
    rfl
  case idle =>
    intro ⟨hcrc, hty⟩ hidle hrsvd
    subst hidle
    rw [eq_idle_of_flitCommand hi, exec_idle_of_idle hup hty, State.rxFlit_of_idle hcrc hty hrsvd]

end Sys2Proof.Machine
end

section
/-!
PROOFS. What taken flits do by their TYPE (R288, R290, R293, R294, R298, R300, R301): writes and their END, fragments of the lane and
of the map, HELLO and TIME.
-/
namespace Sys2Proof.Machine

/-! ## What an acknowledgement changes (R283) -/

/-- From s to t acknowledgements were applied: nothing but counters of the dictionary, the movers, the links and the ports that
transfers and messages take has changed. -/
def OnlyAcks (s t : State) : Prop := ∃ dict movers links flows,
  t = { s with dict := dict, movers := movers, links := links, net := { s.net with flows := flows } }

theorem OnlySends.onlyAcks {s t : State} (h : OnlySends s t) : OnlyAcks s t := by
  obtain ⟨links, flows, rfl⟩ := h
  exact ⟨s.dict, s.movers, links, flows, rfl⟩

theorem OnlyAcks.refl (s : State) : OnlyAcks s s := (OnlySends.refl s).onlyAcks

theorem OnlyAcks.trans {s t u : State} (h : OnlyAcks s t) (g : OnlyAcks t u) : OnlyAcks s u := by
  obtain ⟨_, _, _, _, rfl⟩ := h
  obtain ⟨dict, movers, links, flows, rfl⟩ := g
  exact ⟨dict, movers, links, flows, rfl⟩

theorem OnlyAcks.of_movers (s : State) (movers : Table Mover) : OnlyAcks s { s with movers := movers } :=
  ⟨s.dict, movers, s.links, s.net.flows, rfl⟩

theorem OnlyAcks.of_dict (s : State) (dict : Table Nat) : OnlyAcks s { s with dict := dict } :=
  ⟨dict, s.movers, s.links, s.net.flows, rfl⟩

section
variable (s : State)

theorem State.doneDesc_onlyAcks (m i code : Nat) : OnlyAcks s (s.doneDesc m i code) := by
  unfold State.doneDesc
  dsimp only
  split
  · exact OnlyAcks.refl s
  · exact OnlyAcks.of_movers s _

theorem State.transferAcked_onlyAcks (m i : Nat) (a : Active) : OnlyAcks s (s.transferAcked m i a) := by
  unfold State.transferAcked
  split
  · exact s.doneDesc_onlyAcks m i 0
  · exact (OnlyAcks.of_movers s _).trans ((State.dropFlow_onlySends _ _ _ _ _).trans (State.sendOn_onlySends _ _ _)).onlyAcks

theorem State.flitAcked_onlyAcks (p : Nat) (f : Flit) : OnlyAcks s (s.flitAcked p f) := by
  unfold State.flitAcked
  dsimp only
  split
  case isTrue => exact OnlyAcks.refl s
  case isFalse =>
    split
    case h_1 => exact OnlyAcks.refl s
    case h_2 q _ =>
      split
      case h_1 => exact OnlyAcks.refl s
      case h_2 i _ =>
        split
        case h_1 => exact OnlyAcks.refl s
        case h_2 a _ =>
          split
          · exact (OnlyAcks.of_movers s _).trans (State.transferAcked_onlyAcks _ _ _ _)
          · exact OnlyAcks.of_movers s _

theorem State.applyAck_onlyAcks (p : Nat) (f : Flit) : OnlyAcks s (s.applyAck p f) := by
  have hacked : ∀ (gone : List (Nat × Flit)) (u : State), OnlyAcks s u →
      OnlyAcks s (gone.foldl (fun u e => u.flitAcked p e.2) u) := fun gone u hu =>
    List.foldlRecOn gone _ hu fun v hv e _ => hv.trans (v.flitAcked_onlyAcks p e.2)
  unfold State.applyAck
  dsimp only
  refine OnlyAcks.trans (hacked _ _ ?_) (State.setLink_onlySends _ p _).onlyAcks
  split
  · exact (s.setLink_onlySends p _).onlyAcks.trans (OnlyAcks.of_dict _ _)
  · exact (s.setLink_onlySends p _).onlyAcks

variable (p : Nat) (f : Flit)

theorem State.flitTaken_onlyAcks : OnlyAcks s (s.flitTaken p f) :=
  OnlyAcks.trans (s.setLink_onlySends p _).onlyAcks (State.applyAck_onlyAcks _ p f)

@[simp] theorem State.hbm_flitTaken : (s.flitTaken p f).hbm = s.hbm := by
  obtain ⟨_, _, _, _, h⟩ := s.flitTaken_onlyAcks p f
  rw [h]

@[simp] theorem State.log_flitTaken : (s.flitTaken p f).log = s.log := by
  obtain ⟨_, _, _, _, h⟩ := s.flitTaken_onlyAcks p f
  rw [h]

@[simp] theorem State.time_flitTaken : (s.flitTaken p f).time = s.time := by
  obtain ⟨_, _, _, _, h⟩ := s.flitTaken_onlyAcks p f
  rw [h]

@[simp] theorem State.boot_flitTaken : (s.flitTaken p f).boot = s.boot := by
  obtain ⟨_, _, _, _, h⟩ := s.flitTaken_onlyAcks p f
  rw [h]

@[simp] theorem State.power_flitTaken : (s.flitTaken p f).power = s.power := by
  obtain ⟨_, _, _, _, h⟩ := s.flitTaken_onlyAcks p f
  rw [h]

theorem State.served_flitTaken : (s.flitTaken p f).served = s.served := by
  simp only [State.served, State.leavenUp, State.boot_flitTaken, State.power_flitTaken]

theorem State.net_flitTaken : ∃ flows, (s.flitTaken p f).net = { s.net with flows := flows } := by
  obtain ⟨_, _, _, flows, h⟩ := s.flitTaken_onlyAcks p f
  exact ⟨flows, by rw [h]⟩

@[simp] theorem State.refused_flitTaken : (s.flitTaken p f).net.refused = s.net.refused := by
  obtain ⟨_, h⟩ := s.net_flitTaken p f
  rw [h]

@[simp] theorem State.claims_flitTaken : (s.flitTaken p f).net.claims = s.net.claims := by
  obtain ⟨_, h⟩ := s.net_flitTaken p f
  rw [h]

@[simp] theorem State.node_flitTaken : (s.flitTaken p f).net.node = s.net.node := by
  obtain ⟨_, h⟩ := s.net_flitTaken p f
  rw [h]

end

/-! ## What sending leaves of a link -/

/-- A link but for the flits on their way over it. -/
def Link.standing (l : Link) : Link := { l with nextSeq := 0, replay := [], credits := [], sent := [], waiting := [] }

/-- From s to t every link stands as it did. -/
def SameStanding (s t : State) : Prop := ∀ q, (t.link q).standing = (s.link q).standing

theorem Link.fields_of_standing {l k : Link} (h : l.standing = k.standing) : l.state = k.state ∧ l.retraining = k.retraining ∧
    l.mapped = k.mapped := by
  simp only [Link.standing, Link.mk.injEq] at h
  tauto

theorem SameStanding.trans {s t u : State} (h : SameStanding s t) (g : SameStanding t u) : SameStanding s u :=
  fun q => (g q).trans (h q)

theorem SameStanding.of_links {s t : State} (h : t.links = s.links) : SameStanding s t :=
  fun q => by rw [State.link, h, State.link]

theorem SameStanding.foldl {β : Type} {f : State → β → State} (hf : ∀ u y, SameStanding u (f u y)) (l : List β) (s : State) :
    SameStanding s (l.foldl f s) :=
  List.foldlRecOn l f (fun _ => rfl) fun u hu y _ => hu.trans (hf u y)

theorem Link.standing_push (l : Link) (f : Flit) : (l.push f).standing = l.standing := by
  unfold Link.push
  split <;> rfl

theorem Link.standing_pump (l : Link) : l.pump.standing = l.standing :=
  List.foldlRecOn (motive := fun k : Link => k.standing = l.standing) l.order _ rfl fun k hk f _ => (k.standing_push f).trans hk

section
variable (s : State)

theorem State.setLink_standing (p : Nat) {l : Link} (h : l.standing = (s.link p).standing) : SameStanding s (s.setLink p l) := by
  intro q
  by_cases hq : q = p
  · rw [hq, State.link_setLink, h]
  · rw [State.link_setLink_ne _ _ hq]

theorem State.sendOn_standing (p : Nat) (f : Flit) : SameStanding s (s.sendOn p f) := by
  unfold State.sendOn
  split
  · exact fun _ => rfl
  · exact s.setLink_standing p (Link.standing_push _ f)

theorem State.sendTo_standing (f : Flit) : SameStanding s (s.sendTo f) := by
  unfold State.sendTo
  split
  · refine SameStanding.trans (.of_links ?_) (State.sendOn_standing _ _ _)
    split <;> rfl
  · exact fun _ => rfl

theorem State.sendFragments_standing (ty cls dst tag : Nat) (bs : List Byte) : SameStanding s (s.sendFragments ty cls dst tag bs) :=
  SameStanding.foldl (fun _ _ => State.sendTo_standing _ _) _ _

theorem State.sendMaps_standing : SameStanding s s.sendMaps := by
  unfold State.sendMaps
  split
  · exact fun _ => rfl
  · exact SameStanding.trans (.of_links (t := s.remap) rfl)
      (SameStanding.foldl (fun _ _ => State.sendFragments_standing _ _ _ _ _ _) _ _)

theorem State.sendMaps_onlySends : OnlySends (if s.boot.manager then s.remap else s) s.sendMaps := by
  unfold State.sendMaps
  cases s.boot.manager
  · exact OnlySends.refl s
  · exact OnlySends.foldl (fun _ _ => State.sendFragments_onlySends _ _ _ _ _ _) _ _

theorem State.claims_sendMaps : s.sendMaps.net.claims = s.net.claims := by
  obtain ⟨_, _, h⟩ := s.sendMaps_onlySends
  rw [h]
  cases s.boot.manager <;> rfl

end

/-! ## Writes and their END (R293, R294) -/

section
variable (s : State) (p : Nat) (f : Flit)

/-- A discarded WRITE is remembered with its source and TAG. -/
theorem State.acceptWrite_of_elsewhere {s : State} (h : inStaging (Flit.address f) (Flit.len f) = false) :
    (s.acceptWrite p f).hbm = s.hbm ∧ (Flit.src f, Flit.tag f) ∈ (s.acceptWrite p f).net.refused ∧
      (s.acceptWrite p f).log = (s.refuseFlit p f).log := by
  rw [State.acceptWrite, if_neg (by rw [h]; decide)]
  refine ⟨rfl, ?_, rfl⟩
  dsimp only
  split
  · assumption
  · exact List.mem_append_right _ (List.mem_singleton_self _)

theorem State.acceptWrite_of_inStaging {s : State} (h : inStaging (Flit.address f) (Flit.len f) = true) :
    s.acceptWrite p f = s.putBytes (Flit.address f) (Flit.data f) := if_pos h

/-- The refusals of a flit's transfer are forgotten. -/
def State.forgetRefused : State :=
  { s with net := { s.net with refused := s.net.refused.filter (· ≠ (Flit.src f, Flit.tag f)) } }

theorem State.acceptEnd_eq : s.acceptEnd p f =
    if !inStaging (Flit.address f) 64 then ((s.forgetRefused f).refuseFlit p f).ackEnd f cDenied
    else if (Flit.src f, Flit.tag f) ∈ s.net.refused then (s.forgetRefused f).ackEnd f cDenied
    else (s.putBytes (Flit.address f) ((Flit.payload f).take 64)).ackEnd f 0 := rfl

theorem State.ackEnd_onlySends (code : Nat) : OnlySends s (s.ackEnd f code) := s.sendTo_onlySends _

/-- An END outside the staging areas stores nothing, is refused, and its transfer is forgotten. -/
theorem State.acceptEnd_of_elsewhere {s : State} (h : inStaging (Flit.address f) 64 = false) :
    (s.acceptEnd p f).hbm = s.hbm ∧ (Flit.src f, Flit.tag f) ∉ (s.acceptEnd p f).net.refused ∧
      (s.acceptEnd p f).log = (s.refuseFlit p f).log := by
  obtain ⟨_, _, hacked⟩ := State.ackEnd_onlySends ((s.forgetRefused f).refuseFlit p f) f cDenied
  rw [State.acceptEnd_eq, h]
  simp only [Bool.not_false, if_true]
  rw [hacked]
  refine ⟨rfl, ?_, rfl⟩
  change _ ∉ s.net.refused.filter _
  simp

/-- END_ACK 0x00 completes the descriptor that waits for it. -/
theorem State.endAcked_of_ok {s : State} {f : Flit} {m k : Nat} (hwaits : s.awaitingEnd (Flit.tag f) = some (m, k))
    (hok : numAt (Flit.payload f) 0 1 = 0) : s.endAcked f = s.doneDesc m k 0 := by
  cases hactive : (s.mover m).active[k]? with
  | none => simp only [State.endAcked, State.doneDesc, hwaits, hactive]
  | some a => simp only [State.endAcked, State.doneDesc, hwaits, hactive, hok, if_true]

end

/-! ## Fragments (R298) -/

/-- The first of several fragments is held with the time at which it came. -/
theorem State.takeFragment_of_first {s : State} {f : Flit} (hfirst : numAt (Flit.data f) 0 1 = 0)
    (hmore : numAt (Flit.data f) 1 1 % 2 = 0) :
    (⟨Flit.src f, 1, s.now, (Flit.data f).drop 2⟩ : Lane) ∈ (s.takeFragment f).net.lanes := by
  simp [State.takeFragment, hfirst, hmore]

/-! ## HELLO (R288) -/

section
variable {s : State} {p : Nat} {f : Flit}

/-- The port after a HELLO of the far end. -/
def State.heard (s : State) (p : Nat) (f : Flit) : State :=
  s.setLink p { s.link p with
    peer := numAt (Flit.payload f) 2 2
    peerStrap := numAt (Flit.payload f) 1 1 % 16
    peerPort := numAt (Flit.payload f) 36 1 }

theorem State.hear_of_worker (hworker : s.boot.manager = false) : s.hear p f = s.heard p f := by
  simp [State.hear, State.heard, hworker]

/-- A second manager's link is held down. -/
theorem State.hear_of_managers (hmanager : s.boot.manager = true) (hrole : numAt (Flit.payload f) 0 1 = 1) :
    s.hear p f = (s.setLink p { Link.reset with sent := (s.link p).sent }).deny (unitFinwell p) .value p := by
  simp [State.hear, hmanager, hrole]

theorem State.hear_of_first (hmanager : s.boot.manager = true) (hstrap : s.boot.nodeStrap = 0) (hrole : numAt (Flit.payload f) 0 1 ≠ 1) :
    s.hear p f = (s.heard p f).mapDevice p (numAt (Flit.payload f) 1 1 % 16) (((Flit.payload f).drop 4).take 32) := by
  simp [State.hear, State.heard, hmanager, hstrap, hrole]

/-- A node number that is this device's own, or that another device has. -/
def State.NodeTaken (s : State) (n : Nat) (serial : List Byte) : Prop :=
  n = s.net.node ∨ ∃ c ∈ s.net.claims, c.1 = n ∧ c.2 ≠ serial

theorem State.nodeTaken_iff (n : Nat) (serial : List Byte) : s.NodeTaken n serial ↔
    (n = s.net.node ∨ (s.net.claims.any fun c => decide (c.1 = n) && decide (c.2 ≠ serial)) = true) := by
  simp [State.NodeTaken]

variable {strap : Nat} {serial : List Byte}

theorem State.mapDevice_of_taken (h : s.NodeTaken (s.nodeFor p strap serial) serial) :
    s.mapDevice p strap serial = s.deny (unitFinwell p) .value p := if_pos ((State.nodeTaken_iff _ _).1 h)

/-- The manager knows the device of a serial under a number. -/
def State.claim (s : State) (n : Nat) (serial : List Byte) : State :=
  { s with net := { s.net with
    claims := if s.net.claims.any (fun c => decide (c.1 = n)) then s.net.claims else s.net.claims ++ [(n, serial)] } }

theorem State.mem_claims_claim (n : Nat) : n ∈ (s.claim n serial).net.claims.map (·.1) := by
  unfold State.claim
  dsimp only
  split
  · rename_i hany
    obtain ⟨c, hc, hn⟩ := List.any_eq_true.1 hany
    exact List.mem_map.2 ⟨c, hc, of_decide_eq_true hn⟩
  · simp

theorem State.mapDevice_of_free (h : ¬ s.NodeTaken (s.nodeFor p strap serial) serial) :
    s.mapDevice p strap serial = ((s.claim (s.nodeFor p strap serial) serial).setLink p
      { s.link p with mapped := s.nodeFor p strap serial }).sendMaps := if_neg ((State.nodeTaken_iff _ _).not.1 h)

/-- A device with a free number is mapped under it. -/
theorem State.mapDevice_maps (h : ¬ s.NodeTaken (s.nodeFor p strap serial) serial) :
    ((s.mapDevice p strap serial).link p).mapped = s.nodeFor p strap serial ∧
      s.nodeFor p strap serial ∈ (s.mapDevice p strap serial).net.claims.map (·.1) := by
  rw [State.mapDevice_of_free h, State.claims_sendMaps]
  obtain ⟨-, -, hmapped⟩ := Link.fields_of_standing (State.sendMaps_standing _ p)
  rw [hmapped, State.link_setLink]
  exact ⟨rfl, State.mem_claims_claim _⟩

end

/-! ## The map and the time reach a worker (R289, R290, R300, R301) -/

section
variable (s : State)

theorem State.net_sendReport : s.sendReport.net.node = s.net.node ∧ s.sendReport.net.hasMap = s.net.hasMap := by
  unfold State.sendReport
  split
  · exact ⟨rfl, rfl⟩
  · obtain ⟨_, _, h⟩ := State.sendLane_onlySends
      { s with net := { s.net with
        reportOpen := s.net.reportOpen ++ [⟨s.net.tag, s.boot.dev.code, s.boot.stateTime⟩], tag := (s.net.tag + 1) % 256 } } 0
      ⟨cmdReport, s.net.tag % 256, 0, 0, 0, 0, 9, 0, toBytes 1 s.boot.dev.code ++ toBytes 8 s.boot.stateTime⟩
    dsimp only
    rw [h]
    exact ⟨rfl, rfl⟩

theorem State.net_enter (d : DevState) : (s.enter d).net.node = s.net.node ∧ (s.enter d).net.hasMap = s.net.hasMap := by
  unfold State.enter
  split
  · exact ⟨rfl, rfl⟩
  · have hdev : Keeps [.boot, .ports] s (s.setDev d) := State.setDev_keeps s d (Keeps.refl _ s) rfl
    rw [← hdev.net.resolve_left (by decide)]
    exact State.net_sendReport _

/-- Leaving AWAIT_MANAGER keeps the node's number and its map. -/
theorem State.net_tryReady : s.tryReady.net.node = s.net.node ∧ s.tryReady.net.hasMap = s.net.hasMap := by
  unfold State.tryReady State.becomeReady
  dsimp only
  split
  · split <;> exact State.net_enter _ _
  · exact ⟨rfl, rfl⟩

theorem State.time_tryReady : s.tryReady.time = s.time :=
  (State.tryReady_keeps (T := [.boot, .ports, .links, .net]) s (Keeps.refl _ s) rfl).time.resolve_left (by decide)

theorem State.net_recheckParent : s.recheckParent.net = s.net :=
  (State.recheckParent_keeps (T := [.time]) s (Keeps.refl _ s) rfl).net.resolve_left (by decide)

variable {s} {f : Flit}

/-- A map of one fragment is in force at once. -/
theorem State.takeMapFragment_of_whole (hworker : s.boot.manager = false) (hfirst : numAt (Flit.data f) 0 1 = 0)
    (hlast : numAt (Flit.data f) 1 1 % 2 = 1) :
    (s.takeMapFragment f).net.node = numAt ((Flit.data f).drop 2) 0 2 ∧ (s.takeMapFragment f).net.hasMap = true := by
  have htakes : ¬ (s.boot.manager ∨ (numAt (Flit.data f) 0 1 ≠ 0 ∧ numAt (Flit.data f) 0 1 ≠ s.net.mapFrag)) := by
    rw [hworker, hfirst]
    simp
  rw [State.takeMapFragment, if_neg htakes]
  dsimp only
  rw [if_pos hlast, if_pos hfirst, List.nil_append]
  obtain ⟨hnode, hmap⟩ := State.net_tryReady
    { s with net := { s.net.takeMap ((Flit.data f).drop 2) with mapFrag := 0, mapBytes := [] } }.recheckParent
  rw [hnode, hmap, State.net_recheckParent]
  exact ⟨rfl, rfl⟩

theorem State.takeTime_of_parent {p t4 : Nat} (hworker : s.boot.manager = false) (hparent : s.timeParent = some (s.peerNode p)) :
    s.takeTime p f t4 = { s with time := s.time.lock (timeOffset (numAt (Flit.payload f) 0 8) (numAt (Flit.payload f) 8 8)
      (numAt (Flit.payload f) 16 8) t4) }.tryReady := by
  rw [State.takeTime, if_pos ⟨by rw [hworker]; decide, hparent⟩]

theorem TimeBase.now_le_lock (b : TimeBase) (off : Int) : b.now ≤ (b.lock off).now := by
  unfold TimeBase.lock
  dsimp only
  split
  · exact Nat.le_refl _
  · exact Nat.le_max_left _ _

end

/-! ## A taken flit for this node -/

section
variable {port : FwNo} {f : Flit} {s : State}

/-- A flit that the link layer takes. -/
structure Taken (s : State) (p : Nat) (f : Flit) : Prop where
  up : (s.link p).state = .up
  running : s.power.rst ≠ .warmHeld
  intact : Flit.crcOk f = true
  next : Flit.seq f = (s.link p).expected
  plain : Flit.rsvd f = 0

theorem State.relays_of_mine (h : Flit.dst f = s.net.node ∨ Flit.dst f = 0xFFFF ∨ s.net.node = 0xFFFF) : s.relays f = false := by
  obtain h | h | h := h <;> simp [State.relays, h]

/-- A flit for this node acts, and is acknowledged. -/
theorem State.receive_of_mine {ty p : Nat} {routed : Bool} {h : State → State} (htaken : Taken s p f) (hty : Flit.ty f = ty)
    (hnotIdle : ty ≠ 0) (hknown : ty ≤ 7) (hmine : (routed && s.relays f) = false) :
    s.receive p ty routed f h = .next ((h (s.flitTaken p f)).ackFlit p f) := by
  rw [State.receive_of_taken htaken.up htaken.running htaken.intact hty hnotIdle htaken.next hknown htaken.plain, hmine]
  rfl

variable (htaken : Taken s port.val f)
include htaken

theorem exec_hello_of_taken (hty : Flit.ty f = 6) :
    exec (.hello port f) s = .next (((s.flitTaken port.val f).hear port.val f).ackFlit port.val f) :=
  State.receive_of_mine (h := fun s => s.hear port.val f) (routed := false) htaken hty (by decide) (by decide) rfl

theorem exec_time_of_taken (hty : Flit.ty f = 5) (t4 : W64) :
    exec (.time port f t4) s = .next (((s.flitTaken port.val f).takeTime port.val f t4.toNat).ackFlit port.val f) :=
  State.receive_of_mine (h := fun s => s.takeTime port.val f t4.toNat) (routed := false) htaken hty (by decide) (by decide) rfl

variable (hmine : s.relays f = false)
include hmine

theorem exec_writeFlit_of_taken (hty : Flit.ty f = 1) :
    exec (.writeFlit port f) s = .next (((s.flitTaken port.val f).acceptWrite port.val f).ackFlit port.val f) :=
  State.receive_of_mine (h := fun s => s.acceptWrite port.val f) htaken hty (by decide) (by decide) hmine

theorem exec_endFlit_of_taken (hty : Flit.ty f = 2) :
    exec (.endFlit port f) s = .next (((s.flitTaken port.val f).acceptEnd port.val f).ackFlit port.val f) :=
  State.receive_of_mine (h := fun s => s.acceptEnd port.val f) htaken hty (by decide) (by decide) hmine

theorem exec_endAck_of_taken (hty : Flit.ty f = 3) :
    exec (.endAck port f) s = .next (((s.flitTaken port.val f).endAcked f).ackFlit port.val f) :=
  State.receive_of_mine (h := fun s => s.endAcked f) htaken hty (by decide) (by decide) hmine

theorem exec_mgmt_of_taken (hty : Flit.ty f = 4) (hserved : s.served = true) :
    exec (.mgmt port f) s = .next (((s.flitTaken port.val f).takeFragment f).ackFlit port.val f) := by
  have hexec : exec (.mgmt port f) s = _ :=
    State.receive_of_mine (h := fun s => if s.served then s.takeFragment f else s) htaken hty (by decide) (by decide) hmine
  rw [hexec, if_pos ((s.served_flitTaken port.val f).trans hserved)]

theorem exec_nodeMap_of_taken (hty : Flit.ty f = 7) :
    exec (.nodeMap port f) s = .next (((s.flitTaken port.val f).takeMapFragment f).ackFlit port.val f) :=
  State.receive_of_mine (h := fun s => s.takeMapFragment f) htaken hty (by decide) (by decide) hmine

end

/-! ## What each command leaves -/

/-- The report of a flit whose bytes are discarded. -/
def State.discarded (s : State) (p : Nat) (f : Flit) : Report :=
  { plainReport cDenied (unitFinwell p) .hbm (Flit.address f) with time := s.now }

theorem State.waiting_refuseFlit (s : State) (p : Nat) (f : Flit) :
    ((s.flitTaken p f).refuseFlit p f).log.waiting = s.log.waiting ++ [s.discarded p f] := by
  have hlog : ((s.flitTaken p f).refuseFlit p f).log.waiting =
      (s.flitTaken p f).log.waiting ++ [(s.flitTaken p f).discarded p f] := rfl
  rw [hlog, State.log_flitTaken, State.discarded, State.now, State.time_flitTaken]
  rfl

/-- The report of a HELLO that is refused. -/
def State.helloRefused (s : State) (p : Nat) : Report := { plainReport cDenied (unitFinwell p) .value p with time := s.now }

theorem State.link_deny (s : State) (u : Nat) (k : AddrKind) (a q : Nat) : (s.deny u k a).link q = s.link q := rfl

theorem State.time_ackFlit (s : State) (p : Nat) (f : Flit) : (s.ackFlit p f).time = s.time := rfl

theorem State.log_ackFlit (s : State) (p : Nat) (f : Flit) : (s.ackFlit p f).log = s.log := rfl

/-- Whatever links a taken HELLO sets, its refusal is the one report that waits. -/
theorem State.waiting_refused {s t : State} {p : Nat} {f : Flit} (hlog : t.log = (s.flitTaken p f).log)
    (htime : t.time = (s.flitTaken p f).time) :
    (t.deny (unitFinwell p) .value p).log.waiting = s.log.waiting ++ [s.helloRefused p] := by
  have hdeny : (t.deny (unitFinwell p) .value p).log.waiting = t.log.waiting ++ [t.helloRefused p] := rfl
  rw [hdeny, hlog, State.helloRefused, State.now, htime, State.log_flitTaken, State.time_flitTaken]
  rfl

section
variable {port : FwNo} {f : Flit} {s : State} (htaken : Taken s port.val f)
include htaken

theorem exec_writeFlit_elsewhere (hmine : s.relays f = false) (hty : Flit.ty f = 1)
    (hout : inStaging (Flit.address f) (Flit.len f) = false) :
    ∃ t, exec (.writeFlit port f) s = .next t ∧ t.hbm = s.hbm ∧ (Flit.src f, Flit.tag f) ∈ t.net.refused ∧
      t.log.waiting = s.log.waiting ++ [s.discarded port.val f] := by
  obtain ⟨hhbm, hrefused, hlog⟩ := State.acceptWrite_of_elsewhere (s := s.flitTaken port.val f) port.val f hout
  refine ⟨_, exec_writeFlit_of_taken htaken hmine hty, hhbm.trans (State.hbm_flitTaken s _ f), hrefused, ?_⟩
  rw [← State.waiting_refuseFlit, ← hlog]
  rfl

theorem exec_endFlit_inStaging (hmine : s.relays f = false) (hty : Flit.ty f = 2) (hin : inStaging (Flit.address f) 64 = true) :
    exec (.endFlit port f) s = .next ((if (Flit.src f, Flit.tag f) ∈ s.net.refused then
        ((s.flitTaken port.val f).forgetRefused f).ackEnd f cDenied
      else ((s.flitTaken port.val f).putBytes (Flit.address f) ((Flit.payload f).take 64)).ackEnd f 0).ackFlit port.val f) := by
  rw [exec_endFlit_of_taken htaken hmine hty, State.acceptEnd_eq, hin, State.refused_flitTaken]
  rfl

theorem exec_endFlit_elsewhere (hmine : s.relays f = false) (hty : Flit.ty f = 2) (hout : inStaging (Flit.address f) 64 = false) :
    ∃ t, exec (.endFlit port f) s = .next t ∧ t.hbm = s.hbm ∧ (Flit.src f, Flit.tag f) ∉ t.net.refused ∧
      t.log.waiting = s.log.waiting ++ [s.discarded port.val f] := by
  obtain ⟨hhbm, hrefused, hlog⟩ := State.acceptEnd_of_elsewhere (s := s.flitTaken port.val f) port.val f hout
  refine ⟨_, exec_endFlit_of_taken htaken hmine hty, hhbm.trans (State.hbm_flitTaken s _ f), hrefused, ?_⟩
  rw [← State.waiting_refuseFlit, ← hlog]
  rfl

theorem exec_endAck_ok (hmine : s.relays f = false) (hty : Flit.ty f = 3) (hok : numAt (Flit.payload f) 0 1 = 0) {m k : Nat}
    (hwaits : (s.flitTaken port.val f).awaitingEnd (Flit.tag f) = some (m, k)) :
    exec (.endAck port f) s = .next (((s.flitTaken port.val f).doneDesc m k 0).ackFlit port.val f) := by
  rw [exec_endAck_of_taken htaken hmine hty, State.endAcked_of_ok hwaits hok]

theorem exec_mgmt_first (hmine : s.relays f = false) (hty : Flit.ty f = 4) (hserved : s.served = true)
    (hfirst : numAt (Flit.data f) 0 1 = 0) (hmore : numAt (Flit.data f) 1 1 % 2 = 0) :
    ∃ t, exec (.mgmt port f) s = .next t ∧ (⟨Flit.src f, 1, s.now, (Flit.data f).drop 2⟩ : Lane) ∈ t.net.lanes := by
  have hheld := State.takeFragment_of_first (s := s.flitTaken port.val f) hfirst hmore
  rw [State.now, State.time_flitTaken] at hheld
  exact ⟨_, exec_mgmt_of_taken htaken hmine hty hserved, hheld⟩

theorem exec_hello_worker (hty : Flit.ty f = 6) (hworker : s.boot.manager = false) :
    ∃ t, exec (.hello port f) s = .next t ∧ (t.link port.val).peer = numAt (Flit.payload f) 2 2 ∧
      (t.link port.val).peerStrap = numAt (Flit.payload f) 1 1 % 16 ∧ (t.link port.val).peerPort = numAt (Flit.payload f) 36 1 := by
  have hboot : (s.flitTaken port.val f).boot.manager = false := by rw [State.boot_flitTaken, hworker]
  refine ⟨_, exec_hello_of_taken htaken hty, ?_⟩
  rw [State.hear_of_worker hboot, State.ackFlit, State.link_setLink, State.heard, State.link_setLink]
  exact ⟨rfl, rfl, rfl⟩

theorem exec_hello_managers (hty : Flit.ty f = 6) (hmanager : s.boot.manager = true) (hrole : numAt (Flit.payload f) 0 1 = 1) :
    ∃ t, exec (.hello port f) s = .next t ∧ (t.link port.val).state = .down ∧
      t.log.waiting = s.log.waiting ++ [s.helloRefused port.val] := by
  have hboot : (s.flitTaken port.val f).boot.manager = true := by rw [State.boot_flitTaken, hmanager]
  refine ⟨_, exec_hello_of_taken htaken hty, ?_⟩
  rw [State.hear_of_managers hboot hrole, State.log_ackFlit, State.ackFlit, State.link_setLink, State.link_deny, State.link_setLink]
  exact ⟨rfl, State.waiting_refused (f := f) (by simp) (by simp)⟩

/-- The state in which the manager of board 0 maps the far end. -/
def State.introduced (s : State) (p : Nat) (f : Flit) : State := (s.flitTaken p f).heard p f

theorem exec_hello_first (hty : Flit.ty f = 6) (hmanager : s.boot.manager = true) (hstrap : s.boot.nodeStrap = 0)
    (hrole : numAt (Flit.payload f) 0 1 ≠ 1) : exec (.hello port f) s = .next (((s.introduced port.val f).mapDevice port.val
      (numAt (Flit.payload f) 1 1 % 16) (((Flit.payload f).drop 4).take 32)).ackFlit port.val f) := by
  rw [exec_hello_of_taken htaken hty, State.hear_of_first (by rw [State.boot_flitTaken, hmanager]) (by rw [State.boot_flitTaken, hstrap])
    hrole]
  rfl

theorem exec_time_parent (hty : Flit.ty f = 5) (hworker : s.boot.manager = false) (t4 : W64)
    (hparent : (s.flitTaken port.val f).timeParent = some ((s.flitTaken port.val f).peerNode port.val)) :
    ∃ t, exec (.time port f t4) s = .next t ∧ t.time = s.time.lock (timeOffset (numAt (Flit.payload f) 0 8)
      (numAt (Flit.payload f) 8 8) (numAt (Flit.payload f) 16 8) t4.toNat) := by
  refine ⟨_, exec_time_of_taken htaken hty t4, ?_⟩
  rw [State.time_ackFlit, State.takeTime_of_parent (by rw [State.boot_flitTaken, hworker]) hparent, State.time_tryReady,
    State.time_flitTaken]

end

section
variable (s : State) (p : Nat) (f : Flit) (n strap : Nat) (serial : List Byte)

theorem State.nodeTaken_introduced : (s.introduced p f).NodeTaken n serial ↔ s.NodeTaken n serial := by
  have hnode : (s.introduced p f).net.node = s.net.node := s.node_flitTaken p f
  have hclaims : (s.introduced p f).net.claims = s.net.claims := s.claims_flitTaken p f
  rw [State.NodeTaken, hnode, hclaims, State.NodeTaken]

theorem State.introduced_maps (h : ¬ s.NodeTaken ((s.introduced p f).nodeFor p strap serial) serial) :
    ((((s.introduced p f).mapDevice p strap serial).ackFlit p f).link p).mapped = (s.introduced p f).nodeFor p strap serial ∧
      (s.introduced p f).nodeFor p strap serial ∈
        (((s.introduced p f).mapDevice p strap serial).ackFlit p f).net.claims.map (·.1) := by
  obtain ⟨hmapped, hclaims⟩ := State.mapDevice_maps (mt (s.nodeTaken_introduced p f _ serial).1 h)
  refine ⟨?_, hclaims⟩
  rw [State.ackFlit, State.link_setLink]
  exact hmapped

theorem State.introduced_denied (h : s.NodeTaken ((s.introduced p f).nodeFor p strap serial) serial) :
    (((s.introduced p f).mapDevice p strap serial).ackFlit p f).net.claims = s.net.claims ∧
      (((s.introduced p f).mapDevice p strap serial).ackFlit p f).log.waiting = s.log.waiting ++ [s.helloRefused p] := by
  rw [State.mapDevice_of_taken ((s.nodeTaken_introduced p f _ serial).2 h), State.log_ackFlit]
  exact ⟨s.claims_flitTaken p f, State.waiting_refused (f := f) (by simp [State.introduced, State.heard]) (by simp [State.introduced, State.heard])⟩

end

/-- Settles O56: a taken flit for this node runs its type's effect on the state in which its acknowledgement is applied, which
changes nothing that the effects look at. -/
theorem takenFlitsActByTheirType : Obligations.TakenFlitsActByTheirType := by
  unfold Obligations.TakenFlitsActByTheirType
  intro port f s hup hheld hcrc hseq hrsvd p l r mine key a
  have htaken : Taken s port.val f := ⟨hup, hheld, hcrc, hseq, hrsvd⟩
  have hhere : mine → s.relays f = false := State.relays_of_mine
  refine ⟨?write, ?stored, ?endElsewhere, ?endAck, ?fragment, ?worker, ?managers, ?maps, ?map, ?time⟩
  case write =>
    intro hty hmine
    refine ⟨fun hin => ?_, fun hout => ?_⟩
    · exact (exec_writeFlit_of_taken htaken (hhere hmine) hty).trans (by rw [State.acceptWrite_of_inStaging _ _ hin]; rfl)
    · obtain ⟨t, hexec, hhbm, hrefused, hlog⟩ := exec_writeFlit_elsewhere htaken (hhere hmine) hty hout
      exact ⟨t, _, hexec, hhbm, hrefused, hlog, rfl, rfl, rfl⟩
  case stored =>
    intro hty hmine hin
    have hexec := exec_endFlit_inStaging htaken (hhere hmine) hty hin
    refine ⟨fun hnew => hexec.trans ?_, fun hold => hexec.trans ?_⟩
    · rw [if_neg hnew]
      rfl
    · rw [if_pos hold, State.forgetRefused, State.refused_flitTaken]
      rfl
  case endElsewhere =>
    intro hty hmine hout
    obtain ⟨t, hexec, hhbm, hrefused, hlog⟩ := exec_endFlit_elsewhere htaken (hhere hmine) hty hout
    exact ⟨t, _, hexec, hhbm, hrefused, hlog, rfl, rfl, rfl⟩
  case endAck =>
    intro hty hmine hok m k hwaits
    exact exec_endAck_ok htaken (hhere hmine) hty hok hwaits
  case fragment => exact fun hty hmine hserved => exec_mgmt_first htaken (hhere hmine) hty hserved
  case worker => exact exec_hello_worker htaken
  case managers =>
    intro hty hmanager hrole
    obtain ⟨t, hexec, hdown, hlog⟩ := exec_hello_managers htaken hty hmanager hrole
    exact ⟨t, _, hexec, hdown, hlog, rfl, rfl, rfl⟩
  case maps =>
    intro hty hmanager hstrap hrole strap serial u n taken
    refine ⟨_, exec_hello_first htaken hty hmanager hstrap hrole, s.introduced_maps p f strap serial, fun hclash => ?_⟩
    obtain ⟨hclaims, hlog⟩ := s.introduced_denied p f strap serial hclash
    exact ⟨_, hclaims, hlog, rfl, rfl⟩
  case map =>
    intro hty hmine hworker hfirst hlast
    have hboot : (s.flitTaken p f).boot.manager = false := by rw [State.boot_flitTaken, hworker]
    exact ⟨_, exec_nodeMap_of_taken htaken (hhere hmine) hty, State.takeMapFragment_of_whole hboot hfirst hlast⟩
  case time =>
    intro hty hworker t4 hparent
    obtain ⟨t, hexec, htime⟩ := exec_time_parent htaken hty hworker t4 hparent
    refine ⟨t, hexec, ?_, ?_, ?_, ?_⟩
    case refine_3 => rw [State.now, State.now, htime]; exact TimeBase.now_le_lock _ _
    all_goals rw [htime]; rfl

end Sys2Proof.Machine
end

section
/-!
PROOFS. Links that train, retrain and fail, the power of their groups, and the manager's PPS (R281, R284, R285, R300, R319, R320).
-/
namespace Sys2Proof.Machine

/-! ## The failure of a Finwell port (R284) -/

section
variable {p : Nat}

theorem unitClass_unitFinwell (hp : p < 16) : unitClass (unitFinwell p) = 9 := by
  unfold unitClass unitFinwell
  split <;> omega

theorem unitIndex_unitFinwell (hp : p < 16) : unitIndex (unitFinwell p) = p := by
  unfold unitIndex unitFinwell
  omega

variable (s : State)

theorem State.unitFaulty_finwell (hp : p < 16) : s.unitFaulty (unitFinwell p) = decide (p ∈ s.health.finwellFailed) := by
  simp [State.unitFaulty, unitClass_unitFinwell hp, unitIndex_unitFinwell hp]

theorem State.unitFaulty_setFaulty_finwell (hp : p < 16) : (s.setFaulty (unitFinwell p) true).unitFaulty (unitFinwell p) = true := by
  simp [State.setFaulty, State.unitFaulty_finwell _ hp, unitClass_unitFinwell hp, unitIndex_unitFinwell hp, setMember]

theorem State.mem_finwellFailed_markFaulty (hp : p < 16) (cause : Nat) :
    p ∈ (s.markFaulty (unitFinwell p) cause).health.finwellFailed := by
  have hnoted : ((s.setFaulty (unitFinwell p) true).noteCause (unitFinwell p) cause).unitFaulty (unitFinwell p) = true :=
    ((State.noteCause_sameRecord _ _ cause).faulty _).trans (s.unitFaulty_setFaulty_finwell hp)
  have hmarked : (((s.setFaulty (unitFinwell p) true).noteCause (unitFinwell p) cause).persist (unitFinwell p) cause).unitFaulty
      (unitFinwell p) = true := (State.unitFaulty_congr (State.health_persist _ _ cause) _).trans hnoted
  rw [State.unitFaulty_finwell _ hp] at hmarked
  exact of_decide_eq_true hmarked

theorem State.portsChanged_standing : SameStanding s s.portsChanged :=
  s.sendMaps_standing.trans (.of_links
    ((State.recheckParent_keeps (T := [.time]) s.sendMaps (Keeps.refl _ _) rfl).links.resolve_left (by decide)))

/-- The state in which a port is marked and its link is FAILED, before the other nodes learn of it. -/
def State.finwellMarked (p cause : Nat) : State :=
  (s.markFaulty (unitFinwell p) cause).setLink p
    { Link.reset with state := .failed, sent := (s.link p).sent }

theorem State.finwellFails_keeps_rest (p cause : Nat) : Keeps [.ctxs] (s.finwellMarked p cause).portsChanged (s.finwellFails p cause) := by
  refine foldl_keeps (fun t q ht => ?_) (Keeps.refl _ _)
  split
  · exact .ite (State.rollItem_keeps _ _ ht rfl) ht
  · exact ht

/-- A port that fails is marked, and its link is FAILED. -/
theorem State.finwellFails_failed (hp : p < 16) (cause : Nat) :
    ((s.finwellFails p cause).link p).state = .failed ∧ p ∈ (s.finwellFails p cause).health.finwellFailed := by
  have hrolls := s.finwellFails_keeps_rest p cause
  have hports : Keeps [.time, .links, .net] (s.finwellMarked p cause) (s.finwellMarked p cause).portsChanged :=
    State.recheckParent_keeps _ (State.sendMaps_keeps _ (Keeps.refl _ _) rfl) rfl
  constructor
  · obtain ⟨hstate, -, -⟩ := Link.fields_of_standing ((State.portsChanged_standing _).trans
      (.of_links (hrolls.links.resolve_left (by decide))) p)
    rw [hstate, State.finwellMarked, State.link_setLink]
  · rw [hrolls.health.resolve_left (by decide), hports.health.resolve_left (by decide)]
    exact s.mem_finwellFailed_markFaulty hp cause

variable {s}

theorem State.unitFails_finwell (hp : p < 16) (hsound : p ∉ s.health.finwellFailed) (cause : Nat) :
    ((s.unitFails (unitFinwell p) cause).link p).state = .failed ∧
      p ∈ (s.unitFails (unitFinwell p) cause).health.finwellFailed := by
  have hfaulty : ¬ s.unitFaulty (unitFinwell p) = true := by
    rw [State.unitFaulty_finwell s hp]
    simpa using hsound
  have hfails : s.unitFails (unitFinwell p) cause = s.finwellFails p cause := by
    simp only [State.unitFails, if_neg hfaulty, unitClass_unitFinwell hp, unitIndex_unitFinwell hp]
  rw [hfails]
  exact s.finwellFails_failed hp cause

end

/-! ## Training and retraining (R281, R284, R285) -/

theorem Link.pump_of_none {l : Link} (h : l.waiting = []) : l.pump = l := by
  rw [Link.pump, Link.order, h, List.filter_nil, List.filter_nil, List.append_nil, List.foldl_nil, ← h]

section
variable {s : State} {p : Nat}

/-- The link after bring-up: nothing but flits has passed since it was set up. -/
theorem State.link_bringUp (s : State) (p : Nat) : ((s.bringUp p).link p).state = .up ∧ ((s.bringUp p).link p).retraining = false := by
  have hlink : ((s.bringUp p).link p).standing = { Link.reset with state := .up : Link }.standing := by
    rw [State.bringUp, State.link_setLink, Link.standing_pump, State.portsChanged_standing, State.sendHello,
      State.sendOn_standing _ p _ p, State.link_setLink]
    rfl
  obtain ⟨hstate, hretraining, -⟩ := Link.fields_of_standing hlink
  exact ⟨hstate, hretraining⟩

/-- Retrains of the last second. -/
def State.recentRetrains (s : State) (p : Nat) : List Nat := (s.link p).retrainTimes.filter fun t => decide (s.now < t + 1000000000)

/-- The link of p retrains. -/
def State.retraining (s : State) (p : Nat) : State :=
  (s.bump (0x9000 + p) 4 1).setLink p
    { s.link p with state := .training, retraining := true, retrainTimes := s.now :: s.recentRetrains p }

theorem State.beginRetrain_eq (s : State) (p : Nat) : s.beginRetrain p =
    if 16 ≤ (s.recentRetrains p).length + 1 then
      (s.bump (0x9000 + p) 4 1).unitFails (unitFinwell p) (Config.linkFailureCause (unitFinwell p))
    else s.retraining p := rfl

theorem State.beginRetrain_of_few (h : (s.recentRetrains p).length < 15) : s.beginRetrain p = s.retraining p := by
  rw [State.beginRetrain_eq, if_neg (by omega)]

/-- The sixteenth retrain within 1 s fails the port. -/
theorem State.beginRetrain_of_many (hp : p < 16) (hsound : p ∉ s.health.finwellFailed) (h : 15 ≤ (s.recentRetrains p).length) :
    ((s.beginRetrain p).link p).state = .failed ∧ p ∈ (s.beginRetrain p).health.finwellFailed := by
  rw [State.beginRetrain_eq, if_pos (by omega)]
  exact State.unitFails_finwell (s := s.bump (0x9000 + p) 4 1) hp hsound _

@[simp] theorem State.link_retraining (s : State) (p : Nat) : (s.retraining p).link p =
    { s.link p with state := .training, retraining := true, retrainTimes := s.now :: s.recentRetrains p } := State.link_setLink _ p _

/-- The report of an acknowledgement that does not come. -/
def State.unacknowledged (s : State) (p seq : Nat) : Report :=
  { plainReport cLinkAckTimeout (unitFinwell p) .value 0 with d0 := seq, time := s.now }

/-- The state in which the retrain of an acknowledgement that does not come begins. -/
def State.ackMissed (s : State) (p seq : Nat) : State :=
  (s.report { plainReport cLinkAckTimeout (unitFinwell p) .value 0 with d0 := seq }).bump (0x9000 + p) 5 1

theorem State.ackTimeout_eq (s : State) (p seq : Nat) : s.ackTimeout p seq = (s.ackMissed p seq).beginRetrain p := rfl

/-- The state in which the retrain after one that failed begins. -/
def State.retrainMissed (s : State) (p : Nat) : State :=
  s.setLink p { s.link p with retrainsRow := (s.link p).retrainsRow + 1 }

theorem State.retrainFailed_eq (s : State) (p : Nat) : s.retrainFailed p =
    if 3 ≤ (s.link p).retrainsRow + 1 then s.unitFails (unitFinwell p) (Config.linkFailureCause (unitFinwell p))
    else (s.retrainMissed p).beginRetrain p := rfl

@[simp] theorem State.link_retrainMissed (s : State) (p : Nat) :
    (s.retrainMissed p).link p = { s.link p with retrainsRow := (s.link p).retrainsRow + 1 } := State.link_setLink _ p _

theorem State.recentRetrains_retrainMissed (s : State) (p : Nat) : (s.retrainMissed p).recentRetrains p = s.recentRetrains p := by
  rw [State.recentRetrains, State.link_retrainMissed]
  rfl

/-- With nothing waiting, a retrain that succeeds resends every unacknowledged flit and nothing else. -/
theorem State.retrained_of_none (h : (s.link p).waiting = []) : s.retrained p = s.setLink p { s.link p with
    state := .up
    retraining := false
    retrainsRow := 0
    sent := (s.link p).sent ++ (s.link p).replay.map fun e => Flit.stamp e.2 e.1 (s.link p).lastGood false 0 0 } := by
  have hpump : ({ s.link p with state := .up, retraining := false, retrainsRow := 0 } : Link).resend.pump = _ := Link.pump_of_none h
  rw [State.retrained, hpump]
  rfl

theorem State.state_retrained (s : State) (p : Nat) : ((s.retrained p).link p).state = .up := by
  rw [State.retrained, State.link_setLink]
  exact (Link.fields_of_standing (Link.standing_pump _)).1

end

section
variable {s : State} {port : FwNo} (halive : s.alive = true)
include halive

theorem exec_linkUp_of_training (hstate : (s.link port.val).state = .training) (hfresh : (s.link port.val).retraining = false)
    (hgroup : tget .on s.power.fwGroup (port.val / 4) ≠ .off) (hsound : port.val / 8 ∉ s.health.proofersFailed) :
    exec (.linkUp port) s = .next (s.bringUp port.val) := by
  simp [exec, execLinkUp, halive, hstate, hfresh, hgroup, hsound]

theorem exec_linkAckTimeout_of_up {e : Nat × Flit} {rest : List (Nat × Flit)} (hstate : (s.link port.val).state = .up)
    (hreplay : (s.link port.val).replay = e :: rest) : exec (.linkAckTimeout port) s = .next (s.ackTimeout port.val e.1) := by
  simp [exec, execLinkAckTimeout, halive, hstate, hreplay]

theorem exec_retrainEnd_of_retraining (hstate : (s.link port.val).state = .training) (hagain : (s.link port.val).retraining = true)
    (ok : Bool) : exec (.retrainEnd port ok) s = .next (if ok then s.retrained port.val else s.retrainFailed port.val) := by
  simp [exec, execRetrainEnd, halive, hstate, hagain]

end

/-! ## Power groups and time (R281, R300, R319, R320) -/

section
variable {s : State}

theorem exec_finwellGroupOff_of_disabled {g : Fin 4} (hleaven : s.leavenUp = true)
    (hdisabled : ∀ k, k < 4 → s.obj (0x9000 + 4 * g.val + k) 3 = 0) :
    exec (.finwellGroupOff g) s = .next { s with power := { s.power with fwGroup := tset .on s.power.fwGroup g.val .off } } := by
  have hnone : ¬ ((List.range 4).any fun k => decide (s.obj (0x9000 + 4 * g.val + k) 3 ≠ 0)) = true := by
    simpa using hdisabled
  simp only [exec, execFinwellGroupOff, hleaven, Bool.not_true, Bool.false_eq_true, if_false, if_neg hnone]

variable (hvaux : s.power.vaux33 = true)
include hvaux

theorem exec_ppsIn_of_manager (hmanager : s.boot.manager = true) (t : Nat) :
    exec (.ppsIn t) s = .next { s.reach t with time := (s.reach t).time.pps t } := by
  simp [exec, execPpsIn, hvaux, hmanager]

theorem exec_ppsIn_of_worker (hworker : s.boot.manager = false) (t : Nat) : exec (.ppsIn t) s = .next s := by
  simp [exec, execPpsIn, hvaux, hworker]

theorem exec_ppsLoss_of_manager (hmanager : s.boot.manager = true) {t : Nat} (hlast : s.time.lastPps = some t) :
    exec .ppsLoss s = .next { s.reach (t + 1100000000) with
      time := { (s.reach (t + 1100000000)).time with syncState := 0, lastPps := none } } := by
  simp [exec, execPpsLoss, hvaux, hmanager, hlast]

end

/-- Settles O57: by what training, retraining and failure leave of a port's link, and by the timekeeper's own rules. -/
theorem linksTrainRetrainAndFailAndTimeFollowsPps : Obligations.LinksTrainRetrainAndFailAndTimeFollowsPps := by
  unfold Obligations.LinksTrainRetrainAndFailAndTimeFollowsPps
  intro s
  refine ⟨?ports, ?group, ?pps, fun b => rfl⟩
  case ports =>
    intro port p l failed recent halive hsound
    refine ⟨?up, ?ack, ?retrain⟩
    case up =>
      intro hstate hfresh hgroup hproofer
      exact ⟨_, exec_linkUp_of_training halive hstate hfresh hgroup hproofer, s.link_bringUp p⟩
    case ack =>
      intro e rest hstate hreplay
      have hexec := exec_linkAckTimeout_of_up halive hstate hreplay
      rw [State.ackTimeout_eq] at hexec
      refine ⟨fun hfew => ?_, fun hmany => ⟨_, hexec, ?_⟩⟩
      · rw [State.beginRetrain_of_few (s := s.ackMissed port.val e.1) hfew] at hexec
        refine ⟨_, s.unacknowledged p e.1, hexec, ?_⟩
        rw [State.link_retraining]
        exact ⟨rfl, rfl, rfl, rfl, rfl, rfl, rfl⟩
      · exact State.beginRetrain_of_many (s := s.ackMissed port.val e.1) port.isLt hsound hmany
    case retrain =>
      intro hstate hagain
      have hexec := exec_retrainEnd_of_retraining halive hstate hagain
      refine ⟨fun hnone => ?_, ⟨_, hexec true, s.state_retrained p⟩, fun hrow hfew => ?_, fun hrow => ⟨_, hexec false, ?_⟩⟩
      · exact (hexec true).trans (congrArg _ (State.retrained_of_none hnone))
      · have hagain : ¬ 3 ≤ (s.link port.val).retrainsRow + 1 := Nat.not_le.2 (Nat.succ_lt_succ hrow)
        have hfails : s.retrainFailed port.val = (s.retrainMissed port.val).retraining port.val := by
          rw [State.retrainFailed_eq, if_neg hagain, State.beginRetrain_of_few (by rw [State.recentRetrains_retrainMissed]; exact hfew)]
        refine ⟨_, (hexec false).trans (congrArg _ hfails), ?_⟩
        rw [State.link_retraining, State.link_retrainMissed]
        exact ⟨rfl, rfl, rfl⟩
      · have hthird : 3 ≤ (s.link port.val).retrainsRow + 1 := Nat.succ_le_succ hrow
        rw [State.retrainFailed_eq]
        simp only [if_pos hthird, Bool.false_eq_true, if_false]
        exact State.unitFails_finwell port.isLt hsound _
  case group =>
    intro g hleaven hdisabled
    exact ⟨_, exec_finwellGroupOff_of_disabled hleaven hdisabled, tget_tset_same Domain.on g.val Domain.off s.power.fwGroup,
      fun j hj => tget_tset_ne Domain.on (e := Domain.on) Domain.off hj s.power.fwGroup⟩
  case pps =>
    intro hvaux
    refine ⟨fun t hmanager => ⟨_, exec_ppsIn_of_manager hvaux hmanager t, rfl, rfl, rfl⟩,
      fun t hworker => exec_ppsIn_of_worker hvaux hworker t, fun t hmanager hlast => ?_⟩
    exact ⟨_, exec_ppsLoss_of_manager hvaux hmanager hlast, (s.le_now_reach _).1, rfl, rfl⟩

end Sys2Proof.Machine
end

section
/-!
PROOFS. Control intervals, throttling, trips and supply excursions (R307, R310 to R314, R319, R320).
-/
namespace Sys2Proof.Machine

/-! ## Values written hearth by hearth -/

/-- After a fold over hearths, each of which sets its own value and no other, a hearth below n reads its own. -/
theorem read_foldl_range {β : Type} (f : State → Nat → State) (read : State → Nat → β) (value : Nat → β) (s : State)
    (hsets : ∀ u h, read u h = read s h → read (f u h) h = value h) (hkeeps : ∀ u h j, j ≠ h → read (f u h) j = read u j) (n j : Nat) :
    read ((List.range n).foldl f s) j = if j < n then value j else read s j := by
  induction n generalizing j with
  | zero => simp
  | succ n ih =>
    rw [List.range_succ, List.foldl_append, List.foldl_cons, List.foldl_nil]
    by_cases hj : j = n
    · subst hj
      rw [hsets _ _ (by simp [ih]), if_pos (Nat.lt_succ_self j)]
    · rw [hkeeps _ _ _ hj, ih]
      simp only [show j < n + 1 ↔ j < n by omega]

section
variable (s : State)

theorem State.vddOf_setVdd (h v : Nat) : (s.setVdd h v).vddOf h = v := tget_tset_same _ _ _ _

theorem State.vddOf_setVdd_ne {h j : Nat} (v : Nat) (hj : j ≠ h) : (s.setVdd h v).vddOf j = s.vddOf j := tget_tset_ne _ _ hj _

theorem State.junctionOf_setJunction (h : Nat) (t : Int) : (s.setJunction h t).junctionOf h = t := tget_tset_same _ _ _ _

theorem State.junctionOf_setJunction_ne {h j : Nat} (t : Int) (hj : j ≠ h) : (s.setJunction h t).junctionOf j = s.junctionOf j :=
  tget_tset_ne _ _ hj _

theorem State.junctionOf_takeJunctions (js : List Int) {h : Nat} (hh : h < 16) :
    (s.takeJunctions js).junctionOf h = js.getD h (s.junctionOf h) := by
  have hread := read_foldl_range (fun u h => u.setJunction h (js.getD h (u.junctionOf h))) State.junctionOf
    (fun h => js.getD h (s.junctionOf h)) s (fun u h hu => by rw [State.junctionOf_setJunction, hu])
    (fun u h j hj => State.junctionOf_setJunction_ne u _ hj) 16 h
  rwa [if_pos hh] at hread

theorem State.vddOf_takeJunctions (js : List Int) (h : Nat) : (s.takeJunctions js).vddOf h = s.vddOf h :=
  List.foldlRecOn (motive := fun u : State => u.vddOf h = s.vddOf h) (List.range 16) _ rfl fun _ hu _ _ => hu

theorem State.dict_takeJunctions (js : List Int) : (s.takeJunctions js).dict = s.dict :=
  List.foldlRecOn (motive := fun u : State => u.dict = s.dict) (List.range 16) _ rfl fun _ hu _ _ => hu

/-- The hearths' supplies, each set to its own value. -/
def State.setSupplies (v : Nat → Nat) : State := (List.range 16).foldl (fun t h => t.setVdd h (v h)) s

theorem State.vddOf_setSupplies (v : Nat → Nat) {h : Nat} (hh : h < 16) : (s.setSupplies v).vddOf h = v h := by
  have hread := read_foldl_range (fun t h => t.setVdd h (v h)) State.vddOf v s (fun u h _ => u.vddOf_setVdd h _)
    (fun u h j hj => State.vddOf_setVdd_ne u _ hj) 16 h
  rwa [if_pos hh] at hread

theorem State.junctionOf_setSupplies (v : Nat → Nat) (h : Nat) : (s.setSupplies v).junctionOf h = s.junctionOf h :=
  List.foldlRecOn (motive := fun u : State => u.junctionOf h = s.junctionOf h) (List.range 16) _ rfl fun _ hu _ _ => hu

theorem State.setSupplies_keeps (v : Nat → Nat) : Keeps [.power] s (s.setSupplies v) :=
  foldl_keeps (fun _ _ hu => State.setVdd_keeps _ _ _ hu rfl) (Keeps.refl _ s)

end

theorem State.hearthBusy_congr {s t : State} (hparts : t.parts = s.parts) (hctxs : t.ctxs = s.ctxs) (h : Nat) :
    t.hearthBusy h = s.hearthBusy h := by
  simp only [State.hearthBusy, State.partOf, State.running, State.part, State.ctx, hparts, hctxs]

theorem State.obj_congr {s t : State} (hdict : t.dict = s.dict) (i sub : Nat) : t.obj i sub = s.obj i sub := by
  rw [State.obj, hdict, State.obj]

/-! ## The readings of an interval (R310) -/

/-- The objects that an interval's readings set. -/
def readingKeys : List Nat :=
  [objKey 0x8020 1, objKey 0x8020 2, objKey 0x8010 1, objKey 0x8010 2, objKey 0x8010 3, objKey 0x8000 2, objKey 0x8000 3] ++
    (List.range 16).map fun h => objKey (0x3020 + 0x100 * h) 7

/-- The paces of the hearths, as an interval notes them. -/
def State.hearthPaces (s : State) (p : Nat → Nat) : State := (List.range 16).foldl (fun u h => u.setObj (0x3020 + 0x100 * h) 7 (p h)) s

/-- The paces of the last intervals. -/
def State.withPaceHist (s : State) (hist : List (Nat × Nat × Nat)) : State := { s with paceHist := hist }

theorem State.obj_withPaceHist (s : State) (hist : List (Nat × Nat × Nat)) (i sub : Nat) :
    (s.withPaceHist hist).obj i sub = s.obj i sub := rfl

theorem State.takePaces_eq (s : State) (ps : List Nat) : ∃ hist mean largest smallest, s.takePaces ps =
    ((((s.hearthPaces fun h => ps.getD h 0).withPaceHist hist).setObj 0x8010 1 mean).setObj 0x8010 2 largest).setObj 0x8010 3 smallest :=
  ⟨_, _, _, _, rfl⟩

section
variable (s : State) {i sub : Nat} (hother : objKey i sub ∉ readingKeys)
include hother

theorem ne_of_not_reading {key : Nat} (h : key ∈ readingKeys) : objKey i sub ≠ key := fun heq => hother (heq ▸ h)

theorem State.obj_reportJunctions : s.reportJunctions.obj i sub = s.obj i sub := by
  rw [State.reportJunctions, State.obj_setObj_ne _ _ (ne_of_not_reading hother (by decide)),
    State.obj_setObj_ne _ _ (ne_of_not_reading hother (by decide))]

theorem State.obj_hearthPaces (p : Nat → Nat) : (s.hearthPaces p).obj i sub = s.obj i sub :=
  List.foldlRecOn (motive := fun u : State => u.obj i sub = s.obj i sub) (List.range 16) _ rfl fun u hu _ hh =>
    (State.obj_setObj_ne u _ (ne_of_not_reading hother (List.mem_append_right _ (List.mem_map_of_mem hh)))).trans hu

theorem State.obj_takePaces (ps : List Nat) : (s.takePaces ps).obj i sub = s.obj i sub := by
  obtain ⟨hist, mean, largest, smallest, hpaces⟩ := s.takePaces_eq ps
  rw [hpaces, State.obj_setObj_ne _ _ (ne_of_not_reading hother (by decide)),
    State.obj_setObj_ne _ _ (ne_of_not_reading hother (by decide)), State.obj_setObj_ne _ _ (ne_of_not_reading hother (by decide)),
    State.obj_withPaceHist, State.obj_hearthPaces s hother]

end

section
variable (s : State) (r : PowerReading)

/-- The input power is above the limit. -/
def State.overLimit : Bool := decide (s.obj 0x8000 1 < r.inputW)

/-- The state after an interval's readings are noted. -/
def State.readings : State :=
  ((((s.takeJunctions r.junctions).reportJunctions).takePaces r.paces).setObj 0x8000 2 r.inputW).setObj 0x8000 3
    (boolNat (s.overLimit r))

theorem State.readings_keeps : Keeps [.power, .dict, .paceHist] s (s.readings r) :=
  State.setObj_keeps _ _ _ _ (State.setObj_keeps _ _ _ _
    (State.takePaces_keeps _ _ (State.reportJunctions_keeps _ (State.takeJunctions_keeps _ _ (Keeps.refl _ s) rfl) rfl) rfl) rfl) rfl

theorem State.power_readings : (s.readings r).power = (s.takeJunctions r.junctions).power :=
  have hkeeps : Keeps [.dict, .paceHist] (s.takeJunctions r.junctions) (s.readings r) :=
    State.setObj_keeps _ _ _ _ (State.setObj_keeps _ _ _ _ (State.takePaces_keeps _ _ (State.reportJunctions_keeps _ (Keeps.refl _ _) rfl)
      rfl) rfl) rfl
  hkeeps.power.resolve_left (by decide)

theorem State.junctionOf_readings {h : Nat} (hh : h < 16) : (s.readings r).junctionOf h = r.junctions.getD h (s.junctionOf h) := by
  rw [State.junctionOf, State.power_readings]
  exact s.junctionOf_takeJunctions r.junctions hh

theorem State.vddOf_readings (h : Nat) : (s.readings r).vddOf h = s.vddOf h := by
  rw [State.vddOf, State.power_readings]
  exact s.vddOf_takeJunctions r.junctions h

theorem State.hearthBusy_readings (h : Nat) : (s.readings r).hearthBusy h = s.hearthBusy h :=
  State.hearthBusy_congr ((s.readings_keeps r).parts.resolve_left (by decide)) ((s.readings_keeps r).ctxs.resolve_left (by decide)) h

theorem State.obj_readings {i sub : Nat} (hother : objKey i sub ∉ readingKeys) : (s.readings r).obj i sub = s.obj i sub := by
  rw [State.readings, State.obj_setObj_ne _ _ (ne_of_not_reading hother (by decide)),
    State.obj_setObj_ne _ _ (ne_of_not_reading hother (by decide)), State.obj_takePaces _ hother, State.obj_reportJunctions _ hother,
    State.obj_congr (s.dict_takeJunctions r.junctions)]

theorem State.fixedSupply_readings : (s.readings r).fixedSupply = s.fixedSupply := by
  rw [State.fixedSupply, State.obj_readings s r (by decide), State.fixedSupply]

theorem State.vddFloor_readings : (s.readings r).vddFloor = s.vddFloor := s.obj_readings r (by decide)

theorem State.vddTarget_readings : (s.readings r).vddTarget = s.vddTarget := s.obj_readings r (by decide)

theorem State.vddCeiling_readings : (s.readings r).vddCeiling = s.vddCeiling := s.obj_readings r (by decide)

theorem State.inputW_readings : (s.readings r).obj 0x8000 2 = r.inputW := by
  rw [State.readings, State.obj_setObj_ne _ _ (by decide), State.obj_setObj]

theorem State.overLimit_readings : (s.readings r).obj 0x8000 3 = boolNat (s.overLimit r) := State.obj_setObj _ _ _ _

end

/-! ## The supply that an interval sets (R311 to R313) -/

section
variable {s : State} (above : Bool) (h predicted : Nat)

theorem State.vddNext_of_fixed (hfixed : s.fixedSupply = true) : s.vddNext above h predicted = s.vddTarget := if_pos hfixed

theorem State.vddNext_of_idle (hadaptive : s.fixedSupply = false) (hidle : s.hearthBusy h = false) :
    s.vddNext above h predicted = s.vddFloor := by
  simp [State.vddNext, hadaptive, hidle]

/-- A busy hearth's adaptive supply stays between floor and ceiling, and does not rise above the limit or at THROTTLE_C. -/
theorem State.vddNext_of_busy (hadaptive : s.fixedSupply = false) (hbusy : s.hearthBusy h = true) :
    s.vddFloor ≤ s.vddNext above h predicted ∧ s.vddNext above h predicted ≤ max s.vddFloor s.vddCeiling ∧
      ((above || s.throttled h) = true → s.vddNext above h predicted ≤ max s.vddFloor (s.vddOf h)) := by
  have hnext : s.vddNext above h predicted = if above || s.throttled h then
      max s.vddFloor (min (max s.vddFloor (min s.vddCeiling (5 * (predicted / 5)))) (s.vddOf h))
    else max s.vddFloor (min s.vddCeiling (5 * (predicted / 5))) := by
    simp [State.vddNext, hadaptive, hbusy]
  rw [hnext]
  generalize 5 * (predicted / 5) = v
  split
  · omega
  · rename_i hfree
    exact ⟨by omega, by omega, fun hheld => absurd hheld hfree⟩

end

/-! ## The steps that are held (R312, R313) -/

section
variable (s : State) (l : List Nat)

/-- The hearths whose step is held. -/
def State.withHolds : State := { s with power := { s.power with stepHold := l } }

theorem State.stepHold_withHolds : (s.withHolds l).power.stepHold = l := rfl

theorem State.junctionOf_withHolds (h : Nat) : (s.withHolds l).junctionOf h = s.junctionOf h := rfl

theorem State.vddOf_withHolds (h : Nat) : (s.withHolds l).vddOf h = s.vddOf h := rfl

theorem State.obj_withHolds (i sub : Nat) : (s.withHolds l).obj i sub = s.obj i sub := rfl

theorem State.vdd_withHolds : (s.withHolds l).power.vdd = s.power.vdd := rfl

end

/-! ## A control interval (R310 to R313) -/

section
variable (s : State) (r : PowerReading)

/-- The state after an interval's supplies are set. -/
def State.supplied : State :=
  (s.readings r).setSupplies fun h => (s.readings r).vddNext (s.overLimit r) h (r.predicted.getD h 0)

theorem State.control_eq : s.control r = (s.supplied r).withHolds ((s.supplied r).holds (s.overLimit r)) := rfl

theorem State.supplied_keeps : Keeps [.power] (s.readings r) (s.supplied r) := State.setSupplies_keeps _ _

theorem State.vddOf_supplied {h : Nat} (hh : h < 16) :
    (s.supplied r).vddOf h = (s.readings r).vddNext (s.overLimit r) h (r.predicted.getD h 0) := State.vddOf_setSupplies _ _ hh

theorem State.obj_supplied (i sub : Nat) : (s.supplied r).obj i sub = (s.readings r).obj i sub :=
  State.obj_congr ((s.supplied_keeps r).dict.resolve_left (by decide)) i sub

theorem State.junctionOf_supplied (h : Nat) : (s.supplied r).junctionOf h = (s.readings r).junctionOf h := State.junctionOf_setSupplies _ _ h

theorem State.hearthBusy_supplied (h : Nat) : (s.supplied r).hearthBusy h = s.hearthBusy h :=
  (State.hearthBusy_congr ((s.supplied_keeps r).parts.resolve_left (by decide)) ((s.supplied_keeps r).ctxs.resolve_left (by decide))
    h).trans (s.hearthBusy_readings r h)

theorem State.throttled_readings (h : Nat) :
    (s.readings r).throttled h = decide (10 * (s.obj 0x8020 3 : Int) ≤ (s.readings r).junctionOf h) := by
  rw [State.throttled, State.obj_readings s r (by decide)]

theorem State.throttled_supplied (h : Nat) : (s.supplied r).throttled h = (s.readings r).throttled h := by
  rw [State.throttled, State.obj_supplied, State.junctionOf_supplied, State.throttled]

theorem State.mem_holds {above : Bool} {h : Nat} (hh : h < 16) :
    h ∈ s.holds above ↔ (above = true ∧ s.hearthBusy h = true) ∨ s.throttled h = true := by
  simp [State.holds, hh]

theorem exec_controlInterval_of_up (hleaven : s.leavenUp = true) : exec (.controlInterval r) s = .next (s.control r) := if_pos hleaven

/-- What an interval sets of one hearth. -/
theorem State.control_hearth {h : Nat} (hh : h < 16) :
    let t := s.control r
    let hot := decide (10 * (s.obj 0x8020 3 : Int) ≤ t.junctionOf h)
    t.junctionOf h = r.junctions.getD h (s.junctionOf h) ∧
    (h ∈ t.power.stepHold ↔ (s.overLimit r = true ∧ s.hearthBusy h = true) ∨ hot = true) ∧
    (s.fixedSupply = true → t.vddOf h = s.vddTarget) ∧
    (s.fixedSupply = false → s.hearthBusy h = false → t.vddOf h = s.vddFloor) ∧
    (s.fixedSupply = false → s.hearthBusy h = true → s.vddFloor ≤ t.vddOf h ∧ t.vddOf h ≤ max s.vddFloor s.vddCeiling ∧
      (s.overLimit r = true ∨ hot = true → t.vddOf h ≤ max s.vddFloor (s.vddOf h))) := by
  have hhold : h ∈ (s.supplied r).holds (s.overLimit r) ↔
      (s.overLimit r = true ∧ s.hearthBusy h = true) ∨ (s.readings r).throttled h = true := by
    rw [← s.throttled_supplied r, ← s.hearthBusy_supplied r]
    exact State.mem_holds _ hh
  dsimp only
  rw [State.control_eq, State.stepHold_withHolds, State.junctionOf_withHolds, State.vddOf_withHolds, State.junctionOf_supplied,
    State.vddOf_supplied s r hh, ← State.throttled_readings]
  refine ⟨s.junctionOf_readings r hh, hhold, fun hfixed => ?_, fun hadaptive hidle => ?_, fun hadaptive hbusy => ?_⟩
  · rw [State.vddNext_of_fixed _ _ _ ((s.fixedSupply_readings r).trans hfixed), State.vddTarget_readings]
  · rw [State.vddNext_of_idle _ _ _ ((s.fixedSupply_readings r).trans hadaptive) ((s.hearthBusy_readings r h).trans hidle),
      State.vddFloor_readings]
  · have hbounds := State.vddNext_of_busy (s.overLimit r) h (r.predicted.getD h 0) ((s.fixedSupply_readings r).trans hadaptive)
      ((s.hearthBusy_readings r h).trans hbusy)
    rwa [State.vddFloor_readings, State.vddCeiling_readings, State.vddOf_readings, Bool.or_eq_true] at hbounds

end

/-! ## THROTTLE (R313) -/

section
variable (s : State) (h : Nat)

theorem State.junctionOf_lowerVdd (j : Nat) : (s.lowerVdd h).junctionOf j = s.junctionOf j := by
  unfold State.lowerVdd
  dsimp only
  split <;> rfl

theorem State.vddOf_lowerVdd_ne {j : Nat} (hj : j ≠ h) : (s.lowerVdd h).vddOf j = s.vddOf j := by
  unfold State.lowerVdd
  dsimp only
  split
  · rfl
  · exact State.vddOf_setVdd_ne _ _ hj

/-- A lower supply is no lower than the floor, and lower than the present one by at least 5 mV where that leaves the floor. -/
theorem State.vddOf_lowerVdd : (s.lowerVdd h).vddOf h ≤ s.vddOf h ∧ (s.vddFloor ≤ s.vddOf h → s.vddFloor ≤ (s.lowerVdd h).vddOf h) ∧
    (s.vddFloor + 5 ≤ s.vddOf h → (s.lowerVdd h).vddOf h < s.vddOf h) := by
  unfold State.lowerVdd
  dsimp only
  split
  · rename_i hnone
    exact ⟨Nat.le_refl _, id, fun hroom => by omega⟩
  · rename_i hsome
    rw [State.vddOf_setVdd]
    have hstep := Nat.mod_lt (Config.throttleStep s.freeCtr) (Nat.pos_of_ne_zero hsome)
    generalize Config.throttleStep s.freeCtr % ((s.vddOf h - s.vddFloor) / 5) = k at hstep ⊢
    omega

/-- The state in which THROTTLE has noted a junction. -/
def State.noted (tj : Int) : State := (s.setJunction h tj).reportJunctions

theorem State.power_noted (tj : Int) : (s.noted h tj).power = (s.setJunction h tj).power :=
  (State.reportJunctions_keeps (T := [.dict]) (s.setJunction h tj) (Keeps.refl _ _) rfl).power.resolve_left (by decide)

theorem State.vddOf_noted (tj : Int) (j : Nat) : (s.noted h tj).vddOf j = s.vddOf j := by
  rw [State.vddOf, State.power_noted]
  rfl

theorem State.junctionOf_noted (tj : Int) : (s.noted h tj).junctionOf h = tj := by
  rw [State.junctionOf, State.power_noted]
  exact s.junctionOf_setJunction h tj

theorem State.vddFloor_noted (tj : Int) : (s.noted h tj).vddFloor = s.vddFloor := State.obj_reportJunctions _ (by decide)

theorem State.fixedSupply_noted (tj : Int) : (s.noted h tj).fixedSupply = s.fixedSupply := by
  rw [State.fixedSupply, State.noted, State.obj_reportJunctions _ (by decide)]
  rfl

/-- A hearth's step is held. -/
def State.holdStep : State := s.withHolds (if h ∈ s.power.stepHold then s.power.stepHold else s.power.stepHold ++ [h])

theorem State.mem_holdStep : h ∈ (s.holdStep h).power.stepHold := by
  rw [State.holdStep, State.stepHold_withHolds]
  split
  · assumption
  · exact List.mem_append_right _ (List.mem_singleton_self h)

variable {s}

theorem exec_throttle_of_hot {h : Hearth} {tj : Int} (hleaven : s.leavenUp = true) (hhot : 10 * (s.obj 0x8020 3 : Int) ≤ tj) :
    exec (.throttle h tj) s = .next (((if (s.noted h.val tj).fixedSupply then s.noted h.val tj
      else (s.noted h.val tj).lowerVdd h.val)).holdStep h.val) := by
  simp only [exec, execThrottle, hleaven, Bool.not_true, Bool.false_eq_true, if_false, if_neg (not_lt.2 hhot)]
  rfl

/-- Under FIXED, THROTTLE leaves every supply. -/
theorem exec_throttle_of_fixed {h : Hearth} {tj : Int} (hleaven : s.leavenUp = true) (hhot : 10 * (s.obj 0x8020 3 : Int) ≤ tj)
    (hfixed : s.fixedSupply = true) : exec (.throttle h tj) s = .next ((s.noted h.val tj).holdStep h.val) := by
  rw [exec_throttle_of_hot hleaven hhot, if_pos ((s.fixedSupply_noted h.val tj).trans hfixed)]

/-- Under ADAPTIVE, THROTTLE lowers the hearth's supply. -/
theorem exec_throttle_of_adaptive {h : Hearth} {tj : Int} (hleaven : s.leavenUp = true) (hhot : 10 * (s.obj 0x8020 3 : Int) ≤ tj)
    (hadaptive : s.fixedSupply = false) :
    exec (.throttle h tj) s = .next (((s.noted h.val tj).lowerVdd h.val).holdStep h.val) := by
  rw [exec_throttle_of_hot hleaven hhot, if_neg (by rw [State.fixedSupply_noted, hadaptive]; decide)]

end

/-! ## Trips and excursions (R307, R314, R319, R320) -/

/-- What a loss of power takes. -/
structure Dark (t : State) : Prop where
  cores : t.cores = []
  scratch : t.scratch = []
  hbm : t.hbm = []
  larders : t.larders = []
  leaven : t.boot.leavenRuns = false
  hbmPoison : t.hbmPoison = []
  movers : t.movers = []
  folds : t.folds = []
  domains : ∀ h, h < 16 → t.logicOf h = .off ∧ t.memoryOf h = .off

theorem tget_allOff {n h : Nat} (hh : h < n) : tget .on (allOff n) h = .off := by
  unfold allOff
  generalize hl : List.range n = l
  have hmem : h ∈ l := by rw [← hl]; exact List.mem_range.2 hh
  clear hl
  induction l with
  | nil => cases hmem
  | cons i l ih =>
    by_cases hi : h = i
    · simp [tget, hi]
    · simpa [tget, hi] using ih ((List.mem_cons.1 hmem).resolve_left hi)

section
variable {s : State}

/-- A state that keeps what the loss of power leaves is dark. -/
theorem Dark.of_dark {t : State} (hcores : t.cores = s.dark.cores) (hscratch : t.scratch = s.dark.scratch) (hhbm : t.hbm = s.dark.hbm)
    (hlarders : t.larders = s.dark.larders) (hleaven : t.boot.leavenRuns = s.dark.boot.leavenRuns)
    (hpoison : t.hbmPoison = s.dark.hbmPoison) (hmovers : t.movers = s.dark.movers) (hfolds : t.folds = s.dark.folds)
    (hlogic : t.power.logic = s.dark.power.logic) (hmemory : t.power.memory = s.dark.power.memory) : Dark t where
  cores := hcores
  scratch := hscratch
  hbm := hhbm
  larders := hlarders
  leaven := hleaven
  hbmPoison := hpoison
  movers := hmovers
  folds := hfolds
  domains h hh := by
    rw [State.logicOf, State.memoryOf, hlogic, hmemory]
    exact ⟨tget_allOff hh, tget_allOff hh⟩

/-- The state of a trip (R314). -/
def State.trips (s : State) : State := { s.dark with power := { s.dark.power with tripped := true } }

theorem State.trips_dark (s : State) : Dark s.trips := .of_dark (s := s) rfl rfl rfl rfl rfl rfl rfl rfl rfl rfl

theorem State.loseVin_dark (s : State) : Dark s.loseVin := .of_dark (s := s) rfl rfl rfl rfl rfl rfl rfl rfl rfl rfl

theorem State.loseVaux_dark (s : State) : Dark s.loseVaux := .of_dark (s := s) rfl rfl rfl rfl rfl rfl rfl rfl rfl rfl

theorem exec_thermTripN_of_hot {h : Hearth} {tj : Int} (hvaux : s.power.vaux33 = true) (hhot : 1050 ≤ tj) :
    exec (.thermTripN h tj) s = .next (s.setJunction h.val tj).trips := by
  simp only [exec, execThermTripN, hvaux, Bool.not_true, Bool.false_eq_true, if_false, if_neg (not_lt.2 (show tripTenths ≤ tj from hhot))]
  rfl

theorem exec_vin48Excursion_of_in (hvin : s.power.vin48 = true) : exec .vin48Excursion s = .next s.loseVin := by
  simp [exec, execVin48Excursion, hvin]

theorem exec_vin48Excursion_of_out (hvin : s.power.vin48 = false) : exec .vin48Excursion s = .next s := by
  simp [exec, execVin48Excursion, hvin]

theorem exec_vaux33Excursion_of_in (hvaux : s.power.vaux33 = true) : exec .vaux33Excursion s = .next s.loseVaux := by
  simp [exec, execVaux33Excursion, hvaux]

theorem exec_vaux33Excursion_of_out (hvaux : s.power.vaux33 = false) : exec .vaux33Excursion s = .next s := by
  simp [exec, execVaux33Excursion, hvaux]

/-- The first firing of comparator 4 is latched. -/
theorem State.mem_latched_loseVin (hvaux : s.power.vaux33 = true) (hfirst : ∀ e ∈ s.power.latched, e.1 ≠ 4) :
    (4, s.now) ∈ s.loseVin.power.latched := by
  have hlatch : (decide (s.power.vaux33) && !s.power.latched.any fun e => decide (e.1 = 4)) = true := by
    simpa [hvaux] using hfirst
  have hlatched : s.loseVin.power.latched = s.power.latched ++ [(4, s.now)] := if_pos hlatch
  rw [hlatched]
  exact List.mem_append_right _ (List.mem_singleton_self _)

theorem State.supplyCell_loseVaux (hvin : s.power.vin48 = true) (hcool : s.power.tripped = false) (hempty : s.boot.supplyCell = none) :
    s.loseVaux.boot.supplyCell = some s.now :=
  if_pos ⟨hvin, by rw [hcool]; decide, by rw [hempty]; rfl⟩

theorem State.tripHolds_of_hot {h : Nat} (hh : h < 16) (htripped : s.power.tripped = true) (hvin : s.power.vin48 = true)
    (hvaux : s.power.vaux33 = true) (hhot : 950 < s.junctionOf h) : s.tripHolds = true := by
  simp only [State.tripHolds, htripped, hvin, hvaux, Bool.true_and]
  exact List.any_eq_true.2 ⟨h, List.mem_range.2 hh, decide_eq_true hhot⟩

end

/-- Settles O58: an interval by what it sets of each hearth, THROTTLE by the supply it lowers, and the rest by what a loss of power
takes. -/
theorem suppliesAndTemperatureAreControlled : Obligations.SuppliesAndTemperatureAreControlled := by
  unfold Obligations.SuppliesAndTemperatureAreControlled
  intro s dark
  have hdark : ∀ t, Dark t → dark t := fun t h =>
    ⟨h.cores, h.scratch, h.hbm, h.larders, h.leaven, h.hbmPoison, h.movers, h.folds, h.domains⟩
  refine ⟨?interval, ?throttle, ?trip, ?vin, ?vaux, ?cold, exec_vin48Excursion_of_out, exec_vaux33Excursion_of_out⟩
  case interval =>
    intro hleaven r
    refine ⟨_, exec_controlInterval_of_up s r hleaven, ?_, ?_, fun h hh => s.control_hearth r hh⟩
    · rw [State.control_eq, State.obj_withHolds, State.obj_supplied, State.inputW_readings]
    · rw [State.control_eq, State.obj_withHolds, State.obj_supplied, State.overLimit_readings]
      rfl
  case throttle =>
    intro hleaven h tj hhot
    cases hsupply : s.fixedSupply
    · refine ⟨_, exec_throttle_of_adaptive hleaven hhot hsupply, State.mem_holdStep _ _, ?_, nofun, fun _ => ?_, fun j hj => ?_⟩
      · rw [State.holdStep, State.junctionOf_withHolds, State.junctionOf_lowerVdd, State.junctionOf_noted]
      · have hlower := (s.noted h.val tj).vddOf_lowerVdd h.val
        rw [State.vddFloor_noted, State.vddOf_noted] at hlower
        rw [State.holdStep, State.vddOf_withHolds]
        exact hlower
      · rw [State.holdStep, State.vddOf_withHolds, State.vddOf_lowerVdd_ne _ _ hj, State.vddOf_noted]
    · refine ⟨_, exec_throttle_of_fixed hleaven hhot hsupply, State.mem_holdStep _ _, ?_, fun _ => ?_, nofun, fun j _ => ?_⟩
      · rw [State.holdStep, State.junctionOf_withHolds, State.junctionOf_noted]
      · rw [State.holdStep, State.vdd_withHolds, State.power_noted]
        rfl
      · rw [State.holdStep, State.vddOf_withHolds, State.vddOf_noted]
  case trip =>
    intro hvaux h tj hhot
    exact ⟨_, exec_thermTripN_of_hot hvaux hhot, rfl, s.junctionOf_setJunction h.val tj, hdark _ (State.trips_dark _)⟩
  case vin =>
    intro hvin
    exact ⟨_, exec_vin48Excursion_of_in hvin, rfl, rfl, hdark _ s.loseVin_dark, State.mem_latched_loseVin⟩
  case vaux =>
    intro hvaux
    exact ⟨_, exec_vaux33Excursion_of_in hvaux, rfl, rfl, hdark _ s.loseVaux_dark, fun _ => rfl, State.supplyCell_loseVaux⟩
  case cold =>
    intro env h hh htripped hvin hvaux hhot
    exact exec_coldReset_of_trip env (State.tripHolds_of_hot hh htripped hvin hvaux hhot)

end Sys2Proof.Machine
end

section
/-!
PROOFS. Warm resets, SYS_RST_N, the boot ROMs' choice, and the end of start-up (R321, R323, R325 to R330).
-/
namespace Sys2Proof.Machine

/-! ## What a warm reset leaves (R323, R325) -/

section
variable (s : State)

/-- The larders are empty and no program is bound. -/
def State.unloaded : State := (List.range 16).foldl State.loseBinding ((List.range 16).foldl State.flushLarder s)

theorem State.log_unloaded : s.unloaded.log = s.log := by
  have hflush : Keeps [.dict, .hbm, .hbmPoison, .hbmEcc, .larders] s ((List.range 16).foldl State.flushLarder s) :=
    foldl_keeps (fun _ _ hu => State.flushLarder_keeps _ _ hu rfl) (Keeps.refl _ s)
  rw [← hflush.log_eq rfl]
  exact List.foldlRecOn (motive := fun u : State => u.log = ((List.range 16).foldl State.flushLarder s).log) (List.range 16) _ rfl
    fun u hu p _ => (u.log_loseBinding p).trans hu

theorem State.session_endSessions (x : Session) : s.endSessions.session x = (s.session x).ended := by
  cases x <;> simp [State.endSessions, allSessions, State.endSession, State.session_setSession_ne]

/-- The reset holds. -/
def State.warmHold : State := { s with power := { s.power with rst := .warmHeld } }

theorem State.sessions_warmHold : s.warmHold.sessions = s.sessions := rfl

theorem State.log_warmHold : s.warmHold.log = s.log := rfl

theorem State.scratch_warmHold : s.warmHold.scratch = s.scratch := rfl

theorem State.rst_warmHold : s.warmHold.power.rst = .warmHeld := rfl

theorem State.leavenRuns_warmHold : s.warmHold.boot.leavenRuns = s.boot.leavenRuns := rfl

theorem State.scratch_resetUnits : s.resetUnits.scratch = [] := rfl

theorem State.leavenRuns_resetUnits : s.resetUnits.boot.leavenRuns = false := rfl

theorem State.warm_eq : s.warm = s.unloaded.endSessions.resetUnits.warmHold.setDev .bootRom := by
  unfold State.warm State.unloaded State.warmHold
  with_reducible rfl

theorem State.boot_setDev (d : DevState) :
    (s.setDev d).boot = if s.boot.dev = d then s.boot else { s.boot with dev := d, stateTime := s.now } := by
  unfold State.setDev
  split
  · rfl
  · exact (State.raiseBoth_keeps (T := [.ports]) _ 2045 (Keeps.refl _ _) rfl).boot.resolve_left (by decide)

theorem State.dev_setDev (d : DevState) : (s.setDev d).boot.dev = d := by
  rw [State.boot_setDev]
  split
  · assumption
  · rfl

theorem State.leavenRuns_setDev (d : DevState) : (s.setDev d).boot.leavenRuns = s.boot.leavenRuns := by
  rw [State.boot_setDev]
  split <;> rfl

theorem State.setDev_keeps_rest (d : DevState) : Keeps [.boot, .ports] s (s.setDev d) := State.setDev_keeps s d (Keeps.refl _ s) rfl

theorem State.power_warm : s.warm.power.rst = .warmHeld := by
  rw [State.warm_eq, (State.setDev_keeps_rest _ _).power.resolve_left (by decide), State.rst_warmHold]

theorem State.boot_warm : s.warm.boot.leavenRuns = false ∧ s.warm.boot.dev = .bootRom := by
  rw [State.warm_eq, State.leavenRuns_setDev, State.dev_setDev, State.leavenRuns_warmHold, State.leavenRuns_resetUnits]
  exact ⟨rfl, rfl⟩

theorem State.word_warm (key : Nat) : s.warm.word key = .poisoned := by
  rw [State.word, State.warm_eq, (State.setDev_keeps_rest _ _).scratch.resolve_left (by decide), State.scratch_warmHold,
    State.scratch_resetUnits]
  rfl

theorem State.resetUnits_keeps_rest : Keeps [.power, .boot, .health, .cores, .scratch, .movers, .folds, .chanUse] s s.resetUnits :=
  State.resetUnits_keeps s (Keeps.refl _ s) rfl

theorem State.privileged_warm (x : Session) : (s.warm.session x).privileged = false := by
  have hended : (s.unloaded.endSessions.session x).privileged = false := by
    rw [State.session_endSessions]
    rfl
  rw [State.session, State.warm_eq, (State.setDev_keeps_rest _ _).sessions.resolve_left (by decide), State.sessions_warmHold,
    (State.resetUnits_keeps_rest _).sessions.resolve_left (by decide)]
  exact hended

theorem State.log_warm : s.warm.log = s.log := by
  have hended : s.unloaded.endSessions.log = s.unloaded.log :=
    (State.endSessions_keeps (T := [.sessions]) _ (Keeps.refl _ _) rfl).log_eq rfl
  rw [State.warm_eq, (State.setDev_keeps_rest _ _).log_eq rfl, State.log_warmHold, (State.resetUnits_keeps_rest _).log_eq rfl, hended,
    s.log_unloaded]

theorem State.warm_keeps_rest : s.warm.time = s.time ∧ s.warm.journal = s.journal ∧ s.warm.net = s.net := by
  have hwarm := State.warm_keeps (T := [.power, .boot, .ports, .sessions, .dict, .log, .health, .cores, .scratch, .hbm, .hbmPoison,
    .hbmEcc, .larders, .movers, .folds, .parts, .ctxs, .chanUse]) s (Keeps.refl _ s) rfl
  exact ⟨hwarm.time.resolve_left (by decide), hwarm.journal.resolve_left (by decide), hwarm.net.resolve_left (by decide)⟩

end

/-! ## The commands of SYS_RST_N (R321, R323) -/

section
variable {s : State}

theorem exec_warmReset_of_running (halive : s.alive = true) (hready : s.coldStarting = false) : exec .warmReset s = .next s.warm := by
  simp [exec, execWarmReset, halive, hready]

theorem exec_warmReset_of_coldStarting (halive : s.alive = true) (hcold : s.coldStarting = true) :
    exec .warmReset s = .next s.supplyHold := by
  simp [exec, execWarmReset, halive, hcold]

theorem exec_warmReset_of_dead (hdead : s.alive = false) : exec .warmReset s = .next s := by
  simp [exec, execWarmReset, hdead]

theorem exec_sysRstNRelease_of_filtered {n : Nat} (hfree : s.power.rst ≠ .warmHeld) (hshort : n < 10000) :
    exec (.sysRstNRelease n) s = .next s := by
  simp [exec, execSysRstNRelease, hfree, hshort]

variable {n : Nat} (hcool : s.power.tripped = false) (hheld : s.power.rst = .warmHeld)
include hcool hheld

theorem exec_sysRstNRelease_of_held (hlow : 10000 ≤ n) (hshort : n < 1000000000) :
    exec (.sysRstNRelease n) s = .next { s with power := { s.power with rst := .startWarm } }.releasePorts := by
  simp [exec, execSysRstNRelease, hcool, hheld, hlow, hshort]

/-- From 1 s on, the reset is cold. -/
theorem exec_sysRstNRelease_of_long (hlong : 1000000000 ≤ n) : exec (.sysRstNRelease n) s = .next s.supplyHold := by
  have hlow : ¬ n < 10000 := by omega
  simp [exec, execSysRstNRelease, hcool, hheld, hlow, hlong]

end

/-! ## The boot ROMs (R330) -/

section
variable {fused : Nat} {a b : BootSlot}

theorem BootSlot.accepted_iff (x : BootSlot) :
    BootSlot.accepted x fused = true ↔ x.keyDigestOk = true ∧ x.signatureOk = true ∧ fused ≤ x.security := by
  simp [BootSlot.accepted, and_assoc]

/-- Slot 0 is preferred where slot 1 is not of a higher version. -/
theorem bootChoice_slot0 (ha : BootSlot.accepted a fused = true) (hb : BootSlot.accepted b fused = true → b.version ≤ a.version) :
    bootChoice fused a b = some a.security := by
  cases hslot : BootSlot.accepted b fused
  · simp [bootChoice, ha, hslot]
  · simp [bootChoice, ha, hslot, Nat.not_lt.2 (hb hslot)]

theorem bootChoice_slot1 (hb : BootSlot.accepted b fused = true) (ha : BootSlot.accepted a fused = true → a.version < b.version) :
    bootChoice fused a b = some b.security := by
  cases hslot : BootSlot.accepted a fused
  · simp [bootChoice, hb, hslot]
  · simp [bootChoice, hb, hslot, ha hslot]

theorem bootChoice_none (ha : ¬ BootSlot.accepted a fused = true) (hb : ¬ BootSlot.accepted b fused = true) : bootChoice fused a b = none := by
  simp [bootChoice, ha, hb]

end

/-! ## Leaven comes up (R327, R328, R330) -/

section
variable (s : State)

theorem State.sendReport_keeps_rest : Keeps [.links, .net] s s.sendReport := State.sendReport_keeps s (Keeps.refl _ s) rfl

theorem State.boot_enter (d : DevState) :
    (s.enter d).boot = if s.boot.dev = d then s.boot else { s.boot with dev := d, stateTime := s.now } := by
  unfold State.enter
  split
  · rfl
  · rename_i hother
    rw [(State.sendReport_keeps_rest _).boot.resolve_left (by decide), State.boot_setDev, if_neg hother]

theorem State.dev_enter (d : DevState) : (s.enter d).boot.dev = d := by
  rw [State.boot_enter]
  split
  · assumption
  · rfl

theorem State.enter_keeps_rest (d : DevState) : Keeps [.boot, .ports, .links, .net] s (s.enter d) :=
  State.enter_keeps s d (Keeps.refl _ s) rfl

/-- Logging the latches of the comparators clears the supply-fault cell, and changes nothing else of the boot state. -/
theorem State.boot_logLatches : s.logLatches.boot = { s.boot with supplyCell := none } := by
  have hlogged : Keeps [.ports, .dict, .log, .health, .parts, .ctxs] { s with
      power := { s.power with latched := [] }
      boot := { s.boot with supplyCell := none } } s.logLatches := by
    unfold State.logLatches
    refine foldl_keeps (fun _ _ hu => State.logLatched_keeps _ _ hu rfl) ?_
    have hfirst := foldl_keeps (T := [.ports, .dict, .log, .health, .parts, .ctxs])
      (f := fun u (e : Nat × Nat) => State.logSupply u 4 e.2) (fun _ _ hu => State.logSupply_keeps _ _ _ hu rfl)
      (l := s.power.latched.filter fun e => decide (e.1 = 4)) (Keeps.refl _ { s with
        power := { s.power with latched := [] }
        boot := { s.boot with supplyCell := none } })
    dsimp only
    split
    · exact State.logSupply_keeps _ _ _ hfirst rfl
    · exact hfirst
  exact hlogged.boot.resolve_left (by decide)

/-- Leaven runs on proofer p, with the comparators' latches logged. -/
def State.runningOn (p : Nat) : State := { s with boot := { s.boot with leavenRuns := true, controlProofer := p } }.logLatches

theorem State.boot_runningOn (p : Nat) : (s.runningOn p).boot =
    { s.boot with leavenRuns := true, controlProofer := p, supplyCell := none } := State.boot_logLatches _

theorem State.boot_leavenStarts (p : Nat) : (s.leavenStarts p).boot = ((s.runningOn p).enter .leavenUp).boot := by
  have hstarts : Keeps [.links] ((s.runningOn p).enter .leavenUp) (s.leavenStarts p) :=
    .ite (State.trainPorts_keeps _ (Keeps.refl _ _) rfl) (Keeps.refl _ _)
  exact hstarts.boot.resolve_left (by decide)

theorem State.leavenStarts_runs (p : Nat) : (s.leavenStarts p).boot.leavenRuns = true ∧ (s.leavenStarts p).boot.controlProofer = p ∧
    (s.leavenStarts p).boot.dev = .leavenUp := by
  rw [State.boot_leavenStarts, State.dev_enter, State.boot_enter, State.boot_runningOn]
  refine ⟨?_, ?_, rfl⟩ <;> split <;> rfl

end

section
variable {s : State} {p : PortNo}

/-- A proofer's boot ROM has decided. -/
def State.verified (s : State) (p : Nat) (choice : Option Nat) : State :=
  { s with boot := { s.boot with verified := s.boot.verified ++ [(p, choice)] } }

variable (hsound : s.health.proofersFailed = []) (hnew : ∀ e ∈ s.boot.verified, e.1 ≠ p.val)
include hsound hnew

theorem exec_bootImageVerify_of_new (halive : s.alive = true) (hstart : s.power.rst = .startCold ∨ s.power.rst = .startWarm)
    (a b : BootSlot) : exec (.bootImageVerify p a b) s = .next (s.verified p.val (bootChoice s.boot.fusedMin a b)).bootDecide := by
  have hany : s.boot.verified.any (fun e => decide (e.1 = p.val)) = false := by simpa using hnew
  have hstarting : ¬ (s.power.rst ≠ .startCold ∧ s.power.rst ≠ .startWarm) := fun h => hstart.elim h.1 h.2
  simp only [exec, execBootImageVerify, halive, hsound, hany, hstarting]
  rfl

theorem State.bootResult_verified (choice : Option Nat) : (s.verified p.val choice).bootResult p.val = some choice.isSome := by
  have hfind : (s.boot.verified.find? fun e => decide (e.1 = p.val)) = none := List.find?_eq_none.2 fun e he => by simpa using hnew e he
  simp [State.bootResult, State.verified, hsound, List.find?_append, hfind]

omit hnew in
theorem State.bootResult_verified_other {q : Nat} (hq : q ≠ p.val) (choice : Option Nat) : (s.verified p.val choice).bootResult q =
    ((s.boot.verified.find? fun e => e.1 = q).map (·.2)).map Option.isSome := by
  have hlast : ¬ p.val = q := fun h => hq h.symm
  simp [State.bootResult, State.verified, hsound, List.find?_append, hlast, Function.comp_def]

end

section
variable {s : State} (hstart : s.power.rst = .startCold ∨ s.power.rst = .startWarm) (hrom : s.boot.dev = .bootRom)
include hstart hrom

/-- While its boot ROMs run, the device decides by what each has come to. -/
theorem State.bootDecide_of_starting : s.bootDecide = match s.bootResult 0, s.bootResult 1 with
    | some true, _ => s.leavenStarts 0
    | some false, some true => s.leavenStarts 1
    | some false, some false => s.setDev .bootFailed
    | _, _ => s := by
  refine if_neg ?_
  rintro (hdev | ⟨hcold, hwarm⟩)
  · exact hdev hrom
  · exact hstart.elim hcold hwarm

theorem State.bootDecide_first (hfirst : s.bootResult 0 = some true) : s.bootDecide = s.leavenStarts 0 := by
  rw [State.bootDecide_of_starting hstart hrom, hfirst]

theorem State.bootDecide_second (hfirst : s.bootResult 0 = some false) (hsecond : s.bootResult 1 = some true) :
    s.bootDecide = s.leavenStarts 1 := by
  rw [State.bootDecide_of_starting hstart hrom, hfirst, hsecond]

/-- Nothing is decided before proofer A's boot ROM has, or, where it accepted nothing, before B's has. -/
theorem State.bootDecide_waits (h : s.bootResult 0 = none ∨ (s.bootResult 0 = some false ∧ s.bootResult 1 = none)) : s.bootDecide = s := by
  rw [State.bootDecide_of_starting hstart hrom]
  obtain hfirst | ⟨hfirst, hsecond⟩ := h
  · rw [hfirst]
  · rw [hfirst, hsecond]

end

/-! ## The end of start-up (R328) -/

section
variable (s : State)

theorem State.readyState_congr {s t : State} (h : t.health = s.health) : t.readyState = s.readyState := by
  unfold State.readyState State.degraded State.hearth
  rw [h]

theorem State.becomeReady_dev : s.becomeReady.boot.dev = s.readyState := by
  unfold State.becomeReady Boot.raiseFuse
  dsimp only
  split
  · split <;> exact State.dev_enter _ _
  · exact State.dev_enter _ _

/-- The reset is over. -/
def State.started (s : State) : State := { s with power := { s.power with rst := .run } }

theorem State.startEnds_eq : s.startEnds =
    if s.boot.manager then s.started.loneManager.becomeReady else (s.started.enter .awaitManager).tryReady := rfl

theorem State.power_startEnds : s.startEnds.power.rst = .run := by
  have hkeeps : Keeps [.boot, .ports, .log, .links, .net] s.started s.startEnds := by
    rw [State.startEnds_eq]
    exact .ite (State.becomeReady_keeps _ (State.loneManager_keeps _ (Keeps.refl _ _) rfl) rfl)
      (State.tryReady_keeps _ (State.enter_keeps _ _ (Keeps.refl _ _) rfl) rfl)
  rw [hkeeps.power.resolve_left (by decide)]
  rfl

theorem State.startEnds_manager (hmanager : s.boot.manager = true) : s.startEnds.boot.dev = s.readyState := by
  have hlone : Keeps [.boot, .log] s.started s.started.loneManager := State.loneManager_keeps _ (Keeps.refl _ _) rfl
  rw [State.startEnds_eq, if_pos hmanager, State.becomeReady_dev]
  exact State.readyState_congr (hlone.health.resolve_left (by decide))

/-- A worker without its map or its time waits for its manager. -/
theorem State.startEnds_worker (hworker : s.boot.manager = false)
    (hwaits : ¬ (s.net.hasMap = true ∧ s.time.locked = true ∧ s.time.syncState = 2)) : s.startEnds.boot.dev = .awaitManager := by
  have hmap : (s.started.enter .awaitManager).net.hasMap = s.net.hasMap := (s.started.net_enter .awaitManager).2
  have htime : (s.started.enter .awaitManager).time = s.time := (s.started.enter_keeps_rest _).time.resolve_left (by decide)
  rw [State.startEnds_eq, if_neg (by rw [hworker]; decide), State.tryReady, if_neg, State.dev_enter]
  rw [hmap, htime]
  exact fun h => hwaits h.2

variable {s}

theorem exec_readiness_of_warm (failed : List Nat) (hleaven : s.leavenUp = true) (hdev : s.boot.dev = .leavenUp)
    (hwarm : s.power.rst = .startWarm) : exec (.readiness failed) s = .next s.startEnds := by
  simp [exec, execReadiness, hleaven, hdev, hwarm]

theorem exec_readiness_of_cold (failed : List Nat) (hleaven : s.leavenUp = true) (hdev : s.boot.dev = .leavenUp)
    (hcold : s.power.rst = .startCold) : exec (.readiness failed) s = .next (s.rebuildHealth failed).startEnds := by
  simp [exec, execReadiness, hleaven, hdev, hcold]

end

/-- Settles O59: by what a warm reset leaves, the boot ROMs' table of results, and the state in which start-up ends. -/
theorem resetsHoldAndStartUpEnds : Obligations.ResetsHoldAndStartUpEnds := by
  unfold Obligations.ResetsHoldAndStartUpEnds
  intro s
  refine ⟨?warm, exec_warmReset_of_coldStarting, exec_warmReset_of_dead, ?release, ?choice, ?boot, ?ready⟩
  case warm =>
    intro halive hready
    obtain ⟨hleaven, hdev⟩ := s.boot_warm
    obtain ⟨htime, hjournal, hnet⟩ := s.warm_keeps_rest
    exact ⟨_, exec_warmReset_of_running halive hready, s.power_warm, hleaven, hdev, s.word_warm, s.privileged_warm, htime, s.log_warm,
      hjournal, hnet⟩
  case release =>
    intro n hcool
    refine ⟨fun hheld hlow hshort => ⟨_, exec_sysRstNRelease_of_held hcool hheld hlow hshort, ?_⟩,
      fun hheld hlong => ⟨_, exec_sysRstNRelease_of_long hcool hheld hlong, rfl, rfl⟩, exec_sysRstNRelease_of_filtered⟩
    rw [(State.releasePorts_keeps (T := [.ports]) _ (Keeps.refl _ _) rfl).power.resolve_left (by decide)]
  case choice =>
    intro fused a b ok
    have hok (x : BootSlot) : BootSlot.accepted x fused = true ↔ ok x := BootSlot.accepted_iff x
    simp only [← hok]
    exact ⟨bootChoice_slot0, bootChoice_slot1, bootChoice_none⟩
  case boot =>
    intro p a b halive hsound hstart hrom hnew other starts
    have hexec := exec_bootImageVerify_of_new hsound hnew halive hstart a b
    have hresult := State.bootResult_verified hsound hnew (bootChoice s.boot.fusedMin a b)
    have hstarts : ∀ q, (s.verified p.val (bootChoice s.boot.fusedMin a b)).bootDecide =
        (s.verified p.val (bootChoice s.boot.fusedMin a b)).leavenStarts q → starts q := fun q hdecide =>
      ⟨_, hexec.trans (congrArg _ hdecide), State.leavenStarts_runs _ q⟩
    have hbefore : (s.verified p.val (bootChoice s.boot.fusedMin a b)).bootResult (1 - p.val) = other.map Option.isSome :=
      State.bootResult_verified_other hsound (by have := p.isLt; omega) _
    refine ⟨fun hA hsome => ?_, fun hB hsome hother => ?_, fun hother hrest => hexec.trans (congrArg _ ?_)⟩
    · rw [hsome, hA] at hresult
      exact hstarts 0 (State.bootDecide_first hstart hrom (hA ▸ hresult))
    · rw [hsome, hB] at hresult
      rw [hother, hB] at hbefore
      exact hstarts 1 (State.bootDecide_second hstart hrom (hB ▸ hbefore) (hB ▸ hresult))
    · refine State.bootDecide_waits hstart hrom ?_
      rw [hother] at hbefore
      obtain hA | hB : p.val = 0 ∨ p.val = 1 := by have := p.isLt; omega
      · rw [hrest.resolve_left (by omega), hA] at hresult hbefore ⊢
        exact .inr ⟨hresult, hbefore⟩
      · rw [hB] at hbefore
        exact .inl (hB ▸ hbefore)
  case ready =>
    intro failed hleaven hdev
    refine ⟨fun hstart => hstart.elim (fun hcold => ?_) fun hwarm => ?_, fun hwarm => ?_⟩
    · exact ⟨_, exec_readiness_of_cold failed hleaven hdev hcold, State.power_startEnds _⟩
    · exact ⟨_, exec_readiness_of_warm failed hleaven hdev hwarm, State.power_startEnds _⟩
    · exact ⟨_, exec_readiness_of_warm failed hleaven hdev hwarm, s.startEnds_manager, s.startEnds_worker⟩

end Sys2Proof.Machine
end
